-- ==== Sys2Proof/Word.lean ====
section
/-!
DEFINITION. The word types of the Korid 9128: a byte, a device register word (R5), a Narlys register (R103).
-/
namespace Sys2Proof

/-- One byte. -/
abbrev Byte := BitVec 8

/-- A device register (R5: device registers are 32 bits wide). -/
abbrev W32 := BitVec 32

/-- A general register of a context (R103: 64 bits each). -/
abbrev Word := BitVec 64

end Sys2Proof
end

