-- ==== Sys2Proof/Syntax.lean ====
section
/-!
DEFINITION. The commands of the block: one constructor of `Instr` per row of spec/opcode_table.json, with the row's
operands. Operands are raw numbers: a core is a logical core index within the package (0 to 127, Table 1.2), a
cluster 0 to 31, a region 0 to 7, a room slot 0 to 63, a line the number of a 64-byte line (PA / 64).
-/
namespace Sys2Proof

/-- Operand width of an instruction (R115): the width prefixes 0xE8, 0xE9, 0xEA, or none. -/
inductive Width where
  | w64 | w32 | w16 | w8
  deriving DecidableEq, Repr

/-- The parts of a full instruction after its opcode (R113, R117): prefixes, operand bytes A and B, and the trailing
field as the little-endian number its bytes spell. Raw: a form the opcode does not permit is a value of this type,
and the instruction's meaning raises the exception of Table 4.14 for it. -/
structure Form where
  /-- Bank prefix 0xE0 + n (R111). -/
  bank : Option (BitVec 3) := none
  width : Width := .w64
  /-- Lock prefix 0xEB. -/
  lock : Bool := false
  /-- Hint prefix 0xEE (R145). -/
  hint : Bool := false
  rd : BitVec 5 := 0
  am : BitVec 3 := 0
  rs : BitVec 5 := 0
  sz : BitVec 3 := 0
  /-- The displacement or immediate bytes, zero-extended. -/
  ext : BitVec 64 := 0
  deriving DecidableEq, Repr

/-- Who sends a message to the Lobby (R84, R478): a management MAC or a UART. -/
inductive Channel where
  | mac (m : Nat)
  | uart (u : Nat)
  deriving DecidableEq, Repr

/-- A message inside a session (R85, Table 22.1): session ID, sequence number, payload bytes and MAC. -/
structure LobbyMsg where
  sid : Nat
  seq : Nat
  payload : List Byte
  mac : List Byte
  deriving DecidableEq, Repr

/-- Requester of a floorplan command (FLP_STATUS.ORIGIN, R90): the context current on a core, or a Lobby session. -/
inductive FlpReq where
  | core (core : Nat)
  | session (m : LobbyMsg)
  /-- Package 0, over the Elvust link, for a session or for its keeper, with the image that it sends (R99). -/
  | link (bySession : Bool) (image : List Byte)
  deriving DecidableEq, Repr

/-- What a halt or resume names (R485): one logical core, or a whole room. -/
inductive HaltTarget where
  | core (core : Nat)
  | room (slot : Nat)
  deriving DecidableEq, Repr

/-- Detectors that name a core (Table 16.1, Table 16.7b byte 0). -/
inductive CoreDetector where
  | residue | parity | controlFlow
  deriving DecidableEq, Repr

/-- Cache level of an array report. -/
inductive CacheLevel where
  | l1 | l2 | l3
  deriving DecidableEq, Repr

/-- Who asks a home for a line: a core numbered over the system, or a hub engine by its requester number, 128 or above (R293); and the age of
the request in ns (R292). -/
structure Requester where
  number : Nat
  age : Nat
  /-- Room of an engine's request (R276); a core's is the room that it serves. -/
  room : Nat
  deriving DecidableEq, Repr

/-- An eviction: its tag (R276), and its room, its age and the data when it comes from another package. -/
structure Eviction where
  tag : BitVec 12
  room : Nat
  age : Nat
  data : List Byte
  deriving DecidableEq, Repr

/-- A snoop at a cluster, with the requester's room (R276). -/
structure SnoopTo where
  cluster : Nat
  room : Nat
  deriving DecidableEq, Repr

/-- Who writes TLBI_CTL: the core itself, with BOTHW; or, elsewhere, a core of a room that spans packages, told with its world and the VA of
the operation (R233). -/
inductive TlbiFrom where
  | here (both : Bool)
  | far (room : Nat) (secure both : Bool) (va : Word)
  deriving DecidableEq, Repr

/-- Who writes WM_CTL: the core itself; or, elsewhere, a core of a room that spans packages, told with the window and its new offset (R247). -/
inductive MoveFrom where
  | here (val : W32)
  | far (room win : Nat) (ofs : Word)
  deriving DecidableEq, Repr

/-- An Ack or EvAck of a line, for a requester number (R293). -/
structure AckTo where
  dest : Nat
  line : Nat
  deriving DecidableEq, Repr

/-- A snoop answer of a region, numbered over the system; one of another package says whether it keeps a copy, and brings dirty data;
the eviction tag when it came from a slot. -/
structure SnoopAnswer where
  region : Nat
  held : Bool
  tag : Option (BitVec 12)
  data : List Byte
  deriving DecidableEq, Repr

/-- A fill for a requester; from a home in another package it brings the grant (0 S, 1 E, 2 W) and the data. -/
structure Fill where
  dest : Nat
  grant : Nat
  data : List Byte
  deriving DecidableEq, Repr

/-- One corrected error met by patrol scrub (R364, R365): the rank, device and row it is attributed to. -/
structure PatrolHit where
  line : Nat
  rank : Nat
  device : Nat
  row : Nat
  deriving DecidableEq, Repr

/-- What a detector reports (R351, Table 16.1): the structure where it found the error. -/
inductive ErrorReport where
  /-- Residue, parity or control-flow signature, located in a core. -/
  | core (det : CoreDetector) (core : Nat)
  /-- Lockstep comparison of the pair of which `core` is the lower core; not located. -/
  | lockstep (core : Nat)
  /-- An access meets wrong bits in a line of a cache of core, cluster or region `unit`: how many in each 8-byte word, word 0 first, and in
  the tag entry (R265). -/
  | array (level : CacheLevel) (unit : Nat) (way : Nat) (line : Nat) (words : List Nat) (tag : Nat)
  /-- Corrected error in an L2 or L3 way: only the counter of R267 moves. -/
  | arrayCorrected (level : CacheLevel) (unit : Nat) (way : Nat)
  /-- Trestle residue or parity, in the operation of the room in `slot` (R320). -/
  | trestle (cluster : Nat) (slot : Nat)
  /-- A read meets wrong bits in a block of a local store unit: how many in each 8-byte word, word 0 first (R307, R321). -/
  | localStore (cluster : Nat) (unit : Nat) (block : Nat) (words : List Nat)
  /-- Corrected error in a local store unit (R321). -/
  | localStoreCorrected (cluster : Nat) (unit : Nat)
  /-- Checkpoint read-back of boundary N + 1 fails in the slot of this context (R335, Table 16.5). -/
  | readBack (ctx : Nat)
  /-- A checkpoint word was corrected on read-back (EPO_CKPT_CE). -/
  | readBackCorrected (ctx : Nat)
  /-- The checkpoint of boundary N, or an undo entry, is uncorrectable when a rollback needs it (Table 16.5). -/
  | restoreLost (slot : Nat)
  /-- Uncorrectable DRAM read of a line (R367). -/
  | dram (line : Nat)
  /-- A read of a channel met an error that its code corrected (R364, R365). -/
  | dramCorrected (region : Nat) (hit : PatrolHit)
  /-- Uncorrectable error in a set of a region's snoop filter (R370). -/
  | snoopFilter (region : Nat) (set : Nat)
  /-- Another package reports a failed epoch of the spanning room in `slot` (R347), or its room reset with a cause (R461). -/
  | remote (slot : Nat) (reset : Option Nat)
  /-- Another package holds the spanning room in `slot`, with a reason of Table 16.10 (R33). -/
  | remoteHeld (slot : Nat) (reason : Nat)
  deriving DecidableEq, Repr

/-- Result of a quick test (Table 16.7b: 0 not run, 1 passed, 2 failed). -/
inductive TestResult where
  | notRun | passed | failed
  deriving DecidableEq, Repr

/-- What a patrol pass of a channel brings in (R366, R420): the errors it met, those that the devices' own check reported over it, and
whether the DRAM asks for the doubled refresh rate. -/
structure PatrolPass where
  hits : List PatrolHit
  ecs : Nat
  hot : Bool
  deriving DecidableEq, Repr

/-- What a regulator reads back over PMBus: mV, and amperes in tenths (R432). -/
structure RailRead where
  mv : Nat
  tenthsA : Nat
  deriving DecidableEq, Repr

/-- A frame as a field port delivers it (R402, R407): the header fields of Table 18.1 and what surrounds them. -/
structure RingFrame where
  fcsOk : Bool
  /-- Length in bytes, destination address to FCS. -/
  len : Nat
  src : Nat
  /-- HSR sequence number of the tag, if tagged. -/
  hsr : Option Nat
  etherType : Nat
  vt : Byte
  flags : Byte
  node : Nat
  seq : Nat
  time : Nat
  body : List Byte
  tag : List Byte
  deriving DecidableEq, Repr

/-- A frame of another kind as a field port delivers it: its FCS, source and HSR tag, and its payload (for the host ring, the
whole frame from destination address to FCS). -/
structure Frame where
  fcsOk : Bool
  src : Nat
  /-- HSR sequence number of the tag, if tagged. -/
  hsr : Option Nat
  body : List Byte
  deriving DecidableEq, Repr

/-- A frame of a management MAC (R429, R430). -/
structure MacFrame where
  bytes : List Byte
  /-- UDP/IPv4 to port 7480 at MGT_LOBBY_IP, or an ARP request for it. -/
  toLobby : Bool
  /-- A PTP event frame. -/
  ptpEvent : Bool
  deriving DecidableEq, Repr

/-- An inbound PCIe request (R424). -/
inductive PcieReq where
  | read (pa : Nat) (len : Nat)
  | write (pa : Nat) (data : List Byte)
  deriving DecidableEq, Repr

/-- A temperature sensor (R440): of a cluster, a region uncore, or the hub. -/
inductive Sensor where
  | cluster (c : Nat)
  | region (r : Nat)
  | hub
  deriving DecidableEq, Repr

/-- A wake source (R455), by its bit in PWR_WAKE_EN. -/
inductive WakeSource where
  | fieldSignal | doorbell | canPattern | uartStart | wakeN | alarm | mainOk
  deriving DecidableEq, Repr

/-- Straps and part facts sampled or read at a power-on reset (R38, R422, R419, Table 0.2). -/
structure Straps where
  pkgId : BitVec 2
  pcieBif : BitVec 2
  deriving DecidableEq, Repr

/-- What training found on a channel (R418, R419, R421). -/
structure ChannelTraining where
  trained : Bool
  gib : Nat
  rdimm : Bool
  x8 : Bool
  rank2 : Bool
  trfcNs : Nat
  ppr : Nat
  deriving DecidableEq, Repr

/-- What an Elvust link partner reports at admission (Table 1.3): its package number and floorplan generation, and the
healthy lanes of the link. -/
structure LinkPartner where
  pkg : Nat
  generation : Nat
  lanes : BitVec 16
  deriving DecidableEq, Repr

/-- The board a boot meets: what training finds on each of the eight channels (R419), the units whose boot test fails, with the
segment at which each does (R472), whether the Lobby firmware verifies (R466), and the partners that the Elvust links meet (R434). -/
structure Board where
  chans : List ChannelTraining
  failedUnits : List (Nat × Nat)
  firmwareOk : Bool
  /-- The partner that each Elvust link meets; none: no package is there. -/
  links : List (Option LinkPartner)
  /-- The vendor has refurbished the device since it was returned: the image it wrote into the factory slot (R527). -/
  refurbish : Option (List Byte)
  deriving DecidableEq, Repr

/-- What a package reports of an image it validated (R99): its package number and whether it is Ready. -/
structure PeerVerdict where
  pkg : Nat
  ready : Bool
  deriving DecidableEq, Repr

/-- A breakpoint address range form of STEP (R486). -/
inductive StepKind where
  | one (irq : Bool)
  | range (lo hi : Word)
  deriving DecidableEq, Repr

/-- A register named by REG_RD and REG_WR (R483): general registers of the current window, and the per-context state. -/
inductive RegName where
  | gpr (r : BitVec 5)
  | pc | psw
  | bk (secure : Bool) (n : BitVec 3)
  | ptbase (secure : Bool) | asid (secure : Bool)
  | vbase | kvbase | wctl
  deriving DecidableEq, Repr

/-- An address given to the debug bus master (R489): a PA, or a VA under the tables of a halted context. -/
inductive DebugAddr where
  | pa (a : Nat)
  | va (core : Nat) (a : Word)
  deriving DecidableEq, Repr

/-- What RESET of the Lobby names (R461). -/
inductive ResetTarget where
  | room (roomId : Nat)
  | warm
  deriving DecidableEq, Repr

/-- The commands: one constructor per row of spec/opcode_table.json, in the table's order. -/
inductive Instr where
  /-- R137 -/ | add (core : Nat) (f : Form)
  /-- R137 -/ | sub (core : Nat) (f : Form)
  /-- R137 -/ | and (core : Nat) (f : Form)
  /-- R137 -/ | or (core : Nat) (f : Form)
  /-- R137 -/ | xor (core : Nat) (f : Form)
  /-- R137 -/ | andn (core : Nat) (f : Form)
  /-- R137 -/ | cmp (core : Nat) (f : Form)
  /-- R137 -/ | tst (core : Nat) (f : Form)
  /-- R137 -/ | shl (core : Nat) (f : Form)
  /-- R137 -/ | shr (core : Nat) (f : Form)
  /-- R137 -/ | sar (core : Nat) (f : Form)
  /-- R137 -/ | rol (core : Nat) (f : Form)
  /-- R137 -/ | ror (core : Nat) (f : Form)
  /-- R137 -/ | mov (core : Nat) (f : Form)
  /-- R137 -/ | neg (core : Nat) (f : Form)
  /-- R137 -/ | not (core : Nat) (f : Form)
  /-- R138 -/ | mul (core : Nat) (f : Form)
  /-- R138 -/ | mulh (core : Nat) (f : Form)
  /-- R138 -/ | mulhu (core : Nat) (f : Form)
  /-- R138, R139 -/ | div (core : Nat) (f : Form)
  /-- R138, R139 -/ | divu (core : Nat) (f : Form)
  /-- R138, R139 -/ | rem (core : Nat) (f : Form)
  /-- R138, R139 -/ | remu (core : Nat) (f : Form)
  /-- R194: the operation at position `idx` of the context's reservation stations finishes. -/
  | longOpComplete (ctx : Nat) (idx : Nat)
  /-- R140 -/ | bins (core : Nat) (f : Form)
  /-- R140 -/ | bext (core : Nat) (f : Form)
  /-- R140 -/ | bexts (core : Nat) (f : Form)
  /-- R140 -/ | clz (core : Nat) (f : Form)
  /-- R140 -/ | ctz (core : Nat) (f : Form)
  /-- R140 -/ | popc (core : Nat) (f : Form)
  /-- R141 -/ | bperm (core : Nat) (f : Form)
  /-- R140 -/ | bswap (core : Nat) (f : Form)
  /-- R140, R122 -/ | cmovcc (core : Nat) (cc : BitVec 4) (f : Form)
  /-- R140, R122 -/ | selcc (core : Nat) (cc : BitVec 4) (f : Form)
  /-- R142 -/ | ld (core : Nat) (f : Form)
  /-- R142 -/ | ldx (core : Nat) (f : Form)
  /-- R142 -/ | st (core : Nat) (f : Form)
  /-- R142 -/ | lea (core : Nat) (f : Form)
  /-- R148 -/ | llk (core : Nat) (f : Form)
  /-- R148 -/ | stc (core : Nat) (f : Form)
  /-- R146 -/ | pfh (core : Nat) (f : Form)
  /-- R147 -/ | stim (core : Nat) (f : Form)
  /-- R145 -/ | aadd (core : Nat) (f : Form)
  /-- R145 -/ | aand (core : Nat) (f : Form)
  /-- R145 -/ | aor (core : Nat) (f : Form)
  /-- R145 -/ | axor (core : Nat) (f : Form)
  /-- R145 -/ | xchg (core : Nat) (f : Form)
  /-- R196: the oldest buffered store of the core is written. -/ | storeBufferWrite (core : Nat)
  /-- R150, R122 -/ | bcc (core : Nat) (cc : BitVec 4) (f : Form)
  /-- R150 -/ | j (core : Nat) (f : Form)
  /-- R150 -/ | call (core : Nat) (f : Form)
  /-- R151 -/ | callw (core : Nat) (f : Form)
  /-- R150 -/ | ret (core : Nat)
  /-- R172 -/ | retw (core : Nat)
  /-- R153 -/ | syscall (core : Nat) (f : Form)
  /-- R153, R175, R385 -/ | eret (core : Nat)
  /-- R154 -/ | fadd (core : Nat) (f : Form)
  /-- R154 -/ | fsub (core : Nat) (f : Form)
  /-- R154 -/ | fmul (core : Nat) (f : Form)
  /-- R154 -/ | fma (core : Nat) (f : Form)
  /-- R154 -/ | fdiv (core : Nat) (f : Form)
  /-- R154 -/ | fsqrt (core : Nat) (f : Form)
  /-- R155 -/ | fcmp (core : Nat) (f : Form)
  /-- R156 -/ | fcvt (core : Nat) (f : Form)
  /-- R157; `brk` = the element during whose transfer an interrupt, boundary or halt arrives (R159). -/
  | stm (core : Nat) (f : Form) (brk : Option Nat)
  /-- R158; `brk` as for STM. -/
  | ldm (core : Nat) (f : Form) (brk : Option Nat)
  /-- R160, R174 -/ | spillw (core : Nat) (f : Form)
  /-- R160, R174 -/ | fillw (core : Nat) (f : Form)
  /-- R161, R181 -/ | ctxsw (core : Nat) (f : Form)
  /-- R162 -/ | fence (core : Nat)
  /-- R162 -/ | ifence (core : Nat)
  /-- R211 -/ | bpflush (core : Nat)
  /-- R212 -/ | bpbar (core : Nat)
  /-- R240 -/ | swcall (core : Nat)
  /-- R242 -/ | swret (core : Nat)
  /-- R165 -/ | idle (core : Nat)
  /-- R165 -/ | idleEnd (core : Nat)
  /-- R159 -/ | nop (core : Nat)
  /-- R166 -/ | rdcr (core : Nat) (f : Form)
  /-- R166 -/ | wrcr (core : Nat) (f : Form)
  /-- R109 -/ | rdbk (core : Nat) (f : Form)
  /-- R109 -/ | wrbk (core : Nat) (f : Form)
  /-- R167 -/ | twait (core : Nat)
  /-- R311 -/ | tmma (core : Nat) (f : Form)
  /-- R312 -/ | ti1 (core : Nat) (f : Form)
  /-- R312 -/ | ti2 (core : Nat) (f : Form)
  /-- R312 -/ | ti3 (core : Nat) (f : Form)
  /-- R311 -/ | trsum (core : Nat) (f : Form)
  /-- R311 -/ | trdot (core : Nat) (f : Form)
  /-- R311 -/ | trmax (core : Nat) (f : Form)
  /-- R311 -/ | trmin (core : Nat) (f : Form)
  /-- R311 -/ | tband (core : Nat) (f : Form)
  /-- R311 -/ | tld (core : Nat) (f : Form)
  /-- R311 -/ | trestleTst (core : Nat) (f : Form)
  /-- R311 -/ | tget (core : Nat) (f : Form)
  /-- R311 -/ | tput (core : Nat) (f : Form)
  /-- R314: the oldest Trestle operation of the room in `slot` on the cluster finishes. -/
  | trestleOpComplete (cluster : Nat) (slot : Nat)
  /-- R318 -/ | trestleSlotSwitch (cluster : Nat)
  /-- R320 -/ | trestleQuickTestDone (cluster : Nat) (pass : Bool)
  /-- R323; `op` is the opcode byte after 0xED. -/
  | forwardedOperation (core : Nat) (op : Byte) (f : Form)
  /-- R324: a write of board logic as it passes the root complex. -/
  | forwardedCompletion (pa : Nat) (data : List Byte)
  /-- R325 -/ | forwardedTimeout (slot : Nat) (seq : Nat)
  /-- R376 -/ | interruptSourceEvent (src : Nat)
  /-- R380 -/ | interruptEntry (core : Nat)
  /-- R388 -/ | irqSwgen (core : Nat) (val : W32)
  /-- R389 -/ | tick (slot : Nat)
  /-- R390 -/ | wdgKick (core : Nat) (val : W32)
  /-- R390 -/ | watchdogWarning (slot : Nat)
  /-- R390 -/ | watchdogBite (slot : Nat)
  /-- R328 -/ | epochBoundary (slot : Nat)
  /-- R334 -/ | forcedBoundary (slot : Nat)
  /-- R329 -/ | epoCtlForce (core : Nat) (val : W32)
  /-- R331 -/ | checkpointStreamed (cluster : Nat) (slot : Nat)
  /-- R335 -/ | epochConfirmation (slot : Nat)
  /-- R338 -/ | outputSnapshot (slot : Nat)
  /-- R347: package 0's system boundary `k` reaches this package, `lateNs` after it was due. -/
  | systemEpochBoundary (lateNs : Nat)
  /-- R341 -/ | mbxSend (core : Nat) (mbox : Nat) (val : W32)
  /-- R342 -/ | mailboxDelivery (mbox : Nat)
  /-- R357 -/ | detectedError (e : ErrorReport)
  /-- R363: result of the located core's quick test, of the other core of a pair, and of the spare's. -/
  | quickTestComplete (core : Nat) (own pair spare : TestResult)
  /-- R357 -/ | rollbackResume (slot : Nat)
  /-- R267: `uncorrectable` tells an uncorrectable error from CE_LIMIT reached. -/
  | wayRetirement (level : CacheLevel) (unit : Nat) (way : Nat) (uncorrectable : Bool)
  /-- R366 -/ | patrolScrub (region : Nat) (pass : PatrolPass)
  /-- R367 -/ | channelLoss (region : Nat)
  /-- R367 -/ | mirrorResyncDone (pair : Nat)
  /-- R33 -/ | dieFault (die : Nat)
  /-- R370: `second` marks the second failure of the same flit; `die` is where the hop lies (none: hub). -/
  | flitRetransmit (region : Option Nat) (second : Bool)
  /-- R370 -/ | snoopFilterRebuild (region : Nat) (set : Nat)
  /-- R278; the asker is a core, whose cluster is the requester and whose room the request's (R276). -/
  | rds (asker : Requester) (line : Nat)
  /-- R278 -/ | rdx (asker : Requester) (line : Nat)
  /-- R278 -/ | upg (asker : Requester) (line : Nat)
  /-- R278; the asker is a hub engine. -/ | rdc (engine : Requester) (line : Nat)
  /-- R278 -/ | wrf (engine : Requester) (line : Nat) (data : List Byte)
  /-- R278; byte i is written when bit i of the mask is set. -/
  | wrp (engine : Requester) (line : Nat) (mask : BitVec 64) (data : List Byte)
  /-- R278 -/ | evd (victim : Eviction) (line : Nat)
  /-- R274; `region` over the system. -/ | rgn (region : Nat) (line : Nat)
  /-- R280 -/ | snps (cluster : SnoopTo) (line : Nat)
  /-- R280 -/ | snpx (cluster : SnoopTo) (line : Nat)
  /-- R280 -/ | snpi (cluster : SnoopTo) (line : Nat)
  /-- R280 -/ | snpc (cluster : SnoopTo) (line : Nat)
  /-- R280: the answer of a region reaches the home. -/ | rsp (answer : SnoopAnswer) (line : Nat)
  /-- R278 -/ | data (fill : Fill) (line : Nat)
  /-- R278; `dest` is the requester number. -/ | grant (dest : Nat) (line : Nat)
  /-- R277 -/ | cmpMessage (dest : Nat) (line : Nat)
  /-- R282: the Ack of an uncached agent, or the EvAck of the slot that the line left. -/
  | ack (line : AckTo)
  /-- R257 -/ | lkfillWrite (core : Nat) (val : W32)
  /-- R257 -/ | clrL1 (core : Nat)
  /-- R257 -/ | clrL2 (core : Nat)
  /-- R233 -/ | tlbiAll (core : Nat) (bothw : TlbiFrom)
  /-- R233 -/ | tlbiAsid (core : Nat) (asid : BitVec 16) (bothw : TlbiFrom)
  /-- R233 -/ | tlbiVaAsid (core : Nat) (asid : BitVec 16) (bothw : TlbiFrom)
  /-- R233 -/ | tlbiVa (core : Nat) (bothw : TlbiFrom)
  /-- R233 -/ | tlbiComplete (slot : Nat)
  /-- R247 -/ | watermarkMove (core : Nat) (val : MoveFrom)
  /-- R247 -/ | watermarkMoveDone (slot : Nat)
  /-- R317 -/ | trLswmWrite (core : Nat) (val : W32)
  /-- R317 -/ | trLswmDone (cluster : Nat) (slot : Nat)
  /-- R91: a session's message carries the next bytes of the image as its payload. -/
  | load (who : FlpReq)
  /-- R80, with the verdicts of the other packages (R99). -/
  | validationDone (peers : List PeerVerdict)
  /-- R94 -/ | swap (who : FlpReq)
  /-- R95 -/ | swapPoint
  /-- R91 -/ | cancel (who : FlpReq)
  /-- R91 -/ | revert (who : FlpReq)
  /-- R92 -/ | startRoom (who : FlpReq) (roomId : Nat)
  /-- R90 -/ | badCommand (core : Nat) (val : W32)
  /-- R97 -/ | zeroFillDone (slot : Nat)
  /-- R84 -/ | hello (ch : Channel) (slot : Nat) (nc : List Byte)
  /-- R84 -/ | proof (sid : Nat) (mac : List Byte)
  /-- R85 -/ | sessionIdleTimeout (sid : Nat)
  /-- R82: ephemeral public key, nonce, ciphertext and tag. -/
  | own (pub nonce ct tag : List Byte)
  /-- R525 -/ | ident (ch : Channel)
  /-- R480 -/ | status (m : LobbyMsg)
  /-- R480; `fromJournal`: the MRAM journal in place of the ring. -/
  | readInc (m : LobbyMsg) (fromJournal : Bool) (first count : Nat)
  /-- R480 -/ | readTrace (m : LobbyMsg) (slot : Nat) (first count : Nat)
  /-- R485 -/ | halt (m : LobbyMsg) (t : HaltTarget)
  /-- R484 -/ | pendingHaltStop (core : Nat)
  /-- R487 -/ | resume (m : LobbyMsg) (t : HaltTarget)
  /-- R486 -/ | step (m : LobbyMsg) (core : Nat) (k : StepKind)
  /-- R488; the payload is that of Table 22.5. -/ | bpSet (m : LobbyMsg)
  /-- R488 -/ | bpClr (m : LobbyMsg) (core : Nat) (index : Nat)
  /-- R483 -/ | regRd (m : LobbyMsg) (core bank : Nat) (r : RegName)
  /-- R483 -/ | regWr (m : LobbyMsg) (core bank : Nat) (r : RegName) (val : Word)
  /-- R490 -/ | memRd (m : LobbyMsg) (slot : Nat) (a : DebugAddr) (len : Nat) (consume : Bool)
  /-- R489 -/ | memWr (m : LobbyMsg) (slot : Nat) (a : DebugAddr) (data : List Byte)
  /-- R480 -/ | pcSample (m : LobbyMsg) (core : Nat)
  /-- R81 -/ | nodeKey (m : LobbyMsg) (node : Nat) (key : List Byte)
  /-- R81 -/ | keyslot (m : LobbyMsg) (slot : Nat) (role : Nat) (key salt : List Byte)
  /-- R521 -/ | surrender (m : LobbyMsg) (serial : Word)
  /-- R522 -/ | surrenderComplete
  /-- R448 -/ | power (m : LobbyMsg) (domain : Nat) (state : BitVec 2)
  /-- R453 -/ | devState (m : LobbyMsg) (cmd : BitVec 2)
  /-- R461 -/ | reset (m : LobbyMsg) (t : ResetTarget)
  /-- R398 -/ | baseCycle
  /-- R398 -/ | takePoint
  /-- R404 -/ | nodeCycleEnd (node : Nat)
  /-- R407 -/ | inputFrame (port : Nat) (fr : RingFrame)
  /-- R403 -/ | inputImageWrite (node : Nat)
  /-- R406 -/ | join (port : Nat) (node : Nat) (nn : Frame)
  /-- R406 -/ | nodeProof (port : Nat) (node : Nat) (mac : Frame)
  /-- R412 -/ | doorbell (port : Nat) (node : Nat) (code : Frame)
  /-- R412 -/ | doorbellReply (slot : Nat)
  /-- R411 -/ | hostRingFrame (port : Nat) (bytes : Frame)
  /-- R393 -/ | hsrSupervision (ring : Nat) (backA backB : Bool)
  /-- R395: the offset that the interval's measurement found. -/ | gptpSync (port : Nat) (offsetNs : Int)
  /-- R413 -/ | frcPortCtlEn (core : Nat) (port : Nat) (val : W32)
  /-- R414 -/ | frcNctlDrop (core : Nat) (val : W32)
  /-- R438 -/ | pwrPreq (core : Nat) (val : W32)
  /-- R439 -/ | pLevelSwitch (cluster : Nat)
  /-- R440: a sample in degrees Celsius. -/ | thermalSample (sn : Sensor) (celsius : Int)
  /-- R441: the voltage that READ_VOUT gave, and whether the transaction or ALERT_N failed. -/
  | supplyFault (rail : Nat) (read : RailRead) (failed : Bool)
  /-- R449; `block`: room 0's PWR block copy. -/ | pwrDreq (core : Nat) (block : Bool) (val : W32)
  /-- R447 -/ | automaticEntry (domain : Nat)
  /-- R451; the results of the entry's BIST slice, unit by segment pass (R470). -/
  | domainEntryDone (domain : Nat) (slice : List (Nat × Bool))
  /-- R444 -/ | domainWake (domain : Nat)
  /-- R443 -/ | domainReady (domain : Nat)
  /-- R453 -/ | dRetain (core : Nat)
  /-- R453 -/ | dOff (core : Nat)
  /-- R473 -/ | shutdownTest (slice : List (Nat × Bool))
  /-- R453 -/ | deviceWake (src : WakeSource)
  /-- R454 -/ | mainOkFall
  /-- R454 -/ | mainOkRise
  /-- R456 -/ | timebaseAlign (offsetNs : Int)
  /-- R461, R466: with the straps sampled and what channel training finds. -/
  | pwronRstN (straps : Straps) (board : Board)
  /-- R465, R466 -/ | warmRstN
  /-- R474 -/ | pkgRstWarm (core : Nat) (val : W32)
  /-- R474 -/ | roomGo (core : Nat) (val : W32)
  /-- R462 -/ | self (core : Nat) (val : W32)
  /-- R463 -/ | coreGo (core : Nat) (val : W32)
  /-- R464 -/ | periph (core : Nat) (val : W32)
  /-- R507; `groupA`: a group A rail. -/ | supplyExcursion (groupA : Bool)
  /-- R427 -/ | txreq (core : Nat) (can : Nat) (val : W32)
  /-- R427 -/ | pop (core : Nat) (can : Nat)
  /-- R427 -/ | canFrameReceived (can : Nat) (frame : List Byte)
  /-- R428 -/ | canWakePattern (can : Nat)
  /-- R429 -/ | txtail (core : Nat) (mac : Nat) (val : W32)
  /-- R429 -/ | macFrameReceived (mac : Nat) (fr : MacFrame)
  /-- R431 -/ | uartTx (core : Nat) (uart : Nat) (val : W32)
  /-- R431 -/ | uartRx (core : Nat) (uart : Nat)
  /-- R431; `err` bits as UART_STAT.ERR. -/ | uartByteReceived (uart : Nat) (b : Byte) (err : BitVec 4)
  /-- R424 -/ | pcieInboundRequest (port : Nat) (r : PcieReq)
  /-- R424 -/ | pcieMsi (port : Nat) (data : W32)
  /-- R425 -/ | completionTimeout (core : Nat)
  /-- R426; `write` = the value written, none = a read and what the bus returns. -/
  | pcieCfgd (core : Nat) (write : Option W32) (bus : Option W32)
  /-- R434 -/ | linkTraining (link : Nat) (p : LinkPartner)
  /-- R435: with the lanes found healthy and the time it took. -/ | retrain (link : Nat) (lanes : BitVec 16) (ns : Nat)
  /-- R434 -/ | flitReplay (link : Nat)
  /-- R4: by the context current on the core, at an offset from the device register base. -/
  | registerWrite (core : Nat) (offset : Nat) (val : W32)
  /-- R128 -/ | illegalInstruction (core : Nat) (bytes : List Byte)
  /-- R129; `len` is the number of instruction bytes the decoder reaches. -/ | fetchFault (core : Nat) (len : Nat)
  /-- R297 -/ | wheelSlot (region : Nat)
  /-- R425; the generation and log2 width found when the link comes up. -/
  | pcieLinkChange (port : Nat) (up : Bool) (speed width : Nat)
  /-- R425 -/ | pcieReadCompletion (core : Nat) (data : List Byte)
  /-- R415 -/ | fieldPortLinkChange (port : Nat) (up : Bool)
  /-- R429 -/ | macLinkChange (mac : Nat) (up : Bool) (speed : BitVec 2)
  /-- R427 -/ | canFrameSent (can : Nat) (buf : Nat)
  /-- R427 -/ | canBusError (can : Nat) (tec rec : Nat)
  /-- R429 -/ | macFrameSent (mac : Nat) (ptpEvent : Bool)
  /-- R431 -/ | uartByteSent (uart : Nat)
  deriving DecidableEq, Repr

end Sys2Proof
end

