-- ==== Sys2Proof/Decode.lean ====
section
/-!
DEFINITION. The rows of spec/opcode_table.json give no bits: a command of this block comes from outside with its operands, not as a
word. The bytes of Narlys instructions are the operand of one command, ILLEGAL_INSTRUCTION, and are read where its meaning stands.
-/
namespace Sys2Proof

/-- The command that a word spells by the table's bits: none, since no row has bits. -/
def decodeTableWord (_nbits _w : Nat) : Option Instr := none

end Sys2Proof
end

