-- ==== Sys2Proof/Config.lean ====
section
/-!
DEFINITION. What a part or an implementation fixes, and the free values: constants without a body, so that nothing can be
proved of their values. Each is named in the assumption log.
-/
namespace Sys2Proof.Config

/-! ### Facts of the part (reset "per part") -/

/-- The part is of grade AE; otherwise AM (R2: no other value is issued). -/
opaque gradeAE : Bool
/-- Every package of the system is of the grade of this one (R2), and the grade of another where it is not. -/
opaque oneGrade : Bool
opaque gradeAEOf : Nat → Bool
/-- Where the KEY block reports the public key and the key hashes (R81): the byte of their sequence that a word's offset shows. -/
opaque keyOffset : Nat → Option Nat
/-- PKG_SERIAL, 8 bytes (R525). -/
opaque serial : BitVec 64
/-- The device P-384 public key that IDENT reports (R525). -/
opaque devicePublicKey : List Byte
/-- The vendor root-key hash in the fuses (Table 3.1). -/
opaque vendorKeyHash : List Byte
/-- The image in the factory slot, which the vendor writes (R83, Table 3.4). -/
opaque factoryImage : List Byte
/-- The MAC address of ring `k` of the part (FRC_RING_MAC, reset per part). -/
opaque ringMac : Nat → BitVec 48
/-- BOOT_MS that a boot measures (PKG_RSTCAUSE.BOOT_MS, set at boot). -/
opaque bootMs : Nat → BitVec 16

/-! ### Random draws and keyed choices -/

/-- The `n`-th random value the device draws: prediction secrets (R205), nonces (R84, R406). -/
opaque draw : Nat → BitVec 64
/-- The predictor's keyed placement: set and tag of a branch from the secret and its address (R205, R206). -/
opaque predSet : BitVec 64 → BitVec 64 → BitVec 5
opaque predTag : BitVec 64 → BitVec 64 → BitVec 16

/-! ### Cryptography (R79, R81 to R86, R406 to R408): uninterpreted -/

opaque sha256 : List Byte → List Byte
opaque sha384 : List Byte → List Byte
/-- HMAC-SHA-256 of key and message. -/
opaque hmac256 : List Byte → List Byte → List Byte
/-- HKDF-SHA-256 of input key, salt, info and length. -/
opaque hkdf256 : List Byte → List Byte → List Byte → Nat → List Byte
/-- ECDSA P-384 verification of public key, digest and signature. -/
opaque ecdsaP384 : List Byte → List Byte → List Byte → Bool
/-- ECDH with the device key pair. -/
opaque ecdhDevice : List Byte → List Byte
/-- AES-256-GCM decryption of key, nonce, associated data, ciphertext and tag: the plaintext when the tag is valid. -/
opaque gcmOpen : List Byte → List Byte → List Byte → List Byte → List Byte → Option (List Byte)
/-- AES-256-GCM encryption of key, nonce, associated data and plaintext: ciphertext and 16-byte tag. -/
opaque gcmSeal : List Byte → List Byte → List Byte → List Byte → List Byte × List Byte

/-! ### Results the spec leaves open -/

/-- The result of a Trestle operation whose rounding or accumulation order the spec does not fix: by operation, element
index and the operands in order (R311, R312). -/
opaque trestleRound : Nat → Nat → List (BitVec 64) → BitVec 64
/-- Further epochs, 0 to 3, for which KL-03 keeps STATE at Armed. -/
opaque swapDelay : Nat → BitVec 2
/-- The grandmaster's time at the `n`-th wake or boot that steps to it (R456). -/
opaque grandmaster : Nat → BitVec 64
/-- MC_SEAL.T at a rate in MT/s whose t_sealed is no multiple of 0.1 ns: rounded up, or down (R421). -/
opaque sealRound : Nat → Bool
/-- KIND of the record of a Trestle quick test that passes (R320), which Table 16.6 does not list. -/
opaque trestlePassKind : BitVec 8
/-- Bank of a channel that holds a line: the controller's address map (R298). -/
opaque bankOf : Nat → Nat
/-- How many words a Trestle operation has written when it is stopped as it runs, at the `n`-th such event (Table 14.5). -/
opaque stepsDone : Nat → Nat
/-- What a Trestle operation reads past its room's share, by offset (R316). -/
opaque beyondShare : Nat → Byte
/-- Bytes of lost memory: the `n`-th byte whose value the spec leaves open. -/
opaque lostByte : Nat → Byte

end Sys2Proof.Config
end

