-- ==== Sys2Proof/Machine/Bits.lean ====
section
/-!
DEFINITION. Bit fields, byte order and small arithmetic: what every other file of the machine uses to take words apart
and put them together. Everything in the Korid 9128 is little-endian.
-/
namespace Sys2Proof.Machine

/-- Bits [hi:lo] of a number. -/
def field (x hi lo : Nat) : Nat := (x >>> lo) % 2 ^ (hi + 1 - lo)

/-- Bit `i` of a number. -/
def bit (x i : Nat) : Bool := x.testBit i

/-- A Bool as a number. -/
def b2n (b : Bool) : Nat := if b then 1 else 0

/-- Bits [hi:lo] of a number replaced by the low bits of `v`. -/
def setField (x hi lo v : Nat) : Nat :=
  x - (field x hi lo) * 2 ^ lo + (v % 2 ^ (hi + 1 - lo)) * 2 ^ lo

/-- The number that bytes spell, lowest first. -/
def leNat : List Byte → Nat
  | [] => 0
  | b :: t => b.toNat + 256 * leNat t

/-- The low `n` bytes of a number, lowest first. -/
def leBytes : Nat → Nat → List Byte
  | 0, _ => []
  | n + 1, x => BitVec.ofNat 8 x :: leBytes n (x / 256)

/-- `len` bytes of a list from `ofs` on; zeros past its end. -/
def slice (l : List Byte) (ofs len : Nat) : List Byte :=
  ((l.drop ofs).take len) ++ List.replicate (len - ((l.drop ofs).take len).length) 0

/-- The little-endian number in `len` bytes of a list from `ofs` on. -/
def leAt (l : List Byte) (ofs len : Nat) : Nat := leNat (slice l ofs len)

/-- Sign extension of the low `n` bits of a number, as a 64-bit value. -/
def sext64 (n x : Nat) : Word := (BitVec.ofNat n x).signExtend 64

/-- Saturating increment at `max` (R9). -/
def satInc (max x : Nat) : Nat := if x < max then x + 1 else max

/-- Saturating addition. -/
def satAdd (max x y : Nat) : Nat := if x + y ≤ max then x + y else max

/-- Clamp into [lo, hi] (R8). -/
def clamp (lo hi x : Nat) : Nat := if x < lo then lo else if hi < x then hi else x

/-- The largest value of a 32-bit counter. -/
def max32 : Nat := 0xFFFFFFFF

/-- Low and high 32-bit halves of a 64-bit value. -/
def lo32 (x : Nat) : Nat := x % 2 ^ 32
def hi32 (x : Nat) : Nat := (x / 2 ^ 32) % 2 ^ 32

/-- Replace element `i` of a list. -/
def setAt {α : Type} : List α → Nat → α → List α
  | [], _, _ => []
  | _ :: t, 0, x => x :: t
  | h :: t, n + 1, x => h :: setAt t n x

/-- Take the first element that satisfies `p` out of a list. -/
def dropFirst {α : Type} (p : α → Bool) : List α → List α
  | [] => []
  | h :: t => if p h then t else h :: dropFirst p t

/-- Position of the lowest set bit among bits 0 to n - 1 of a mask. -/
def lowestBit (x : Nat) : Nat → Option Nat
  | 0 => none
  | n + 1 => match lowestBit x n with
    | some i => some i
    | none => if x.testBit n then some n else none

/-- Positions of the set bits below n, ascending. -/
def bitsOf (x n : Nat) : List Nat := (List.range n).filter x.testBit

/-- Number of set bits below n. -/
def popCount (x n : Nat) : Nat := (bitsOf x n).length

/-- Apply a function `n` times. -/
def iter {α : Type} (f : α → α) : Nat → α → α
  | 0, a => a
  | n + 1, a => iter f n (f a)

/-- Fold a state through a list. -/
def each {σ α : Type} (l : List α) (f : σ → α → σ) (s : σ) : σ := l.foldl f s

/-- Two half-open ranges overlap. -/
def overlap (a la b lb : Nat) : Bool := decide (a < b + lb) && decide (b < a + la)

end Sys2Proof.Machine
end

