-- ==== Sys2Proof/Machine/Plan.lean ====
section
/-!
DEFINITION. The floorplan as the device loads it from a validated image: the records of sections 0x01 to 0x0D after
clamping (R51 to R79). Field names follow Tables 2.2 to 2.14.
-/
namespace Sys2Proof.Machine

/-- Channel map entry (Table 2.5). -/
structure ChanRec where
  baseGib : Nat
  sizeGib : Nat
  deriving DecidableEq, Repr

/-- Section 0x01 package record (Table 2.5). -/
structure PkgRec where
  pkg : Nat
  linkEn : Nat
  mirrorPairs : Nat
  ddrMts : Nat
  chan : List ChanRec
  deriving DecidableEq, Repr

/-- Section 0x02 room record (Table 2.6). A slot of 0xFF is absent from the package. -/
structure RoomRec where
  roomId : Nat
  timed : Bool
  sealed : Bool
  span : Bool
  autostart : Bool
  plevReq : Nat
  plevFloor : Nat
  slots : List Nat
  entryPa : Nat
  name : Nat
  deriving DecidableEq, Repr

/-- Section 0x03 cluster record (Table 2.7). -/
structure ClusterRec where
  cluster : Nat
  coreEn : Nat
  coreRoom : List Nat
  tlsA : Nat
  tslotA : Nat
  ctxMaskA : Nat
  ctxMaskB : Nat
  deriving DecidableEq, Repr

/-- Section 0x04 window record (Table 2.8). KIND: 0 DRAM, 1 PCIe memory, 2 device registers, 3 Hamper trace. -/
structure WindowRec where
  roomId : Nat
  index : Nat
  perm : Nat
  kind : Nat
  mirror : Nat
  base : Nat
  size : Nat
  wmark : Nat
  mirrorBase : Nat
  deriving DecidableEq, Repr

/-- Section 0x05 cache partition record (Table 2.10). -/
structure CacheRec where
  form : Nat
  roomId : Nat
  loc : Nat
  ways : Nat
  lock : Nat
  deriving DecidableEq, Repr

/-- Section 0x06 bandwidth record (Table 2.12). -/
structure BwRec where
  roomId : Nat
  region : Nat
  units : Nat
  slots : Nat
  deriving DecidableEq, Repr

/-- Section 0x07 interrupt routing record (R70). -/
structure IrqRec where
  source : Nat
  roomId : Nat
  prio : Nat
  target : Nat
  bank : Nat
  keeper : Bool
  deriving DecidableEq, Repr

/-- Section 0x08 preamble (Table 2.13). -/
structure NodePre where
  etherType : Nat
  portEn : Nat
  portMode : Nat
  granuleLog2 : List Nat
  hsrAgeMs : Nat
  nodeTmoCyc : Nat
  classUs : List Nat
  deriving DecidableEq, Repr

/-- Section 0x08 node record (Table 2.13). -/
structure NodeRec where
  node : Nat
  roomId : Nat
  cls : Nat
  inSize : Nat
  outSize : Nat
  inPa : Nat
  outPa : Nat
  deriving DecidableEq, Repr

/-- Section 0x09 preamble (Table 2.14). -/
structure PowerPre where
  bistSliceUs : Nat
  pinMask : Nat
  deriving DecidableEq, Repr

/-- Section 0x09 room record (Table 2.14). -/
structure PowerRec where
  roomId : Nat
  mayRetain : Bool
  uncoreMaySleep : Bool
  idleRetUs : Nat
  wakeMask : Nat
  doorbell : Nat
  deriving DecidableEq, Repr

/-- Section 0x0A room record (R75). -/
structure DebugRec where
  roomId : Nat
  normMax : Nat
  secMax : Nat
  roles : Nat
  traceKib : Nat
  freezeWdg : Bool
  freezePer : Bool
  deriving DecidableEq, Repr

/-- Section 0x0B room record (R76). -/
structure EpochRec where
  roomId : Nat
  paired : Bool
  epochUs : Nat
  deriving DecidableEq, Repr

/-- Section 0x0C room record (R77). -/
structure FwdRec where
  roomId : Nat
  tmoUs : Nat
  cmdPa : Nat
  cplPa : Nat
  opMask : Nat
  deriving DecidableEq, Repr

/-- Section 0x0D mailbox record (R78). -/
structure MboxRec where
  mbox : Nat
  sender : Nat
  receiver : Nat
  bufPa : Nat
  bufSize : Nat
  deriving DecidableEq, Repr

/-- A whole floorplan: the header's GENERATION and BUILD_TAG, and the records of every section after clamping. An
absent optional section shows as its default of Table 2.3. -/
structure Plan where
  generation : Nat
  buildTag : Nat
  sysEpochUs : Nat
  pkgs : List PkgRec
  rooms : List RoomRec
  clusters : List ClusterRec
  windows : List WindowRec
  caches : List CacheRec
  starveNs : Nat
  bw : List BwRec
  irqs : List IrqRec
  nodePre : NodePre
  nodes : List NodeRec
  powerPre : PowerPre
  powers : List PowerRec
  debugs : List DebugRec
  epochs : List EpochRec
  fwds : List FwdRec
  mboxes : List MboxRec
  deriving DecidableEq, Repr

end Sys2Proof.Machine
end

