-- ==== Sys2Proof/Machine/Sparse.lean ====
section
/-!
DEFINITION. Sparse tables: a list of (key, value) pairs with keys strictly rising and no entry equal to what an unlisted
key reads as. Memory is one (byte by address); register files and per-unit tables are others.
-/
namespace Sys2Proof.Machine

/-- A sparse table from numbers to `α`. -/
abbrev Sparse (α : Type) := List (Nat × α)

/-- The value at a key; `d` where the key is not listed. -/
def Sparse.get {α : Type} (d : α) : Sparse α → Nat → α
  | [], _ => d
  | (k, v) :: t, a => if a = k then v else Sparse.get d t a

/-- Take a key out. -/
def Sparse.erase {α : Type} : Sparse α → Nat → Sparse α
  | [], _ => []
  | (k, v) :: t, a => if a = k then Sparse.erase t a else (k, v) :: Sparse.erase t a

/-- Put a value at a key, in order. -/
def Sparse.insert {α : Type} : Sparse α → Nat → α → Sparse α
  | [], a, x => [(a, x)]
  | (k, v) :: t, a, x =>
    if a < k then (a, x) :: (k, v) :: t
    else if a = k then (a, x) :: t
    else (k, v) :: Sparse.insert t a x

/-- Write: the value an unlisted key reads as removes the entry. -/
def Sparse.set {α : Type} [DecidableEq α] (d : α) (m : Sparse α) (a : Nat) (x : α) : Sparse α :=
  if x = d then Sparse.erase m a else Sparse.insert m a x

/-- Every key is above `lo`, keys rise strictly, and no entry equals the default. -/
def Sparse.wfFrom {α : Type} [DecidableEq α] (d : α) : Nat → Sparse α → Bool
  | _, [] => true
  | lo, (k, v) :: t => decide (lo ≤ k) && decide (v ≠ d) && Sparse.wfFrom d (k + 1) t

/-- The canonical form. -/
def Sparse.wf {α : Type} [DecidableEq α] (d : α) (m : Sparse α) : Bool := Sparse.wfFrom d 0 m

end Sys2Proof.Machine
end

