-- ==== Sys2Proof/Machine/Types.lean ====
section
/-!
DEFINITION. The parts of the state: contexts, cores, clusters, regions, rooms, mailboxes, field nodes, peripheral
controllers, links, sessions and records, each as the chapter of spec/ named in its docstring gives it.
-/
namespace Sys2Proof.Machine

/-! ### Contexts (04, 05, 06, 08, 09, 10, 14) -/

/-- Entry record of a trap window (R530). -/
inductive EntryRec where
  | none | windowTrap | doubleFault | keeperInterrupt
  deriving DecidableEq, Repr

/-- An operation in a reservation station (R193 to R195): the physical register and flags still to be written, each
cancelled on its own by a younger write. -/
structure LongOp where
  dst : Nat
  val : Word
  wr : Bool
  n : Option Bool
  z : Option Bool
  c : Option Bool
  v : Option Bool
  deriving DecidableEq, Repr

/-- KIND of a branch table entry (Table 8.1). -/
inductive BtKind where
  | conditional | direct | indirect | ret
  deriving DecidableEq, Repr

/-- A branch table entry (Table 8.1). TARGET is held scrambled with the secret. -/
structure BtEntry where
  tag : BitVec 16
  kind : BtKind
  ctr : BitVec 2
  target : BitVec 48
  deriving DecidableEq, Repr

/-- A return stack (R208): sixteen places, by depth modulo 16, so that a deeper call overwrites the oldest entry, and how many calls of the
committed path are unreturned. -/
structure RetStack where
  slots : Sparse Word
  depth : Nat
  deriving DecidableEq, Repr

def RetStack.empty : RetStack := { slots := [], depth := 0 }

/-- One register bank (Table 4.2, Table 6.1, Table 10.1, R180). General registers are keyed by physical number: 0 to 7
the common registers, 8 + 16b + j register j of ring block b (H0 to H7, A0 to A7), 264 + k and 288 + k register k of
the PL1 and PL2 trap window (E0 to E7, H0 to H7, A0 to A7). -/
structure Ctx where
  regs : Sparse Word
  pc : Word
  psw : W32
  bkN : Sparse Word
  bkS : Sparse Word
  ptbaseN : Word
  ptbaseS : Word
  asidN : BitVec 16
  asidS : BitVec 16
  vbase : Word
  kvbase : Word
  wctl : Word
  /-- Resident depth RD, 0 to 15 (R171). -/
  rd : Nat
  wspN : Word
  wspS : Word
  scN : Nat
  scS : Nat
  /-- World return record (R239). -/
  ncwp : Nat
  nrd : Nat
  fill : Nat
  rec1 : EntryRec
  rec2 : EntryRec
  /-- Prediction secret (R205). -/
  secret : Word
  /-- Prediction bar (R212). -/
  bar : Bool
  /-- LLK reservation: the reserved line (R148). -/
  resv : Option Nat
  /-- Branch table partition (R204): set number to its ways, most recently used first. -/
  btable : Sparse (List BtEntry)
  rstack : RetStack
  /-- Operations beside the pipe (R193), in issue order. -/
  long : List LongOp
  deriving DecidableEq, Repr

/-! ### Cores (07, 09, 11, 17, 22) -/

/-- Page size of a TLB entry (Table 9.4). -/
inductive PageSize where
  | k4 | k64 | m2 | g1
  deriving DecidableEq, Repr

/-- A TLB entry (R231). `va` and `pa` are the page bases. -/
structure TlbEntry where
  room : Nat
  secure : Bool
  asid : BitVec 16
  g : Bool
  size : PageSize
  va : Nat
  pa : Nat
  r : Bool
  w : Bool
  x : Bool
  u : Bool
  d : Bool
  deriving DecidableEq, Repr

/-- A buffered store (R196): the bytes it writes, by PA, the context whose reservation it leaves (its own, for an ST, an STC or a
read-modify-write: Table 5.8), and whether it carries the hint prefix (R145). -/
structure StoreEntry where
  keep : Option Nat
  nt : Bool
  bytes : List (Nat × Byte)
  deriving DecidableEq, Repr

/-- State of an L1U line (R271). -/
inductive L1St where
  | s | e | m
  deriving DecidableEq, Repr

/-- An L1U line (R252, R332); the list of a core's lines runs from the most recently used on. -/
structure L1Line where
  line : Nat
  way : Nat
  st : L1St
  /-- Written since the last commit (R332). -/
  ewl : Bool
  deriving DecidableEq, Repr

/-- KIND of a comparator (Table 22.5). -/
inductive BpKind where
  | instruction | dataRead | dataWrite | dataAny
  deriving DecidableEq, Repr

/-- A breakpoint comparator (R488). -/
structure Bp where
  index : Nat
  kind : BpKind
  mask : BitVec 8
  sizeLog2 : Nat
  asid : BitVec 16
  va : Word
  /-- The session that set it. -/
  sid : Nat
  deriving DecidableEq, Repr

/-- LKFILL of a core (Table 11.2). -/
structure Lkfill where
  count : Nat
  l2Way : Nat
  l1Way : Nat
  enL1 : Bool
  enL2 : Bool
  deriving DecidableEq, Repr

/-- A part of a block load (R160, R242): its offset in the block's bytes, the bytes that are there, how many the completion still owes, and the PA
that they are read from. -/
structure FillPart where
  ofs : Nat
  bytes : List Byte
  owed : Nat
  pa : Nat
  deriving DecidableEq, Repr

/-- A block load that waits: its first ring block, whether it is a SWRET's, and its parts in the order of their reads. -/
structure FillWait where
  block : Nat
  ret : Bool
  parts : List FillPart
  deriving DecidableEq, Repr

/-- An uncached load or configuration read that waits for a completion (R425). -/
structure PcieWait where
  pa : Nat
  len : Nat
  /-- Bytes of the item that are there already and come before those of the completion: PCIE_CFGA's in a 64-bit read of the pair (R6). -/
  pre : List Byte
  /-- Bytes of the item: its first in `pre` and the completion, and how many (a narrower read of PCIE_CFGD, R5). -/
  skip : Nat
  item : Nat
  /-- Physical destination register and whether it takes the sign-extended item. -/
  dst : Nat
  signed : Bool
  /-- Timebase at which CTO_US ends. -/
  due : Nat
  /-- Where issue goes on once the item is written: the next PC and PSW.BLK. -/
  next : Word
  blk : Nat
  /-- Elements of the instruction are still to come. -/
  more : Bool
  /-- The read is a FILLW's or a SWRET's. -/
  block : Option FillWait
  /-- The comparator that the access matched. -/
  hit : Option Bp
  deriving DecidableEq, Repr

/-- What a core is doing (R181, R165, R357, R485). -/
inductive CoreRun where
  /-- Serves no started room. -/
  | off
  | running
  /-- Stopped by IDLE (R165). -/
  | idle
  /-- Stopped by the device: rollback, drain, hold, suspension. -/
  | stopped
  deriving DecidableEq, Repr

/-- A trace packet (Table 22.7) in a core's trace queue (R496). -/
structure TracePkt where
  time : Nat
  typ : Nat
  port : Nat
  ctx : Nat
  lcore : Nat
  epoch : Nat
  aux : Nat
  value : Word
  deriving DecidableEq, Repr

/-- A logical core (R14): its current bank, run state, halt, comparators, caches, TLBs and store buffer. -/
structure Core where
  cur : Nat
  run : CoreRun
  /-- Halted for debug, by this session (R485). -/
  halted : Option Nat
  /-- Pending halt, by this session (R484). -/
  pendHalt : Option Nat
  /-- A STEP in progress (R486). -/
  stepping : Option StepKind
  /-- The next instruction is not stopped by an instruction comparator: execution resumes from a stop at it. -/
  bpSkip : Bool
  bps : List Bp
  lk : Lkfill
  l1 : List L1Line
  tlb1 : List TlbEntry
  tlb2 : Sparse (List TlbEntry)
  sbuf : List StoreEntry
  /-- The 32-byte chunk of VA that was read beyond a transfer that was guessed right: it updates no replacement state (R190, R210). -/
  beyond : Option Nat
  traceQ : List TracePkt
  /-- Packets lost since the last accepted one (R496). -/
  traceMiss : Nat
  wait : Option PcieWait
  deriving DecidableEq, Repr

/-! ### Clusters and regions (11, 12, 13, 14, 15, 16) -/

/-- State of an L2 line (Table 12.1). -/
inductive Moesi where
  | m | o | e | s
  deriving DecidableEq, Repr

/-- An L2 line (R252); most recently used first. The snoop filter's entry for it is S, O or W by this state (R274). -/
structure L2Line where
  line : Nat
  way : Nat
  st : Moesi
  room : Nat
  deriving DecidableEq, Repr

/-- An eviction slot (R262, R281): the line held as M, whether a snoop has taken its data (the EvD is stale), and whether
the home has taken the EvD. -/
structure EvSlot where
  line : Nat
  room : Nat
  stale : Bool
  /-- The home has taken the EvD; the slot waits for the EvAck. -/
  granted : Bool
  /-- Age stamp of the EvD (R292). -/
  stamp : Nat
  deriving DecidableEq, Repr

/-- What a request works for (R189, R259); a hint with its kind and its hint prefix (Table 5.7). -/
inductive MissUse where
  | fetch
  | data
  | hint (kind : Nat) (nt : Bool)
  deriving DecidableEq, Repr

/-- An L2 miss register in use (R259, R260): the primary request and the secondaries merged with it. -/
structure MissReg where
  line : Nat
  /-- Core of the primary request, and its room, in whose ways the line is allocated. -/
  core : Nat
  room : Nat
  use : MissUse
  /-- The primary request asks for write permission. -/
  wr : Bool
  /-- The requests that merged: core and use (R260). -/
  secs : List (Nat × MissUse)
  deriving DecidableEq, Repr

/-- STATE of a directory entry (Table 12.2). -/
inductive DirSt where
  | i | s | o | x
  deriving DecidableEq, Repr

/-- An L3 line with its directory entry (R272, Table 12.2). -/
structure L3Line where
  line : Nat
  way : Nat
  room : Nat
  vec : BitVec 32
  owner : Nat
  st : DirSt
  ld : Bool
  deriving DecidableEq, Repr

/-- Kind of a home transaction (Table 12.4). -/
inductive TxnKind where
  | rds | rdx | upg | rdc | wrf | wrp | evd
  deriving DecidableEq, Repr

/-- A snoop of Table 12.3. -/
inductive SnoopKind where
  | snps | snpx | snpi | snpc
  deriving DecidableEq, Repr

/-- A request that waits at a home or at the hub (R277, R282, R293). -/
structure HomeReq where
  kind : TxnKind
  line : Nat
  /-- Requester number (R293): system cluster index, or 128 and above for a hub engine; and the requester's room (R276). -/
  requester : Nat
  room : Nat
  /-- Age stamp (R292). -/
  stamp : Nat
  /-- The bytes a write brings, by PA. -/
  bytes : List (Nat × Byte)
  /-- Eviction tag of an EvD. -/
  tag : Option (BitVec 12)
  deriving DecidableEq, Repr

/-- An open transaction at a home (R277): the request, clusters of this package still to answer, system regions whose combined answer
is outstanding, what the answers brought, and how far the grant has come. -/
structure Txn where
  line : Nat
  kind : TxnKind
  requester : Nat
  room : Nat
  stamp : Nat
  /-- Snoops sent and not yet answered by the cluster: cluster and kind. -/
  toSnoop : List (Nat × SnoopKind)
  /-- Regions whose combined Rsp has not reached the home. -/
  awaiting : List Nat
  /-- An answer supplied dirty data. -/
  gotData : Bool
  /-- The owner held M or O (Table 12.4, RdS row). -/
  ownerDirty : Bool
  /-- Regions of other packages that keep a copy. -/
  heldBy : List Nat
  /-- Tag of a slot that answered SnpX or SnpI, whose stale EvD the transaction waits for (R281); of an EvD, its own tag. -/
  slotTag : Option (BitVec 12)
  /-- The Cmp has come, and the stale EvD has not. -/
  cmp : Bool
  /-- Data or Grant has been sent; the transaction closes at Cmp. -/
  sent : Bool
  /-- The cluster has installed the fill or grant; Cmp is on its way. -/
  installed : Bool
  /-- The bytes an uncached write brings, by PA. -/
  bytes : List (Nat × Byte)
  deriving DecidableEq, Repr

/-- A request waiting at a channel's controller (R292, R297). -/
structure ChanReq where
  room : Nat
  /-- Requester number (R293). -/
  requester : Nat
  /-- Age stamp: timebase bits [23:0] at creation. -/
  stamp : Nat
  line : Nat
  /-- The transfer of an access or eviction that the model has carried out at once: it takes its slot, and nothing waits for it. -/
  posted : Bool
  /-- A sealed room's request that came after its slot had started: it waits for the room's next slot (Table 13.4). -/
  late : Bool
  deriving DecidableEq, Repr

/-- Kind of an undo entry (R333). -/
inductive UndoKind where
  | line | trestle | output
  deriving DecidableEq, Repr

/-- An undo log entry (R333): 64 bytes of pre-image of a line, or of a block of the local store. -/
structure UndoEntry where
  /-- Room slot whose share holds it. -/
  slot : Nat
  epoch : Nat
  kind : UndoKind
  /-- Line number, or block number of the local store. -/
  addr : Nat
  pre : List Byte
  deriving DecidableEq, Repr

/-- Opcode of a Trestle operation (Table 14.4). -/
inductive TrOp where
  | tmma | ti1 | ti2 | ti3 | trsum | trdot | trmax | trmin | tband | tld | tst | tget | tput
  deriving DecidableEq, Repr

/-- A Trestle reservation station in use (R309, R319): captured operands, tag, and destination register. -/
structure Station where
  ctx : Nat
  op : TrOp
  tag : BitVec 3
  imm : W32
  rdVal : Word
  rsVal : Word
  rtVal : Word
  /-- Physical register that takes the result, when DR = 1 and not cancelled. -/
  dst : Option Nat
  /-- The destination was named as an A register, of this number (KL-01, R518). -/
  aReg : Option (BitVec 5)
  /-- A CALLW or RETW has rotated since issue (KL-01). -/
  rotated : Bool
  /-- Issued before the TR_LSWM write that waits (R317). -/
  early : Bool
  /-- PAs of the operands that lie in memory, as translated at issue, and the length of the first as it was checked (R310). -/
  rsPa : Nat
  rsLen : Nat
  rtPa : Nat
  rdPa : Nat
  deriving DecidableEq, Repr

/-- HEALTH of a Trestle (Table 14.7). -/
inductive TrHealth where
  | healthy | forwarded | lost
  deriving DecidableEq, Repr

/-- A Trestle (R306). -/
structure Trestle where
  health : TrHealth
  helper : Nat
  serves : Bool
  served : Nat
  spareUsed : Bool
  /-- The unit whose number the spare has taken (R316). -/
  spareFor : Nat
  /-- Retired physical units, 17 bits. -/
  lsRetired : BitVec 17
  ceLimit : Nat
  /-- Corrected errors by unit (R321). -/
  ce : Sparse Nat
  /-- Local store bytes by unit × 16384 + offset (logical unit numbers). -/
  ls : Sparse Byte
  /-- Units whose power has been off since they were cleared: their unlisted bytes are open, from this draw on; those of the
  others are zero. -/
  lsOpen : BitVec 16
  lsDraw : Nat
  /-- Stations in use, in issue order (R314). -/
  queue : List Station
  /-- A quick test runs (R320). -/
  testing : Bool
  /-- The room whose state the datapath holds, with its cluster (R318, R320), and the operation it is in. -/
  loaded : Option (Nat × Nat)
  running : Option Station
  /-- Datapath save stores (Table 14.1): the operation that a room left begun, by cluster × 64 + room slot. -/
  save : Sparse Station
  /-- Local-store watermark by room slot, in KiB (R317), and those waiting. -/
  lswm : Sparse Nat
  lswmBusy : List Nat
  deriving DecidableEq, Repr

/-- A cluster (R14): P-level, L2 and eviction slots, snoop-filter pending list, Trestle, undo log, slot map. -/
structure Cluster where
  /-- P-level in force (R439), and the level waiting for its switch. -/
  plevel : Nat
  plevelNext : Option Nat
  /-- A request written during the commit of the room in a slot waits for the end of that epoch (KL-10). -/
  plevelLate : Option (Nat × Nat)
  throttled : Bool
  supLim : Bool
  /-- Timebase of the last throttle step (R440). -/
  throtStep : Nat
  l2 : List L2Line
  l2Retired : BitVec 16
  l2Ce : Sparse Nat
  l2CeLimit : Nat
  /-- Eviction slots, one for each miss register. -/
  slots : Sparse (Option EvSlot)
  /-- Miss registers in use: registers 2k and 2k + 1 are core k's, 8 to 15 are shared (R259). -/
  miss : Sparse MissReg
  /-- Generation bit of each eviction slot (R276). -/
  slotGen : BitVec 16
  /-- Snoops that wait for the cluster to wake (R284). -/
  pendList : List Nat
  trestle : Trestle
  undo : List UndoEntry
  /-- Physical slot of logical core 0 to 3; 7 = none (R18, R374). -/
  slotMap : List Nat
  spare : Nat
  failed : BitVec 5
  /-- Times of located errors by physical slot (R360). -/
  lerr : Sparse (List Nat)
  coreRbk : Nat
  deriving DecidableEq, Repr

/-- A region (R14): L3 and directory, home transactions, wheel, snoop filter counters, memory controller. -/
structure Region where
  l3 : List L3Line
  l3Retired : BitVec 16
  l3Ce : Sparse Nat
  l3CeLimit : Nat
  txns : List Txn
  /-- Requests that wait for a grant, oldest arrival first (R277). -/
  waitQ : List HomeReq
  /-- The requester granted last (R293). -/
  rr : Nat
  sfSnpIn : Nat
  sfSnpFwd : Nat
  sfStale : Nat
  sfXwake : Nat
  /-- Next slot of the wheel to start (R296), the number of the last one started, counted from timebase 0, and the sealed rooms' records in force
  for the turn (R301). -/
  wheel : Nat
  wheelAt : Nat
  turn : List BwRec
  /-- The line whose row stands open in a bank (R298), by Config.bankOf. -/
  pages : Sparse Nat
  /-- Unspent credit by room (R297). -/
  credit : Sparse Nat
  chanQ : List ChanReq
  starveCnt : Nat
  lentCnt : Nat
  maxAge : Nat
  sealedMiss : Sparse Nat
  /-- Bank index of the same-bank refresh rotation (R420). -/
  refresh : Nat
  ref2x : Bool
  mc : ChannelTraining
  mts : Nat
  ecsCnt : Nat
  chanLost : Bool
  /-- Times of corrected errors by rank × 64 + device (R364), devices marked as erasures, and times by row (`rowKey`, R365). -/
  devErr : Sparse (List Nat)
  devMarked : List Nat
  rowErr : Sparse (List Nat)
  /-- Rows repaired by soft repair since the last boot, which repairs them hard, and how many it has repaired since power-on (R365). -/
  softRows : List Nat
  hardRows : Nat
  /-- Sets of the snoop filter that are being rebuilt (R370). -/
  sfBad : List Nat
  deriving DecidableEq, Repr

/-! ### Rooms (10, 14, 15, 16, 17, 20, 21, 22) -/

/-- Where a room stands. -/
inductive RoomPhase where
  /-- No room in the slot. -/
  | absent
  /-- Held, with ROOM_STAT.REASON (Table 16.10). -/
  | held
  /-- Starts at the next package epoch boundary (R462, R96). -/
  | starting
  | running
  /-- Rolling back (R357). -/
  | rolling
  /-- Stopped for a swap, its epochs confirmed (R94). -/
  | drained
  /-- Stopped at a confirmed checkpoint: suspension or a device state (R453, R454). -/
  | suspended
  deriving DecidableEq, Repr

/-- What becomes of a room at a swap point (R93, Table 3.8). -/
inductive SwapClass where
  | unchanged | migrated | restarted | added | removed
  deriving DecidableEq, Repr

/-- An outstanding forwarded command (R323). -/
structure FwdCmd where
  seq : Nat
  rgen : Nat
  ctx : Nat
  tag : BitVec 3
  /-- The tag is pending: SWRET clears it (R242). -/
  tagOn : Bool
  op : Byte
  dr : Bool
  dst : Option Nat
  rdv : Word
  rsv : Word
  rtv : Word
  user : Nat
  epoch : Nat
  due : Nat
  deriving DecidableEq, Repr

/-- The room's part of a checkpoint: what R337 and R327 restore beside the contexts. -/
structure RoomCkpt where
  boundary : Nat
  /-- MBX_SOFS and MBX_RD of every mailbox the room holds an end of. -/
  mbxSofs : Sparse Nat
  mbxRd : Sparse Nat
  fwdSeq : Nat
  fwdOut : List FwdCmd
  /-- Stations pending at the boundary, with their cluster (R319). -/
  stations : List (Nat × Station)
  /-- The current bank of each core and whether it ran or was idle (R336: a rollback returns the room to the boundary). -/
  cores : List (Nat × Nat × CoreRun)
  deriving DecidableEq, Repr

/-- TLB maintenance registers (Table 9.9). -/
structure TlbiRegs where
  vaLo : W32
  vaHi : W32
  /-- TLBI_VA of the room's blocks in other packages as the cores here wrote it: package × 2, and one more for the high half (R233). -/
  far : Sparse Nat
  busy : Bool
  asid : BitVec 16
  bothw : Bool
  deriving DecidableEq, Repr

/-- Watermark registers (Table 10.5). -/
structure WmRegs where
  newLo : W32
  newHi : W32
  win : Nat
  busy : Bool
  /-- Window of the move in progress, and its new watermark. -/
  moving : Nat
  target : Nat
  /-- WM_NEW of the room's blocks in other packages as the cores here wrote it: package × 2, and one more for the high half (R247). -/
  far : Sparse Nat
  deriving DecidableEq, Repr

/-- Epoch registers (Table 15.4a) and bookkeeping. -/
structure EpochRegs where
  frozen : Bool
  /-- Number of the current epoch (EPO_CNT). -/
  cnt : Nat
  /-- Epochs confirmed (EPO_CONF): the oldest unconfirmed epoch. -/
  conf : Nat
  forced : Nat
  rbk : Nat
  rgen : Nat
  next : Nat
  maxDly : Nat
  /-- Clusters whose streaming of the last boundary's checkpoint is outstanding (R331). -/
  streaming : List Nat
  /-- Read-back of the last boundary's checkpoint failed. -/
  readBad : Bool
  /-- The output snapshot of the last boundary is outstanding (R338). -/
  snapDue : Bool
  /-- Timebase of the last boundary. -/
  lastAt : Nat
  /-- Epoch of the last resume from a substitution (KL-03). -/
  substAt : Option Nat
  /-- The room does not drain for a swap before this epoch (KL-03). -/
  swapHold : Nat
  /-- Boundaries that the room could not yet take (R329, R347, Table 15.4), and the time at which the oldest of them fell. -/
  want : Nat
  wantAt : Nat
  /-- The boundary that waits confirms every open epoch at once (R346, R463); cores are reset after it (R463). -/
  confirmNext : Bool
  coreReset : List Nat
  deriving DecidableEq, Repr

/-- A record that a rollback writes when it ends: kind, WHERE, ADDR, DETAIL (Tables 16.6, 16.7a, 16.7b). -/
structure RbRec where
  kind : Nat
  loc : Nat
  addr : Nat
  detail : Nat
  deriving DecidableEq, Repr

/-- Rollback in progress (R357): the boundary it returns to, its start, the cores under quick test, and the records that it will write. -/
structure Rollback where
  back : Nat
  started : Nat
  testing : List Nat
  recs : List RbRec
  /-- A room reset is waiting for the rollback to end (Table 21.8). -/
  thenReset : Option Nat
  /-- A core reset is waiting (Table 21.8). -/
  thenCore : Option Nat
  /-- Clusters in which a substitution is in progress. -/
  subst : List Nat
  /-- A halt waits for the resume boundary (Table 16.5). -/
  thenHalt : List (Nat × Nat)
  deriving DecidableEq, Repr

/-- Tick timer (R389). -/
structure TickRegs where
  period : Nat
  en : Bool
  next : Nat
  miss : Nat
  deriving DecidableEq, Repr

/-- Watchdog (R390). `acc` is the ns since the last whole µs of its count. -/
structure WdgRegs where
  timeout : Nat
  warn : Nat
  kworld : Bool
  en : Bool
  count : Nat
  /-- TIMEOUT_US that the count was loaded from. -/
  loaded : Nat
  acc : Nat
  warned : Bool
  bites : Nat
  badKick : Nat
  deriving DecidableEq, Repr

/-- Debug and trace registers (Table 10.7, Table 22.8). -/
structure DbgRegs where
  sec : Nat
  norm : Nat
  frz : BitVec 8
  trcEn : Bool
  trcStop : Bool
  trcIrqEn : Bool
  trcIrqOfs : Nat
  trcFill : Nat
  trcEvt : BitVec 5
  trcWr : Nat
  trcRd : Nat
  trcLost : Nat
  stimEn : Sparse W32
  deriving DecidableEq, Repr

/-- Forwarded-block registers of a room (Table 14.6). -/
structure FwdRegs where
  irqEn : Bool
  irqOfs : Nat
  fltCnt : Nat
  badCnt : Nat
  last : Nat
  seq : Nat
  out : List FwdCmd
  deriving DecidableEq, Repr

/-- Power registers of a room (Table 20.11). -/
structure PwrRegs where
  req : Nat
  dreqState : BitVec 2
  dreqDomain : Nat
  busy : Bool
  refused : Bool
  aborted : Bool
  code : Nat
  susp : Bool
  deriving DecidableEq, Repr

/-- Field registers of a room (Table 18.5). -/
structure FrcRoom where
  nsel : Nat
  evtEn : BitVec 4
  gsel : Nat
  dbRecog : Nat
  dbMerged : Nat
  /-- Timebase of the last recognised doorbell, and the reply owed (port, node). -/
  dbLast : Option Nat
  dbReply : Option (Nat × Nat)
  deriving DecidableEq, Repr

/-- A session's own level for a room (R481): 1 non-invasive, 2 full. A session without one has none. -/
structure RoomLevel where
  sid : Nat
  role : Nat
  level : Nat
  deriving DecidableEq, Repr

/-- A room in its package slot: every register of its view page (Table 1.8) and its bookkeeping. -/
structure Room where
  phase : RoomPhase
  roomId : Nat
  reason : Nat
  degraded : Bool
  subst : Nat
  /-- Last reset cause and count (R475). -/
  rstLast : Nat
  rstCount : Nat
  /-- The room has been started since it was loaded (a held migrated room resumes from its checkpoint). -/
  hasRun : Bool
  /-- Package epoch boundary after which a starting or suspended room may issue. -/
  readyAt : Nat
  /-- Zero-fill of newly granted ranges is outstanding (R97). -/
  zeroFill : Bool
  /-- Class at the swap being drained for. -/
  swapClass : Option SwapClass
  /-- Watermarks in force by window index (R245). -/
  wmarks : Sparse Nat
  tlbi : TlbiRegs
  wm : WmRegs
  claims : BitVec 128
  epo : EpochRegs
  ckpts : List RoomCkpt
  rb : Option Rollback
  tick : TickRegs
  wdg : WdgRegs
  irqSel : Nat
  dbg : DbgRegs
  fwd : FwdRegs
  pwr : PwrRegs
  frc : FrcRoom
  /-- Event sources delivered in each unconfirmed epoch: (epoch, source) (R386). -/
  delivered : List (Nat × Nat)
  /-- Sessions with a level of their own for the room. -/
  sess : List RoomLevel
  deriving DecidableEq, Repr

/-- A queued or released send (R341): epoch of the MBX_SEND write, offset and length. -/
structure MbxItem where
  epoch : Nat
  ofs : Nat
  len : Nat
  deriving DecidableEq, Repr

/-- A mailbox (Table 15.3). -/
structure Mbox where
  sofs : Nat
  queue : List MbxItem
  ovf : Bool
  released : Nat
  /-- Confirmed messages waiting for room in the receive ring (R342). -/
  waiting : List (List Byte)
  wr : Nat
  rd : Nat
  /-- MBX_RD at the receiver's latest confirmed boundary (R342). -/
  rdConf : Nat
  delivered : Nat
  deriving DecidableEq, Repr

/-! ### Field ring controller (18) -/

/-- Session state of a node (FRC_NSTAT.STATE). -/
inductive NodeSt where
  | none | joining | active | lockedOut
  deriving DecidableEq, Repr

/-- A handshake in progress (R406): nonces and session ID. -/
structure Handshake where
  nn : List Byte
  nd : List Byte
  sid : Nat
  port : Nat
  deriving DecidableEq, Repr

/-- A KFX session (R407): its 36 derived bytes and the sequence numbers of both directions. -/
structure KfxSession where
  key : List Byte
  sid : Nat
  /-- Node nonce it was made with, which a rekey uses again. -/
  nn : List Byte
  seqTx : Nat
  seqRx : Nat
  /-- First base cycle start at or after which the node's output frames go. -/
  from_ : Nat
  deriving DecidableEq, Repr

/-- An accepted input image not yet written (R399): arrival time, the port that holds its granules, how many, and the image. -/
structure Inbox where
  time : Nat
  port : Nat
  granules : Nat
  image : List Byte
  deriving DecidableEq, Repr

/-- A field node (Table 18.5, R338, R404). -/
structure Node where
  st : NodeSt
  hs : Option Handshake
  ses : Option KfxSession
  /-- Session that takes over at the next node cycle (R408). -/
  ses2 : Option KfxSession
  missed : Nat
  auth : Bool
  dropped : Bool
  joined : Bool
  input : Bool
  begin_ : Nat
  authFail : Nat
  late : Nat
  drop : Bool
  released : List Byte
  staged0 : Option (List Byte)
  staged1 : Option (List Byte)
  /-- The copy taken at the take point (R398), and the copy of the previous output frame. -/
  taken : List Byte
  sent : List Byte
  /-- The owning room has confirmed an epoch since the node's previous node cycle (R404). -/
  live : Bool
  /-- LIVE of the output frame of the running base cycle; none: no frame was sent in it. -/
  sentLive : Option Bool
  /-- An input frame was accepted in the running base cycle. -/
  gotInput : Bool
  inbox : Option Inbox
  fails : Nat
  lockUntil : Nat
  deriving DecidableEq, Repr

/-- A field port (Table 18.6). -/
structure Port where
  en : Bool
  link : Bool
  maxFrm : Nat
  rx : Nat
  dSize : Nat
  dPool : Nat
  dFcs : Nat
  dOther : Nat
  hsrDup : Nat
  hsrEvict : Nat
  /-- Duplicate-discard table, oldest first: source, HSR sequence number, time (R394). -/
  discard : List (Nat × Nat × Nat)
  /-- Granules of the pool in use (R409). -/
  used : Nat
  /-- Sync intervals since the last peer delay exchange (R395). -/
  syncs : Nat
  deriving DecidableEq, Repr

/-- A ring (Table 18.6). -/
structure Ring where
  closed : Bool
  mac : BitVec 48
  /-- Handshakes begun in the running base cycle (R406). -/
  handshakes : Nat
  /-- Sequence number of the ring's next HSR tag (R393). -/
  hsrSeq : Nat
  deriving DecidableEq, Repr

/-- Host ring registers (R411). -/
structure HostRing where
  en : Bool
  ovf : Bool
  size : Nat
  base : Nat
  wr : Nat
  rd : Nat
  deriving DecidableEq, Repr

/-- Time registers of the field ports (R395). -/
structure TSync where
  locked : Bool
  mode : Bool
  port : Nat
  ofs : Int
  /-- Consecutive Sync intervals within ±100 ns. -/
  good : Nat
  deriving DecidableEq, Repr

/-! ### Peripheral controllers and links (19) -/

/-- A CAN controller (R427, Table 19.6). -/
structure Can where
  en : Bool
  fd : Bool
  listen : Bool
  wake : Bool
  txreq : BitVec 8
  nbt : W32
  dbt : W32
  ready : Bool
  st : Nat
  tec : Nat
  rcv : Nat
  /-- Transmit buffers: byte b × 72 + i. -/
  txbuf : Sparse Byte
  fifo : List (List Byte)
  /-- Acceptance filters: word index, ID then mask. -/
  filters : Sparse W32
  txDone : Bool
  errChange : Bool
  readyEvt : Bool
  /-- Timebase before which every register read returns zero (KL-02). -/
  deafUntil : Nat
  /-- The frame that was on the bus when a freeze began has completed (R491). -/
  frz : Bool
  /-- The controller was enabled with WAKE = 1 when its domain went Off: the Porch watches its RXD (R428). -/
  watch : Bool
  deriving DecidableEq, Repr

/-- A management MAC (R429, Table 19.7). -/
structure Mac where
  en : Bool
  speed : BitVec 2
  link : Bool
  rxBase : Nat
  txBase : Nat
  txLog2 : Nat
  rxLog2 : Nat
  txTail : Nat
  /-- Next descriptor the MAC sends. -/
  txHead : Nat
  rxHead : Nat
  ts : Word
  fault : Bool
  drop : Nat
  srcRx : Bool
  srcTx : Bool
  srcTs : Bool
  srcLink : Bool
  /-- The frame on the wire when a freeze began has completed (R491). -/
  frz : Bool
  deriving DecidableEq, Repr

/-- A UART (R431, Table 19.7). -/
structure Uart where
  en : Bool
  par : Nat
  stop2 : Bool
  bits7 : Bool
  divInt : Nat
  divFrac : Nat
  tx : List Byte
  rx : List Byte
  err : BitVec 4
  /-- The character on the line when a freeze began has completed (R491). -/
  frz : Bool
  deriving DecidableEq, Repr

/-- A PCIe root port (Table 19.5). -/
structure PciePort where
  en : Bool
  link : Bool
  speed : Nat
  width : Nat
  ecrc : Bool
  l1 : Bool
  ctoUs : Nat
  deny : Nat
  cto : Nat
  drop : Nat
  deriving DecidableEq, Repr

/-- A coherence message on its way to another package (Table 12.3): requests by the kind of their transaction. -/
inductive CohKind where
  | request (k : TxnKind) | rgn | snoop (k : SnoopKind) | rsp | data (grant : Moesi) | grant | cmp | ack
  deriving DecidableEq, Repr

/-- What it carries: the requester, its room (R276), its age (R292), the eviction tag, and the bytes. -/
structure CohMsg where
  kind : CohKind
  line : Nat
  requester : Nat
  room : Nat
  age : Nat
  tag : Option (BitVec 12)
  data : List (Nat × Byte)
  deriving DecidableEq, Repr

/-- Something the block has put on its pins or links, in order: the model's own record of its outputs. -/
inductive Out where
  /-- A frame of a field ring goes out on a port with the sequence number of its HSR tag (R393). -/
  | kfxOutput (port hsr node seq : Nat) (live hold fresh : Bool) (time : Nat) (image tag : List Byte)
  | kfxChallenge (port hsr node : Nat) (nd : List Byte) (sid : Nat)
  | kfxAccept (port hsr node : Nat) (mac params : List Byte)
  | kfxRefuse (port hsr node reason : Nat)
  | kfxLeave (port hsr node : Nat)
  | doorbellReply (port hsr node : Nat)
  | supervision (port hsr : Nat)
  | gptp (port : Nat)
  /-- The peer delay exchange of a port (R395). -/
  | pdelay (port : Nat)
  | lobby (sid seq cmd status rseq : Nat) (payload mac : List Byte)
  | challenge (ch : Channel) (nd : List Byte) (sid : Nat) (salt : List Byte)
  | accept (ch : Channel) (mac : List Byte)
  | refuse (ch : Channel)
  | ident (ch : Channel) (payload : List Byte)
  | pcieWrite (pa : Nat) (data : List Byte)
  | pcieRead (pa len : Nat)
  | pcieCompletion (port : Nat) (data : List Byte)
  | pcieUnsupported (port : Nat)
  | pcieConfig (addr : W32) (write : Option W32) (value : W32)
  | canFrame (can buf : Nat) (bytes : List Byte)
  /-- The error frame that a transmission cut short leaves on the bus (R464). -/
  | canError (can : Nat)
  | macFrame (mac : Nat) (bytes : List Byte)
  | uartByte (uart : Nat) (b : Byte)
  | systemBoundary (k : Nat)
  /-- The image of a LOAD or a REVERT, for the other packages (R99). -/
  | floorplan (image : List Byte) (reverting : Bool)
  /-- A later command, by its code in FLP_CMD, with its argument (R99). -/
  | floorplanCmd (cmd arg : Nat)
  /-- This package's verdict on the image in its shadow slot (R99). -/
  | floorplanVerdict (ready : Bool)
  | perst
  /-- The line that the boot ROM sends on UART 0 when the firmware does not verify (R466). -/
  | failureLine
  /-- A room reset, for the other packages that the room spans (R461). -/
  | roomReset (room cause : Nat)
  /-- A coherence message to another package. -/
  | coherence (pkg : Nat) (m : CohMsg)
  /-- A spanning room is held with a reason, for the other packages (R33). -/
  | roomHeld (room reason : Nat)
  /-- A clean or failed epoch of a spanning room, for the other packages (R347). -/
  | epochReport (room epoch : Nat) (clean : Bool)
  /-- A TLB invalidation of a spanning room, by its code in TLBI_CTL.OP, for the other packages (R233). -/
  | tlbi (room op : Nat) (both secure : Bool) (asid : BitVec 16) (va : Nat)
  /-- A watermark move of a spanning room, for the other packages (R247). -/
  | watermark (room win ofs : Nat)
  /-- The data of an RdC, for a hub engine (R282). -/
  | readData (engine line : Nat) (data : List Byte)
  deriving DecidableEq, Repr

/-- STATE of an Elvust link (Table 19.9). -/
inductive LinkSt where
  | down | training | up | lost
  deriving DecidableEq, Repr

/-- An Elvust link (Table 19.9). -/
structure Link where
  st : LinkSt
  admitted : Bool
  width : Nat
  lanes : BitVec 16
  replay : Nat
  /-- Consecutive failures of the flit at the head of the link (R434). -/
  fails : Nat
  retrains : Nat
  maxRt : Nat
  crc : Nat
  /-- A retrain is in progress; whether it aims at x16 (ELV_CTL.RETRAIN). -/
  busy : Bool
  wide : Bool
  /-- Retrain attempts that could not reach x4 (R435). -/
  tries : Nat
  /-- Messages held until the retrain ends, oldest first (R283, R301). -/
  held : List CohMsg
  deriving DecidableEq, Repr

/-! ### Keys, sessions, floorplan store (03, 22, 24) -/

/-- Ownership state (R82, KEY_STATE.STATE). -/
inductive OwnState where
  | unowned | owned | surrendering | returned
  deriving DecidableEq, Repr

/-- A session key slot (Table 3.1, R86). -/
structure KeySlot where
  key : List Byte
  salt : List Byte
  /-- 0 observer, 1 operator, 2 engineer, 3 floorplan author, 4 owner. -/
  role : Nat
  fails : Nat
  lockUntil : Nat
  deriving DecidableEq, Repr

/-- A session, open or between CHALLENGE and PROOF (R84, R85). -/
structure Session where
  sid : Nat
  slot : Nat
  ch : Channel
  nc : List Byte
  nd : List Byte
  isOpen : Bool
  key : List Byte
  lastSeq : Nat
  /-- Messages the device has sent in the session (R85: each direction numbers from 1). -/
  sent : Nat
  discarded : Nat
  lastAt : Nat
  role : Nat
  /-- Payload bytes of an image being streamed. -/
  stream : Nat
  deriving DecidableEq, Repr

/-- STATE of FLP_STATUS (Table 3.6). -/
inductive FlpSt where
  | idle | loading | validating | ready | armed | draining | swapping
  deriving DecidableEq, Repr

/-- The FLP block (Tables 3.6, 3.7). -/
structure Flp where
  st : FlpSt
  result : Nat
  section_ : Nat
  origin : Nat
  srcLo : W32
  srcHi : W32
  len : Nat
  /-- The validation in progress is a REVERT's (step 3 not applied, either key kind). -/
  reverting : Bool
  deriving DecidableEq, Repr

/-- An incident record (Table 16.7). -/
structure Incident where
  time : Nat
  seq : Nat
  cls : Nat
  kind : Nat
  pkg : Nat
  fromJournal : Bool
  rooms : BitVec 64
  loc : Nat
  buildTag : Nat
  epoch : Nat
  addr : Nat
  detail : Word
  name : Nat
  rbkNs : Nat
  deriving DecidableEq, Repr

/-- A unit's entry of the BIST ledger (R469): 0 untested, 1 passed, 2 failed, 3 in progress. -/
structure BistEntry where
  st : Nat
  seg : Nat
  onh : Nat
  deriving DecidableEq, Repr

/-- State of a clock domain (Table 20.3). -/
inductive DomSt where
  | on | gated | retention | off
  deriving DecidableEq, Repr

/-- A clock domain (R442, R449): state, an entry under way with who asked, a wake under way, and PWR_ACCT. -/
structure Domain where
  st : DomSt
  entering : Option DomSt
  /-- Slot of the room whose PWR_DREQ asked; 64 the PWR block or Lobby. -/
  asker : Option Nat
  waking : Bool
  refused : Nat
  aborted : Nat
  last : Nat
  /-- Ns at which the domain last served a request or changed, for automatic entry. -/
  since : Nat
  /-- A BIST slice runs in the entry under way (R470). -/
  slice : Bool
  deriving DecidableEq, Repr

/-- State of the device (Table 20.8). -/
inductive DevSt where
  | inReset | noImage | run | retain | off
  deriving DecidableEq, Repr

end Sys2Proof.Machine
end

