-- ==== Sys2Proof/Machine/Init.lean ====
section
/-!
DEFINITION. The reset value of every part of the state, as the register tables of spec/ give it; values that the spec does
not give are zero or empty (DESIGN CHOICE, notes/assumptions/2.md).
-/
namespace Sys2Proof.Machine

/-- PSW at context start (Table 4.3: PL 2, WORLD 1, everything else 0). -/
def pswStart : W32 := 0x60

/-- WCTL at room start (Table 10.2: NXF = 1). -/
def wctlStart : Word := 2

/-- A context at context start (R182): all registers zero, window state zero, secure PL2. -/
def Ctx.init : Ctx :=
  { regs := [], pc := 0, psw := pswStart, bkN := [], bkS := [], ptbaseN := 0, ptbaseS := 0, asidN := 0, asidS := 0,
    vbase := 0, kvbase := 0, wctl := wctlStart, rd := 0, wspN := 0, wspS := 0, scN := 0, scS := 0, ncwp := 0, nrd := 0,
    fill := 0, rec1 := .none, rec2 := .none, secret := 0, bar := false, resv := none, btable := [], rstack := .empty,
    long := [] }

/-- LKFILL at reset (Table 11.2), before the lowest locked ways are loaded. -/
def Lkfill.init : Lkfill := { count := 0, l2Way := 0, l1Way := 0, enL1 := false, enL2 := false }

/-- A core that serves no room. -/
def Core.init : Core :=
  { cur := 0, run := .off, halted := none, pendHalt := none, stepping := none, bpSkip := false, bps := [],
    lk := Lkfill.init, l1 := [], tlb1 := [], tlb2 := [], sbuf := [], beyond := none, traceQ := [], traceMiss := 0, wait := none }

/-- A Trestle at reset (Table 14.7: CE_LIMIT 8). -/
def Trestle.init : Trestle :=
  { health := .healthy, helper := 0, serves := false, served := 0, spareUsed := false, spareFor := 0, lsRetired := 0, ceLimit := 8,
    ce := [], ls := [], lsOpen := 0, lsDraw := 0, queue := [], testing := false, loaded := none, running := none, save := [], lswm := [],
    lswmBusy := [] }

/-- A cluster at reset: logical cores 0 to 3 on slots 0 to 3, slot 4 the spare (R18), CE_LIMIT 8 (Table 11.5). -/
def Cluster.init : Cluster :=
  { plevel := 0, plevelNext := none, plevelLate := none, throttled := false, supLim := false, throtStep := 0, l2 := [],
    l2Retired := 0, l2Ce := [], l2CeLimit := 8, slots := [], miss := [], slotGen := 0, pendList := [], trestle := Trestle.init,
    undo := [], slotMap := [0, 1, 2, 3], spare := 4, failed := 0, lerr := [], coreRbk := 0 }

/-- An untrained channel. -/
def ChannelTraining.none : ChannelTraining :=
  { trained := false, gib := 0, rdimm := false, x8 := false, rank2 := false, trfcNs := 0, ppr := 0 }

/-- A region at reset. -/
def Region.init : Region :=
  { l3 := [], l3Retired := 0, l3Ce := [], l3CeLimit := 8, txns := [], waitQ := [], rr := 0, sfSnpIn := 0, sfSnpFwd := 0, sfStale := 0,
    sfXwake := 0, wheel := 0, wheelAt := 0, turn := [], pages := [], credit := [], chanQ := [],
    starveCnt := 0, lentCnt := 0, maxAge := 0, sealedMiss := [],
    refresh := 0, ref2x := false, mc := ChannelTraining.none, mts := 0, ecsCnt := 0, chanLost := false, devErr := [],
    devMarked := [], rowErr := [], softRows := [], hardRows := 0, sfBad := [] }

def TlbiRegs.init : TlbiRegs := { vaLo := 0, vaHi := 0, far := [], busy := false, asid := 0, bothw := false }
def WmRegs.init : WmRegs := { newLo := 0, newHi := 0, win := 0, busy := false, moving := 0, target := 0, far := [] }

/-- Epoch registers at room start (Table 15.4a). -/
def EpochRegs.init : EpochRegs :=
  { frozen := false, cnt := 0, conf := 0, forced := 0, rbk := 0, rgen := 0, next := 0, maxDly := 0, streaming := [],
    readBad := false, snapDue := false, lastAt := 0, substAt := none, swapHold := 0, want := 0, wantAt := 0,
    confirmNext := false, coreReset := [] }

/-- Tick registers (Table 17.8: PERIOD_US 1,000). -/
def TickRegs.init : TickRegs := { period := 1000, en := false, next := 0, miss := 0 }

/-- Watchdog registers (Table 17.8: TIMEOUT_US 100,000, WARN 4, KWORLD 1). -/
def WdgRegs.init : WdgRegs :=
  { timeout := 100000, warn := 4, kworld := true, en := false, count := 0, loaded := 0, acc := 0, warned := false,
    bites := 0, badKick := 0 }

/-- Debug and trace registers (Table 22.8: EN 1, FILL 8). -/
def DbgRegs.init : DbgRegs :=
  { sec := 0, norm := 0, frz := 0, trcEn := true, trcStop := false, trcIrqEn := false, trcIrqOfs := 0, trcFill := 8,
    trcEvt := 0, trcWr := 0, trcRd := 0, trcLost := 0, stimEn := [] }

def FwdRegs.init : FwdRegs :=
  { irqEn := false, irqOfs := 0, fltCnt := 0, badCnt := 0, last := 0, seq := 0, out := [] }

def PwrRegs.init : PwrRegs :=
  { req := 0, dreqState := 0, dreqDomain := 0, busy := false, refused := false, aborted := false, code := 0,
    susp := false }

/-- Field registers of a room (Table 18.5: KINDS 0b0110). -/
def FrcRoom.init : FrcRoom :=
  { nsel := 0, evtEn := 6, gsel := 0, dbRecog := 0, dbMerged := 0, dbLast := none, dbReply := none }

/-- A package slot with no room. -/
def Room.init : Room :=
  { phase := .absent, roomId := 0, reason := 0, degraded := false, subst := 0, rstLast := 0, rstCount := 0,
    hasRun := false, readyAt := 0, zeroFill := false, swapClass := none, wmarks := [], tlbi := TlbiRegs.init,
    wm := WmRegs.init, claims := 0, epo := EpochRegs.init, ckpts := [], rb := none, tick := TickRegs.init,
    wdg := WdgRegs.init, irqSel := 0, dbg := DbgRegs.init, fwd := FwdRegs.init, pwr := PwrRegs.init,
    frc := FrcRoom.init, delivered := [], sess := [] }

def Mbox.init : Mbox :=
  { sofs := 0, queue := [], ovf := false, released := 0, waiting := [], wr := 0, rd := 0, rdConf := 0, delivered := 0 }

/-- A field node without a session. -/
def Node.init : Node :=
  { st := .none, hs := none, ses := none, ses2 := none, missed := 0, auth := false, dropped := false, joined := false,
    input := false, begin_ := 0, authFail := 0, late := 0, drop := false, released := [], staged0 := none,
    staged1 := none, taken := [], sent := [], live := false, sentLive := none, gotInput := false, inbox := none,
    fails := 0, lockUntil := 0 }

/-- A field port (Table 18.6: MAXFRM 1,522). -/
def Port.init : Port :=
  { en := false, link := false, maxFrm := 1522, rx := 0, dSize := 0, dPool := 0, dFcs := 0, dOther := 0, hsrDup := 0,
    hsrEvict := 0, discard := [], used := 0, syncs := 0 }

/-- Ring `k` (Table 18.6: its MAC address is per part). -/
def Ring.init (k : Nat) : Ring := { closed := false, mac := Config.ringMac k, handshakes := 0, hsrSeq := 0 }

def HostRing.init : HostRing := { en := false, ovf := false, size := 1, base := 0, wr := 0, rd := 0 }
def TSync.init : TSync := { locked := false, mode := false, port := 0, ofs := 0, good := 0 }

/-- A CAN controller (Table 19.6): WAKE 1; NBT 8, 15, 4; DBT 1, 1, 7, 2. -/
def Can.init : Can :=
  { en := false, fd := false, listen := false, wake := true, txreq := 0, nbt := 0x00080F04, dbt := 0x80010702,
    ready := false, st := 0, tec := 0, rcv := 0, txbuf := [], fifo := [], filters := [], txDone := false,
    errChange := false, readyEvt := false, deafUntil := 0,
    frz := false, watch := false }

/-- A management MAC (Table 19.7: TXLOG2 and RXLOG2 4). -/
def Mac.init : Mac :=
  { en := false, speed := 0, link := false, rxBase := 0, txBase := 0, txLog2 := 4, rxLog2 := 4, txTail := 0,
    txHead := 0, rxHead := 0, ts := 0, fault := false, drop := 0, srcRx := false, srcTx := false, srcTs := false,
    srcLink := false, frz := false }

/-- A UART (Table 19.7: INT 139). -/
def Uart.init : Uart :=
  { en := false, par := 0, stop2 := false, bits7 := false, divInt := 139, divFrac := 0, tx := [], rx := [], err := 0, frz := false }

/-- A PCIe root port (Table 19.5: EN 1, ECRC 1, CTO_US 1,000). -/
def PciePort.init : PciePort :=
  { en := true, link := false, speed := 0, width := 0, ecrc := true, l1 := false, ctoUs := 1000, deny := 0, cto := 0,
    drop := 0 }

def Link.init : Link :=
  { st := .down, admitted := false, width := 0, lanes := 0, replay := 0, fails := 0, retrains := 0, maxRt := 0,
    crc := 0, busy := false, wide := false, tries := 0, held := [] }

def Flp.init : Flp :=
  { st := .idle, result := 0, section_ := 0, origin := 0, srcLo := 0, srcHi := 0, len := 0, reverting := false }

def Domain.init : Domain :=
  { st := .on, entering := none, asker := none, waking := false, refused := 0, aborted := 0, last := 0, since := 0,
    slice := false }

def BistEntry.init : BistEntry := { st := 0, seg := 0, onh := 0 }

/-- A floorplan of no rooms: what is in force when no image is. -/
def Plan.empty : Plan :=
  { generation := 0, buildTag := 0, sysEpochUs := 0, pkgs := [], rooms := [], clusters := [], windows := [],
    caches := [], starveNs := 500, bw := [], irqs := [],
    nodePre := { etherType := 0, portEn := 0, portMode := 0, granuleLog2 := [], hsrAgeMs := 0, nodeTmoCyc := 0,
                 classUs := [] },
    nodes := [], powerPre := { bistSliceUs := 50, pinMask := 0 }, powers := [], debugs := [], epochs := [], fwds := [],
    mboxes := [] }

end Sys2Proof.Machine
end

