-- ==== Sys2Proof/Machine/State.lean ====
section
/-!
DEFINITION. The state of the Korid 9128 as plain data: the device, the Lobby's sessions, and the queue of waiting commands.
-/
namespace Sys2Proof.Machine

/-- Bytes by address, in canonical form: addresses strictly rising, no listed byte equal to what an unlisted address
reads as (0x00: DESIGN CHOICE, notes/assumptions/3.md). -/
abbrev Memory := List Host.Cell

/-- What an unlisted address reads as. -/
def Memory.unlisted : Byte := 0

/-- The canonical form. -/
def Memory.wf (m : Memory) : Bool := Sparse.wf Memory.unlisted m

/-- Clocks (R456, R457, R459) and the model's own counter of random draws. -/
structure Clock where
  /-- Package timebase in ns, 64 bits (TIME). -/
  tb : Nat
  /-- Real-time clock of the Porch, 48 bits at 32,768 Hz, and the ns not yet counted times 32,768. -/
  rtc : Nat
  rtcAcc : Nat
  tbOfs : Int
  aligned : Bool
  seeded : Bool
  /-- The step of R456 at boot has been taken. -/
  stepped : Bool
  /-- PLL lock bits: die 0, die 1, hub. -/
  lock : BitVec 3
  /-- The timebase stands still (D-Retain, D-Off, reset). -/
  stopped : Bool
  /-- Free counter: random values drawn so far (the model's own field). -/
  draws : Nat
  deriving DecidableEq, Repr

/-- The MRAM store (Table 3.4, R88, R453): slots, HIGH_GEN and the clean-stop mark. -/
structure Store where
  active : List Byte
  shadow : List Byte
  lastGood : List Byte
  factory : List Byte
  highGen : Nat
  cleanStop : Bool
  deriving DecidableEq, Repr

/-- The key store and ownership (R81, R82, R520). -/
structure Keys where
  own : OwnState
  /-- Owner key hash, empty on an Unowned device. -/
  ownerHash : List Byte
  slots : Sparse KeySlot
  nodeKeys : Sparse (List Byte)
  /-- IEEE 1149.1 boundary scan disabled for good (R82, R512). -/
  tapOff : Bool
  /-- Lobby firmware in the store verifies (R466). -/
  firmwareOk : Bool
  /-- Last IDENT answered, by channel number (R525). -/
  identAt : Sparse Nat
  deriving DecidableEq, Repr

/-- The incident ring, the MRAM journal and their registers (R371, R372, Table 16.8). -/
structure IncLog where
  /-- Records by ring index, with whether an owner session has read them. -/
  ring : Sparse (Incident × Bool)
  wr : Nat
  rd : Nat
  lost : Nat
  /-- SEQ of the last record since power-on, and INC_SEQ. -/
  seq : Nat
  last : Nat
  /-- The journal, oldest first, with whether an owner session has read each record (R520). -/
  journal : List (Incident × Bool)
  jnlLost : Nat
  /-- KEY_STATE.EXP_RING and EXP_JNL (R520). -/
  expRing : Bool
  expJnl : Bool
  deriving DecidableEq, Repr

/-- RAS, EPO and ARB package registers (Tables 16.8, 15.5, 13.1). -/
structure PkgRas where
  devLimit : Nat
  pprEn : Bool
  patrolH : Nat
  subLimit : Nat
  mirrorDeg : BitVec 4
  sysCnt : Nat
  sysLate : Nat
  sysMaxLag : Nat
  /-- Timebase at which the last system boundary fell here (R347). -/
  sysAt : Nat
  ckptCe : Nat
  starveNs : Nat
  deriving DecidableEq, Repr

/-- The PWR block and the Porch (Table 20.12, R454, R455). -/
structure Porch where
  dreqState : BitVec 2
  dreqDomain : Nat
  dBusy : Bool
  dRefused : Bool
  dAborted : Bool
  dCode : Nat
  result : Nat
  mainOk : Bool
  emerg : Bool
  emCluster : Nat
  wakeEn : BitVec 7
  wakeSrc : BitVec 7
  alarm : Nat
  /-- Highest reading since the last read of TMAX; none: no reading yet. -/
  tmax : Option Int
  thr : Nat
  /-- Last reading of each sensor (R440): cluster c, 32 + region r, 40 the hub. -/
  temps : Sparse Int
  /-- Dies that have reached the grade's maximum Tj and stay at P4. -/
  hot : List Nat
  /-- READ_VOUT in mV of a die under a supply limit (R441). -/
  supply : Sparse Nat
  /-- Dies whose rail is frozen by a supply fault. -/
  frozen : List Nat
  /-- PMB_TEL0 to PMB_TEL2 (R432). -/
  tel : Sparse W32
  /-- D-Retain was entered because MAIN_OK fell (Table 20.9). -/
  byMain : Bool
  deriving DecidableEq, Repr

/-- BIST registers and ledger (R469, Table 21.6). -/
structure Bist where
  sliceUs : Nat
  shutMs : Nat
  ageH : Nat
  slices : Nat
  budgetStops : Nat
  wakeStops : Nat
  skipped : Nat
  fails : Nat
  usel : Nat
  run : BitVec 3
  /-- A shutdown test runs (R473). -/
  shutdown : Bool
  /-- A hub unit has failed in D-Retain: the rooms are held at the wake (Table 21.4). -/
  hubFail : Bool
  ledger : Sparse BistEntry
  deriving DecidableEq, Repr

/-- PKG_RSTCAUSE (Table 21.4). -/
structure RstCause where
  kind : Nat
  slot : Nat
  clean : Bool
  bootMs : Nat
  deriving DecidableEq, Repr

/-- The field ring controller outside its nodes (R392 to R415). -/
structure Frc where
  nodes : Sparse Node
  ports : Sparse Port
  rings : Sparse Ring
  host : HostRing
  tsync : TSync
  dbBad : Nat
  /-- Start of the running base cycle, and whether its take point has passed (R398). -/
  cycleAt : Nat
  cycleNo : Nat
  taken : Bool
  /-- The next node session ID (R406). -/
  nextSid : Nat
  deriving DecidableEq, Repr

/-- The peripheral controllers and links of chapter 19. -/
structure Periph where
  cans : Sparse Can
  macs : Sparse Mac
  uarts : Sparse Uart
  pcie : Sparse PciePort
  /-- PCIE_CFG address register (R426). -/
  cfga : W32
  links : Sparse Link
  /-- Packages admitted, by number (PKG_LOC.PRESENT). -/
  present : BitVec 4
  /-- Lobby IPv4 addresses (MGT_LOBBY_IP). -/
  lobbyIps : Sparse W32
  deriving DecidableEq, Repr

/-- The package: everything but the sessions and the queue. -/
structure Dev where
  straps : Straps
  /-- The board and what training finds on it, kept from the last power-on for later boots. -/
  board : Board
  devState : DevSt
  clk : Clock
  store : Store
  keys : Keys
  /-- The register sets of R80: active and shadow. -/
  plan : Plan
  shadowPlan : Option Plan
  flp : Flp
  rooms : Sparse Room
  ctxs : Sparse Ctx
  cores : Sparse Core
  clusters : Sparse Cluster
  regions : Sparse Region
  mboxes : Sparse Mbox
  /-- Checkpoint slots 0 and 1 and the shadow latch (2) of each context: context index × 3 + slot (R330, R331). -/
  ckpts : Sparse Ctx
  /-- The newest value of every byte of DRAM and of the Hamper's trace area, as a coherent reader sees it. -/
  mem : Memory
  /-- What the DRAM channels themselves hold. -/
  chan : Memory
  /-- Pending bits of the 1,024 sources, ascending (R376). -/
  irqPend : List Nat
  /-- Sources disabled through IRQ_CFG.EN, and priorities written through IRQ_CFG.PRIO. -/
  irqOff : List Nat
  irqPrio : Sparse Nat
  inc : IncLog
  ras : PkgRas
  porch : Porch
  domains : Sparse Domain
  bist : Bist
  rst : RstCause
  frc : Frc
  per : Periph
  /-- Engine writes that wait at the hub for the Ack of an earlier one (R282). -/
  hubQ : List HomeReq
  /-- Engine requests at homes of other packages (R282). -/
  hubOut : List HomeReq
  /-- Dies lost (R33). -/
  diesLost : List Nat
  /-- A reset has ended every Lobby session; the step that caused it closes them. -/
  endSessions : Bool
  /-- The block's outputs, newest first: the model's own record. -/
  outbox : List Out
  deriving DecidableEq, Repr

/-- The Lobby's sessions (R84, R85): open ones and handshakes, and the next session ID. -/
structure Lobby where
  sessions : List Session
  nextSid : Nat
  deriving DecidableEq, Repr

/-- The state of the block. -/
structure State where
  dev : Dev
  lobby : Lobby
  /-- Commands waiting, first in, first out. -/
  pending : List Instr
  deriving DecidableEq, Repr

/-- Reasons the block stops with a fault. The spec describes none: it gives every event of its table an effect, or says
that it is ignored, and no state in which the block itself cannot go on. -/
inductive Fault where
  /-- Never raised by a meaning: kept so that the type names the one way a step could stop, a state that no reset of
  R461 leads out of. Safe: the machine would stop where the hardware goes on. -/
  | stuck
  deriving DecidableEq, Repr

/-- Reasons the block has no meaning for a command. -/
inductive Refusal where
  /-- Raised by a dispatch arm of a command that has no meaning yet. Safe: the machine stops where the hardware goes on. -/
  | notModelled (mnemonic : String)
  deriving DecidableEq, Repr

def Clock.init : Clock :=
  { tb := 0, rtc := 0, rtcAcc := 0, tbOfs := 0, aligned := false, seeded := false, stepped := false, lock := 0, stopped := true,
    draws := 0 }

/-- The MRAM store as a power-on reset finds it before any image was loaded: the vendor's factory image alone. -/
def Store.init : Store :=
  { active := [], shadow := [], lastGood := [], factory := Config.factoryImage, highGen := 0, cleanStop := false }

def Keys.init : Keys :=
  { own := .unowned, ownerHash := [], slots := [], nodeKeys := [], tapOff := false, firmwareOk := true, identAt := [] }

def IncLog.init : IncLog :=
  { ring := [], wr := 0, rd := 0, lost := 0, seq := 0, last := 0, journal := [], jnlLost := 0, expRing := false, expJnl := false }

/-- RAS_CFG (DEV_LIMIT 16, PPR_EN 1, PATROL_H 24, SUB_LIMIT 2) and the other package registers at reset. -/
def PkgRas.init : PkgRas :=
  { devLimit := 16, pprEn := true, patrolH := 24, subLimit := 2, mirrorDeg := 0, sysCnt := 0, sysLate := 0,
    sysMaxLag := 0, sysAt := 0, ckptCe := 0, starveNs := 500 }

/-- The highest junction temperature of the grade in °C (Table 0.1). -/
def gradeMax : Nat := if Config.gradeAE then 115 else 125

/-- The PWR block at a power-on reset (CLUSTER 0xFF, PWR_WAKE_EN all ones). -/
def Porch.init : Porch :=
  { dreqState := 0, dreqDomain := 0, dBusy := false, dRefused := false, dAborted := false, dCode := 0, result := 0,
    mainOk := true, emerg := false, emCluster := 0xFF, wakeEn := 0x7F, wakeSrc := 0, alarm := 0, tmax := none,
    thr := gradeMax - 5, temps := [], hot := [], supply := [],
    frozen := [], tel := [], byMain := false }

def Bist.init : Bist :=
  { sliceUs := 50, shutMs := 800, ageH := 168, slices := 0, budgetStops := 0, wakeStops := 0, skipped := 0, fails := 0,
    usel := 0, run := 0, shutdown := false, hubFail := false, ledger := [] }

def Frc.init : Frc :=
  { nodes := [], ports := [], rings := [], host := HostRing.init, tsync := TSync.init, dbBad := 0, cycleAt := 0,
    cycleNo := 0, taken := false, nextSid := 1 }

def Periph.init : Periph :=
  { cans := [], macs := [], uarts := [], pcie := [], cfga := 0, links := [], present := 0, lobbyIps := [] }

/-- Every unit at its power-on reset value, before the boot of R466 runs. -/
def Dev.reset : Dev :=
  { straps := { pkgId := 0, pcieBif := 0 }, board := { chans := [], failedUnits := [], firmwareOk := true, links := [], refurbish := none },
    devState := .inReset, clk := Clock.init, store := Store.init, keys := Keys.init, plan := Plan.empty,
    shadowPlan := none, flp := Flp.init, rooms := [], ctxs := [], cores := [], clusters := [], regions := [],
    mboxes := [], ckpts := [], mem := [], chan := [], irqPend := [], irqOff := [], irqPrio := [], inc := IncLog.init,
    ras := PkgRas.init, porch := Porch.init, domains := [], bist := Bist.init,
    rst := { kind := 0, slot := 0, clean := false, bootMs := 0 }, frc := Frc.init, per := Periph.init, hubQ := [], hubOut := [], diesLost := [],
    endSessions := false, outbox := [] }

/-- The machine right after a power-on reset (R461), before its boot, which PWRON_RST_N runs. -/
def State.reset : State := { dev := Dev.reset, lobby := { sessions := [], nextSid := 1 }, pending := [] }

end Sys2Proof.Machine
end

