-- ==== Sys2Proof/Machine/Meaning.lean ====
section
/-!
DEFINITION. How a meaning over the device becomes a step of the whole state.
-/
namespace Sys2Proof.Machine

/-- Resets that end every session (R461) close them once the command is done. -/
def State.settle (s : State) : State :=
  if s.dev.endSessions then
    { s with dev := { s.dev with endSessions := false }, lobby := { s.lobby with sessions := [] } }
  else s

/-- What a meaning answers. -/
abbrev Ans := Host.Outcome State Fault Refusal

/-- A command whose effect lies in the device alone. -/
def onDev (f : Dev → Dev) (s : State) : Ans := .next (State.settle { s with dev := f s.dev })

end Sys2Proof.Machine
end

