-- ==== Sys2Proof/Machine/Ops.lean ====
section
/-!
DEFINITION. The named operations over the state that every family shares: tables of units, who serves what under the active
floorplan (R14 to R26, R61 to R66), registers of a context, PSW fields, memory, reservations, random draws and outputs.
-/
namespace Sys2Proof.Machine

/-! ### Units by number -/

def Dev.core (d : Dev) (i : Nat) : Core := Sparse.get Core.init d.cores i
def Dev.setCore (d : Dev) (i : Nat) (x : Core) : Dev := { d with cores := Sparse.insert d.cores i x }
def Dev.modCore (d : Dev) (i : Nat) (f : Core → Core) : Dev := d.setCore i (f (d.core i))

def Dev.ctx (d : Dev) (i : Nat) : Ctx := Sparse.get Ctx.init d.ctxs i
def Dev.setCtx (d : Dev) (i : Nat) (x : Ctx) : Dev := { d with ctxs := Sparse.insert d.ctxs i x }
def Dev.modCtx (d : Dev) (i : Nat) (f : Ctx → Ctx) : Dev := d.setCtx i (f (d.ctx i))

def Dev.cluster (d : Dev) (i : Nat) : Cluster := Sparse.get Cluster.init d.clusters i
def Dev.setCluster (d : Dev) (i : Nat) (x : Cluster) : Dev := { d with clusters := Sparse.insert d.clusters i x }
def Dev.modCluster (d : Dev) (i : Nat) (f : Cluster → Cluster) : Dev := d.setCluster i (f (d.cluster i))

/-- The slot map cannot fill a logical core: its slot has failed, and no spare took its place (R18). -/
def Cluster.unfilled (x : Cluster) (k : Nat) : Bool :=
  let s := x.slotMap.getD k 7
  s == 7 || x.failed.getLsbD s

def Dev.region (d : Dev) (i : Nat) : Region := Sparse.get Region.init d.regions i
def Dev.setRegion (d : Dev) (i : Nat) (x : Region) : Dev := { d with regions := Sparse.insert d.regions i x }
def Dev.modRegion (d : Dev) (i : Nat) (f : Region → Region) : Dev := d.setRegion i (f (d.region i))

def Dev.room (d : Dev) (i : Nat) : Room := Sparse.get Room.init d.rooms i
def Dev.setRoom (d : Dev) (i : Nat) (x : Room) : Dev := { d with rooms := Sparse.insert d.rooms i x }
def Dev.modRoom (d : Dev) (i : Nat) (f : Room → Room) : Dev := d.setRoom i (f (d.room i))

def Dev.mbox (d : Dev) (i : Nat) : Mbox := Sparse.get Mbox.init d.mboxes i
def Dev.setMbox (d : Dev) (i : Nat) (x : Mbox) : Dev := { d with mboxes := Sparse.insert d.mboxes i x }
def Dev.modMbox (d : Dev) (i : Nat) (f : Mbox → Mbox) : Dev := d.setMbox i (f (d.mbox i))

def Dev.domain (d : Dev) (i : Nat) : Domain := Sparse.get Domain.init d.domains i
def Dev.setDomain (d : Dev) (i : Nat) (x : Domain) : Dev := { d with domains := Sparse.insert d.domains i x }
def Dev.modDomain (d : Dev) (i : Nat) (f : Domain → Domain) : Dev := d.setDomain i (f (d.domain i))

def Dev.node (d : Dev) (i : Nat) : Node := Sparse.get Node.init d.frc.nodes i
def Dev.setNode (d : Dev) (i : Nat) (x : Node) : Dev := { d with frc := { d.frc with nodes := Sparse.insert d.frc.nodes i x } }
def Dev.modNode (d : Dev) (i : Nat) (f : Node → Node) : Dev := d.setNode i (f (d.node i))

def Dev.port (d : Dev) (i : Nat) : Port := Sparse.get Port.init d.frc.ports i
def Dev.setPort (d : Dev) (i : Nat) (x : Port) : Dev := { d with frc := { d.frc with ports := Sparse.insert d.frc.ports i x } }
def Dev.modPort (d : Dev) (i : Nat) (f : Port → Port) : Dev := d.setPort i (f (d.port i))

def Dev.ring (d : Dev) (i : Nat) : Ring := Sparse.get (Ring.init i) d.frc.rings i
def Dev.setRing (d : Dev) (i : Nat) (x : Ring) : Dev := { d with frc := { d.frc with rings := Sparse.insert d.frc.rings i x } }
def Dev.modRing (d : Dev) (i : Nat) (f : Ring → Ring) : Dev := d.setRing i (f (d.ring i))

def Dev.can (d : Dev) (i : Nat) : Can := Sparse.get Can.init d.per.cans i
def Dev.setCan (d : Dev) (i : Nat) (x : Can) : Dev := { d with per := { d.per with cans := Sparse.insert d.per.cans i x } }
def Dev.modCan (d : Dev) (i : Nat) (f : Can → Can) : Dev := d.setCan i (f (d.can i))

def Dev.mac (d : Dev) (i : Nat) : Mac := Sparse.get Mac.init d.per.macs i
def Dev.setMac (d : Dev) (i : Nat) (x : Mac) : Dev := { d with per := { d.per with macs := Sparse.insert d.per.macs i x } }
def Dev.modMac (d : Dev) (i : Nat) (f : Mac → Mac) : Dev := d.setMac i (f (d.mac i))

def Dev.uart (d : Dev) (i : Nat) : Uart := Sparse.get Uart.init d.per.uarts i
def Dev.setUart (d : Dev) (i : Nat) (x : Uart) : Dev := { d with per := { d.per with uarts := Sparse.insert d.per.uarts i x } }
def Dev.modUart (d : Dev) (i : Nat) (f : Uart → Uart) : Dev := d.setUart i (f (d.uart i))

def Dev.pcie (d : Dev) (i : Nat) : PciePort := Sparse.get PciePort.init d.per.pcie i
def Dev.setPciePort (d : Dev) (i : Nat) (x : PciePort) : Dev := { d with per := { d.per with pcie := Sparse.insert d.per.pcie i x } }
def Dev.modPciePort (d : Dev) (i : Nat) (f : PciePort → PciePort) : Dev := d.setPciePort i (f (d.pcie i))

def Dev.link (d : Dev) (i : Nat) : Link := Sparse.get Link.init d.per.links i
def Dev.setLink (d : Dev) (i : Nat) (x : Link) : Dev := { d with per := { d.per with links := Sparse.insert d.per.links i x } }
def Dev.modLink (d : Dev) (i : Nat) (f : Link → Link) : Dev := d.setLink i (f (d.link i))

/-- What is left of a period that ends at `t`, when the timebase steps from `old` to `new`. -/
def rebaseEnd (old new t : Nat) : Nat := if old < t then t - old + new else 0

/-- What is left of a lock's period is what it was when the timebase steps (R86, notes/assumptions/50.md). -/
def Keys.rebase (k : Keys) (old new : Nat) : Keys :=
  { k with slots := k.slots.map (fun p =>
      (p.1, { p.2 with lockUntil := rebaseEnd old new p.2.lockUntil })) }

/-- The FRC when the timebase steps: locks keep what is left of them and discard entries their age (R394, R408); the base cycles count on from
the next one that starts (R398). -/
def Frc.rebase (f : Frc) (old new : Nat) : Frc :=
  let n := (new + 249999) / 250000
  { f with
    nodes := f.nodes.map (fun p => (p.1, { p.2 with lockUntil := rebaseEnd old new p.2.lockUntil }))
    ports := f.ports.map (fun p => (p.1, { p.2 with discard := p.2.discard.map (fun e => (e.1, e.2.1, e.2.2 + new - old)) }))
    cycleAt := if n < f.cycleNo then (n - 1) * 250000 else f.cycleAt
    cycleNo := min f.cycleNo n, taken := f.taken && decide (f.cycleNo ≤ n) }

/-- What a warm reset leaves of the FRC: the counts of failed proofs and the locks, which only a power-on reset clears (R408, DEDUCED,
notes/assumptions/95.md). -/
def Frc.kept (f : Frc) : Frc :=
  { Frc.init with nodes := (f.nodes.filter (fun p => p.2.fails != 0)).map (fun p =>
      (p.1, { Node.init with fails := p.2.fails, lockUntil := p.2.lockUntil })) }

/-- Keep a function of the device only when a condition holds. -/
def Dev.when (d : Dev) (c : Bool) (f : Dev → Dev) : Dev := if c then f d else d

/-- Record something the block puts on its pins or links. -/
def Dev.emit (d : Dev) (o : Out) : Dev := { d with outbox := o :: d.outbox }

/-- Insert into an ascending list without repeats. -/
def insertAsc : List Nat → Nat → List Nat
  | [], x => [x]
  | h :: t, x => if x < h then x :: h :: t else if x = h then h :: t else h :: insertAsc t x

/-- An event occurs at a source: its pending bit is set, or merges (R376). -/
def Dev.raise (d : Dev) (s : Nat) : Dev := { d with irqPend := insertAsc d.irqPend s }

/-- A fresh random value (R205, R84, R406): the next free draw. -/
def Dev.draw (d : Dev) : Word × Dev :=
  (Config.draw d.clk.draws, { d with clk := { d.clk with draws := d.clk.draws + 1 } })

/-- Sixteen random bytes, from two draws. -/
def Dev.nonce (d : Dev) : List Byte × Dev :=
  let (a, d) := d.draw
  let (b, d) := d.draw
  (leBytes 8 a.toNat ++ leBytes 8 b.toNat, d)

/-! ### The active floorplan: packages, rooms, clusters, cores (R14 to R26, R61 to R64) -/

/-- The local package number (R38). -/
def Dev.pkg (d : Dev) : Nat := d.straps.pkgId.toNat

def Plan.room (p : Plan) (id : Nat) : Option RoomRec := p.rooms.find? (fun r => r.roomId == id)

/-- Slot of a room in package `pkg` (Table 2.6: 0xFF is absent). -/
def Plan.slotOf (p : Plan) (pkg id : Nat) : Option Nat :=
  match p.room id with
  | some r => if r.slots.getD pkg 0xFF < 64 then some (r.slots.getD pkg 0xFF) else none
  | none => none

def Dev.slotOf (d : Dev) (id : Nat) : Option Nat := d.plan.slotOf d.pkg id

/-- The room record of a slot of this package. -/
def Dev.rrec (d : Dev) (slot : Nat) : Option RoomRec :=
  if slot < 64 then d.plan.rooms.find? (fun r => r.slots.getD d.pkg 0xFF == slot) else none

/-- Room ID of a slot. -/
def Dev.idOf (d : Dev) (slot : Nat) : Nat := (d.room slot).roomId

def Plan.cluster (p : Plan) (pkg c : Nat) : Option ClusterRec := p.clusters.find? (fun r => r.cluster == pkg * 32 + c)

/-- The room that logical core `core` of package `pkg` serves (Table 2.7). -/
def Plan.coreRoom (p : Plan) (pkg core : Nat) : Option Nat :=
  match p.cluster pkg (core / 4) with
  | some r => if r.coreEn.testBit (core % 4) then some (r.coreRoom.getD (core % 4) 0) else none
  | none => none

def Dev.coreRoom (d : Dev) (core : Nat) : Option Nat := if core < 128 then d.plan.coreRoom d.pkg core else none

/-- Slot of the room that a core serves. -/
def Dev.coreSlot (d : Dev) (core : Nat) : Option Nat :=
  match d.coreRoom core with
  | some id => d.slotOf id
  | none => none

def Plan.coresOf (p : Plan) (pkg id : Nat) : List Nat :=
  (List.range 128).filter (fun c => p.coreRoom pkg c == some id)

/-- Logical cores of the room in a slot, ascending. -/
def Dev.coresOf (d : Dev) (slot : Nat) : List Nat :=
  match d.rrec slot with
  | some r => d.plan.coresOf d.pkg r.roomId
  | none => []

def Plan.clustersOf (p : Plan) (pkg id : Nat) : List Nat :=
  (List.range 32).filter (fun c => (p.coresOf pkg id).any (fun k => k / 4 == c))

/-- Clusters that serve the room in a slot. -/
def Dev.clustersOf (d : Dev) (slot : Nat) : List Nat :=
  match d.rrec slot with
  | some r => d.plan.clustersOf d.pkg r.roomId
  | none => []

/-- Slots whose room serves a cluster. -/
def Dev.slotsOn (d : Dev) (c : Nat) : List Nat :=
  (List.range 64).filter (fun s => (d.clustersOf s).contains c)

/-- Room A of a cluster: the room of its lowest enabled core (R64). -/
def Plan.roomA (p : Plan) (pkg c : Nat) : Option Nat :=
  ((List.range 4).filterMap (fun k => p.coreRoom pkg (c * 4 + k))).head?

/-- Room B of a cluster: the other room, if any. -/
def Plan.roomB (p : Plan) (pkg c : Nat) : Option Nat :=
  ((List.range 4).filterMap (fun k => p.coreRoom pkg (c * 4 + k))).find? (fun id => p.roomA pkg c != some id)

/-- Banks that CTX_MASK enables on a core (R63). -/
def Dev.ctxMask (d : Dev) (core : Nat) : Nat :=
  match d.plan.cluster d.pkg (core / 4) with
  | some r => if d.plan.roomA d.pkg (core / 4) == d.coreRoom core then r.ctxMaskA else r.ctxMaskB
  | none => 0

def Dev.banks (d : Dev) (core : Nat) : List Nat := bitsOf (d.ctxMask core) 4

def Plan.paired (p : Plan) (id : Nat) : Bool := p.epochs.any (fun e => e.roomId == id && e.paired)
def Plan.debug (p : Plan) (id : Nat) : Option DebugRec := p.debugs.find? (fun r => r.roomId == id)
def Plan.fwd (p : Plan) (id : Nat) : Option FwdRec := p.fwds.find? (fun r => r.roomId == id)
def Plan.node (p : Plan) (pkg n : Nat) : Option NodeRec :=
  p.nodes.find? (fun r => r.node == n && r.inPa / 2 ^ 50 == pkg)
def Plan.mbox (p : Plan) (n : Nat) : Option MboxRec := p.mboxes.find? (fun r => r.mbox == n)

/-- The power record of a room, or the record defaults of Table 2.14 (R74). -/
def Plan.power (p : Plan) (id : Nat) : PowerRec :=
  (p.powers.find? (fun r => r.roomId == id)).getD
    { roomId := id, mayRetain := true, uncoreMaySleep := true, idleRetUs := 1000, wakeMask := 0, doorbell := 0 }

/-- Epoch length of a room in µs (R76: a spanning room runs at SYS_EPOCH_US). -/
def Dev.epochUs (d : Dev) (slot : Nat) : Nat :=
  match d.rrec slot with
  | some r =>
    if r.span then d.plan.sysEpochUs
    else ((d.plan.epochs.find? (fun e => e.roomId == r.roomId)).map EpochRec.epochUs).getD 20
  | none => 20

def Dev.spans (d : Dev) (slot : Nat) : Bool := ((d.rrec slot).map RoomRec.span).getD false
def Dev.timed (d : Dev) (slot : Nat) : Bool := ((d.rrec slot).map RoomRec.timed).getD false
def Dev.sealedRoom (d : Dev) (slot : Nat) : Bool := ((d.rrec slot).map RoomRec.sealed).getD false

/-- Core of a context, and its index (R16). -/
def coreOf (ctx : Nat) : Nat := ctx / 4
def Dev.curCtx (d : Dev) (core : Nat) : Nat := core * 4 + (d.core core).cur

/-- The partner of a core in a Paired pair (R23). -/
def pairOf (core : Nat) : Nat := if core % 2 == 0 then core + 1 else core - 1

/-- Whether software runs on a core: the trailing core of a pair runs no commands of its own (R352). -/
def Dev.leads (d : Dev) (core : Nat) : Bool :=
  match d.coreRoom core with
  | some id => !(d.plan.paired id) || core % 2 == 0
  | none => false

/-! ### Memory windows and the address map (R43, R65, R66, R340) -/

def WindowRec.covers (w : WindowRec) (pa : Nat) : Bool := decide (w.base ≤ pa) && decide (pa < w.base + w.size)

def Plan.windowsOf (p : Plan) (id : Nat) : List WindowRec := p.windows.filter (fun w => w.roomId == id)

def Plan.windowAt (p : Plan) (id pa : Nat) : Option WindowRec := (p.windowsOf id).find? (fun w => w.covers pa)

/-- Watermark in force of a window of the room in a slot (R245, R248). -/
def Dev.wmark (d : Dev) (slot : Nat) (w : WindowRec) : Nat := Sparse.get w.wmark (d.room slot).wmarks w.index

/-- What lies at a physical address (Table 1.4). -/
inductive PaKind where
  | dram | pcie | hamper | reg | none
  deriving DecidableEq, Repr

/-- Offset of a PA in its package slice, and its package (R3). -/
def paOfs (pa : Nat) : Nat := pa % 2 ^ 50
def paPkg (pa : Nat) : Nat := pa / 2 ^ 50

def regBase : Nat := 0x3F0000000000

def paKind (pa : Nat) : PaKind :=
  let o := paOfs pa
  if o < 0x010000000000 then .dram
  else if o < 0x100000000000 then .none
  else if o < 0x200000000000 then .pcie
  else if o < 0x3E0000000000 then .none
  else if o < 0x3E0004000000 then .hamper
  else if o < regBase then .none
  else if o < 0x3F0010000000 then .reg
  else .none

/-- System region index of the home of a DRAM address (R29, Table 2.5). -/
def Plan.homeOf (p : Plan) (pa : Nat) : Option Nat :=
  let g := paOfs pa / 2 ^ 30
  if paKind pa == .dram then
    match p.pkgs.find? (fun r => r.pkg == paPkg pa) with
    | some r => ((List.range 8).find? (fun i =>
        let c := r.chan.getD i { baseGib := 0, sizeGib := 0 }
        decide (c.baseGib ≤ g) && decide (g < c.baseGib + c.sizeGib))).map (fun i => paPkg pa * 8 + i)
    | none => none
  else none

def Dev.homeOf (d : Dev) (pa : Nat) : Option Nat := d.plan.homeOf pa

/-- Local region index of the home of a line, when it lies in this package. -/
def Dev.homeLocal (d : Dev) (line : Nat) : Option Nat :=
  match d.homeOf (line * 64) with
  | some r => if r / 8 == d.pkg then some (r % 8) else none
  | none => none

/-- The secondary copy of a byte of a mirrored window (R66, R279). -/
def Dev.mirrorOf (d : Dev) (pa : Nat) : Option Nat :=
  match d.plan.windows.find? (fun w => w.mirror == 1 && w.covers pa) with
  | some w => some (w.mirrorBase + (pa - w.base))
  | none => none

/-- Packages in which a room has a slot, and packages it uses: those, and the packages of its windows. -/
def RoomRec.present (r : RoomRec) : List Nat := (List.range 4).filter (fun k => r.slots.getD k 0xFF != 0xFF)
def Plan.uses (p : Plan) (r : RoomRec) : List Nat :=
  (r.present ++ (p.windowsOf r.roomId).map (fun w => paPkg w.base)).eraseDups

/-- The mailbox whose buffer holds a PA. -/
def Plan.mboxAt (p : Plan) (pa : Nat) : Option MboxRec :=
  p.mboxes.find? (fun m => decide (m.bufPa ≤ pa) && decide (pa < m.bufPa + m.bufSize))

/-- Bytes of a node's input buffer (R403). -/
def NodeRec.inLen (n : NodeRec) : Nat := n.inSize + 24

/-- Whether a byte lies in a non-rollback area of a room: a node input buffer, a receive half (R344), or the host ring
(R411). -/
def Dev.nonRollback (d : Dev) (id pa : Nat) : Bool :=
  d.plan.nodes.any (fun n => n.roomId == id && decide (n.inPa ≤ pa) && decide (pa < n.inPa + n.inLen)) ||
  (id == 0 && d.frc.host.en && decide (d.frc.host.base ≤ pa) && decide (pa < d.frc.host.base + d.frc.host.size * 4096)) ||
  (match d.plan.mboxAt pa with
   | some m => m.receiver == id && decide (m.bufPa + m.bufSize / 2 ≤ pa)
   | none => false)

/-- Nodes of a room whose output buffers a line holds bytes of (R338). -/
def Dev.outNodes (d : Dev) (id line : Nat) : List Nat :=
  (d.plan.nodes.filter (fun n => n.roomId == id && overlap n.outPa n.outSize (line * 64) 64)).map NodeRec.node

/-! ### Registers of a context (R100 to R103, R170) -/

def Ctx.psn (x : Ctx) : Nat := x.psw.toNat
def Ctx.cwp (x : Ctx) : Nat := field x.psn 11 8
def Ctx.tw (x : Ctx) : Bool := bit x.psn 12
def Ctx.ie (x : Ctx) : Bool := bit x.psn 7
def Ctx.secure (x : Ctx) : Bool := bit x.psn 6
def Ctx.pl (x : Ctx) : Nat := field x.psn 5 4
def Ctx.ipl (x : Ctx) : Nat := field x.psn 29 24
def Ctx.blk (x : Ctx) : Nat := field x.psn 21 16
/-- The keeper: PL2 in the secure world. -/
def Ctx.keeper (x : Ctx) : Bool := x.secure && x.pl == 2

/-- PSW bits [hi:lo] replaced. -/
def Ctx.setPsw (x : Ctx) (hi lo v : Nat) : Ctx := { x with psw := BitVec.ofNat 32 (setField x.psn hi lo v) }

/-- Physical register of ring block `b`: H registers are 0 to 7, A registers 8 to 15. -/
def ringReg (b j : Nat) : Nat := 8 + 16 * (b % 16) + j

/-- First physical register of the PL1 and PL2 trap windows. -/
def trapBase (pl : Nat) : Nat := if pl == 2 then 288 else 264

/-- Physical register that a register number names in the current window (R100, R102, R170). -/
def Ctx.phys (x : Ctx) (n : Nat) : Nat :=
  if n < 8 then n
  else if x.tw then trapBase x.pl + (n - 8)
  else if n < 16 then ringReg (x.cwp + 15) n
  else ringReg x.cwp (n - 16)

/-- A physical register; C0 reads zero (R101). -/
def Ctx.getP (x : Ctx) (p : Nat) : Word := if p == 0 then 0 else Sparse.get 0 x.regs p
/-- Write a physical register; a write to C0 is discarded (R101). -/
def Ctx.setP (x : Ctx) (p : Nat) (v : Word) : Ctx :=
  if p == 0 then x else { x with regs := Sparse.set 0 x.regs p v }

/-- A register by its number. -/
def Ctx.get (x : Ctx) (n : Nat) : Word := x.getP (x.phys n)
def Ctx.set (x : Ctx) (n : Nat) (v : Word) : Ctx := x.setP (x.phys n) v

/-- Register numbers of H0 to H7 (Table 4.1). -/
def rH (k : Nat) : Nat := 16 + k

/-- Bank registers of the current world (R109), [15:0] reading zero (R108). -/
def Ctx.bk (x : Ctx) (n : Nat) : Word := Sparse.get 0 (if x.secure then x.bkS else x.bkN) n
def Ctx.setBk (x : Ctx) (n : Nat) (v : Word) : Ctx :=
  let v := v &&& 0xFFFFFFFFFFFF0000
  if x.secure then { x with bkS := Sparse.set 0 x.bkS n v } else { x with bkN := Sparse.set 0 x.bkN n v }

/-- Translation root and ASID of a world (R216). -/
def Ctx.ptbase (x : Ctx) (secure : Bool) : Word := if secure then x.ptbaseS else x.ptbaseN
def Ctx.asid (x : Ctx) (secure : Bool) : BitVec 16 := if secure then x.asidS else x.asidN

/-- Window spill pointer and spill count of a world (R171). -/
def Ctx.wsp (x : Ctx) (secure : Bool) : Word := if secure then x.wspS else x.wspN
def Ctx.sc (x : Ctx) (secure : Bool) : Nat := if secure then x.scS else x.scN
def Ctx.setWsp (x : Ctx) (secure : Bool) (v : Word) : Ctx :=
  if secure then { x with wspS := v } else { x with wspN := v }
def Ctx.setSc (x : Ctx) (secure : Bool) (v : Nat) : Ctx := if secure then { x with scS := v } else { x with scN := v }

/-! ### Memory -/

/-- The newest value of a byte of DRAM or of the Hamper. -/
def Dev.byte (d : Dev) (pa : Nat) : Byte := Sparse.get Memory.unlisted d.mem pa

def Dev.bytes (d : Dev) (pa n : Nat) : List Byte := (List.range n).map (fun i => d.byte (pa + i))

/-- Write one byte of a memory, keeping its canonical form. -/
def Memory.put (m : Memory) (pa : Nat) (b : Byte) : Memory := Sparse.set Memory.unlisted m pa b

/-- Write bytes given with their addresses. -/
def Memory.putAll : Memory → List (Nat × Byte) → Memory
  | m, [] => m
  | m, (a, b) :: t => Memory.putAll (m.put a b) t

/-- Bytes at consecutive addresses. -/
def spread : Nat → List Byte → List (Nat × Byte)
  | _, [] => []
  | a, b :: t => (a, b) :: spread (a + 1) t

/-- Bytes with the secondary copies of those that lie in mirrored windows (R279). -/
def Dev.mirrored (d : Dev) (l : List (Nat × Byte)) : List (Nat × Byte) :=
  l ++ l.filterMap (fun (a, b) => (d.mirrorOf a).map (fun a' => (a', b)))

def Dev.poke (d : Dev) (l : List (Nat × Byte)) : Dev := { d with mem := d.mem.putAll (d.mirrored l) }

/-- Write bytes to the newest copy of memory and to its mirror. -/
def Dev.write (d : Dev) (pa : Nat) (bs : List Byte) : Dev := d.poke (spread pa bs)

/-- A line as the channel is to hold it: copied from its newest bytes (write-back). -/
def Dev.writeBack (d : Dev) (line : Nat) : Dev :=
  { d with chan := d.chan.putAll (d.mirrored (spread (line * 64) (d.bytes (line * 64) 64))) }

/-- Zero a range in memory and channels (zero-fill, surrender). Only listed bytes need removing. -/
def Memory.zero (m : Memory) (pa n : Nat) : Memory := m.filter (fun (a, _) => !(decide (pa ≤ a) && decide (a < pa + n)))

def Dev.zeroRange (d : Dev) (pa n : Nat) : Dev := { d with mem := d.mem.zero pa n, chan := d.chan.zero pa n }

/-! ### Local store of a Trestle (R316) -/

/-- A byte of the local store: open in a unit whose power has been off (Table 20.3), zero where nothing was written. -/
def Trestle.lsGet (t : Trestle) (o : Nat) : Byte :=
  Sparse.get (if t.lsOpen.getLsbD (o / 16384) then Config.lostByte (t.lsDraw + o) else 0) t.ls o

def Trestle.lsPut (t : Trestle) (o : Nat) (b : Byte) : Trestle :=
  { t with ls := if t.lsOpen.getLsbD (o / 16384) then Sparse.insert t.ls o b else Sparse.set 0 t.ls o b }

def Trestle.lsPutAll (t : Trestle) (l : List (Nat × Byte)) : Trestle := l.foldl (fun t p => t.lsPut p.1 p.2) t

/-! ### Reservations (R149) -/

/-- Clear the reservations on a line, but those of context `keep`. -/
def Dev.clearResv (d : Dev) (line : Nat) (keep : Option Nat) : Dev :=
  { d with ctxs := d.ctxs.map (fun (k, x) =>
      (k, if x.resv == some line && keep != some k then { x with resv := none } else x)) }

def linesOf (l : List (Nat × Byte)) : List Nat := (l.map (fun (a, _) => a / 64)).eraseDups

end Sys2Proof.Machine
end

