-- ==== Sys2Proof/Machine/Domains.lean ====
section
/-!
DEFINITION. Routing of interrupt sources (R70), a room's trace partition (R493, R494), and clock domains: who uses them (Table 20.2),
how they fall asleep and how an access wakes them (R443, R444, R449, R450).
-/
namespace Sys2Proof.Machine

def orAll (l : List Nat) : Nat := l.foldl (· ||| ·) 0

/-! ### Routing (R70, R416) -/

/-- The record that routes a source in this package (R70). -/
def Plan.route (p : Plan) (pkg s : Nat) : Option IrqRec :=
  p.irqs.find? (fun r => r.source == s &&
    (if r.target != 0xFFFF then r.target / 128 == pkg
     else match p.slotOf pkg r.roomId with
      | some slot => decide (128 ≤ s) || slot == s % 64
      | none => false))

def Dev.route (d : Dev) (s : Nat) : Option IrqRec := d.plan.route d.pkg s

/-- A source is routed to the room in a slot. -/
def Dev.routedTo (d : Dev) (s slot : Nat) : Bool :=
  match d.route s with
  | some r => d.slotOf r.roomId == some slot
  | none => false

/-- First source of a peripheral controller, by its bit of ROOM_RST.PERIPH (Table 19.1, Table 21.6). -/
def periphSrc (b : Nat) : Nat := if b < 4 then 768 + 4 * b else if b < 6 then 784 + 4 * (b - 4) else 792 + 4 * (b - 6)

/-- The room that owns a peripheral controller (R416). -/
def Plan.periphOwner (p : Plan) (pkg b : Nat) : Option Nat := (p.route pkg (periphSrc b)).map IrqRec.roomId

/-! ### PCIe root ports (R422, R423) -/

/-- Root ports present under the straps (Table 19.4), and the number of ports that one covers. -/
def strapPorts (s : Straps) : List Nat := if s.pcieBif == 1 then [0, 2] else if s.pcieBif == 2 then [0, 1, 2, 3] else [0]
def portSpan (s : Straps) : Nat := if s.pcieBif == 1 then 2 else if s.pcieBif == 2 then 1 else 4

/-- The port that owns a PCIe address or an MSI source (R422). -/
def portOfUnit (s : Straps) (u : Nat) : Nat := u / portSpan s * portSpan s
def portOfPa (s : Straps) (pa : Nat) : Nat := portOfUnit s ((paOfs pa - 0x100000000000) / 2 ^ 42)

/-- Rooms with a PCIe window in a port's outbound range in a package. -/
def Plan.portRooms (p : Plan) (s : Straps) (port : Nat) : List Nat :=
  ((p.windows.filter (fun w => w.kind == 1 && paPkg w.base == s.pkgId.toNat &&
    decide (portOfPa s w.base ≤ port) && decide (port ≤ portOfPa s (w.base + w.size - 1)))).map WindowRec.roomId).eraseDups

/-- The room that owns a port (R423). -/
def Plan.portOwner (p : Plan) (s : Straps) (port : Nat) : Nat := (p.portRooms s port).headD 0

/-! ### Trace partitions (R493, R494, R497) -/

def Dev.traceKib (d : Dev) (slot : Nat) : Nat :=
  match d.rrec slot with
  | some r => ((d.plan.debug r.roomId).map DebugRec.traceKib).getD 0
  | none => 0

/-- Start of a room's trace partition (R493). -/
def Dev.traceBase (d : Dev) (slot : Nat) : Nat :=
  d.pkg * 2 ^ 50 + 0x3E0001C00000 + ((List.range slot).map d.traceKib).sum * 1024

/-- Write one packet into a room's partition (R494, R497). -/
def Dev.tracePut (d : Dev) (slot : Nat) (p : TracePkt) : Dev :=
  let g := (d.room slot).dbg
  let size := d.traceKib slot * 1024
  if size == 0 then d
  else
    let unread := (g.trcWr + size - g.trcRd) % size
    let full := decide (size ≤ unread + 32)
    if full && g.trcStop then d.modRoom slot (fun r => { r with dbg := { g with trcLost := satInc max32 g.trcLost } })
    else
      let bs := leBytes 8 p.time ++ leBytes 1 p.typ ++ leBytes 1 p.port ++ leBytes 1 p.ctx ++ leBytes 1 0 ++
        leBytes 2 p.lcore ++ leBytes 2 0 ++ leBytes 4 p.epoch ++ leBytes 4 p.aux ++ leBytes 8 p.value.toNat
      let d := { d with mem := d.mem.putAll (spread (d.traceBase slot + g.trcWr) bs) }
      let d := d.modRoom slot (fun r => { r with dbg :=
        { g with trcWr := (g.trcWr + 32) % size, trcRd := if full then (g.trcRd + 32) % size else g.trcRd,
                 trcLost := if full then satInc max32 g.trcLost else g.trcLost } })
      let thr := size * g.trcFill / 16
      let unread' := if full then unread else unread + 32
      if g.trcIrqEn && decide (unread < thr) && decide (thr ≤ unread') && d.routedTo (896 + g.trcIrqOfs) slot then
        d.raise (896 + g.trcIrqOfs)
      else d

/-! ### Domains (Table 20.2) -/

/-- A room's DRAM window is homed in a region of a package. -/
def Plan.homedIn (p : Plan) (id sysRegion : Nat) : Bool :=
  (p.windowsOf id).any (fun w => w.kind == 0 && p.homeOf w.base == some sysRegion)

/-- A room uses a domain (Table 20.2, last column). -/
def Plan.uses128 (p : Plan) (s : Straps) (id n : Nat) : Bool :=
  let pkg := s.pkgId.toNat
  let cs := p.clustersOf pkg id
  let nodes := p.nodes.filter (fun r => r.roomId == id && r.inPa / 2 ^ 50 == pkg)
  if n < 32 then cs.contains n
  else if n < 64 then cs.contains (n - 32)
  else if n < 88 then p.homedIn id (pkg * 8 + n % 8) || cs.any (fun c => c / 4 == n % 8)
  else if n < 90 then
    cs.any (fun c => c / 16 == n - 88) || (List.range 4).any (fun r => p.homedIn id (pkg * 8 + (n - 88) * 4 + r))
  else if n == 90 then true
  else if n < 99 then nodes.any (fun r => r.node / 1024 == (n - 91) / 2)
  else if n == 99 then !nodes.isEmpty
  else if n < 102 then (strapPorts s).any (fun q => p.portOwner s q == id)
  else if n < 105 then
    (match p.room id with
     | some r => r.span && r.slots.getD pkg 0xFF != 0xFF && r.slots.getD (pkg ^^^ (n - 101)) 0xFF != 0xFF
     | none => false)
  else if n < 113 then p.periphOwner pkg (n - 105) == some id
  else if n < 127 then id == 0
  else false

/-- Domains of one group (Table 20.2). -/
def domainGroup (n : Nat) : List Nat :=
  if decide (64 ≤ n) && decide (n < 88) then [64 + n % 8, 72 + n % 8, 80 + n % 8] else [n]

/-- The room in a slot uses a domain of a group. -/
def Dev.slotUses (d : Dev) (slot n : Nat) : Bool :=
  match d.rrec slot with
  | some r => (domainGroup n).any (fun k => d.plan.uses128 d.straps r.roomId k)
  | none => false

/-- Slots whose rooms use a domain's group. -/
def Dev.usersOf (d : Dev) (n : Nat) : List Nat := (List.range 64).filter (fun s => d.slotUses s n)

/-- Code of a domain state in PWR_DREQ.STATE and PWR_DSTATE. -/
def DomSt.code : DomSt → Nat
  | .on => 0
  | .gated => 1
  | .retention => 2
  | .off => 3

/-- A power packet (Table 22.7) to every room that uses a domain and traces power transitions (R495). -/
def Dev.tracePower (d : Dev) (n : Nat) (old new : DomSt) (code : Nat) : Dev :=
  each (d.usersOf n) (fun d s =>
    let g := (d.room s).dbg
    if g.trcEn && g.trcEvt.getLsbD 3 && (g.sec != 0 || g.norm != 0) then
      d.tracePut s { time := d.clk.tb, typ := 5, port := 0, ctx := 0, lcore := 0xFFFF, epoch := lo32 (d.room s).epo.cnt,
                     aux := n + old.code * 256 + new.code * 1024 + code * 65536, value := 0 }
    else d) d

/-- Put a domain's group into a state: whatever was under way ends. -/
def Dev.setDomainCode (d : Dev) (n : Nat) (st : DomSt) (code : Nat) : Dev :=
  let old := (d.domain n).st
  let d := each (domainGroup n) (fun d k => d.modDomain k (fun x =>
    { x with st := st, entering := none, asker := none, waking := false, since := d.clk.tb, slice := false })) d
  if old == st && code == 0 then d else d.tracePower n old st code

def Dev.setDomainSt (d : Dev) (n : Nat) (st : DomSt) : Dev := d.setDomainCode n st 0

/-- A cluster's L2 applies its pending list when it wakes (R284). -/
def Dev.applyPend (d : Dev) (c : Nat) : Dev := d.modCluster c (fun x => { x with pendList := [] })

/-- Count a refusal or an abort, and report it to the one that asked (R449, R450): a refusal at the domain that the request
names, an abort at every domain of the group whose entry it ends (notes/assumptions/48.md). -/
def Dev.countEntry (d : Dev) (n code : Nat) (asker : Option Nat) (abort : Bool) : Dev :=
  let d := if abort then
      each (domainGroup n) (fun d k => d.modDomain k (fun x => { x with aborted := satInc 255 x.aborted, last := code })) d
    else d.modDomain n (fun x => { x with refused := satInc 0xFFFF x.refused, last := code })
  let d := d.raise 837
  match asker with
  | none => d
  | some s =>
    if s < 64 then d.modRoom s (fun r => { r with pwr :=
      { r.pwr with busy := false, refused := !abort, aborted := abort, code := code } })
    else { d with porch := { d.porch with dBusy := false, dRefused := !abort, dAborted := abort, dCode := code } }

/-- BIST controller of a domain (R470): the die's, or the hub's. -/
def bistCtl (n : Nat) : Nat :=
  if n < 32 then n / 16 else if n < 64 then (n - 32) / 16 else if n < 88 then n % 8 / 4 else if n < 90 then n - 88 else 2

/-- The slice of an entry stops with the entry (Table 21.4). -/
def Dev.stopSlice (d : Dev) (n : Nat) : Dev :=
  if (d.domain n).slice then
    { d with bist := { d.bist with wakeStops := satInc 0xFFFF d.bist.wakeStops,
                                   run := d.bist.run &&& ~~~ (BitVec.ofNat 3 (2 ^ bistCtl n)) } }
  else d

/-- An entry under way is aborted (R450); the domain returns to On. -/
def Dev.abortEntry (d : Dev) (n code : Nat) : Dev :=
  match (domainGroup n).find? (fun k => (d.domain k).entering.isSome) with
  | none => d
  | some k =>
    ((d.stopSlice ((domainGroup n).headD n)).countEntry n code (d.domain k).asker true).setDomainCode n .on code

/-- The domain stops being asleep: a cluster applies its pending list (R284), a CAN controller is deaf for 5 µs (KL-02). -/
def Dev.wakeEffects (d : Dev) (n : Nat) (old : DomSt) : Dev :=
  if n < 32 then d.applyPend n
  else if decide (105 ≤ n) && decide (n < 109) && (old == .retention || old == .off) then
    d.modCan (n - 105) (fun x => { x with ready := false, deafUntil := d.clk.tb + 5000, watch := false })
  else d

/-- An entry of the domain's group is under way. -/
def Dev.entering (d : Dev) (n : Nat) : Bool := (domainGroup n).any (fun k => (d.domain k).entering.isSome)

/-- The domain is On and stays so. -/
def Dev.settledOn (d : Dev) (n : Nat) : Bool := (d.domain n).st == .on && !d.entering n

/-- A first access wakes a domain (Table 5.1, R444): it is On when the access is served, and an entry under way is aborted (R450).
An access to a domain that runs restarts its idle time. -/
def Dev.wakeOne (d : Dev) (n : Nat) : Dev :=
  if d.settledOn n then
    each (domainGroup n) (fun d k => d.modDomain k (fun x => { x with since := d.clk.tb })) d
  else
    let old := (d.domain n).st
    ((d.abortEntry n 8).setDomainSt n .on).wakeEffects n old

/-- Domains that one depends on (Table 20.4). -/
def domainDeps (n : Nat) : List Nat :=
  let hub := [90, 117, 124, 125, 126]
  if n < 32 then [64 + n / 4, 88 + n / 16] ++ hub
  else if n < 64 then []
  else if n < 88 then [88 + n % 8 / 4, 90]
  else if n < 90 then [90]
  else []

/-- A state below which a dependency may not stay, or one on its way there (R31, R32, Table 20.4): the hub's own domains wake from
any state, the others from Retention or Off. -/
def Dev.depAsleep (d : Dev) (k : Nat) : Bool :=
  let st := (d.domain k).st
  d.entering k || (if k < 90 then st == .retention || st == .off else st != .on)

/-- Wake a domain and every domain that it depends on (R444). -/
def Dev.wake (d : Dev) (n : Nat) : Dev :=
  if d.settledOn n then d.wakeOne n
  else each ((domainDeps n).filter d.depAsleep) (fun d k => d.wakeOne k) (d.wakeOne n)

/-- A wake starts (R444): the domain is ready at its DOMAIN_READY. -/
def Dev.startWakeOne (d : Dev) (n : Nat) : Dev :=
  if d.settledOn n then d
  else if d.entering n then d.wakeOne n
  else each (domainGroup n) (fun d k => d.modDomain k (fun x => { x with waking := true })) d

def Dev.startWake (d : Dev) (n : Nat) : Dev :=
  if d.settledOn n then d
  else each ((domainDeps n).filter d.depAsleep) (fun d k => d.startWakeOne k) (d.startWakeOne n)

/-! ### P-levels (R437 to R439) -/

/-- Lowest supply of a P-level in mV (Table 20.1), and the fastest level that a supply supports. -/
def levelMv (p : Nat) : Nat := [900, 800, 720, 620, 560].getD p 560
def levelFor (mv : Nat) : Nat := ((List.range 5).find? (fun p => decide (levelMv p ≤ mv))).getD 4

/-- Normal level of a cluster: the fastest of its rooms' requests and of its sealed rooms' floors (R438). -/
def Dev.normalLevel (d : Dev) (c : Nat) : Nat :=
  let rooms := d.slotsOn c
  let floors := rooms.filterMap (fun s => (d.rrec s).bind (fun r =>
    if r.sealed && decide (r.plevFloor ≤ 4) then some r.plevFloor else none))
  (rooms.map (fun s => (d.room s).pwr.req) ++ floors).foldl min 4

/-- Level in force or about to be. -/
def Cluster.nextLevel (x : Cluster) : Nat := x.plevelNext.getD x.plevel

/-- The fastest level that the limits on a cluster allow: a throttle keeps the level it has reached, a hot die and the
emergency operating point ask P4, a supply fault what the read voltage supports (R440, R441, Table 20.9). -/
def Dev.limitLevel (d : Dev) (c : Nat) : Nat :=
  let x := d.cluster c
  let thr := if x.throttled then x.nextLevel else 0
  let hot := if d.porch.hot.contains (c / 16) then 4 else 0
  let em := if d.porch.emerg && d.porch.emCluster == c then 4 else 0
  let sup := if x.supLim then levelFor (Sparse.get 900 d.porch.supply (c / 16)) else 0
  max (max thr hot) (max em sup)

/-- Ask for the level that a cluster's requests and limits give; its switch follows (R439). -/
def Dev.retarget (d : Dev) (c : Nat) : Dev :=
  let aim := max (d.normalLevel c) (d.limitLevel c)
  d.modCluster c (fun x => { x with plevelNext := if aim == x.plevel then none else some aim })

/-! ### Outbound PCIe (R425) -/

/-- The port of this package that owns an outbound address. -/
def Dev.portAt (d : Dev) (pa : Nat) : Nat := portOfPa d.straps pa

def Dev.portUp (d : Dev) (p : Nat) : Bool :=
  (strapPorts d.straps).contains p && (d.pcie p).en && (d.pcie p).link && !d.clk.stopped

/-- An outbound write; dropped and counted while the link is down. -/
def Dev.pcieOut (d : Dev) (pa : Nat) (bs : List Byte) : Dev :=
  let p := d.portAt pa
  if d.portUp p then d.emit (.pcieWrite pa bs) else d.modPciePort p (fun x => { x with drop := satInc max32 x.drop })

end Sys2Proof.Machine
end

