-- ==== Sys2Proof/Machine/Arbiter.lean ====
section
/-!
DEFINITION. What the arbiters of chapter 13 decide with: the bandwidth records of a region (R69), ages and grants (R292, R293), the
reserved home entries (R299), the miss registers of a cluster (R259, R260, R300), the requests at a channel (R297), and the messages that
leave for another package (R276).
-/
namespace Sys2Proof.Machine

def Dev.sysCluster (d : Dev) (c : Nat) : Nat := d.pkg * 32 + c
def Dev.sysRegion (d : Dev) (r : Nat) : Nat := d.pkg * 8 + r

/-- A cluster, numbered over the system, serves a room. -/
def Plan.serves (p : Plan) (id c : Nat) : Bool := (p.clustersOf (c / 32) id).contains (c % 32)
def Plan.sealedId (p : Plan) (id : Nat) : Bool := ((p.room id).map RoomRec.sealed).getD false

/-! ### The bandwidth records of a region (R69) -/

/-- Records of a region of this package. -/
def Dev.bwOf (d : Dev) (r : Nat) : List BwRec := d.plan.bw.filter (fun b => b.region == d.sysRegion r)

/-- The sealed room that owns a slot under some records. -/
def Plan.ownerIn (p : Plan) (l : List BwRec) (n : Nat) : Option Nat :=
  (l.find? (fun b => p.sealedId b.roomId && b.slots.testBit n)).map BwRec.roomId

/-- Under the active floorplan, and in the turn that runs (R301). -/
def Dev.slotOwner (d : Dev) (r n : Nat) : Option Nat := d.plan.ownerIn (d.bwOf r) n
def Dev.turnOwner (d : Dev) (r n : Nat) : Option Nat := ((d.region r).turn.find? (fun b => b.slots.testBit n)).map BwRec.roomId
/-- Records of the sealed rooms of a region: those that a turn starts with. -/
def Dev.sealedBw (d : Dev) (r : Nat) : List BwRec := (d.bwOf r).filter (fun b => d.plan.sealedId b.roomId)

/-- Sealed rooms of a region in the order of their first slot. -/
def Dev.wheelOrder (d : Dev) (r : Nat) : List Nat := ((List.range 64).filterMap (d.slotOwner r)).eraseDups

/-- Units of a room's record; a sealed room has none. -/
def Dev.unitsIn (d : Dev) (l : List BwRec) (id : Nat) : Nat :=
  ((l.find? (fun b => b.roomId == id && !d.plan.sealedId id)).map BwRec.units).getD 0

/-! ### Ages and grants (R292, R293) -/

/-- Age of a stamp in ns, and the stamp of a request of an age. -/
def Dev.ageOf (d : Dev) (stamp : Nat) : Nat := (d.clk.tb % 2 ^ 24 + 2 ^ 24 - stamp % 2 ^ 24) % 2 ^ 24
def Dev.stampOf (d : Dev) (age : Nat) : Nat := (d.clk.tb % 2 ^ 24 + 2 ^ 24 - age % 2 ^ 24) % 2 ^ 24

/-- The best of a list; the first of equals. -/
def bestBy {α : Type} (better : α → α → Bool) (l : List α) : Option α :=
  l.foldl (fun best q =>
    match best with
    | none => some q
    | some b => if better q b then some q else some b) none

/-- An older request goes first; of equal ages the lower requester number. -/
def Dev.older (d : Dev) (s n s' n' : Nat) : Bool :=
  decide (d.ageOf s' < d.ageOf s) || (d.ageOf s == d.ageOf s' && decide (n < n'))

/-- The grant among waiting requests, and whether it is a starving one's: the oldest starving, else the next requester in turn (R293). -/
def Dev.arbitrate (d : Dev) (rr : Nat) (l : List HomeReq) : Option (HomeReq × Bool) :=
  match bestBy (fun q b => d.older q.stamp q.requester b.stamp b.requester) (l.filter (fun q => decide (d.ras.starveNs ≤ d.ageOf q.stamp))) with
  | some q => some (q, true)
  | none =>
    let turn := fun (q : HomeReq) => (q.requester + 2 ^ 16 - 1 - rr) % 2 ^ 16
    (bestBy (fun q b => decide (turn q < turn b)) l).map (fun q => (q, false))

/-! ### Home entries (R277, R299) -/

/-- The sealed rooms with a record in a region, each with every cluster that serves it. -/
def Dev.reserved (d : Dev) (r : Nat) : List (Nat × Nat) :=
  (((d.bwOf r).map BwRec.roomId).filter d.plan.sealedId).eraseDups.flatMap (fun id =>
    ((d.plan.clusters.map ClusterRec.cluster).filter (d.plan.serves id)).map (fun c => (id, c)))

/-- A request of a room from a requester finds an entry among the 96: one of the 16 reserved for them, or a general one. -/
def Dev.entryFree (d : Dev) (r requester room : Nat) : Bool :=
  let l := (d.region r).txns
  let res := d.reserved r
  let held := fun (p : Nat × Nat) => (l.filter (fun t => t.room == p.1 && t.requester == p.2)).length
  let general := (l.filter (fun t => !res.contains (t.room, t.requester))).length + (res.map (fun p => held p - 16)).sum
  (res.contains (room, requester) && decide (held (room, requester) < 16)) || decide (general < 96 - 16 * res.length)

/-! ### Miss registers (R189, R259, R300) -/

/-- The miss register of a cluster that works for a line. -/
def Dev.missOf (d : Dev) (c line : Nat) : Option (Nat × MissReg) := (d.cluster c).miss.find? (fun p => p.2.line == line)

/-- An eviction slot of a cluster holds a line. -/
def Dev.slotOfLine (d : Dev) (c line : Nat) : Option (Nat × EvSlot) :=
  (d.cluster c).slots.findSome? (fun p =>
    match p.2 with
    | some v => if v.line == line then some (p.1, v) else none
    | none => none)

/-- The shared registers open to a room: split 4 and 4 between rooms A and B where one of them is sealed (R300). -/
def Dev.sharedRegs (d : Dev) (c room : Nat) : List Nat :=
  let a := d.plan.roomA d.pkg c
  let b := d.plan.roomB d.pkg c
  let isSealed := fun (o : Option Nat) => (o.map d.plan.sealedId).getD false
  if isSealed a || isSealed b then (if a == some room then [8, 9, 10, 11] else [12, 13, 14, 15]) else [8, 9, 10, 11, 12, 13, 14, 15]

def MissUse.isHint : MissUse → Bool
  | .hint _ _ => true
  | _ => false

/-- What the L1U miss registers of a core work for: its primary and its merged requests. -/
def Dev.l1Uses (d : Dev) (core : Nat) : List MissUse :=
  (d.cluster (core / 4)).miss.flatMap (fun p => (((p.2.core, p.2.use) :: p.2.secs).filter (fun q => q.1 == core)).map Prod.snd)

/-- A core's eight L1U miss registers leave one for this use: one is reserved for a fetch and one for demand data (R189). -/
def Dev.l1MissFree (d : Dev) (core : Nat) (use : MissUse) : Bool :=
  let l := d.l1Uses core
  decide (l.length < 8) && (use == .fetch || decide ((l.filter (· != .fetch)).length < 7)) &&
    (use == .data || decide ((l.filter (· != .data)).length < 7)) && (!use.isHint || decide ((l.filter MissUse.isHint).length < 6))

/-- A free L2 miss register for a core's miss: its own two, then the shared ones; a hint takes shared ones only. -/
def Dev.freeMiss (d : Dev) (core room : Nat) (use : MissUse) : Option Nat :=
  let x := d.cluster (core / 4)
  let own := if use.isHint then [] else [2 * (core % 4), 2 * (core % 4) + 1]
  if d.l1MissFree core use then
    (own ++ d.sharedRegs (core / 4) room).find? (fun i => !x.miss.any (fun p => p.1 == i) && (Sparse.get none x.slots i).isNone)
  else none

/-- A further request of the cluster for the line merges: up to four secondaries, each with a miss register of its core's L1U (R260). -/
def Dev.mergeMiss (d : Dev) (core line : Nat) (use : MissUse) : Dev :=
  let q := (core, use)
  if !d.l1MissFree core use then d
  else d.modCluster (core / 4) (fun x => { x with miss := x.miss.map (fun p =>
    if p.2.line == line && (p.2.core, p.2.use) != q && !p.2.secs.contains q && decide (p.2.secs.length < 4) then
      (p.1, { p.2 with secs := p.2.secs ++ [q] }) else p) })

/-! ### Requests at a channel (R297) -/

/-- The slot that runs: the last one started. -/
def Region.slotNow (g : Region) : Nat := (g.wheel + 63) % 64

/-- A request enters the controller; a sealed room's that comes while its own slot runs has missed it (Table 13.4). -/
def Dev.chanPush (d : Dev) (r : Nat) (q : ChanReq) : Dev :=
  let g := d.region r
  let miss := d.turnOwner r g.slotNow == some q.room
  let k := (d.wheelOrder r).findIdx (· == q.room)
  d.setRegion r { g with
    chanQ := g.chanQ ++ [{ q with late := miss }]
    sealedMiss := if miss then Sparse.insert g.sealedMiss k (satInc 255 (Sparse.get 0 g.sealedMiss k)) else g.sealedMiss }

/-- The transfer of a line that an access or an eviction has made at once: it takes a slot of the line's channel. -/
def Dev.chanPost (d : Dev) (line requester room : Nat) : Dev :=
  match d.homeLocal line with
  | some r => d.chanPush r { room := room, requester := requester, stamp := d.stampOf 0, line := line, posted := true, late := false }
  | none => d

/-- A line's request waits at its channel. -/
def Dev.chanWaits (d : Dev) (line : Nat) : Bool :=
  match d.homeLocal line with
  | some r => (d.region r).chanQ.any (fun q => q.line == line && !q.posted)
  | none => false

/-- The secondary copy of a line of a mirrored window (R279). -/
def Dev.mirrorLine (d : Dev) (line : Nat) : Option Nat := (d.mirrorOf (line * 64)).map (· / 64)

/-- A write to a line waits at a controller: its own, or that of its secondary copy (R279). -/
def Dev.writeWaits (d : Dev) (line : Nat) : Bool := d.chanWaits line || ((d.mirrorLine line).map d.chanWaits).getD false

/-- The L3 holds a line at its home. -/
def Dev.l3Line (d : Dev) (line : Nat) : Option L3Line :=
  (d.homeLocal line).bind (fun r => (d.region r).l3.find? (fun e => e.line == line))
def Dev.inL3 (d : Dev) (line : Nat) : Bool := (d.l3Line line).isSome

/-- A request is served: its age counts (Table 13.3). -/
def Dev.served (d : Dev) (r stamp : Nat) : Dev := d.modRegion r (fun g => { g with maxAge := max g.maxAge (d.ageOf stamp) })

/-! ### Other packages (R39, R276) -/

/-- Send a message to another package over its link; while the link retrains it waits there in order, its age
kept as a stamp, so that it goes on counting (R283, R301). -/
def Dev.sendTo (d : Dev) (pkg : Nat) (m : CohMsg) : Dev :=
  let j := (pkg ^^^ d.pkg) - 1
  if pkg == d.pkg || 3 ≤ j then d
  else if (d.link j).busy then d.modLink j (fun x => { x with held := x.held ++ [{ m with age := d.stampOf m.age }] })
  else d.emit (.coherence pkg m)

/-- The retrain of a link ends: what it held goes out. -/
def Dev.releaseLink (d : Dev) (j : Nat) : Dev :=
  let l := (d.link j).held
  each l (fun d m => d.emit (.coherence (d.pkg ^^^ (j + 1)) { m with age := d.ageOf m.age })) (d.modLink j (fun x => { x with held := [] }))

/-- The reach set of a line (R273): system regions that hold a cluster of a room with a window, or a mailbox buffer, over it. -/
def Plan.reach (p : Plan) (line : Nat) : List Nat :=
  let covers := fun (id : Nat) => p.windows.any (fun w => w.roomId == id && w.covers (line * 64)) ||
    p.mboxes.any (fun m => (m.sender == id || m.receiver == id) && overlap m.bufPa m.bufSize (line * 64) 64)
  let rooms := (p.rooms.map RoomRec.roomId).filter covers
  (p.clusters.filter (fun c => (List.range 4).any (fun k => c.coreEn.testBit k && rooms.contains (c.coreRoom.getD k 0)))).map
    (fun c => c.cluster / 4) |>.eraseDups

end Sys2Proof.Machine
end

