-- ==== Sys2Proof/Machine/Coherence.lean ====
section
/-!
DEFINITION. The caches and the coherence protocol as shared operations (11_caches.md, 12_coherence_ordering.md): ways and
replacement, fills, evictions, snoops, directory upkeep, lock fills, flushes. An access whose home can serve it at once carries its whole
transaction out in its step; the rows RDS to ACK of Home.lean carry the same transitions out message by message.
-/
namespace Sys2Proof.Machine

/-! ### Partitions (R67, R68, R254) -/

/-- Ways of cluster `c`'s L2 that a room owns, and those of them that are locked. -/
def Dev.l2Ways (d : Dev) (c id : Nat) : Nat :=
  orAll ((d.plan.caches.filter (fun r => r.form == 1 && r.roomId == id && r.loc == d.pkg * 32 + c)).map CacheRec.ways)
def Dev.l2Lock (d : Dev) (c id : Nat) : Nat :=
  orAll ((d.plan.caches.filter (fun r => r.form == 1 && r.roomId == id && r.loc == d.pkg * 32 + c)).map CacheRec.lock)
/-- Ways of region `r`'s L3 that a room owns. -/
def Dev.l3Ways (d : Dev) (r id : Nat) : Nat :=
  orAll ((d.plan.caches.filter (fun x => x.form == 2 && x.roomId == id && x.loc == d.pkg * 8 + r)).map CacheRec.ways)
/-- Locked L1U ways of a core. -/
def Dev.l1Lock (d : Dev) (core : Nat) : Nat :=
  orAll ((d.plan.caches.filter (fun r => r.form == 3 && r.loc == d.pkg * 128 + core)).map CacheRec.ways)

/-- A way for an allocation: the lowest empty candidate (DESIGN CHOICE, notes/assumptions/87.md), else the candidate used longest ago (R255). -/
def pickWay (cands waysMru : List Nat) : Option Nat :=
  match cands.find? (fun w => !waysMru.contains w) with
  | some w => some w
  | none => waysMru.reverse.find? cands.contains

/-! ### Directory upkeep (R272, R274, Table 12.4) -/

/-- State of a line in the L2 of a cluster. -/
def Dev.l2St (d : Dev) (c line : Nat) : Option Moesi :=
  ((d.cluster c).l2.find? (fun e => e.line == line)).map L2Line.st

/-- Clusters of the package whose L2 holds a line. -/
def Dev.holders (d : Dev) (line : Nat) : List Nat :=
  (List.range 32).filter (fun c => (d.l2St c line).isSome)

/-- Clusters of the package with a line in an eviction slot whose EvD is current and not yet granted (R274, R281). -/
def Dev.slotHolders (d : Dev) (line : Nat) : List Nat :=
  (List.range 32).filter (fun c => (d.cluster c).slots.any (fun (_, e) =>
    match e with
    | some v => v.line == line && !v.stale && !v.granted
    | none => false))

/-- Clusters that the filters of the package list for a line (R274). -/
def Dev.listed (d : Dev) (line : Nat) : List Nat :=
  (List.range 32).filter (fun c => (d.holders line).contains c || (d.slotHolders line).contains c)

/-- Clusters to which the filters forward a snoop of a line: those they list, and all four of a region whose filter rebuilds its set (R370). -/
def Dev.forwarded (d : Dev) (line : Nat) : List Nat :=
  (List.range 32).filter (fun c => (d.listed line).contains c || (d.region (c / 4)).sfBad.contains (line % 2048))

/-- A state in which one region owns the line. -/
def DirSt.exclusive : DirSt → Bool
  | .o => true
  | .x => true
  | _ => false

/-- The vector, owner and state of Table 12.2 that the lines and eviction slots of this package amount to. -/
def Dev.dirOf (d : Dev) (line : Nat) : BitVec 32 × Nat × DirSt :=
  let hs := d.holders line
  let ss := d.slotHolders line
  let vec := BitVec.ofNat 32 (orAll ((hs ++ ss).map (fun c => 2 ^ d.sysRegion (c / 4))))
  match hs.find? (fun c => d.l2St c line == some .m || d.l2St c line == some .e) with
  | some c => (vec, d.sysRegion (c / 4), .x)
  | none =>
    match hs.find? (fun c => d.l2St c line == some .o) <|> ss.head? with
    | some c => (vec, d.sysRegion (c / 4), if hs.isEmpty then .x else .o)
    | none => (vec, 0, if hs.isEmpty then .i else .s)

/-- The regions of other packages in an entry's vector. -/
def Dev.farVec (d : Dev) (e : L3Line) : BitVec 32 := e.vec &&& ~~~ (BitVec.ofNat 32 (255 * 2 ^ (d.pkg * 8)))

/-- An entry brought up to date with what this package holds; regions of other packages stay as their messages left them. -/
def Dev.dirMerge (d : Dev) (e : L3Line) : L3Line :=
  let (v, o, st) := d.dirOf e.line
  let far := d.farVec e
  if far == 0 then { e with vec := v, owner := o, st := st }
  else if st.exclusive then { e with vec := v ||| far, owner := o, st := .o }
  else if e.st.exclusive && e.owner / 8 != d.pkg then { e with vec := v ||| far, st := if v == 0 then e.st else .o }
  else { e with vec := v ||| far, owner := 0, st := .s }

/-- Bring the directory entry of a line up to date with its holders. -/
def Dev.dirRefresh (d : Dev) (line : Nat) : Dev :=
  match d.homeLocal line with
  | none => d
  | some r => d.modRegion r (fun g => { g with l3 := g.l3.map (fun e => if e.line == line then d.dirMerge e else e) })

/-- System regions that the home snoops for a line (R273, Table 12.4): for a shared copy the owner, for permission every holder; without
an entry the reach set. -/
def Dev.targets (d : Dev) (line : Nat) (excl : Bool) : List Nat :=
  match d.l3Line line with
  | some e => if excl then (List.range 32).filter e.vec.getLsbD else if e.st.exclusive then [e.owner] else []
  | none => d.plan.reach line

/-! ### L1U (R252 to R258, R271) -/

/-- The L1U loses a line: its reservations on that core go (R149). -/
def Dev.l1Drop (d : Dev) (core line : Nat) : Dev :=
  if (d.core core).l1.any (fun e => e.line == line) then
    let d := d.modCore core (fun c => { c with l1 := c.l1.filter (fun e => e.line != line) })
    { d with ctxs := d.ctxs.map (fun (k, x) =>
        (k, if coreOf k == core && x.resv == some line then { x with resv := none } else x)) }
  else d

/-- Cores of a cluster. -/
def clusterCores (c : Nat) : List Nat := [c * 4, c * 4 + 1, c * 4 + 2, c * 4 + 3]

def Dev.l1DropAll (d : Dev) (c line : Nat) : Dev := each (clusterCores c) (fun d k => d.l1Drop k line) d

/-- L1U copies of a line in a cluster become shared. -/
def Dev.l1Share (d : Dev) (c line : Nat) : Dev :=
  each (clusterCores c) (fun d k => d.modCore k (fun x =>
    { x with l1 := x.l1.map (fun e => if e.line == line then { e with st := .s } else e) })) d

/-- Place a line in the L1U of a core (R255, R258): in L1_WAY under lock fill, else among the unlocked ways. -/
def Dev.l1Fill (d : Dev) (core line : Nat) (st : L1St) (nt : Bool) : Dev :=
  let c := d.core core
  let set := c.l1.filter (fun e => e.line % 128 == line % 128)
  let locked := d.l1Lock core
  let way := if c.lk.enL1 then some c.lk.l1Way
    else pickWay ((List.range 8).filter (fun w => !locked.testBit w)) (set.map L1Line.way)
  match way with
  | none => d
  | some w =>
    let d := each (set.filter (fun e => e.way == w)) (fun d e => d.l1Drop core e.line) d
    let e : L1Line := { line := line, way := w, st := st, ewl := false }
    d.modCore core (fun c =>
      { c with
        l1 := if nt then c.l1 ++ [e] else e :: c.l1
        lk := if c.lk.enL1 then { c.lk with count := satInc 1023 c.lk.count } else c.lk })

/-! ### L2, L3 and snoops -/

/-- The transfers of a line written to its channel: its own, and that of its secondary copy (R279). -/
def Dev.chanWrite (d : Dev) (line requester room : Nat) : Dev :=
  each (line :: (d.mirrorLine line).toList) (fun d n => d.chanPost n requester room) d

/-- A line of the L3 is written to its channel (R263, R297). -/
def Dev.writeOut (d : Dev) (line room : Nat) : Dev := (d.writeBack line).chanWrite line 128 room

/-- Place a line in its home's L3, when the room holds ways there (R255, R278); a victim whose data is newer than the
channel is written to it (R263). -/
def Dev.l3Fill (d : Dev) (r line id : Nat) : Dev :=
  let g := d.region r
  match g.l3.find? (fun e => e.line == line) with
  | some e =>
    if (d.l3Ways r id).testBit e.way then
      d.modRegion r (fun g => { g with l3 := e :: g.l3.filter (fun x => x.line != line) })
    else d
  | none =>
    let set := g.l3.filter (fun e => e.line % 16384 == line % 16384)
    let cands := (bitsOf (d.l3Ways r id) 16).filter (fun w => !g.l3Retired.toNat.testBit w)
    match pickWay cands (set.map L3Line.way) with
    | none => d
    | some w =>
      let d := each (set.filter (fun e => e.way == w && e.ld)) (fun d e => d.writeOut e.line e.room) d
      d.modRegion r (fun g =>
        { g with l3 := { line := line, way := w, room := id, vec := 0, owner := 0, st := .i, ld := false } ::
            g.l3.filter (fun e => !(e.line % 16384 == line % 16384 && e.way == w)) })

/-- A dirty line reaches its home: into the L3 when its room holds ways there, and always to the channel (R262). -/
def Dev.homeWrite (d : Dev) (line id : Nat) : Dev :=
  match d.homeLocal line with
  | some r =>
    let d := (d.l3Fill r line id).writeBack line
    d.modRegion r (fun g => { g with l3 := g.l3.map (fun (e : L3Line) => if e.line == line then { e with ld := false } else e) })
  | none => d.writeBack line

/-- Eviction tag of a slot (R276). -/
def Dev.slotTag (d : Dev) (c i : Nat) : BitVec 12 :=
  BitVec.ofNat 12 (d.sysCluster c * 32 + i * 2 + b2n ((d.cluster c).slotGen.getLsbD i))

/-- The eviction slot that a flush of a cluster uses: the first free one. -/
def Dev.spareSlot (d : Dev) (c : Nat) : Nat := ((List.range 16).find? (fun i => (Sparse.get none (d.cluster c).slots i).isNone)).getD 0

/-- A line leaves the package for its home in another one: an EvD with its data, or the notice that a region holds it no more (R263, R274). -/
def Dev.farLeave (d : Dev) (c line id : Nat) (dirty : Bool) : Dev :=
  match d.homeOf (line * 64) with
  | none => d
  | some q =>
    let m : CohMsg := { kind := .rgn, line := line, requester := d.sysCluster c, room := id, age := 0, tag := none, data := [] }
    if q / 8 == d.pkg then d
    else if dirty then
      let i := d.spareSlot c
      let d := d.modCluster c (fun x => { x with slotGen := x.slotGen ^^^ BitVec.ofNat 16 (2 ^ i) })
      d.sendTo (q / 8) { m with kind := .request .evd, tag := some (d.slotTag c i), data := spread (line * 64) (d.bytes (line * 64) 64) }
    else if (d.listed line).any (fun k => k / 4 == c / 4) then d
    else d.sendTo (q / 8) m

def Moesi.dirty : Moesi → Bool
  | .m => true
  | .o => true
  | _ => false

/-- A line that a cluster gives up or cleans, on its way home: dirty, into the L3 and the channel, whose slot it takes. -/
def Dev.homeSend (d : Dev) (c line id : Nat) (dirty : Bool) : Dev :=
  match d.homeLocal line with
  | some r => if dirty then ((d.wake (64 + r)).homeWrite line id).chanWrite line (d.sysCluster c) id else d
  | none => d.farLeave c line id dirty

/-- The L2 loses a line (R253): L1U copies go first, dirty data goes home, whose region wakes for it (R269). -/
def Dev.l2Evict (d : Dev) (c line : Nat) : Dev :=
  match (d.cluster c).l2.find? (fun e => e.line == line) with
  | none => d
  | some e =>
    let d := d.l1DropAll c line
    let d := d.modCluster c (fun x => { x with l2 := x.l2.filter (fun y => y.line != line) })
    (d.homeSend c line e.room e.st.dirty).dirRefresh line

/-- The L2 loses a line without writing it (SnpX, SnpI). -/
def Dev.l2Invalidate (d : Dev) (c line : Nat) : Dev :=
  let d := d.l1DropAll c line
  let d := d.modCluster c (fun x => { x with l2 := x.l2.filter (fun y => y.line != line) })
  if (d.domain c).st == .retention then
    if (d.cluster c).pendList.length < 64 then d.modCluster c (fun x => { x with pendList := x.pendList ++ [line] })
    else (d.modRegion (c / 4) (fun g => { g with sfXwake := satInc max32 g.sfXwake })).wake c
  else d

/-- SnpS at a cluster (Table 12.5): M becomes O, E becomes S. -/
def Dev.l2Share (d : Dev) (c line : Nat) : Dev :=
  let d := d.l1Share c line
  d.modCluster c (fun x => { x with l2 := x.l2.map (fun e =>
    if e.line == line then { e with st := match e.st with | .m => .o | .e => .s | st => st } else e) })

/-- Filters of this package receive a snoop (Table 12.8). -/
def Dev.countIn (d : Dev) (regions : List Nat) : Dev :=
  each (regions.filter (fun q => q / 8 == d.pkg)) (fun d q =>
    d.modRegion (q % 8) (fun g => { g with sfSnpIn := satInc max32 g.sfSnpIn })) d

/-- A filter forwards a snoop to a cluster, which wakes from Clock-gated; for one in Retention it answers itself (R284). -/
def Dev.forwardTo (d : Dev) (c : Nat) : Dev :=
  if (d.domain c).st == .retention then d
  else (if (d.domain c).st == .gated then d.wake c else d).modRegion (c / 4) (fun g => { g with sfSnpFwd := satInc max32 g.sfSnpFwd })

/-- The transaction that stays open until the stale EvD of a slot has come (R281). -/
def HomeReq.staleTxn (q : HomeReq) (tag : BitVec 12) : Txn :=
  { line := q.line, kind := q.kind, requester := q.requester, room := q.room, stamp := q.stamp, toSnoop := [], awaiting := [], gotData := true,
    ownerDirty := true, heldBy := [], slotTag := some tag, cmp := true, sent := true, installed := true, bytes := [] }

/-- A snoop that takes the line makes the EvD of the eviction slot that holds it stale: its transaction stays open for it (R281). -/
def Dev.takeSlots (d : Dev) (line requester room : Nat) : Dev :=
  each (d.slotHolders line) (fun d c =>
    match d.slotOfLine c line, d.homeLocal line with
    | some (i, v), some r =>
      let q : HomeReq := { kind := .rdx, line := line, requester := requester, room := room, stamp := d.stampOf 0, bytes := [], tag := none }
      let d := d.modRegion r (fun g => { g with txns := g.txns ++ [q.staleTxn (d.slotTag c i)] })
      d.modCluster c (fun x => { x with slots := Sparse.insert x.slots i (some { v with stale := true }) })
    | _, _ => d) d

/-- The home's snoops for a line reach every cluster to which a filter of the regions it asks forwards them, but the requester: to shared, or to
invalid. One that holds it in an eviction slot answers from there (R281). -/
def Dev.snoopOthers (d : Dev) (line : Nat) (except : Option Nat) (excl : Bool) : Dev :=
  let ts := d.targets line excl
  let d := each ((d.forwarded line).filter (fun c => except != some c && !(d.holders line).contains c && ts.contains (d.sysRegion (c / 4))))
    Dev.forwardTo (d.countIn ts)
  each ((d.holders line).filter (fun c => except != some c && (excl || ts.contains (d.sysRegion (c / 4))))) (fun d c =>
    let d := d.forwardTo c
    if excl then d.l2Invalidate c line else d.l2Share c line) d

/-- The way for a core's lock fills in the L2 (R257, R258, R269): none while it is off, or when no locked way of the room remains. -/
def Dev.lkWay (d : Dev) (core : Nat) : Option Nat :=
  let lk := (d.core core).lk
  let c := core / 4
  let id := (d.coreRoom core).getD 0
  if lk.enL2 && (d.l2Ways c id).testBit lk.l2Way && (d.l2Lock c id).testBit lk.l2Way && !(d.cluster c).l2Retired.getLsbD lk.l2Way then
    some lk.l2Way
  else none

/-- Lines of a cluster's L2 in the set of a line. -/
def Dev.l2Set (d : Dev) (c line : Nat) : List L2Line := (d.cluster c).l2.filter (fun e => e.line % 2048 == line % 2048)

/-- The way that a miss of a core in a room fills (R254, R255, R258). -/
def Dev.l2Way (d : Dev) (core room line : Nat) : Option Nat :=
  let c := core / 4
  d.lkWay core <|> pickWay ((bitsOf (d.l2Ways c room) 16).filter (fun w =>
    !(d.l2Lock c room).testBit w && !(d.cluster c).l2Retired.getLsbD w)) ((d.l2Set c line).map L2Line.way)

/-- The line that such a miss displaces. -/
def Dev.l2Victim (d : Dev) (core room line : Nat) : Option L2Line :=
  (d.l2Way core room line).bind (fun w => (d.l2Set (core / 4) line).find? (fun e => e.way == w))

/-- A memory read at the home (Table 12.4): from the L3, else from the channel, with an L3 way for the line when the room holds ways there. -/
def Dev.homeFill (d : Dev) (r line requester room : Nat) : Dev :=
  (if d.inL3 line then d else d.chanPost line requester room).l3Fill r line room

/-- Bring a line into the L2 of a core's cluster, readable or writable (Table 12.4), allocating by R254, R255, R258. -/
def Dev.l2Get (d : Dev) (core line : Nat) (wr nt : Bool) : Dev :=
  let c := core / 4
  let id := (d.coreRoom core).getD 0
  let owned := d.l2Ways c id
  let locked := d.l2Lock c id
  match (d.cluster c).l2.find? (fun e => e.line == line) with
  | some e =>
    let d := if wr && (e.st == .s || e.st == .o) then (d.snoopOthers line (some c) true).takeSlots line (d.sysCluster c) id else d
    let st := if wr then Moesi.m else e.st
    let way := match d.lkWay core with
      | some w => if owned.testBit e.way && !locked.testBit e.way then w else e.way
      | none => e.way
    let d := if way == e.way then d
      else each ((d.l2Set c line).filter (fun x => x.way == way && x.line != line)) (fun d x => d.l2Evict c x.line) d
    let d := d.modCluster c (fun x =>
      let rest := x.l2.filter (fun y => y.line != line)
      let y : L2Line := { line := line, way := way, st := st, room := e.room }
      { x with l2 := if !owned.testBit e.way then x.l2.map (fun z => if z.line == line then y else z)
          else if nt then rest ++ [y] else y :: rest })
    d.dirRefresh line
  | none =>
    let d := match d.homeLocal line with
      | some r => d.wake (64 + r)
      | none => d
    let others := !(d.listed line).isEmpty
    let dirty := (d.listed line).any (fun k => d.l2St k line == some .m || d.l2St k line == some .o || (d.l2St k line).isNone)
    let d := if (d.homeLocal line).isSome then d.snoopOthers line (some c) wr else d
    let d := if wr then d.takeSlots line (d.sysCluster c) id else d
    let d := match d.homeLocal line with
      | some r => if dirty then d else d.homeFill r line (d.sysCluster c) id
      | none => d
    match d.l2Way core id line with
    | none => d.dirRefresh line
    | some w =>
      let d := each ((d.l2Set c line).filter (fun e => e.way == w)) (fun d e => d.l2Evict c e.line) d
      let e : L2Line := { line := line, way := w, st := if wr then .m else if others then .s else .e, room := id }
      (d.modCluster c (fun x => { x with l2 := if nt then x.l2 ++ [e] else e :: x.l2 })).dirRefresh line

/-- A core's access to a line: L1U, then L2, then the home (R251 to R258, R270, R271). The hint prefix leaves the line least recently used
(R145). -/
def Dev.touchLine (d : Dev) (core line : Nat) (wr nt : Bool) : Dev :=
  let hit := (d.core core).l1.find? (fun e => e.line == line)
  let locked := d.l1Lock core
  match hit with
  | some e =>
    let move := (d.core core).lk.enL1 && !locked.testBit e.way
    let d := if (wr && e.st == .s) || move then d.l2Get core line wr nt else d
    let d := if wr then
        let d := each ((clusterCores (core / 4)).filter (· != core)) (fun d k => d.l1Drop k line) d
        d.modCluster (core / 4) (fun x => { x with l2 := x.l2.map (fun y =>
          if y.line == line then { y with st := .m } else y) })
      else d
    let st := if wr then L1St.m else e.st
    if move then
      let d := d.modCore core (fun c => { c with l1 := c.l1.filter (fun x => x.line != line) })
      (d.l1Fill core line st nt).modCore core (fun c => { c with l1 := c.l1.map (fun x =>
        if x.line == line then { x with ewl := e.ewl || wr } else x) })
    else
      d.modCore core (fun c =>
        let rest := c.l1.filter (fun x => x.line != line)
        let y : L1Line := { e with st := st, ewl := e.ewl || wr }
        { c with l1 := if nt then rest ++ [y] else y :: rest })
  | none =>
    let d := d.l2Get core line wr nt
    let others := (clusterCores (core / 4)).filter (fun k => k != core && (d.core k).l1.any (fun e => e.line == line))
    let d := if wr then each others (fun d k => d.l1Drop k line) d
      else if others.isEmpty then d else d.l1Share (core / 4) line
    let st : L1St := if wr then .m
      else if others.isEmpty && (d.l2St (core / 4) line == some .m || d.l2St (core / 4) line == some .e) then .e
      else .s
    let d := d.l1Fill core line st nt
    if wr then d.modCore core (fun c => { c with l1 := c.l1.map (fun x =>
      if x.line == line then { x with ewl := true } else x) }) else d

/-- Fetch a line into the L1U with write permission, written by nobody yet. -/
def Dev.touchOwn (d : Dev) (core line : Nat) (nt : Bool) : Dev :=
  let was := ((d.core core).l1.find? (fun e => e.line == line)).map L1Line.ewl
  let d := d.touchLine core line true nt
  d.modCore core (fun c => { c with l1 := c.l1.map (fun e => if e.line == line then { e with ewl := was.getD false } else e) })

/-- Do what a hint of a kind asks of a line (Table 5.7). -/
def Dev.hintLine (d : Dev) (core kind line : Nat) (nt : Bool) : Dev :=
  match kind with
  | 0 => d.touchLine core line false nt
  | 1 => d.touchOwn core line nt
  | 2 => d.l2Get core line false nt
  | 3 => d.l2Get core line true nt
  | _ => d.modCore core (fun c => { c with l1 := c.l1.filter (fun e => e.line != line) ++ c.l1.filter (fun e => e.line == line) })

/-- A buffered store is written into its line (R196): in a line that is still held in M, replacement does not move. -/
def Dev.writeLine (d : Dev) (core line : Nat) (nt : Bool) : Dev :=
  if (d.core core).l1.any (fun e => e.line == line && e.st == .m) then
    d.modCore core (fun c => { c with l1 := c.l1.map (fun x => if x.line == line then { x with ewl := true } else x) })
  else d.touchLine core line true nt

/-! ### Flushes (R257, R247, R462, R284, R285) -/

/-- Write back and invalidate the lines of a cluster's L2 that satisfy `p`. -/
def Dev.flushL2 (d : Dev) (c : Nat) (p : L2Line → Bool) : Dev :=
  each ((d.cluster c).l2.filter p) (fun d e => d.l2Evict c e.line) d

/-- Drop the lines of a core's L1U that satisfy `p`; dirty data is in the L2 line already (R261). -/
def Dev.flushL1 (d : Dev) (core : Nat) (p : L1Line → Bool) : Dev :=
  each ((d.core core).l1.filter p) (fun d e => d.l1Drop core e.line) d

/-- The victim in an eviction slot is taken by its home at once, and the slot is free; no transaction waits for its EvD any more. -/
def Dev.emptySlot (d : Dev) (c i : Nat) : Dev :=
  match Sparse.get none (d.cluster c).slots i with
  | none => d
  | some v =>
    let d := if v.stale || v.granted then d else d.homeSend c v.line v.room true
    let d := d.modCluster c (fun x => { x with slots := Sparse.insert x.slots i none })
    let d := match d.homeLocal v.line with
      | none => d
      | some r => d.modRegion r (fun g => { g with txns :=
          (g.txns.filter (fun (t : Txn) => !(t.line == v.line && (t.cmp || t.kind == TxnKind.evd)))).map (fun (t : Txn) =>
            if t.line == v.line then { t with slotTag := none } else t) })
    d.dirRefresh v.line

/-- Write back the lines in a cluster's eviction slots, and free the slots (R284, R285). -/
def Dev.flushSlots (d : Dev) (c : Nat) : Dev := each ((d.cluster c).slots.map Prod.fst) (fun d i => d.emptySlot c i) d

/-- Write back every dirty line of a cluster, keeping it (R284). -/
def Dev.cleanL2 (d : Dev) (c : Nat) : Dev :=
  let dirty := (d.cluster c).l2.filter (fun e => e.st.dirty)
  let d := each dirty (fun d e => d.homeSend c e.line e.room true) d
  let d := d.modCluster c (fun x => { x with l2 := x.l2.map (fun e =>
    { e with st := match e.st with | .m => .e | .o => .s | st => st }) })
  each dirty (fun d e => d.dirRefresh e.line) d

/-- Every line of a range, flushed from the caches of the clusters of a room (R247 step 3). -/
def Dev.flushRange (d : Dev) (slot lo hi : Nat) : Dev :=
  each (d.clustersOf slot) (fun d c =>
    d.flushL2 c (fun e => decide (lo ≤ e.line * 64) && decide (e.line * 64 < hi))) d

/-- The L3 of a region writes its dirty lines to the channel. -/
def Dev.cleanL3 (d : Dev) (r : Nat) : Dev :=
  let d := each ((d.region r).l3.filter (fun e => e.ld)) (fun d e => d.writeOut e.line e.room) d
  d.modRegion r (fun g => { g with l3 := g.l3.map (fun e => { e with ld := false }) })

end Sys2Proof.Machine
end

