-- ==== Sys2Proof/Machine/Home.lean ====
section
/-!
DEFINITION. The home protocol message by message (R274 to R285): requests of clusters and hub engines, their grant at the home, snoops and
answers, fills, evictions and acknowledgements, by Tables 12.3 to 12.6. A home in another package is reached over its link.
-/
namespace Sys2Proof.Machine

def Region.txn (g : Region) (line : Nat) : Option Txn := g.txns.find? (fun t => t.line == line)
def Dev.txnOf (d : Dev) (line : Nat) : Option Txn := (d.homeLocal line).bind (fun r => (d.region r).txn line)

def Dev.modTxn (d : Dev) (line : Nat) (f : Txn → Txn) : Dev :=
  match d.homeLocal line with
  | none => d
  | some r => d.modRegion r (fun g => { g with txns := g.txns.map (fun t => if t.line == line then f t else t) })

/-- The region of a cluster's snoop filter, by cluster. -/
def regionOf (c : Nat) : Nat := c / 4

/-- Package and system region of a requester; a hub engine is this package's. -/
def Dev.requesterPkg (d : Dev) (n : Nat) : Nat := if n < 128 then n / 32 else d.pkg

/-- The cluster of this package that a requester number names. -/
def Dev.ownCluster (d : Dev) (n : Nat) : Option Nat := if decide (n < 128) && n / 32 == d.pkg then some (n % 32) else none

/-- Every snoop of a transaction has been answered. -/
def Txn.ready (t : Txn) : Bool := t.toSnoop.isEmpty && t.awaiting.isEmpty && !t.sent

/-! ### The channel (R279, R297) -/

/-- A memory read or write goes to the controller of the line's channel, a write also to its mirror's; the L3 serves a read at once. -/
def Dev.toChannel (d : Dev) (t : Txn) : Dev :=
  let push := fun (d : Dev) (line : Nat) =>
    match d.homeLocal line with
    | none => d
    | some r => d.chanPush r { room := t.room, requester := t.requester, stamp := t.stamp, line := line, posted := false, late := false }
  let write := t.kind == .wrf || t.kind == .wrp || t.kind == .evd
  if d.inL3 t.line && t.kind != .evd then
    match d.homeLocal t.line with
    | some r => d.served r t.stamp
    | none => d
  else
    let d := push d t.line
    match if write then d.mirrorLine t.line else none with
    | some m => push d m
    | none => d

/-! ### Opening a transaction (R277, Table 12.4) -/

/-- The snoop that a kind of request sends. -/
def TxnKind.snoop : TxnKind → SnoopKind
  | .rds => .snps
  | .rdc => .snpc
  | .wrf => .snpi
  | _ => .snpx

/-- The requester of an Upg still holds its copy, as its region's filter or its own package has it. -/
def Dev.stillListed (d : Dev) (q : HomeReq) : Bool :=
  match d.ownCluster q.requester with
  | some c => d.l2St c q.line == some .s || d.l2St c q.line == some .o
  | none => ((d.l3Line q.line).map (fun e => e.vec.getLsbD (q.requester / 4))).getD true

/-- The snoop that a region receives: a partial write takes the data of the line's owner, and no other's (Table 12.4). -/
def Dev.snoopOf (d : Dev) (line : Nat) (kind : TxnKind) (p : Nat) : SnoopKind :=
  if kind == .wrp && !((d.l3Line line).map (fun e => e.st.exclusive && e.owner == p)).getD true then .snpi else kind.snoop

/-- The transaction that a granted request opens: its snoops, by region and cluster. -/
def Dev.txnFor (d : Dev) (q : HomeReq) : Txn :=
  let kind := if q.kind == .upg && !d.stillListed q then .rdx else q.kind
  let ts := d.targets q.line (kind != .rds && kind != .rdc)
  let snoop := d.snoopOf q.line kind
  let cs := (d.forwarded q.line).filter (fun c => ts.contains (d.sysRegion (regionOf c)) && q.requester != d.sysCluster c)
  { line := q.line, kind := kind, requester := q.requester, room := q.room, stamp := q.stamp,
    toSnoop := cs.map (fun c => (c, snoop (d.sysRegion (regionOf c)))), awaiting := ts, gotData := false,
    ownerDirty := false, heldBy := [], slotTag := q.tag, cmp := false, sent := false, installed := false, bytes := q.bytes }

/-- Memory is read without waiting for the answers: none is asked, or the directory says that none of them can bring data. -/
def Dev.readsNow (d : Dev) (t : Txn) : Bool :=
  t.awaiting.isEmpty || ((t.kind == .rdx || t.kind == .wrp) && ((d.l3Line t.line).map (fun e => !e.st.exclusive)).getD false)

/-- A granted request opens its transaction: the snoops leave, and the memory access where no answer can replace it. -/
def Dev.openTxn (d : Dev) (r : Nat) (q : HomeReq) : Dev :=
  let t := d.txnFor q
  let d := d.modRegion r (fun g => { g with txns := g.txns ++ [t], rr := q.requester })
  let d := d.countIn t.awaiting
  let d := each (t.awaiting.filter (fun p => p / 8 != d.pkg)) (fun d p => d.sendTo (p / 8)
    { kind := .snoop (d.snoopOf q.line t.kind p), line := q.line, requester := q.requester, room := q.room, age := d.ageOf q.stamp, tag := none,
      data := [] }) d
  match t.kind with
  | .upg => d
  | .wrf => if t.awaiting.isEmpty then d.toChannel t else d
  | _ => if d.readsNow t then d.toChannel t else d

/-! ### Evictions at the home (R262, R281) -/

/-- The slot of this package that a tag names, with its cluster. -/
def Dev.tagSlot (d : Dev) (tag : BitVec 12) : Option (Nat × Nat × EvSlot) :=
  let c := tag.toNat / 32 % 32
  let i := tag.toNat / 2 % 16
  if tag.toNat / 1024 != d.pkg || (d.cluster c).slotGen.getLsbD i != tag.getLsbD 0 then none
  else (Sparse.get none (d.cluster c).slots i).map (fun v => (c, i, v))

def Dev.grantSlot (d : Dev) (c i : Nat) (v : EvSlot) : Dev :=
  d.modCluster c (fun x => { x with slots := Sparse.insert x.slots i (some { v with granted := true }) })

/-- The home takes an EvD whose line has no other transaction: it writes the L3 and the channel and drops the region from the directory. -/
def Dev.openEvd (d : Dev) (r : Nat) (q : HomeReq) : Dev :=
  let t : Txn :=
    { line := q.line, kind := .evd, requester := q.requester, room := q.room, stamp := q.stamp, toSnoop := [], awaiting := [], gotData := false,
      ownerDirty := false, heldBy := [], slotTag := q.tag, cmp := false, sent := true, installed := true, bytes := [] }
  let d := d.modRegion r (fun g => { g with txns := g.txns ++ [t], rr := q.requester })
  let d := match q.tag.bind d.tagSlot with
    | some (c, i, v) => d.grantSlot c i v
    | none => d.poke q.bytes
  let d := ((d.homeWrite q.line q.room).toChannel t).dirRefresh q.line
  if d.requesterPkg q.requester == d.pkg then d
  else d.modRegion r (fun g => { g with l3 := g.l3.map (fun (e : L3Line) => if e.line == q.line then
    d.dirMerge { e with vec := e.vec &&& ~~~ (BitVec.ofNat 32 (2 ^ (q.requester / 4))), st := if e.owner == q.requester / 4 then .s else e.st }
    else e) })

/-- The home grants the stale EvD of a line that a transaction waits for: it discards the data and counts it. To a slot of another package the
EvAck leaves at once, and the transaction closes. -/
def Dev.grantStale (d : Dev) (r line : Nat) (tag : BitVec 12) : Dev :=
  let who := tag.toNat / 32
  let d := d.modRegion r (fun g => { g with sfStale := satInc max32 g.sfStale, rr := who })
  if who / 32 == d.pkg then
    match d.tagSlot tag with
    | some (c, i, v) => d.grantSlot c i v
    | none => d
  else
    (d.modRegion r (fun g => { g with txns := g.txns.filter (fun t => t.line != line) })).sendTo (who / 32)
      { kind := .ack, line := line, requester := who, room := 0, age := 0, tag := some tag, data := [] }

/-- A waiting request can be granted: its line has no open transaction (an EvD may be the stale one that it waits for), and it finds an entry. -/
def Dev.grantable (d : Dev) (r : Nat) (q : HomeReq) : Bool :=
  match (d.region r).txn q.line with
  | some t => q.kind == .evd && t.cmp && t.slotTag == q.tag
  | none => d.entryFree r q.requester q.room

/-- Grant one request. -/
def Dev.grantReq (d : Dev) (r : Nat) (q : HomeReq) : Dev :=
  if q.kind == .evd then
    match (d.region r).txn q.line, q.tag with
    | some _, some tag => d.grantStale r q.line tag
    | _, _ => d.openEvd r q
  else d.openTxn r q

/-- The home grants what waits as long as something can be granted (R277, R293); a home that sleeps grants nothing (R31). -/
def Dev.grantWaiting (d : Dev) (r : Nat) : Dev :=
  iter (fun d =>
    let g := d.region r
    let first := fun (q : HomeReq) => (g.waitQ.find? (fun x => x.line == q.line && x.requester == q.requester)) == some q
    match if d.settledOn (64 + r) then d.arbitrate g.rr (g.waitQ.filter (fun q => d.grantable r q && first q)) else none with
    | none => d
    | some (q, starving) =>
      (d.modRegion r (fun g => { g with
        waitQ := dropFirst (· == q) g.waitQ
        starveCnt := if starving then satInc max32 g.starveCnt else g.starveCnt })).grantReq r q) (d.region r).waitQ.length d

/-- A request reaches its home: it waits there in the order of arrival until it is granted; a sleeping home wakes (Table 12.6). -/
def Dev.atHome (d : Dev) (r : Nat) (q : HomeReq) : Dev :=
  let d := d.modRegion r (fun g => { g with waitQ := g.waitQ ++ [q] })
  let d := if (d.domain (64 + r)).st == .gated then d.wake (64 + r) else d
  if d.settledOn (64 + r) then d.grantWaiting r else d.startWake (64 + r)

/-- A transaction closes, and the home grants what waited for it. -/
def Dev.closeTxn (d : Dev) (line : Nat) : Dev :=
  match d.homeLocal line with
  | none => d
  | some r => (d.modRegion r (fun g => { g with txns := g.txns.filter (fun t => t.line != line) })).grantWaiting r

/-- A request leaves for its home, here or over a link. -/
def Dev.sendReq (d : Dev) (q : HomeReq) : Dev :=
  match d.homeOf (q.line * 64) with
  | none => d
  | some p =>
    if p / 8 == d.pkg then d.atHome (p % 8) q
    else d.sendTo (p / 8) { kind := .request q.kind, line := q.line, requester := q.requester, room := q.room, age := d.ageOf q.stamp,
                            tag := q.tag, data := q.bytes }

/-! ### Misses of a cluster (R259 to R262) -/

/-- A dirty line moves into an eviction slot (R262, R276), its L1U copies first; for a home in another package the EvD leaves at once. -/
def Dev.toSlot (d : Dev) (c i : Nat) (e : L2Line) : Dev :=
  let d := d.l1DropAll c e.line
  let v : EvSlot := { line := e.line, room := e.room, stale := false, granted := false, stamp := d.stampOf 0 }
  let d := d.modCluster c (fun x =>
    { x with
      l2 := x.l2.filter (fun y => y.line != e.line)
      slotGen := x.slotGen ^^^ BitVec.ofNat 16 (2 ^ i)
      slots := Sparse.insert x.slots i (some v) })
  if (d.homeLocal e.line).isSome then d.dirRefresh e.line
  else d.sendReq { kind := .evd, line := e.line, requester := d.sysCluster c, room := e.room, stamp := d.stampOf 0,
                   bytes := spread (e.line * 64) (d.bytes (e.line * 64) 64), tag := some (d.slotTag c i) }

/-- A cluster may ask for a line: a window of the requester's room covers it (R290), and no eviction slot of the cluster holds it (R281). -/
def Dev.mayRequest (d : Dev) (core line : Nat) : Bool :=
  (match d.coreRoom core with
   | some id => (d.plan.windowAt id (line * 64)).isSome
   | none => false) && (d.slotOfLine (core / 4) line).isNone

/-- A core's miss leaves its cluster (R259, R260): it merges with the cluster's miss for the line, or takes a miss register, whose slot a dirty
victim enters; it waits while no register is free. -/
def Dev.missRequest (d : Dev) (core line : Nat) (kind : TxnKind) (use : MissUse) (age : Nat) : Dev :=
  let c := core / 4
  let room := (d.coreRoom core).getD 0
  if !d.mayRequest core line then d
  else if (d.missOf c line).isSome then d.mergeMiss core line use
  else match d.freeMiss core room use with
    | none => d
    | some i =>
      let m : MissReg := { line := line, core := core, room := room, use := use, wr := kind != .rds, secs := [] }
      let d := d.modCluster c (fun x => { x with miss := Sparse.insert x.miss i m })
      let d := match if kind == .upg then none else (d.l2Victim core room line).filter (fun e => e.st.dirty) with
        | some e => d.toSlot c i e
        | none => d
      d.sendReq { kind := kind, line := line, requester := d.sysCluster c, room := room, stamp := d.stampOf age, bytes := [], tag := none }

/-- The request that an access of a core makes of a line's home. -/
def Dev.missKind (d : Dev) (core line : Nat) (wr : Bool) : TxnKind :=
  if !wr then .rds else if (d.l2St (core / 4) line).isSome then .upg else .rdx

/-- A home of this package takes requests as they come: it is On, or wakes from Clock-gated (R31, Table 13.4). -/
def Dev.homeAwake (d : Dev) (r : Nat) : Bool := d.settledOn (64 + r) || (d.domain (64 + r)).st == .gated

/-- The home can carry a core's request out at once: it lies in this package and is awake, the line is not under way there, no region of another package
has to be asked, an entry is free (R277), and so is a miss register of the core (R259). -/
def Dev.atOnce (d : Dev) (core line : Nat) (use : MissUse) : Bool :=
  match d.homeLocal line with
  | none => (d.homeOf (line * 64)).isNone
  | some r =>
    let g := d.region r
    let room := (d.coreRoom core).getD 0
    d.homeAwake r && !g.txns.any (fun t => t.line == line) && !g.waitQ.any (fun q => q.line == line) && (d.slotOfLine (core / 4) line).isNone &&
      (d.targets line true).all (fun p => p / 8 == d.pkg) && d.entryFree r (d.sysCluster (core / 4)) room &&
      (d.freeMiss core room use).isSome

/-- A line's home can take it back at once: no transaction of it is under way, and the home is here. -/
def Dev.evictsNow (d : Dev) (e : L2Line) : Bool :=
  match d.homeLocal e.line with
  | none => (d.homeOf (e.line * 64)).isNone
  | some r => !(d.region r).txns.any (fun t => t.line == e.line)

/-- A core's access to a line needs no message to another agent's answer: the cluster holds it with the permission, or the home serves it at once
and so takes back what it displaces. -/
def Dev.lineReady (d : Dev) (core line : Nat) (wr : Bool) (use : MissUse) : Bool :=
  match d.l2St (core / 4) line with
  | some st => !wr || st == .m || st == .e || ((d.missOf (core / 4) line).isNone && d.atOnce core line use)
  | none =>
    (d.missOf (core / 4) line).isNone && d.atOnce core line use &&
      (match d.l2Victim core ((d.coreRoom core).getD 0) line with
       | some e => !e.st.dirty || d.evictsNow e
       | none => true)

/-- What an access does that finds a line not ready: its request leaves, or merges with the cluster's miss for the line (R259, R260). -/
def Dev.askLine (d : Dev) (core line : Nat) (wr : Bool) (use : MissUse) : Dev :=
  if d.lineReady core line wr use then d else d.missRequest core line (d.missKind core line wr) use 0

/-! ### Store buffers (R196) -/

/-- Write the oldest buffered store of a core: it becomes visible to every agent (R196, R287). -/
def Dev.drainOne (d : Dev) (core : Nat) : Dev :=
  match (d.core core).sbuf with
  | [] => d
  | e :: rest =>
    let d := d.modCore core (fun c => { c with sbuf := rest })
    let lines := linesOf e.bytes
    let d := each lines (fun d n => (d.writeLine core n e.nt).clearResv n e.keep) d
    d.poke e.bytes

/-- Every buffered store of a core has its line, or gets it at once: a line that a snoop has taken since comes back first (R196, R270). -/
def Dev.drainReady (d : Dev) (core : Nat) : Bool :=
  (d.core core).sbuf.all (fun e => (linesOf e.bytes).all (fun n => d.lineReady core n true .data))

/-- What a drain that waits asks for: the lines of the buffered stores, for writing. -/
def Dev.askDrain (d : Dev) (core : Nat) : Dev :=
  each (((d.core core).sbuf.flatMap (fun e => linesOf e.bytes)).eraseDups) (fun d n => d.askLine core n true .data) d

/-- Write every buffered store of a core (R198). -/
def Dev.drain (d : Dev) (core : Nat) : Dev := iter (fun d => d.drainOne core) (d.core core).sbuf.length d

/-- Cores, but one, with a buffered store on one of some lines: such a line is written before another agent takes it for writing, since a
buffered store always hits the L1U (R196). -/
def Dev.bufferers (d : Dev) (core : Nat) (lines : List Nat) : List Nat :=
  (d.cores.map Prod.fst).filter (fun k => k != core && (d.core k).sbuf.any (fun e => (linesOf e.bytes).any lines.contains))

def Dev.yieldStores (d : Dev) (core : Nat) (lines : List Nat) : Dev := each (d.bufferers core lines) (fun d k => d.drain k) d

/-! ### Writes of uncached agents (R282) -/

/-- An uncached write lands in memory (Table 12.4): in the L3 where the line holds a way, else in the channel, with its mirror. -/
def Dev.engineLand (d : Dev) (requester room : Nat) (l : List (Nat × Byte)) : Dev :=
  each (linesOf (d.mirrored l)) (fun d n =>
    let d := d.clearResv n none
    let d := match d.homeLocal n with
      | some r =>
        if d.inL3 n then
          d.modRegion r (fun g => { g with l3 := g.l3.map (fun (e : L3Line) => if e.line == n then { e with ld := true } else e) })
        else (d.writeBack n).chanPost n requester room
      | none => d.writeBack n
    d.dirRefresh n) (d.poke l)

/-- A write by a device engine that its home performs at once: WrF or WrP. Every copy and every reservation goes. -/
def Dev.engineNow (d : Dev) (room : Nat) (l : List (Nat × Byte)) : Dev :=
  let lines := linesOf (d.mirrored l)
  (each lines (fun d n => (d.snoopOthers n none true).takeSlots n 128 room) (d.yieldStores 128 lines)).engineLand 128 room l

/-! ### Requests of uncached agents (R282, R295) -/

/-- Requests of the hub that are outstanding: at homes here and in other packages, and uncached reads of cores. -/
def Dev.hubCount (d : Dev) : Nat :=
  d.hubOut.length + (d.cores.filter (fun p => p.2.wait.isSome)).length + ((List.range 8).map (fun r =>
    let g := d.region r
    (g.txns.filter (fun t => decide (128 ≤ t.requester))).length + (g.waitQ.filter (fun q => decide (128 ≤ q.requester))).length)).sum

def TxnKind.isWrite : TxnKind → Bool
  | .wrf => true
  | .wrp => true
  | _ => false

/-- A write of an engine is at its home: its Ack has not come. -/
def Dev.engineSent (d : Dev) (n : Nat) : Bool :=
  d.hubOut.any (fun q => q.requester == n && q.kind.isWrite) || (List.range 8).any (fun r =>
    (d.region r).txns.any (fun t => t.requester == n && t.kind.isWrite) || (d.region r).waitQ.any (fun q => q.requester == n && q.kind.isWrite))

/-- A write of an engine is under way, or waits at the hub. -/
def Dev.engineBusy (d : Dev) (n : Nat) : Bool := d.hubQ.any (fun q => q.requester == n) || d.engineSent n

/-- A request of an engine leaves for its home; one in another package stays outstanding here. -/
def Dev.hubSend (d : Dev) (q : HomeReq) : Dev :=
  ((if (d.homeLocal q.line).isNone && (d.homeOf (q.line * 64)).isSome then { d with hubOut := d.hubOut ++ [q] } else d)).sendReq q

/-- A request of a hub engine: at most 64 exist (R295); a write goes to its home only after every earlier write of the engine (R282). -/
def Dev.hubReq (d : Dev) (q : HomeReq) : Dev :=
  if q.requester < 128 || 64 ≤ d.hubCount then d
  else if q.kind.isWrite && d.engineBusy q.requester then { d with hubQ := d.hubQ ++ [q] }
  else d.hubSend q

/-- An outstanding request of the hub has ended: the first waiting write of an engine that has none under way leaves. -/
def Dev.hubNext (d : Dev) : Dev :=
  match d.hubQ.find? (fun q => !d.engineSent q.requester) with
  | none => d
  | some q => if 64 ≤ d.hubCount then d else ({ d with hubQ := dropFirst (· == q) d.hubQ }).hubSend q

/-- Nothing is under way on a line at its home here, which is awake and has an entry, and no region of another package has to be asked. -/
def Dev.engineFree (d : Dev) (room n : Nat) : Bool :=
  match d.homeLocal n with
  | none => (d.homeOf (n * 64)).isNone
  | some r => d.homeAwake r && !(d.region r).txns.any (fun t => t.line == n) && !(d.region r).waitQ.any (fun q => q.line == n) &&
      (d.targets n true).all (fun p => p / 8 == d.pkg) && d.entryFree r 128 room

/-- A device engine's write for a room (R282): at once where the homes can, else as WrPs that their Acks perform, one after the other, at most 64 at a
time (R295). -/
def Dev.engineWrite (d : Dev) (room pa : Nat) (bs : List Byte) : Dev :=
  let l := spread pa bs
  if (linesOf l).all (d.engineFree room) && !d.engineBusy 128 then d.engineNow room l
  else each (linesOf l) (fun d n =>
    let q : HomeReq := { kind := .wrp, line := n, requester := 128, room := room, stamp := d.stampOf 0,
                         bytes := l.filter (fun p => p.1 / 64 == n), tag := none }
    if d.engineBusy 128 || 64 ≤ d.hubCount then { d with hubQ := d.hubQ ++ [q] } else d.hubSend q) d

/-! ### Answers (Table 12.5) -/

/-- What a cluster of this package does for a snoop: the data it gives, and the tag of the slot that answered. -/
def Dev.snooped (d : Dev) (c line : Nat) (kind : SnoopKind) : Dev × Bool × Option (BitVec 12) :=
  let takes := kind == .snpx || kind == .snpi
  let d := if takes then d.yieldStores 128 [line] else d
  let st := d.l2St c line
  let slot := (d.slotOfLine c line).filter (fun p => !p.2.stale && !p.2.granted)
  let data := (st == some .m || st == some .o || slot.isSome) && kind != .snpi
  let tag := slot.map (fun p => d.slotTag c p.1)
  let d := d.forwardTo c
  let d := match slot with
    | some (i, v) => if takes then d.modCluster c (fun x => { x with slots := Sparse.insert x.slots i (some { v with stale := true }) }) else d
    | none => d
  let d := match kind with
    | .snps => d.l2Share c line
    | .snpc => d
    | _ => if st.isSome then (d.l2Invalidate c line).clearResv line none else d
  (d, data, tag)

/-- A cluster answers a snoop of the open transaction, or of a home in another package, to which its region's answer goes. -/
def Dev.answerSnoop (d : Dev) (c line room : Nat) (kind : SnoopKind) : Dev :=
  match d.homeLocal line with
  | none =>
    match d.homeOf (line * 64) with
    | none => d
    | some p =>
      let bytes := spread (line * 64) (d.bytes (line * 64) 64)
      let (d, data, tag) := d.snooped c line kind
      d.sendTo (p / 8) { kind := .rsp, line := line, requester := d.sysRegion (regionOf c), room := room, age := 0, tag := tag,
                         data := if data then bytes else [] }
  | some r =>
    match (d.region r).txn line with
    | none => d
    | some t =>
      if !t.toSnoop.contains (c, kind) then d
      else
        let (d, data, tag) := d.snooped c line kind
        let takes := kind == .snpx || kind == .snpi
        (if data then d.served r t.stamp else d).modTxn line (fun t =>
          { t with toSnoop := t.toSnoop.filter (· != (c, kind)), gotData := t.gotData || data, ownerDirty := t.ownerDirty || data,
                   slotTag := if takes && tag.isSome then tag else t.slotTag })

/-- The combined answer of a system region reaches the home; one from another package says whether the region keeps a copy, and brings the data
of a dirty line, with the tag of the eviction slot that it came from, whose EvD is stale where the snoop took it (R281). -/
def Dev.homeRsp (d : Dev) (region line : Nat) (held : Bool) (tag : Option (BitVec 12)) (data : List Byte) : Dev :=
  match d.txnOf line with
  | none => d
  | some t =>
    let own := region / 8 == d.pkg
    if !t.awaiting.contains region || t.toSnoop.any (fun p => d.sysRegion (regionOf p.1) == region) then d
    else
      let got := !own && data.length == 64
      let d := if got then d.poke (spread (line * 64) data) else d
      let t' := { t with awaiting := t.awaiting.filter (· != region), gotData := t.gotData || got, ownerDirty := t.ownerDirty || got,
                         heldBy := if !own && held && t.kind == .rds then region :: t.heldBy else t.heldBy,
                         slotTag := if !own && tag.isSome && t.kind != .rds && t.kind != .rdc then tag else t.slotTag }
      let d := d.modTxn line (fun _ => t')
      let d := match d.homeLocal line with
        | some r => if got then d.served r t.stamp else d
        | none => d
      let d := match d.homeLocal line with
        | some r => if own || t.kind == .rdc then d else d.modRegion r (fun g => { g with l3 := g.l3.map (fun (e : L3Line) =>
            if e.line != line then e
            else if t.kind == .rds then { e with st := if got then .o else if e.owner == region && e.st == .x then .s else e.st }
            else d.dirMerge { e with vec := e.vec &&& ~~~ (BitVec.ofNat 32 (2 ^ region)) }) })
        | none => d
      if t'.ready && !d.readsNow t && t'.kind != .upg && (t'.kind == .wrf || t'.kind == .wrp || !t'.gotData) then d.toChannel t' else d

/-! ### Fills and grants -/

/-- The grant of a read (Table 12.4): W for an RdX; for an RdS, S beside other copies, else E. -/
def Dev.grantOf (d : Dev) (t : Txn) : Moesi :=
  if t.kind != .rds then .m
  else if t.ownerDirty || !t.heldBy.isEmpty || !(d.listed t.line).isEmpty ||
      ((d.l3Line t.line).map (fun e => d.farVec e != 0)).getD false then .s else .e

/-- The hints among the requests of a miss register, once its fill is there: each is carried out where its line allows it (R264), and one that needs
write permission under a read requests the upgrade (R260). -/
def Dev.fillHints (d : Dev) (line : Nat) (m : MissReg) : Dev :=
  each ((m.core, m.use) :: m.secs) (fun d q =>
    match q.2 with
    | .hint kind nt =>
      match d.l2St (q.1 / 4) line with
      | none => d
      | some st =>
        if (kind == 1 || kind == 3) && (st == .s || st == .o) then d.missRequest q.1 line .upg q.2 0 else d.hintLine q.1 kind line nt
    | _ => d) d

/-- A line enters a cluster's L2 in the ways of its miss register's room (R254, R260); the cluster wakes for it. The fill waits while the victim of
the register is in its slot (R262). None while it waits. -/
def Dev.install (d : Dev) (c i : Nat) (m : MissReg) (st : Moesi) : Option Dev :=
  if (Sparse.get none (d.cluster c).slots i).isSome then none
  else
    let d := d.wake c
    match (d.l2Victim m.core m.room m.line).filter (fun e => e.st.dirty) with
    | some e => some (d.toSlot c i e)
    | none =>
      let d := match d.l2Victim m.core m.room m.line with
        | some e => d.l2Evict c e.line
        | none => d
      let d := match d.l2Way m.core m.room m.line with
        | some w =>
          let e : L2Line := { line := m.line, way := w, st := st, room := m.room }
          d.modCluster c (fun x => { x with l2 := e :: x.l2.filter (fun y => y.line != m.line) })
        | none => d
      some (d.modCluster c (fun x => { x with miss := x.miss.filter (fun p => p.1 != i) }))

/-- The line as the channel serves it takes an L3 way (R278), its entry naming the regions of other packages that keep a copy. -/
def Dev.txnFill (d : Dev) (r : Nat) (t : Txn) : Dev :=
  if t.gotData then d
  else (d.l3Fill r t.line t.room).modRegion r (fun g => { g with l3 := g.l3.map (fun (e : L3Line) =>
    if e.line == t.line && !t.heldBy.isEmpty then { e with vec := t.heldBy.foldl (fun v q => v ||| BitVec.ofNat 32 (2 ^ q)) e.vec, st := .s }
    else e) })

/-- The home's entry after another package's cluster takes a line: its region holds it,
beside what this package holds. -/
def Dev.farHolds (d : Dev) (t : Txn) (st : Moesi) : Dev :=
  match d.homeLocal t.line with
  | none => d
  | some r =>
    let q := t.requester / 4
    d.modRegion r (fun g => { g with l3 := g.l3.map (fun (e : L3Line) =>
      if e.line != t.line then e
      else if st == .s then d.dirMerge { e with vec := e.vec ||| BitVec.ofNat 32 (2 ^ q) }
      else { e with vec := BitVec.ofNat 32 (2 ^ q), owner := q, st := .x }) })

/-- Data: the fill reaches its requester. A cluster installs it; an engine takes the bytes of its RdC (R282); for another package it leaves over the
link. From a home in another package it brings the bytes and the grant (0 S, 1 E, 2 W). -/
def Dev.installData (d : Dev) (dest line grant : Nat) (data : List Byte) : Dev :=
  match d.homeLocal line with
  | none =>
    match (d.ownCluster dest).bind (fun c => (d.missOf c line).map (fun p => (c, p))) with
    | none =>
      if data.length == 64 && d.hubOut.any (fun q => q.requester == dest && q.line == line && q.kind == TxnKind.rdc) then
        let sent := dropFirst (fun q => q.requester == dest && q.line == line && q.kind == TxnKind.rdc) d.hubOut
        (({ d with hubOut := sent }).emit (.readData dest line data)).hubNext
      else d
    | some (c, i, m) =>
      let st : Moesi := if grant == 0 then .s else if grant == 1 then .e else .m
      match if data.length == 64 then d.install c i m st else none with
      | none => d
      | some d' =>
        if (d'.missOf c line).isSome then d'
        else ((d'.poke (spread (line * 64) data)).sendTo (((d.homeOf (line * 64)).getD 0) / 8)
          { kind := .cmp, line := line, requester := dest, room := m.room, age := 0, tag := none, data := [] }).fillHints line m
  | some r =>
    match (d.region r).txn line with
    | none => d
    | some t =>
      if !t.ready || t.requester != dest || (d.chanWaits line && !t.gotData) then d
      else match t.kind with
        | .rdc => (d.emit (.readData dest line (d.bytes (line * 64) 64))).closeTxn line
        | .rds | .rdx =>
          let st := d.grantOf t
          match d.ownCluster dest with
          | none =>
            ((((d.txnFill r t).farHolds t st).modTxn line (fun t => { t with sent := true, installed := true }))).sendTo (dest / 32)
              { kind := .data st, line := line, requester := dest, room := t.room, age := 0, tag := none,
                data := spread (line * 64) (d.bytes (line * 64) 64) }
          | some c =>
            match d.missOf c line with
            | none => d
            | some (i, m) =>
              match d.install c i m st with
              | none => d
              | some d' =>
                if (d'.missOf c line).isSome then d'
                else (((d'.txnFill r t).modTxn line (fun t => { t with sent := true, installed := true })).dirRefresh line).fillHints line m
        | _ => d

/-- Grant: the requester receives write permission without data. -/
def Dev.installGrant (d : Dev) (dest line : Nat) : Dev :=
  let own := fun (d : Dev) (c : Nat) => (d.modCluster c (fun x =>
    { x with l2 := x.l2.map (fun y => if y.line == line then { y with st := .m } else y)
             miss := x.miss.filter (fun p => p.2.line != line) }))
  match d.homeLocal line with
  | none =>
    match d.ownCluster dest, d.homeOf (line * 64) with
    | some c, some p =>
      if (d.missOf c line).isNone then d
      else (own d c).sendTo (p / 8)
        { kind := .cmp, line := line, requester := dest, room := ((d.missOf c line).map (fun q => q.2.room)).getD 0, age := 0, tag := none, data := [] }
    | _, _ => d
  | some r =>
    match (d.region r).txn line with
    | none => d
    | some t =>
      if !t.ready || t.requester != dest || t.kind != .upg then d
      else
        let done := fun (d : Dev) => d.modTxn line (fun t => { t with sent := true, installed := true })
        match d.ownCluster dest with
        | some c => (done (own d c)).dirRefresh line
        | none => (done (d.farHolds t .m)).sendTo (dest / 32)
            { kind := .grant, line := line, requester := dest, room := t.room, age := 0, tag := none, data := [] }

/-- Cmp closes a read or upgrade transaction, but for one that waits for the stale EvD of the slot that answered it (R281). -/
def Dev.homeCmp (d : Dev) (dest line : Nat) : Dev :=
  match d.homeLocal line, d.txnOf line with
  | some r, some t =>
    if !(t.installed && t.requester == dest && t.kind != .evd && !t.cmp) then d
    else if t.slotTag.isNone then d.closeTxn line
    else (d.modTxn line (fun t => { t with cmp := true })).grantWaiting r
  | _, _ => d

/-- An EvD reaches the home (R281): of a slot of this package by its tag, or from another package with its room, its age and its bytes. -/
def Dev.homeEvd (d : Dev) (tag : BitVec 12) (line room age : Nat) (data : List Byte) : Dev :=
  match d.homeLocal line with
  | none => d
  | some r =>
    if (d.region r).waitQ.any (fun q => q.tag == some tag) then d
    else
      let q : HomeReq := { kind := .evd, line := line, requester := tag.toNat / 32, room := room, stamp := d.stampOf age, bytes := [], tag := some tag }
      if tag.toNat / 1024 == d.pkg then
        match d.tagSlot tag with
        | some (_, _, v) => if v.line == line && !v.granted then d.atHome r { q with room := v.room, stamp := v.stamp } else d
        | none => d
      else if data.length == 64 then d.atHome r { q with bytes := spread (line * 64) data } else d

/-- The region notice: the bit of a region that holds the line no more is cleared (R274). -/
def Dev.homeRgn (d : Dev) (region line : Nat) : Dev :=
  match d.homeLocal line with
  | none => d
  | some r =>
    if region / 8 == d.pkg then (if (d.listed line).any (fun c => d.sysRegion (regionOf c) == region) then d else d.dirRefresh line)
    else d.modRegion r (fun g => { g with l3 := g.l3.map (fun (e : L3Line) => if e.line == line then
      d.dirMerge { e with vec := e.vec &&& ~~~ (BitVec.ofNat 32 (2 ^ region)), st := if e.owner == region then .s else e.st } else e) })

/-- The EvAck of a line frees the eviction slots that hold it, their EvD taken. -/
def Dev.freeSlots (d : Dev) (line : Nat) : Dev :=
  { d with clusters := d.clusters.map (fun (k, x) => (k, { x with slots := x.slots.map (fun (i, e) =>
    (i, match e with
        | some v => if v.line == line && (v.granted || (d.homeLocal line).isNone) then none else some v
        | none => none)) })) }

/-- The Ack of an uncached write, which performs it once the channel has taken it (R279), or the EvAck that frees an eviction slot. From a home in
another package it is for the cluster or the engine that it names. -/
def Dev.homeAck (d : Dev) (dest line : Nat) : Dev :=
  match d.homeLocal line, d.txnOf line with
  | some r, some t =>
    if t.kind == .evd then
      if d.writeWaits line then d
      else
        let d := (d.freeSlots line).closeTxn line
        if d.requesterPkg t.requester == d.pkg then d
        else d.sendTo (t.requester / 32)
          { kind := .ack, line := line, requester := t.requester, room := t.room, age := 0, tag := t.slotTag, data := [] }
    else if t.cmp then
      if (t.slotTag.bind d.tagSlot).any (fun p => p.2.2.granted) then (d.freeSlots line).closeTxn line else d
    else if t.ready && t.kind.isWrite && !d.writeWaits line then
      let d := (d.engineLand t.requester t.room t.bytes).modTxn line (fun t => { t with sent := true, installed := true })
      (if t.slotTag.isNone then d.closeTxn line else (d.modTxn line (fun t => { t with cmp := true })).grantWaiting r).hubNext
    else d
  | _, _ =>
    if dest < 128 then d.freeSlots line
    else ({ d with hubOut := dropFirst (fun q => q.requester == dest && q.line == line && q.kind.isWrite) d.hubOut }).hubNext

/-! ### Completing what is open (Table 12.6) -/

/-- A transaction waits for nothing of another package: no region's answer, no requester's Cmp, no stale EvD. -/
def Dev.answersHere (d : Dev) (t : Txn) : Bool :=
  t.awaiting.all (fun p => p / 8 == d.pkg) && d.requesterPkg t.requester == d.pkg &&
    (t.kind == .evd || t.slotTag.all (fun g => g.toNat / 1024 == d.pkg))

/-- Complete the open transaction of a line: the snoops of this package are answered, the fill or grant is installed, and the EvD that it waits
for is taken; its transfers take their slots all the same. One that waits for another package stays open for that answer. -/
def Dev.finishTxn (d : Dev) (line : Nat) : Dev :=
  match d.txnOf line, d.homeLocal line with
  | some t, some r =>
    if !d.answersHere t then d
    else
      let d := each t.toSnoop (fun d p => d.answerSnoop p.1 line t.room p.2) d
      let d := each t.awaiting (fun d p => d.homeRsp p line false none []) d
      let d := d.modRegion r (fun g => { g with chanQ := g.chanQ.map (fun q => if q.line == line then { q with posted := true } else q) })
      let d := iter (fun d =>
        let d := ((d.installData t.requester line 0 []).installGrant t.requester line).homeCmp t.requester line
        match (d.ownCluster t.requester).bind (fun c => (d.missOf c line).map (fun p => (c, p.1))) with
        | some (c, i) => d.emptySlot c i
        | none => d) 2 d
      let d := match d.txnOf line with
        | some u => match u.slotTag with
          | some tag => if u.cmp then d.grantStale r line tag else d
          | none => d
        | none => d
      (d.homeAck t.requester line).grantWaiting r
  | _, _ => d

/-- Complete every transaction at the homes of this package (Table 13.4: a swap point). -/
def Dev.finishAllTxns (d : Dev) : Dev :=
  each (List.range 8) (fun d r => each (d.region r).txns (fun d t => d.finishTxn t.line) d) d

/-- Complete every transaction of some clusters at the homes of this package (R283, Table 12.6: a rollback, a swap point). -/
def Dev.finishTxns (d : Dev) (cs : List Nat) : Dev :=
  each (List.range 8) (fun d r =>
    each ((d.region r).txns.filter (fun t => match d.ownCluster t.requester with
      | some c => cs.contains c
      | none => false)) (fun d t => d.finishTxn t.line) d) d

/-- What some clusters have under way at the homes of this package ends, and their eviction slots are written back; then the homes grant what
waited. A miss whose home or whose snooped region lies in another package keeps its register until the fill comes. -/
def Dev.quiet (d : Dev) (cs : List Nat) : Dev :=
  let mine := fun (q : HomeReq) => ((d.ownCluster q.requester).map cs.contains).getD false
  let d := each (List.range 8) (fun d r => d.modRegion r (fun g => { g with waitQ := g.waitQ.filter (fun q => !mine q) })) d
  let d := each cs (fun d c => d.flushSlots c) (d.finishTxns cs)
  let d := each cs (fun d c => d.modCluster c (fun x => { x with miss := x.miss.filter (fun p =>
    (d.homeLocal p.2.line).isNone || (d.txnOf p.2.line).isSome) })) d
  each (List.range 8) (fun d r => d.grantWaiting r) d

end Sys2Proof.Machine
end

