-- ==== Sys2Proof/Machine/Access.lean ====
section
/-!
DEFINITION. Accesses of a context: translation and TLBs (09_translation_privilege.md), the room check (R228, R340, R245),
the undo log (R332 to R334), the store buffer (R196, R197), and reads and writes of DRAM through them.
-/
namespace Sys2Proof.Machine

/-- An exception, as its syndrome names it (Table 17.5): `cls` is the priority number of Table 5.2, or 0x8 SYSCALL. -/
structure Exc where
  cls : Nat
  kind : Nat := 0
  code : Nat := 0
  level : Nat := 0
  wr : Bool := false
  number : Nat := 0
  va : Word := 0
  /-- The ring block of the SPILLW that faults (Table 6.4), or 0. -/
  block : Nat := 0
  /-- Start of the access whose translation was tried: its walks have been made (R224). -/
  start : Option Word := none
  deriving DecidableEq, Repr

/-- Kind of an access (Table 9.7); an LLK, `link`, is a read whose leaf must grant both R and W (R227, notes/assumptions/56.md). -/
inductive AccKind where
  | read | link | write | rmw | fetch
  deriving DecidableEq, Repr

def AccKind.reads : AccKind → Bool
  | .read => true
  | .link => true
  | .rmw => true
  | _ => false
def AccKind.writes : AccKind → Bool
  | .write => true
  | .rmw => true
  | _ => false

/-! ### The room check (R228) -/

/-- The implicit view-page window (R65): the page of the room's slot in each package where it holds one. -/
def Dev.inViewPage (d : Dev) (id pa : Nat) : Bool :=
  match d.plan.room id with
  | some r =>
    let s := r.slots.getD (paPkg pa) 0xFF
    decide (s < 64) && paOfs pa / 0x10000 == (regBase + 0x0F000000) / 0x10000 + s
  | none => false

/-- Room check of one byte: 0 passes, else the row of Table 9.6 (9 to 12). -/
def Dev.checkByte (d : Dev) (slot id : Nat) (secure nxf : Bool) (k : AccKind) (pa : Nat) : Nat :=
  if d.inViewPage id pa then (if k == .fetch then 10 else 0)
  else match d.plan.windowAt id pa with
    | none => 9
    | some w =>
      let half := match d.plan.mboxAt pa with
        | some m =>
          let recv := decide (m.bufPa + m.bufSize / 2 ≤ pa)
          k != .fetch && (if m.sender == id then !recv else if m.receiver == id then recv && !k.writes else false)
        | none => true
      let perm := (!k.reads || w.perm.testBit 0) && (!k.writes || w.perm.testBit 1) &&
        (k != .fetch || w.perm.testBit 2)
      if !(perm && half) then 10
      else
        let below := decide (pa - w.base < d.wmark slot w)
        if !secure && below then 11
        else if secure && k == .fetch && nxf && !below then 12
        else 0

/-- The first row that any byte of a range fails, in the order of the rows (R228: every byte passes step 1 first). -/
def Dev.checkRange (d : Dev) (slot id : Nat) (secure nxf : Bool) (k : AccKind) (pa n : Nat) : Nat :=
  let rs := (List.range n).map (fun i => d.checkByte slot id secure nxf k (pa + i))
  if rs.contains 9 then 9 else if rs.contains 10 then 10 else if rs.contains 11 then 11
  else if rs.contains 12 then 12 else 0

/-- The exception of a row of Table 9.6: a fetch reports F with the row group as its KIND (R229, Table 17.5). -/
def rowExc (row level : Nat) (k : AccKind) (va : Word) : Exc :=
  let code := if row < 9 then row else if row == 9 || row == 11 then 1 else 2
  let grp := if row < 9 then 0 else if row < 11 then 1 else 2
  if k == .fetch then { cls := 0, kind := grp, code := code, level := level, va := va }
  else { cls := 4 + grp, code := code, level := level, wr := k.writes, va := va }

/-! ### The undo log (R332 to R334) -/

/-- Undo entries of a room's share in a cluster (R333). -/
def Dev.undoShare (d : Dev) (slot c : Nat) : Nat :=
  let a := d.plan.roomA d.pkg c
  match d.plan.roomB d.pkg c with
  | none => 7281
  | some _ =>
    let na := ((List.range 4).filter (fun k => d.plan.coreRoom d.pkg (c * 4 + k) == a)).length
    let shareA := 7281 * na / 4
    if a == some (d.idOf slot) then shareA else 7281 - shareA

def Dev.undoUsed (d : Dev) (slot c : Nat) : Nat := ((d.cluster c).undo.filter (fun e => e.slot == slot)).length
def Dev.undoFree (d : Dev) (slot c : Nat) : Nat := d.undoShare slot c - d.undoUsed slot c

/-- A line's pre-image of the current epoch of the room is in the log of one of its clusters. -/
def Dev.logged (d : Dev) (slot line : Nat) : Bool :=
  (d.clustersOf slot).any (fun c => (d.cluster c).undo.any (fun e =>
    e.slot == slot && e.kind != .trestle && e.addr == line && e.epoch == (d.room slot).epo.cnt))

/-- The lines of a write that need an undo entry: those that hold a byte outside the non-rollback areas and are not yet
logged in this epoch (R332, R344). -/
def Dev.toLog (d : Dev) (slot : Nat) (l : List (Nat × Byte)) : List Nat :=
  (linesOf (l.filter (fun (a, _) => paKind a == .dram && !d.nonRollback (d.idOf slot) a))).filter
    (fun n => !d.logged slot n)

/-- Nodes whose output buffers received a write in an epoch of a room (kind 2 entries, R338). -/
def Dev.writtenNodes (d : Dev) (slot epoch : Nat) : List Nat :=
  ((d.clustersOf slot).flatMap (fun c => ((d.cluster c).undo.filter (fun e =>
    e.slot == slot && e.epoch == epoch && e.kind == .output)).flatMap (fun e => d.outNodes (d.idOf slot) e.addr))).eraseDups

/-- Output image of a node as it stands in memory. -/
def Dev.outImage (d : Dev) (n : Nat) : List Byte :=
  match d.plan.node d.pkg n with
  | some r => d.bytes r.outPa r.outSize
  | none => []

/-- The copier reads a node's image into staged copy (k mod 2), once (R338). -/
def Dev.stageNode (d : Dev) (n k : Nat) : Dev :=
  d.modNode n (fun x =>
    if k % 2 == 0 then { x with staged0 := some (x.staged0.getD (d.outImage n)) }
    else { x with staged1 := some (x.staged1.getD (d.outImage n)) })

/-- A first write to an output line that the boundary's snapshot has not yet read waits for the copier, which serves it next (R339). -/
def Dev.copierFirst (d : Dev) (slot : Nat) (nodes : List Nat) : Dev :=
  let e := (d.room slot).epo
  if e.snapDue then
    each (nodes.filter (fun n => (d.writtenNodes slot (e.cnt - 1)).contains n)) (fun d n => d.stageNode n e.cnt) d
  else d

/-- Log lines in the current epoch, newest first. -/
def Dev.logLines (d : Dev) (slot c : Nat) (lines : List Nat) : Dev :=
  each lines (fun d n =>
    let nodes := d.outNodes (d.idOf slot) n
    let kind : UndoKind := if nodes.isEmpty then .line else .output
    (d.copierFirst slot nodes).modCluster c (fun x => { x with undo :=
      { slot := slot, epoch := (d.room slot).epo.cnt, kind := kind, addr := n, pre := d.bytes (n * 64) 64 } :: x.undo }))
    d

/-- Whether the entries that a write needs are free (R334); a write that finds none waits. -/
def Dev.undoReady (d : Dev) (slot c : Nat) (l : List (Nat × Byte)) : Bool :=
  decide ((d.toLog slot l).length ≤ d.undoFree slot c)

/-! ### Translation (R216 to R229) -/

/-- The world, level and room an access is made with. -/
structure Who where
  core : Nat
  ctx : Nat
  slot : Nat
  id : Nat
  secure : Bool
  pl : Nat
  nxf : Bool
  deriving DecidableEq, Repr

def Dev.who (d : Dev) (core : Nat) : Who :=
  let ctx := d.curCtx core
  let x := d.ctx ctx
  { core := core, ctx := ctx, slot := (d.coreSlot core).getD 0, id := (d.coreRoom core).getD 0, secure := x.secure,
    pl := x.pl, nxf := x.wctl.getLsbD 1 }

/-- A VA is canonical when bits [63:48] equal bit 47 (R220). -/
def canonical (va : Word) : Bool := va == (va.truncate 48).signExtend 64

/-- Byte offset width of a page. -/
def PageSize.bits : PageSize → Nat
  | .k4 => 12
  | .k64 => 16
  | .m2 => 21
  | .g1 => 30

/-- Level at which a page's leaf stands (Table 9.4). -/
def PageSize.level : PageSize → Nat
  | .g1 => 2
  | .m2 => 3
  | _ => 4

def TlbEntry.hits (e : TlbEntry) (room : Nat) (secure : Bool) (asid : BitVec 16) (va : Nat) : Bool :=
  e.room == room && e.secure == secure && (e.g || e.asid == asid) && e.va / 2 ^ e.size.bits == va / 2 ^ e.size.bits

/-- Set of the L2 TLB (Table 9.8). -/
def tlbSet (size : PageSize) (va : Nat) : Nat := (va / 2 ^ size.bits) % 512

def Core.tlbSetOf (c : Core) (i : Nat) : List TlbEntry := Sparse.get [] c.tlb2 i

/-- Look a VA up in both TLBs (R230, R231). -/
def Core.tlbFind (c : Core) (room : Nat) (secure : Bool) (asid : BitVec 16) (va : Nat) : Option TlbEntry :=
  match c.tlb1.find? (fun e => e.hits room secure asid va) with
  | some e => some e
  | none => [PageSize.k4, .k64, .m2, .g1].findSome? (fun z =>
      (c.tlbSetOf (tlbSet z va)).find? (fun e => e.size == z && e.hits room secure asid va))

/-- Use a translation: most recently used in both TLBs; what leaves the L2 TLB leaves the L1 TLB (R230, R232). -/
def Core.tlbUse (c : Core) (e : TlbEntry) : Core :=
  let same := fun (x : TlbEntry) => x.room == e.room && x.secure == e.secure && x.asid == e.asid && x.g == e.g &&
    x.size == e.size && x.va == e.va
  let i := tlbSet e.size e.va
  let set := e :: (c.tlbSetOf i).filter (fun x => !same x)
  let l1 := ((e :: c.tlb1.filter (fun x => !same x)).filter (fun x => !(set.drop 4).contains x)).take 48
  { c with tlb1 := l1, tlb2 := Sparse.insert c.tlb2 i (set.take 4) }

/-- Install a walked translation: an entry that matches the same VA, of whatever page size, gives way to it, and with a 64 KiB entry every 4 KiB
entry of its group, so that each VA translates as the entry walked last (R223). -/
def Core.tlbInstall (c : Core) (e : TlbEntry) (va : Nat) : Core :=
  let old := fun (x : TlbEntry) => (x.hits e.room e.secure (if e.g then x.asid else e.asid) va) ||
    (e.size == .k64 && x.size == .k4 && e.hits x.room x.secure (if x.g then e.asid else x.asid) x.va)
  ({ c with tlb1 := c.tlb1.filter (fun x => !old x)
            tlb2 := c.tlb2.map (fun p => (p.1, p.2.filter (fun x => !old x))) } : Core).tlbUse e

/-- Result of a walk: the leaf, its address and level, and the entries read. -/
structure Leaf where
  entry : Nat
  addr : Nat
  level : Nat
  lines : List Nat
  deriving DecidableEq, Repr

/-- Bits of a VA below its index at a level (Table 9.4). -/
def levelShift (l : Nat) : Nat := 12 + 9 * (4 - l)

/-- A leaf that breaks Table 9.5: reserved bits, page alignment, W without R, CH above level 4. -/
def badLeaf (e l : Nat) : Bool :=
  let ch := e.testBit 9
  let low := if l == 4 then (if ch then 16 else 12) else levelShift l
  field e (low - 1) 12 != 0 && decide (12 < low) || (e.testBit 3 && !e.testBit 2) || (ch && l != 4) || l == 1

/-- A table entry that breaks Table 9.5; its bits 3:2, the permissions of a leaf, are ignored in it (DESIGN CHOICE,
notes/assumptions/85.md). -/
def badTable (e l : Nat) : Bool := l == 4 || field e 9 4 != 0

/-- A table entry lies in a DRAM window of the room and passes the room check (R225, R228). -/
def Dev.tableOk (d : Dev) (w : Who) (a : Nat) (k : AccKind) : Bool :=
  (match d.plan.windowAt w.id a with
   | some x => x.kind == 0
   | none => false) && d.checkByte w.slot w.id w.secure false k a == 0

/-- The walk (R221, R222, R224, R225): levels still to visit, table address. A failure is its row of Table 9.6 with the
level. -/
def Dev.walk (d : Dev) (w : Who) (va : Nat) : List Nat → Nat → List Nat → Except (Nat × Nat) Leaf
  | [], _, _ => .error (5, 4)
  | l :: rest, table, seen =>
    let a := table + ((va >>> levelShift l) % 512) * 8
    if !d.tableOk w a .read then .error (3, l)
    else
      let e := leNat (d.bytes a 8)
      if !e.testBit 0 then .error (4, l)
      else if field e 58 52 != 0 || field e 11 10 != 0 then .error (5, l)
      else if e.testBit 1 then
        if badLeaf e l then .error (5, l) else .ok { entry := e, addr := a, level := l, lines := (a / 64) :: seen }
      else if badTable e l then .error (5, l)
      else d.walk w va rest (field e 51 12 * 4096) ((a / 64) :: seen)

/-- Rows 6 and 7 of Table 9.6 for a leaf's attributes: 0 when it permits the access. -/
def permRow (r wr x u : Bool) (pl : Nat) (k : AccKind) : Nat :=
  if pl == 0 && !u then 6
  else if k == .fetch && pl != 0 && u then 6
  else if (k.reads && !r) || (k == .link && !wr) || (k.writes && !wr) || (k == .fetch && !x) then 7
  else 0

def pageSizeOf (level : Nat) (ch : Bool) : PageSize :=
  if level == 2 then .g1 else if level == 3 then .m2 else if ch then .k64 else .k4

/-- The value that the locked update of A and D writes into a leaf for an access (R226); none when both stand already. -/
def Leaf.update (l : Leaf) (k : AccKind) : Option Nat :=
  if !l.entry.testBit 7 || (k.writes && !l.entry.testBit 8) then some (l.entry ||| 2 ^ 7 ||| (if k.writes then 2 ^ 8 else 0)) else none

/-- The walker's locked update of A and D (R226): an ordinary logged write that clears reservations. A store that another core has buffered
for the line is written first (R196). -/
def Dev.setAD (d : Dev) (w : Who) (a e : Nat) : Dev :=
  let l := spread a (leBytes 8 e)
  let d := d.yieldStores w.core [a / 64]
  let d := d.logLines w.slot (w.core / 4) (d.toLog w.slot l)
  let d := (d.touchLine w.core (a / 64) true false).clearResv (a / 64) none
  d.poke l

/-- Translate one VA for an access: the device after TLB and A/D upkeep, the PA and the leaf level, or the row of Table
9.6 with its level (rows 1 to 8). -/
def Dev.translate (d : Dev) (w : Who) (va : Word) (k : AccKind) : Except (Nat × Nat) (Dev × Nat × Nat) :=
  let x := d.ctx w.ctx
  let root := x.ptbase w.secure
  if !canonical va then .error (1, 0)
  else if !root.getLsbD 0 then
    if va.toNat < 0x400000000000 then
      if w.pl == 0 then .error (6, 0) else .ok (d, d.pkg * 2 ^ 50 + va.toNat, 0)
    else .error (2, 0)
  else
    let v := va.toNat % 2 ^ 48
    let asid := x.asid w.secure
    let hit := (d.core w.core).tlbFind w.id w.secure asid v
    let finish := fun (d : Dev) (e : TlbEntry) (new : Bool) =>
      (d.modCore w.core (fun c => if new then c.tlbInstall e v else c.tlbUse e), e.pa + v % 2 ^ e.size.bits, e.size.level)
    let walk := fun (_ : Unit) =>
      match d.walk w v [1, 2, 3, 4] (field root.toNat 51 12 * 4096) [] with
      | .error r => Except.error r
      | .ok leaf =>
        let e := leaf.entry
        let row := permRow (e.testBit 2) (e.testBit 3) (e.testBit 4) (e.testBit 5) w.pl k
        if row != 0 then .error (row, leaf.level)
        else
          let upd := leaf.update k
          if upd.isSome && !d.tableOk w leaf.addr .write then .error (8, leaf.level)
          else
            let d := each leaf.lines.reverse (fun d n => d.l2Get w.core n false false) d
            let d := match upd with
              | some e' => d.setAD w leaf.addr e'
              | none => d
            let size := pageSizeOf leaf.level (e.testBit 9)
            .ok (finish d
              { room := w.id, secure := w.secure, asid := asid, g := e.testBit 6, size := size,
                va := v / 2 ^ size.bits * 2 ^ size.bits,
                pa := field e 51 12 * 4096 / 2 ^ size.bits * 2 ^ size.bits,
                r := e.testBit 2, w := e.testBit 3, x := e.testBit 4, u := e.testBit 5,
                d := (upd.getD e).testBit 8 } true)
    match hit with
    | some e =>
      let row := permRow e.r e.w e.x e.u w.pl k
      if row != 0 then .error (row, e.size.level)
      else if k.writes && !e.d then walk ()
      else .ok (finish d e false)
    | none => walk ()

/-! ### Whole accesses -/

/-- A piece of an access inside one page: PA and length. -/
abbrev Piece := Nat × Nat

/-- Split a VA range at the boundaries of pages of 2^`b` bytes; an access is at most 4 KiB long, so it lies in at most two pages. -/
def pieces (va : Word) (n b : Nat) : List (Word × Nat) :=
  let room := 2 ^ b - va.toNat % 2 ^ b
  if n ≤ room then [(va, n)] else [(va, room), (va + BitVec.ofNat 64 room, n - room)]

/-- Byte offset width of the page that a VA lies in, once its translation is there; without translation the range of R218. -/
def Dev.pageBits (d : Dev) (w : Who) (va : Word) : Nat :=
  let x := d.ctx w.ctx
  if (x.ptbase w.secure).getLsbD 0 then
    (((d.core w.core).tlbFind w.id w.secure (x.asid w.secure) (va.toNat % 2 ^ 48)).map (fun e => e.size.bits)).getD 12
  else 46

/-- Demands on the kind of memory an access reaches (R143, R144), checked after row 8 and before row 9. -/
inductive Target where
  /-- LD, LDX, ST: outside DRAM the item must be aligned (R143, R6). -/
  | item
  /-- LLK, STC, read-modify-write: DRAM only (R144). -/
  | atomic
  /-- Anything else. -/
  | any
  deriving DecidableEq, Repr

/-- One piece of an access to `n0` bytes at `va0`: translation, the target kind, the room check. -/
def Dev.checkPiece (d : Dev) (w : Who) (va0 : Word) (n0 : Nat) (k : AccKind) (t : Target) (p : Word × Nat) :
    Except Exc (Dev × Piece) :=
  match d.translate w p.1 k with
  | .error (row, level) => .error { rowExc row level k p.1 with start := some va0 }
  | .ok (d, pa, level) =>
    let kind := paKind pa
    if t == Target.atomic && kind != PaKind.dram then
      .error { cls := 3, kind := 1, wr := k.writes, va := p.1, start := some va0 }
    else if t == Target.item && kind != PaKind.dram && kind != PaKind.none && va0.toNat % n0 != 0 then
      .error { cls := 3, kind := 0, wr := k.writes, va := p.1, start := some va0 }
    else
      let row := d.checkRange w.slot w.id w.secure w.nxf k pa p.2
      if row != 0 then .error { rowExc row level k p.1 with start := some va0 } else .ok (d, (pa, p.2))

/-- Check an access: every row of Table 9.6 for the lower page, then for the higher (R229). On success the device with
its translations installed, and the pieces; a failure changes nothing (R136). -/
def Dev.checkAccess (d : Dev) (w : Who) (va : Word) (n : Nat) (k : AccKind) (t : Target) :
    Except Exc (Dev × List Piece) :=
  let b := match d.translate w va k with
    | .ok (d, _, _) => d.pageBits w va
    | .error _ => 12
  match pieces va n b with
  | [p] =>
    match d.checkPiece w va n k t p with
    | .error e => .error e
    | .ok (d, p) => .ok (d, [p])
  | [p, q] =>
    match d.checkPiece w va n k t p with
    | .error e => .error e
    | .ok (d, p) =>
      match d.checkPiece w va n k t q with
      | .error e => .error e
      | .ok (d, q) => .ok (d, [p, q])
  | _ => .ok (d, [])

/-! ### Reads and writes of DRAM by a core (R196, R197) -/

/-- A byte as a core's own loads see it: from its store buffer, youngest first, else coherent (R197). -/
def Dev.seen (d : Dev) (core pa : Nat) : Byte :=
  match (d.core core).sbuf.reverse.findSome? (fun e => e.bytes.findSome? (fun (a, b) =>
      if a == pa then some b else none)) with
  | some b => b
  | none => d.byte pa

def Dev.seenBytes (d : Dev) (core : Nat) (ps : List Piece) : List Byte :=
  ps.flatMap (fun (pa, n) => (List.range n).map (fun i => d.seen core (pa + i)))

/-- DRAM lines of the pieces of an access. -/
def dramLines (ps : List Piece) : List Nat :=
  ((ps.filter (fun p => paKind p.1 == .dram)).flatMap (fun p => (List.range p.2).map (fun i => (p.1 + i) / 64))).eraseDups

/-- Touch every DRAM line of the pieces in the caches; other addresses are uncached. -/
def Dev.touch (d : Dev) (core : Nat) (ps : List Piece) (wr nt : Bool) : Dev :=
  each (ps.filter (fun p => paKind p.1 == .dram)) (fun d (pa, n) =>
    each ((List.range n).map (fun i => (pa + i) / 64)).eraseDups (fun d line => d.touchLine core line wr nt) d) d

/-- Bytes of a store at its pieces. -/
def scatter : List Piece → List Byte → List (Nat × Byte)
  | [], _ => []
  | (pa, n) :: t, bs => spread pa (bs.take n) ++ scatter t (bs.drop n)

/-- A store to DRAM: its undo entries, its lines in M, and a place in the buffer of at most four (R196, R332). `keep` is the context whose
reservation it leaves. -/
def Dev.bufStore (d : Dev) (w : Who) (ps : List Piece) (bs : List Byte) (nt : Bool) (keep : Option Nat) : Dev :=
  let l := scatter ps bs
  let d := d.yieldStores w.core (linesOf l)
  let d := d.logLines w.slot (w.core / 4) (d.toLog w.slot l)
  let d := d.touch w.core ps true nt
  let d := if (d.core w.core).sbuf.length ≥ 4 then d.drainOne w.core else d
  d.modCore w.core (fun c => { c with sbuf := c.sbuf ++ [{ keep := keep, nt := nt, bytes := l }] })

/-- A write that is visible at once: of a locked access, a spill of the device, a Trestle store. Buffered stores go
first. -/
def Dev.storeNow (d : Dev) (w : Who) (ps : List Piece) (bs : List Byte) (nt : Bool) (keep : Option Nat) : Dev :=
  let l := scatter ps bs
  let d := (d.drain w.core).yieldStores w.core (linesOf l)
  let d := d.logLines w.slot (w.core / 4) (d.toLog w.slot l)
  let d := d.touch w.core ps true nt
  let d := each (linesOf l) (fun d n => d.clearResv n keep) d
  d.poke l

/-- The youngest buffered store that touches a range of pieces covers only part of it (Table 7.4). -/
def Dev.partialHit (d : Dev) (core : Nat) (ps : List Piece) : Bool :=
  let inPs := fun (a : Nat) => ps.any (fun p => decide (p.1 ≤ a) && decide (a < p.1 + p.2))
  match (d.core core).sbuf.reverse.find? (fun e => e.bytes.any (fun b => inPs b.1)) with
  | some e => !(ps.all (fun p => (List.range p.2).all (fun i => e.bytes.any (fun b => b.1 == p.1 + i))))
  | none => false

/-! ### Accesses that wait -/

/-- An access touches the span of a watermark move in progress, which holds it (R247). -/
def Dev.heldSpan (d : Dev) (slot : Nat) (ps : List Piece) : Bool :=
  let m := (d.room slot).wm
  m.busy && (match (d.plan.windowsOf (d.idOf slot)).find? (fun w => w.index == m.moving) with
    | some w =>
      let lo := min (d.wmark slot w) m.target
      let hi := max (d.wmark slot w) m.target
      ps.any (fun (pa, n) => overlap pa n (w.base + lo) (hi - lo))
    | none => false)

/-- The walk of a VA needs: the addresses of the entries it reads, down to one that fails or that a watermark move holds (R247), and that of the locked
update (R224 to R226). -/
def Dev.entriesRead (d : Dev) (w : Who) (va : Nat) : List Nat → Nat → List Nat
  | [], _ => []
  | l :: rest, table =>
    let a := table + ((va >>> levelShift l) % 512) * 8
    if d.heldSpan w.slot [(a, 8)] then [a]
    else if !d.tableOk w a .read then []
    else
      let e := leNat (d.bytes a 8)
      a :: (if e.testBit 0 && !e.testBit 1 then d.entriesRead w va rest (field e 51 12 * 4096) else [])

/-- An access to a VA walks: its context translates, the VA is canonical, and neither TLB serves it. -/
def Dev.walks (d : Dev) (w : Who) (va : Word) (k : AccKind) : Bool :=
  let x := d.ctx w.ctx
  (x.ptbase w.secure).getLsbD 0 && canonical va &&
    (match (d.core w.core).tlbFind w.id w.secure (x.asid w.secure) (va.toNat % 2 ^ 48) with
     | some e => permRow e.r e.w e.x e.u w.pl k == 0 && k.writes && !e.d
     | none => true)

/-- Root table of a context's walk. -/
def Dev.walkRoot (d : Dev) (w : Who) : Nat := field ((d.ctx w.ctx).ptbase w.secure).toNat 51 12 * 4096

/-- The entries that the walk of an access reads, and the address that it updates. -/
def Dev.walkPlan (d : Dev) (w : Who) (va : Word) (k : AccKind) : List Nat × Option Nat :=
  if !d.walks w va k then ([], none)
  else
    let v := va.toNat % 2 ^ 48
    (d.entriesRead w v [1, 2, 3, 4] (d.walkRoot w),
     match d.walk w v [1, 2, 3, 4] (d.walkRoot w) [] with
     | .ok leaf => if (leaf.update k).isSome && d.tableOk w leaf.addr .write then some leaf.addr else none
     | .error _ => none)

/-- The walk of an access waits: for a watermark move over a table (R247), for a line, or for the undo entry of its update (R226, R334). -/
def Dev.walkWaits (d : Dev) (w : Who) (va : Word) (k : AccKind) : Bool :=
  let (rs, upd) := d.walkPlan w va k
  rs.any (fun a => d.heldSpan w.slot [(a, 8)] || !d.lineReady w.core (a / 64) false .data) ||
    (match upd with
     | some a => !d.lineReady w.core (a / 64) true .data || !d.undoReady w.slot (w.core / 4) (spread a (List.replicate 8 0))
     | none => false)

/-- Lines leave as requests for an access that waits for them. -/
def Dev.askLines (d : Dev) (core : Nat) (lines : List Nat) (wr : Bool) (use : MissUse) : Dev :=
  each lines (fun d n => d.askLine core n wr use) d

def Dev.askWalk (d : Dev) (w : Who) (va : Word) (k : AccKind) : Dev :=
  let (rs, upd) := d.walkPlan w va k
  let d := d.askLines w.core (rs.map (· / 64)).eraseDups false .data
  match upd with
  | some a => d.askLines w.core [a / 64] true .data
  | none => d

/-- The entry reads of a walk that fails go through the core's L2 all the same (R224). -/
def Dev.walkTouch (d : Dev) (w : Who) (va : Word) (k : AccKind) : Dev :=
  each ((d.walkPlan w va k).1.map (· / 64)).eraseDups (fun d n => if d.lineReady w.core n false .data then d.l2Get w.core n false false else d) d

/-- The pages of an access, as checkAccess takes them. -/
def Dev.pagesOf (d : Dev) (w : Who) (va : Word) (n : Nat) (k : AccKind) : List (Word × Nat) :=
  pieces va n (match d.translate w va k with
    | .ok (d, _, _) => d.pageBits w va
    | .error _ => 12)

/-- PAs of an access, of the pages that translate. -/
def Dev.pasOf (d : Dev) (w : Who) (va : Word) (n : Nat) (k : AccKind) : List Piece :=
  (d.pagesOf w va n k).filterMap (fun p =>
    match d.translate w p.1 k with
    | .ok (_, pa, _) => some (pa, p.2)
    | .error _ => none)

/-- How an access comes out: it may go on, with its translations installed; it faults; or it waits, its misses on their way. -/
inductive Chk where
  | ok (d : Dev) (ps : List Piece)
  | exc (e : Exc)
  | wait (d : Dev)

/-- DRAM lines of an access are there for it, or come at once. -/
def Dev.linesReady (d : Dev) (core : Nat) (ps : List Piece) (wr : Bool) (use : MissUse) : Bool :=
  (dramLines ps).all (fun n => d.lineReady core n wr use)

/-- An access that has the core's buffered stores written before it: a load that one of them covers in part (R197), a store that finds the buffer full,
and an uncached store (R288). -/
def Dev.drainsFirst (d : Dev) (core : Nat) (k : AccKind) (ps : List Piece) : Bool :=
  (k.reads && d.partialHit core ps) ||
    (k.writes && (decide (4 ≤ (d.core core).sbuf.length) || ps.any (fun p => paKind p.1 != .dram)))

/-- An access of a context: its walks, the watermark move that holds it (R247), every row of Table 9.6, and its lines. -/
def Dev.access (d : Dev) (w : Who) (va : Word) (n : Nat) (k : AccKind) (t : Target) (use : MissUse) : Chk :=
  let vas := (d.pagesOf w va n k).map Prod.fst
  let upds := vas.filterMap (fun a => (d.walkPlan w a k).2)
  if vas.any (fun a => d.walkWaits w a k) || !d.undoReady w.slot (w.core / 4) (upds.flatMap (fun a => spread a (List.replicate 8 0))) then
    .wait (each vas (fun d a => d.askWalk w a k) d)
  else if d.heldSpan w.slot (d.pasOf w va n k) then .wait d
  else
    match d.checkAccess w va n k t with
    | .error e => .exc e
    | .ok (d', ps) =>
      let first := d'.drainsFirst w.core k ps
      if first && !d'.drainReady w.core then .wait (d'.askDrain w.core)
      else if d'.linesReady w.core ps k.writes use then .ok d' ps
      else .wait ((if first then d'.drain w.core else d').askLines w.core (dramLines ps) k.writes use)

/-! ### TLB invalidation (R233, R235) -/

def Core.tlbRemove (c : Core) (p : TlbEntry → Bool) : Core :=
  { c with tlb1 := c.tlb1.filter (fun e => !p e)
           tlb2 := c.tlb2.map (fun (i, l) => (i, l.filter (fun e => !p e))) }

/-- Invalidate on every core of a room. -/
def Dev.tlbRemove (d : Dev) (slot : Nat) (p : TlbEntry → Bool) : Dev :=
  each (d.coresOf slot) (fun d k => d.modCore k (fun c => c.tlbRemove p)) d

/-- Every entry of a room on its cores (R235). -/
def Dev.tlbRemoveRoom (d : Dev) (slot : Nat) : Dev := d.tlbRemove slot (fun e => e.room == d.idOf slot)

end Sys2Proof.Machine
end

