-- ==== Sys2Proof/Machine/Periph.lean ====
section
/-!
DEFINITION. The peripheral controllers as every reset sees them (R416, R464, R491): who owns one, whether it runs, what it has on its
wire, and its reset.
-/
namespace Sys2Proof.Machine

/-! ### Ownership and freezes (R416, R491) -/

/-- A room has a halted core. -/
def Dev.roomHalted (d : Dev) (slot : Nat) : Bool :=
  (d.coresOf slot).any (fun c => (d.core c).halted.isSome)

/-- A domain can serve at once. -/
def Dev.awake (d : Dev) (n : Nat) : Bool := (d.domain n).st == .on || (d.domain n).st == .gated

/-- Slot of the room that owns a peripheral controller. -/
def Dev.periphSlot (d : Dev) (b : Nat) : Option Nat := (d.plan.periphOwner d.pkg b).bind d.slotOf

/-- A halt of its room freezes the controller. -/
def Dev.perFrozen (d : Dev) (b : Nat) : Bool :=
  match d.periphSlot b with
  | some s => (d.room s).dbg.frz.getLsbD b && d.roomHalted s
  | none => false

/-- The controller's clock domain runs. -/
def Dev.perAwake (d : Dev) (b : Nat) : Bool := !d.clk.stopped && d.awake (105 + b)

/-- Peripheral controllers a room owns, by bit of ROOM_RST.PERIPH (R416, Table 21.5). -/
def Dev.ownsPeriph (d : Dev) (slot b : Nat) : Bool := d.routedTo (periphSrc b) slot

/-! ### On the wire -/

/-- The controller takes part in the bus. -/
def Dev.canOnBus (d : Dev) (k : Nat) : Bool :=
  let c := d.can k
  decide (k < 4) && c.en && c.ready && d.perAwake k && c.st != 2

/-- The room for which a MAC accesses memory: its owner, or room 0. -/
def Dev.macRoom (d : Dev) (k : Nat) : Option (Nat × Nat) :=
  let id := (d.plan.periphOwner d.pkg (4 + k)).getD 0
  (d.slotOf id).map (fun s => (s, id))

/-- An engine access passes as a normal-world access of a room, to DRAM (R424, R429). -/
def Dev.engineMay (d : Dev) (room : Nat × Nat) (k : AccKind) (pa n : Nat) : Bool :=
  paKind pa == .dram && paKind (pa + (n - 1)) == .dram && d.checkRange room.1 room.2 false true k pa n == 0

def Dev.macMay (d : Dev) (k : Nat) (acc : AccKind) (pa n : Nat) : Bool :=
  match d.macRoom k with
  | some r => d.engineMay r acc pa n
  | none => false

/-- The MAC is enabled, linked and has not stopped. -/
def Dev.macOn (d : Dev) (k : Nat) : Bool :=
  let m := d.mac k
  decide (k < 2) && m.en && m.link && !m.fault && d.perAwake (4 + k)

/-- The frame that the next descriptor of the transmit ring names: bytes 0 to 7 PA, 8 and 9 length (notes/assumptions/41.md). -/
def Dev.macFrame (d : Dev) (k : Nat) : Option (List Byte) :=
  let m := d.mac k
  let at_ := m.txBase + 16 * m.txHead
  let desc := d.bytes at_ 16
  let buf := leAt desc 0 8
  let n := min 1522 (leAt desc 8 2)
  if m.txHead == m.txTail || !d.macMay k .read at_ 16 || !d.macMay k .read buf n then none else some (d.bytes buf n)

/-- What a reset leaves on a controller's wire (R464): CAN stops at once and the bus sees an error frame, a MAC completes its frame and a
UART its character. A controller that can send is sending (notes/assumptions/80.md). -/
def Dev.onWire (d : Dev) (b : Nat) : List Out :=
  let frozen := d.perFrozen b
  if b < 4 then
    let c := d.can b
    if d.canOnBus b && !c.listen && c.txreq != 0 && !(frozen && c.frz) then [.canError b] else []
  else if b < 6 then
    match d.macFrame (b - 4) with
    | some l => if d.macOn (b - 4) && !(frozen && (d.mac (b - 4)).frz) then [.macFrame (b - 4) l] else []
    | none => []
  else
    let u := d.uart (b - 6)
    match u.tx with
    | [] => []
    | c :: _ => if decide (b < 8) && u.en && d.perAwake b && !(frozen && u.frz) then [.uartByte (b - 6) (if u.bits7 then c &&& 0x7F else c)] else []

/-! ### Reset -/

/-- Registers, FIFOs and indices at their reset values, level sources dropped. -/
def Dev.clearPeriph (d : Dev) (b : Nat) : Dev :=
  if b < 4 then d.setCan b Can.init
  else if b < 6 then
    d.modMac (b - 4) (fun m => { Mac.init with speed := m.speed, link := m.link })
  else d.setUart (b - 6) Uart.init

/-- A peripheral reset (R464). -/
def Dev.resetPeriph (d : Dev) (b : Nat) : Dev := ({ d with outbox := d.onWire b ++ d.outbox }).clearPeriph b

end Sys2Proof.Machine
end

