-- ==== Sys2Proof/Machine/Float.lean ====
section
/-!
DEFINITION. IEEE 754 binary64 as R154 to R156 use it: round to nearest, ties to even; subnormals in full; every NaN result
is the default NaN. Finite values are exact integers times powers of two, rounded once.
-/
namespace Sys2Proof.Machine

/-- A binary64 value taken apart: finite values are (-1)^s × m × 2^e. -/
inductive Fp where
  | nan
  | inf (s : Bool)
  | fin (s : Bool) (m : Nat) (e : Int)
  deriving DecidableEq, Repr

def defaultNan : Word := 0x7FF8000000000000

def fpInf (s : Bool) : Word := if s then 0xFFF0000000000000 else 0x7FF0000000000000
def fpZero (s : Bool) : Word := if s then 0x8000000000000000 else 0

/-- Take a binary64 apart. -/
def fpUnpack (w : Word) : Fp :=
  let x := w.toNat
  let s := x.testBit 63
  let e := field x 62 52
  let m := field x 51 0
  if e == 2047 then (if m == 0 then .inf s else .nan)
  else if e == 0 then .fin s m (-1074)
  else .fin s (m + 2 ^ 52) ((e : Int) - 1075)

/-- Round m × 2^e to `prec` bits with the least exponent `emin` (nearest, ties to even): the integer and its exponent. -/
def roundTo (prec : Nat) (emin : Int) (m : Nat) (e : Int) : Nat × Int :=
  let len := if m == 0 then 0 else m.log2 + 1
  let sh : Int := max ((len : Int) - prec) (emin - e)
  if sh ≤ 0 then (m * 2 ^ (-sh).toNat, e + sh)
  else
    let k := sh.toNat
    let q := m / 2 ^ k
    let r := m % 2 ^ k
    let half := 2 ^ (k - 1)
    let q := if half < r || (r == half && q % 2 == 1) then q + 1 else q
    (q, e + sh)

/-- Pack (-1)^s × m × 2^e into a format of `mb` mantissa bits and `eb` exponent bits, rounded once. -/
def fpPackAs (mb eb : Nat) (s : Bool) (m : Nat) (e : Int) : Nat :=
  let bias : Int := 2 ^ (eb - 1) - 1
  let emin : Int := 1 - bias - mb
  let sign := b2n s * 2 ^ (mb + eb)
  if m == 0 then sign
  else
    let (q, e1) := roundTo (mb + 1) emin m e
    let (q, e1) := if q == 2 ^ (mb + 1) then (2 ^ mb, e1 + 1) else (q, e1)
    if q < 2 ^ mb then sign + q
    else
      let b := e1 + bias + mb
      if b ≥ 2 ^ eb - 1 then sign + (2 ^ eb - 1) * 2 ^ mb
      else sign + b.toNat * 2 ^ mb + (q - 2 ^ mb)

def fpPack (s : Bool) (m : Nat) (e : Int) : Word := BitVec.ofNat 64 (fpPackAs 52 11 s m e)

/-- Pack an exact signed sum; an exact zero takes the sign given. -/
def fpPackInt (v : Int) (e : Int) (zs : Bool) : Word :=
  if v == 0 then fpZero zs else fpPack (decide (v < 0)) v.natAbs e

def signed (s : Bool) (m : Nat) : Int := if s then -(m : Int) else m

/-- The exact sum of two finite values, as an integer times a power of two. -/
def exactAdd (sa : Bool) (ma : Nat) (ea : Int) (sb : Bool) (mb : Nat) (eb : Int) : Int × Int :=
  let e := min ea eb
  (signed sa ma * 2 ^ (ea - e).toNat + signed sb mb * 2 ^ (eb - e).toNat, e)

def fpAdd (a b : Word) : Word :=
  match fpUnpack a, fpUnpack b with
  | .nan, _ => defaultNan
  | _, .nan => defaultNan
  | .inf s, .inf t => if s == t then fpInf s else defaultNan
  | .inf s, _ => fpInf s
  | _, .inf t => fpInf t
  | .fin sa ma ea, .fin sb mb eb =>
    let (v, e) := exactAdd sa ma ea sb mb eb
    fpPackInt v e (ma == 0 && mb == 0 && sa && sb)

def fpNeg (a : Word) : Word := a ^^^ 0x8000000000000000

def fpSub (a b : Word) : Word :=
  match fpUnpack b with
  | .nan => defaultNan
  | _ => fpAdd a (fpNeg b)

def fpMul (a b : Word) : Word :=
  match fpUnpack a, fpUnpack b with
  | .nan, _ => defaultNan
  | _, .nan => defaultNan
  | .inf s, .inf t => fpInf (s != t)
  | .inf s, .fin t m _ => if m == 0 then defaultNan else fpInf (s != t)
  | .fin s m _, .inf t => if m == 0 then defaultNan else fpInf (s != t)
  | .fin sa ma ea, .fin sb mb eb => fpPack (sa != sb) (ma * mb) (ea + eb)

/-- a × b + c, rounded once (FMA). -/
def fpFma (a b c : Word) : Word :=
  match fpUnpack a, fpUnpack b, fpUnpack c with
  | .nan, _, _ => defaultNan
  | _, .nan, _ => defaultNan
  | _, _, .nan => defaultNan
  | .fin sa ma ea, .fin sb mb eb, .fin sc mc ec =>
    let (v, e) := exactAdd (sa != sb) (ma * mb) (ea + eb) sc mc ec
    fpPackInt v e (decide (v = 0) && (ma * mb == 0 && mc == 0) && (sa != sb) && sc)
  | .fin _ _ _, .fin _ _ _, .inf t => fpInf t
  | x, y, z =>
    let zero := fun (p : Fp) => match p with | .fin _ m _ => m == 0 | _ => false
    let sgn := fun (p : Fp) => match p with | .fin s _ _ => s | .inf s => s | .nan => false
    if zero x || zero y then defaultNan
    else
      match z with
      | .inf t => if t == (sgn x != sgn y) then fpInf t else defaultNan
      | _ => fpInf (sgn x != sgn y)

def fpDiv (a b : Word) : Word :=
  match fpUnpack a, fpUnpack b with
  | .nan, _ => defaultNan
  | _, .nan => defaultNan
  | .inf _, .inf _ => defaultNan
  | .inf s, .fin t _ _ => fpInf (s != t)
  | .fin s _ _, .inf t => fpZero (s != t)
  | .fin sa ma ea, .fin sb mb eb =>
    if mb == 0 then (if ma == 0 then defaultNan else fpInf (sa != sb))
    else
      let n := ma * 2 ^ 128
      fpPack (sa != sb) (n / mb * 2 + b2n (n % mb != 0)) (ea - eb - 129)

/-- Integer square root by bits from `i` down. -/
def isqrt : Nat → Nat → Nat → Nat
  | 0, _, r => r
  | i + 1, n, r => if (r + 2 ^ i) * (r + 2 ^ i) ≤ n then isqrt i n (r + 2 ^ i) else isqrt i n r

def fpSqrt (a : Word) : Word :=
  match fpUnpack a with
  | .nan => defaultNan
  | .inf s => if s then defaultNan else fpInf false
  | .fin s m e =>
    if m == 0 then fpZero s
    else if s then defaultNan
    else
      let (m, e) := if e % 2 == 0 then (m, e) else (m * 2, e - 1)
      let n := m * 2 ^ 128
      let r := isqrt 92 n 0
      fpPack false (r * 2 + b2n (r * r != n)) (e / 2 - 65)

/-- Less, equal, greater or unordered. -/
inductive FpRel where
  | less | equal | greater | unordered
  deriving DecidableEq, Repr

def relInt (x y : Int) : FpRel := if x < y then .less else if x = y then .equal else .greater

def fpCmp (a b : Word) : FpRel :=
  match fpUnpack a, fpUnpack b with
  | .nan, _ => .unordered
  | _, .nan => .unordered
  | .inf s, .inf t => if s == t then .equal else if s then .less else .greater
  | .inf s, _ => if s then .less else .greater
  | _, .inf t => if t then .greater else .less
  | .fin sa ma ea, .fin sb mb eb => relInt (exactAdd sa ma ea (!sb) mb eb).1 0

def fpIsNan (a : Word) : Bool := fpUnpack a == .nan

/-- A finite value as an integer times 2^-1074. -/
def fpScaled (w : Word) : Option Int :=
  match fpUnpack w with
  | .fin s m e => some (signed s (m * 2 ^ (e + 1074).toNat))
  | _ => none

/-- The exact quotient n / m × 2^-1074, rounded once. -/
def fpQuot (n : Int) (m : Nat) : Word :=
  let k := n.natAbs * 2 ^ 128
  fpPack (decide (n < 0)) (k / m * 2 + b2n (k % m != 0)) (-1203)

/-- What a sum is in whatever order it is added and rounded: of exact terms, each an integer times 2^-k, and of infinities and NaNs. Every partial
sum is exact when all terms are multiples of one power of two and together at most 2^53 of it. None where the order shows; `neg`: every term is
a zero with its sign set. -/
def fpOrderless (k : Nat) (specials : List Word) (ts : List Int) (neg : Bool) : Option Word :=
  let total := (ts.map Int.natAbs).sum
  let g := ts.foldl (fun g t => Nat.gcd g t.natAbs) 0
  let low := g &&& (g ^^^ (g - 1))
  if specials.any fpIsNan || (specials.contains (fpInf false) && specials.contains (fpInf true)) then some defaultNan
  else if 2 ^ (1022 + k) ≤ total then none
  else match specials with
    | v :: _ => some v
    | [] =>
      if total == 0 then (if neg then none else some 0)
      else if 2 ^ (k - 1074) ≤ low && total ≤ 2 ^ 53 * low then some (fpPackInt ts.sum (-(k : Int)) false)
      else none

/-- NaN results are the default NaN (R154). -/
def fpCanon (w : Word) : Word := if fpIsNan w then defaultNan else w

/-! ### Conversions (R156, Table 5.12) -/

/-- The integer nearest to m × 2^e toward zero, or to nearest even. -/
def toIntAbs (nearest : Bool) (m : Nat) (e : Int) : Nat :=
  if 0 ≤ e then m * 2 ^ e.toNat
  else if nearest then (roundTo (m.log2 + 1) 0 m e).1
  else m / 2 ^ (-e).toNat

/-- Convert to an integer in [lo, hi]; what does not fit gives the nearest representable integer and sets V. -/
def fpToInt (w : Word) (nearest : Bool) (lo hi : Int) : Int × Bool :=
  match fpUnpack w with
  | .nan => (0, true)
  | .inf s => (if s then lo else hi, true)
  | .fin s m e =>
    let v := signed s (toIntAbs nearest m e)
    if v < lo then (lo, true) else if hi < v then (hi, true) else (v, false)

/-- FCVT of a kind: result and V. -/
def fpConvert (kind : Nat) (w : Word) : Word × Bool :=
  match kind with
  | 0 => (if w.msb then fpPack true (2 ^ 64 - w.toNat) 0 else fpPack false w.toNat 0, false)
  | 1 => (fpPack false w.toNat 0, false)
  | 2 => let (v, o) := fpToInt w false (-2 ^ 63) (2 ^ 63 - 1); (BitVec.ofInt 64 v, o)
  | 3 => let (v, o) := fpToInt w false 0 (2 ^ 64 - 1); (BitVec.ofInt 64 v, o)
  | 4 => let (v, o) := fpToInt w true (-2 ^ 63) (2 ^ 63 - 1); (BitVec.ofInt 64 v, o)
  | 5 =>
    match fpUnpack w with
    | .nan => (0x7FC00000, false)
    | .inf s => (if s then 0xFF800000 else 0x7F800000, false)
    | .fin s m e => (BitVec.ofNat 64 (fpPackAs 23 8 s m e), false)
  | _ =>
    let x := w.toNat % 2 ^ 32
    let s := x.testBit 31
    let e := field x 30 23
    let m := field x 22 0
    if e == 255 then (if m == 0 then (fpInf s, false) else (defaultNan, false))
    else if e == 0 then (fpPack s m (-149), false)
    else (fpPack s (m + 2 ^ 23) ((e : Int) - 150), false)

/-- The greater of two values for TRMAX and the lesser for TRMIN are taken from this order. -/
def fpLess (a b : Word) : Bool := fpCmp a b == .less

end Sys2Proof.Machine
end

