-- ==== Sys2Proof/Machine/TrestleExec.lean ====
section
/-!
DEFINITION. What a Trestle operation does when it finishes (R306 to R319): shares of the local store, descriptors, operand ranges,
results, tags, and the completion of waiting operations in issue order.
-/
namespace Sys2Proof.Machine

/-! ### Local store shares (R316) and descriptors (Table 14.3) -/

/-- Units of room A of a cluster: TLS_A, or all sixteen when it has one room. -/
def Dev.tlsA (d : Dev) (c : Nat) : Nat :=
  match d.plan.roomB d.pkg c with
  | none => 16
  | some _ => ((d.plan.cluster d.pkg c).map ClusterRec.tlsA).getD 0

/-- First unit and number of units of the share of the room in a slot. -/
def Dev.lsShare (d : Dev) (c slot : Nat) : Nat × Nat :=
  if d.plan.roomA d.pkg c == some (d.idOf slot) then (0, d.tlsA c) else (d.tlsA c, 16 - d.tlsA c)

/-- Byte of the local store at which a share begins. -/
def Dev.lsBase (d : Dev) (c slot : Nat) : Nat := (d.lsShare c slot).1 * 16384
def Dev.lsSize (d : Dev) (c slot : Nat) : Nat := (d.lsShare c slot).2 * 16384

def descMem (v : Word) : Bool := v.getLsbD 63
/-- OFS, its bits [2:0] ignored. -/
def descOfs (v : Word) : Nat := v.toNat % 2 ^ 18 / 8 * 8
def descParam (v : Word) : Nat := field v.toNat 21 18
def descVa (v : Word) : Word := (v.truncate 48).signExtend 64

/-- Band half-width b of TBAND: PARAM clamped to 1 to 8. -/
def bandOf (v : Word) : Nat := clamp 1 8 (descParam v)

def Dev.lsByte (d : Dev) (c o : Nat) : Byte := (d.cluster c).trestle.lsGet o

/-- Bytes of an operand: of the room's share of the local store, or of memory at its PA. A table whose header has grown since issue never
reaches another room's units (R316): what it reads there is open. -/
def Dev.trRead (d : Dev) (c slot : Nat) (mem : Bool) (at_ n : Nat) : List Byte :=
  if mem then (List.range n).map (fun i =>
    match paKind (at_ + i) with
    | .pcie | .reg => Config.lostByte (at_ + i)
    | _ => d.byte (at_ + i))
  else (List.range n).map (fun i =>
    if at_ + i < d.lsSize c slot then d.lsByte c (d.lsBase c slot + at_ + i) else Config.beyondShare (at_ + i))

/-- Little-endian 64-bit values of an operand. -/
def words : Nat → List Byte → List Word
  | 0, _ => []
  | n + 1, l => BitVec.ofNat 64 (leAt l 0 8) :: words n (l.drop 8)

def Dev.trWords (d : Dev) (c slot : Nat) (mem : Bool) (at_ n : Nat) : List Word :=
  words n (d.trRead c slot mem at_ (8 * n))

/-! ### Interpolation tables (R312) -/

structure TiTable where
  dims : Nat
  npts : List Nat
  x0 : List Word
  h : List Word
  deriving DecidableEq, Repr

/-- Header of a table for an opcode of dimension `d`: clamped DIMS and NPTS. -/
def tiHeader (dim : Nat) (hdr : List Byte) : TiTable :=
  let dims := leAt hdr 0 1
  { dims := if dims == 1 || dims == 2 || dims == 3 then dims else dim,
    npts := (List.range 3).map (fun a => max 2 (leAt hdr (2 + 2 * a) 2)),
    x0 := (List.range 3).map (fun a => BitVec.ofNat 64 (leAt hdr (8 + 8 * a) 8)),
    h := (List.range 3).map (fun a => BitVec.ofNat 64 (leAt hdr (0x20 + 8 * a) 8)) }

/-- Number of values of a table. -/
def TiTable.size (t : TiTable) : Nat := (t.npts.take t.dims).foldl (· * ·) 1

/-- The grid point a coordinate falls on when it is exactly one, or lies outside the grid (clamped to the edge). -/
def tiNode (x0 h x : Word) (npts : Nat) : Option Nat :=
  let at_ := fun (i : Nat) => fpFma (fpConvert 1 (BitVec.ofNat 64 i)).1 h x0
  if fpIsNan x || fpIsNan x0 || fpIsNan h then none
  else if !fpLess x0 x then some 0
  else if !fpLess x (at_ (npts - 1)) then some (npts - 1)
  else
    let i := (fpConvert 3 (fpDiv (fpSub x x0) h)).1.toNat
    ([i, i + 1].find? (fun k => decide (k < npts) && fpCmp (at_ k) x == .equal))

/-- The grid points of a coordinate's cell on one axis: the one it falls on, or the two it lies between. -/
def tiCell (x0 h x : Word) (npts : Nat) : List Nat :=
  match tiNode x0 h x npts with
  | some k => [k]
  | none =>
    let at_ := fun (i : Nat) => fpFma (fpConvert 1 (BitVec.ofNat 64 i)).1 h x0
    let i := (fpConvert 3 (fpDiv (fpSub x x0) h)).1.toNat
    let k := (([i + 1, i].find? (fun k => !fpLess x (at_ k))).getD (i - 1))
    let k := min k (npts - 2)
    [k, k + 1]

/-- Index of a grid point among the values, axis 0 varying fastest (R312). -/
def TiTable.at_ (t : TiTable) (ks : List Nat) : Nat :=
  ((List.range ks.length).map (fun a => ks.getD a 0 * ((t.npts.take a).foldl (· * ·) 1))).sum

/-- Every choice of one element from each list. -/
def choices : List (List Nat) → List (List Nat)
  | [] => [[]]
  | l :: t => l.flatMap (fun k => (choices t).map (fun ks => k :: ks))

/-- A value held between the least and the greatest of others, as no interpolation leaves its cell. -/
def fpWithin (l : List Word) (v : Word) : Word :=
  let lo := l.foldl (fun b u => if fpLess u b then u else b) (l.headD 0)
  let hi := l.foldl (fun b u => if fpLess b u then u else b) (l.headD 0)
  if fpIsNan v || fpLess v lo then lo else if fpLess hi v then hi else v

/-- Exact weights of the grid points of a cell on one axis, as integers with their sum: of the point alone, or by the distance of the coordinate
from the first point in spacings, held to the cell. None where the spacing is not positive or a value not finite. -/
def tiWeights (x0 h x : Word) : List Nat → Option (List Nat × Nat)
  | [k, _] =>
    match fpScaled x0, fpScaled h, fpScaled x with
    | some a, some s, some v =>
      let n := min (v - a - s * (k : Int)).toNat s.toNat
      if 0 < s then some ([s.toNat - n, n], s.toNat) else none
    | _, _, _ => none
  | l => some (l.map (fun _ => 1), 1)

/-- The exact interpolation over a cell: corners in the order of `choices`, weights by axis; a numerator and its denominator. -/
def tiExact (ws : List (List Nat × Nat)) (corners : List Int) : Int × Nat :=
  let w : List Int := (choices (ws.map Prod.fst)).map (fun l => ((l.foldl (fun a b => a * b) 1 : Nat) : Int))
  ((List.zipWith (fun a b => a * b) w corners).sum, (ws.map Prod.snd).foldl (fun a b => a * b) 1)

/-- Unit in the last place of the largest of some finite values, as a multiple of 2^-1074. -/
def fpUlp (l : List Word) : Nat :=
  (l.map (fun v => match fpUnpack v with | .fin _ _ e => 2 ^ (e + 1074).toNat | _ => 0)).foldl max 0

/-- A value `v` held within 64 units in the last place of a quotient (notes/assumptions/71.md). -/
def fpNear (n : Int) (m ulp : Nat) (v : Word) : Word :=
  match fpScaled v with
  | some x => if (x * (m : Int) - n).natAbs ≤ 64 * ulp * m then v else fpQuot n m
  | none => fpQuot n m

/-- One interpolated value (R312): the cell's own on a grid point, the default NaN where a coordinate or a value of the cell is one, else the
linear, bilinear or trilinear interpolation, in its cell, as the device rounds it (Config.trestleRound). -/
def tiValue (op dim : Nat) (t : TiTable) (vals : List Word) (q : List Word) : Word :=
  let axis := fun (a : Nat) => (t.x0.getD a 0, t.h.getD a 0, q.getD a 0)
  let cell := (List.range dim).map (fun a => tiCell (axis a).1 (axis a).2.1 (axis a).2.2 (t.npts.getD a 2))
  let corners := (choices cell).map (fun ks => vals.getD (t.at_ ks) 0)
  let axes := (q.take dim) ++ (t.x0.take dim) ++ (t.h.take dim)
  let open_ := Config.trestleRound op 0 (axes ++ corners)
  if t.dims != dim then fpCanon (Config.trestleRound op 0 (q ++ t.x0 ++ t.h ++ t.npts.map (BitVec.ofNat 64) ++ vals))
  else if (axes ++ corners).any fpIsNan then defaultNan
  else match corners with
    | [v] => v
    | _ =>
      match ((List.range dim).zip cell).mapM (fun p => tiWeights (axis p.1).1 (axis p.1).2.1 (axis p.1).2.2 p.2), corners.mapM fpScaled with
      | some ws, some cs =>
        let (n, m) := tiExact ws cs
        fpWithin corners (fpNear n m (fpUlp corners) open_)
      | _, _ => fpWithin corners open_

/-- Bytes of the query list of an interpolation. -/
def tiQueryLen (dim n : Nat) (f : Bool) : Nat := if f then 8 + 8 * (dim - 1) * n else 8 * dim * n

/-- Coordinates of query `i`. -/
def tiQuery (dim i : Nat) (f : Bool) (q : List Word) : List Word :=
  if f then q.getD 0 0 :: (q.drop (1 + (dim - 1) * i)).take (dim - 1) else (q.drop (dim * i)).take dim

/-! ### Operations (Table 14.4) -/

def TrOp.code : TrOp → Nat
  | .tmma => 0x00
  | .ti1 => 0x10
  | .ti2 => 0x11
  | .ti3 => 0x12
  | .trsum => 0x20
  | .trdot => 0x21
  | .trmax => 0x22
  | .trmin => 0x23
  | .tband => 0x30
  | .tld => 0x40
  | .tst => 0x41
  | .tget => 0x50
  | .tput => 0x51

def TrOp.dim : TrOp → Nat
  | .ti1 => 1
  | .ti2 => 2
  | .ti3 => 3
  | _ => 0

/-- Fields of a Trestle immediate (Table 14.2). -/
def immN (imm : W32) : Nat := imm.toNat / 65536
def immF (imm : W32) : Bool := imm.getLsbD 9
def immDr (imm : W32) : Bool := imm.getLsbD 8
def immTag (imm : W32) : BitVec 3 := BitVec.ofNat 3 (imm.toNat / 32)

/-- Whether an operand lies in memory: as its descriptor says, but where the operation fixes it, and MEM is ignored (DESIGN CHOICE,
notes/assumptions/90.md). -/
def TrOp.rsMem (op : TrOp) (v : Word) : Bool :=
  match op with
  | .tld => true
  | .tst => false
  | .tget => false
  | _ => descMem v
def TrOp.rdMem (op : TrOp) (v : Word) : Bool :=
  match op with
  | .tst => true
  | .tld => false
  | .tput => false
  | _ => descMem v

def Station.rsMem (s : Station) : Bool := s.op.rsMem s.rsVal
def Station.rtMem (s : Station) : Bool := descMem s.rtVal
def Station.rdMem (s : Station) : Bool := s.op.rdMem s.rdVal
def Station.rsAt (s : Station) : Nat := if s.rsMem then s.rsPa else descOfs s.rsVal
def Station.rtAt (s : Station) : Nat := if s.rtMem then s.rtPa else descOfs s.rtVal
def Station.rdAt (s : Station) : Nat := if s.rdMem then s.rdPa else descOfs s.rdVal

/-- The largest (or smallest) of values, NaNs ignored; a tie of zeros of both signs is open. -/
def extreme (op : Nat) (l : List Word) (better : Word → Word → Bool) : Word :=
  match l.filter (fun v => !fpIsNan v) with
  | [] => defaultNan
  | h :: t =>
    let m := t.foldl (fun b v => if better v b then v else b) h
    if fpCmp m 0 == .equal && l.contains 0 && l.contains 0x8000000000000000 then Config.trestleRound op 0 l else m

/-- A product as far as it is a NaN or an infinity of itself: of finite factors the exact product is finite. -/
def fpSpecial (p : Word × Word) : Word :=
  let special := fun (v : Word) => fpIsNan v || v == fpInf false || v == fpInf true
  if special p.1 || special p.2 then fpMul p.1 p.2 else 0

/-- The finite one of a product's exact value, as an integer times 2^-2148. -/
def fpProduct (p : Word × Word) : Option Int := (fpScaled p.1).bind (fun a => (fpScaled p.2).map (fun b => a * b))

/-- A sum of values and products as every order gives it, or as the device rounds it. -/
def trSumProd (op i : Nat) (inputs values : List Word) (products : List (Word × Word)) : Word :=
  let specials := (values ++ products.map fpSpecial).filter (fun v => (fpScaled v).isNone)
  let ts := (values.filterMap fpScaled).map (· * 2 ^ 1074) ++ products.filterMap fpProduct
  let neg := (values ++ products.map (fun p => fpMul p.1 p.2)).all (· == 0x8000000000000000)
  (fpOrderless 2148 specials ts neg).getD (fpCanon (Config.trestleRound op i inputs))

/-- A sum whose order of rounding the spec does not fix, but where none or one rounding enters, or every order gives one value. -/
def trSum (op i : Nat) (inputs terms : List Word) : Word :=
  match terms with
  | [v] => fpCanon v
  | [v, u] => fpAdd v u
  | _ => trSumProd op i inputs terms []

/-- Entries of a band that lie in its matrix of `n` rows: an elimination reads no other. -/
def bandInside (band : List Word) (b n : Nat) : List Word :=
  (List.range n).flatMap (fun i => (List.range (2 * b + 1)).filterMap (fun j =>
    if b ≤ i + j && i + j < n + b then band[(2 * b + 1) * i + j]? else none))

/-- Pivot `i` of a band without pivoting: the diagonal itself where no earlier row reaches it, else as the elimination rounds. -/
def bandPivot (band : List Word) (b i : Nat) : Word :=
  let w := 2 * b + 1
  let row := (band.drop (w * i)).take w
  if ((List.range b).filter (fun j => decide (b ≤ i + j))).all (fun j => fpCmp (row.getD j 0) 0 == .equal) then row.getD b 0
  else Config.trestleRound 0x31 i (band.take (w * (i + 1)))

/-- Values of an interpolation table, as far as the range that was checked at issue reaches: a header in memory may have grown since, and what it
then names is open, so that no byte of another room enters a result (R302, R310). -/
def Dev.tableVals (d : Dev) (c slot : Nat) (s : Station) (k : Nat) : List Word :=
  let n := if s.rsMem then min (8 * k) (s.rsLen - 64) else 8 * k
  words k (d.trRead c slot s.rsMem (s.rsAt + 64) n ++ (List.range (8 * k - n)).map (fun i => Config.lostByte (s.rsAt + 64 + n + i)))

/-- The values an operation produces, in order (Table 14.4). Where the order of roundings shows, which the spec does not fix:
Config.trestleRound. A NaN that enters a band reaches every value of its solution. -/
def Dev.trValues (d : Dev) (c slot : Nat) (s : Station) : List Word :=
  let n := immN s.imm
  let rs := fun (k : Nat) => d.trWords c slot s.rsMem s.rsAt k
  let rt := fun (k : Nat) => d.trWords c slot s.rtMem s.rtAt k
  match s.op with
  | .tmma =>
    let a := rs (16 * n)
    let b := rt (16 * n)
    let old := if immF s.imm then d.trWords c slot s.rdMem s.rdAt 16 else []
    (List.range 16).map (fun i =>
      let row := (List.range n).flatMap (fun k => (a.drop (16 * k + 4 * (i / 4))).take 4)
      let col := (List.range n).flatMap (fun k => (List.range 4).map (fun j => b.getD (16 * k + 4 * j + i % 4) 0))
      let c := (old.drop i).take 1
      trSumProd 0 i (c ++ row ++ col) c (row.zip col))
  | .trsum => [trSum 0x20 0 (rs n) (rs n)]
  | .trdot =>
    let l := rs n
    let m := rt n
    match l, m with
    | [v], [u] => [fpMul v u]
    | _, _ => [trSumProd 0x21 0 (l ++ m) [] (l.zip m)]
  | .trmax => [extreme 0x22 (rs n) (fun v b => fpLess b v)]
  | .trmin => [extreme 0x23 (rs n) (fun v b => fpLess v b)]
  | .tband =>
    let b := bandOf s.rsVal
    let band := rs (n * (2 * b + 1))
    let rhs := rt n
    let zero := (List.range n).find? (fun i => fpCmp (bandPivot band b i) 0 == .equal)
    (List.range n).map (fun i =>
      if decide ((zero.getD n) ≤ i) || (bandInside band b n ++ rhs).any fpIsNan then defaultNan
      else if n == 1 then fpDiv (rhs.getD 0 0) (band.getD b 0)
      else fpCanon (Config.trestleRound 0x30 i (band ++ rhs)))
  | .tget => rs 1
  | .tput => [s.rsVal]
  | .tld => []
  | .tst => []
  | _ =>
    let dim := s.op.dim
    let t := tiHeader dim (d.trRead c slot s.rsMem s.rsAt 64)
    let vals := d.tableVals c slot s t.size
    let q := words (tiQueryLen dim n (immF s.imm) / 8) (d.trRead c slot s.rtMem s.rtAt (tiQueryLen dim n (immF s.imm)))
    (List.range n).map (fun i => tiValue s.op.code dim t vals (tiQuery dim i (immF s.imm) q))

/-- The ranges of memory that an operation streams in: PA and length. -/
def Dev.trSources (d : Dev) (c slot : Nat) (s : Station) : List Piece :=
  let n := immN s.imm
  let rs := fun (k : Nat) => if s.rsMem then [(s.rsAt, k)] else []
  let rt := fun (k : Nat) => if s.rtMem then [(s.rtAt, k)] else []
  match s.op with
  | .tmma => rs (128 * n) ++ rt (128 * n) ++ (if immF s.imm && s.rdMem then [(s.rdAt, 128)] else [])
  | .trsum | .trmax | .trmin => rs (8 * n)
  | .trdot => rs (8 * n) ++ rt (8 * n)
  | .tld => [(s.rsAt, 64 * n)]
  | .ti1 | .ti2 | .ti3 =>
    rs (min (64 + 8 * (tiHeader s.op.dim (d.trRead c slot s.rsMem s.rsAt 64)).size) s.rsLen) ++ rt (tiQueryLen s.op.dim n (immF s.imm))
  | .tband | .tst | .tget | .tput => []

/-- Where an operation writes to memory or the local store, and what: none when its result goes to a register. -/
def Dev.trStore (d : Dev) (c slot : Nat) (s : Station) : Option (Bool × Nat × List Byte) :=
  let n := immN s.imm
  let bytes := fun (l : List Word) => l.flatMap (fun w => leBytes 8 w.toNat)
  match s.op with
  | .tld => some (false, s.rdAt, d.trRead c slot true s.rsAt (64 * n))
  | .tst => some (true, s.rdAt, d.trRead c slot false s.rsAt (64 * n))
  | .tband => some (s.rtMem, s.rtAt, bytes (d.trValues c slot s))
  | _ => if immDr s.imm then none else some (s.rdMem, s.rdAt, bytes (d.trValues c slot s))

/-! ### Writing results -/

/-- Blocks of the local store whose pre-image the current epoch has not logged yet (R319). -/
def Dev.lsToLog (d : Dev) (slot c at_ n : Nat) : List Nat :=
  let blocks := ((List.range n).map (fun i => (at_ + i) / 64)).eraseDups
  blocks.filter (fun b => !(d.cluster c).undo.any (fun e =>
    e.slot == slot && e.kind == .trestle && e.addr == b && e.epoch == (d.room slot).epo.cnt))

def Dev.lsWrite (d : Dev) (slot c at_ : Nat) (bs : List Byte) : Dev :=
  let d := each (d.lsToLog slot c at_ bs.length) (fun d b => d.modCluster c (fun x => { x with undo :=
    { slot := slot, epoch := (d.room slot).epo.cnt, kind := .trestle, addr := b,
      pre := (List.range 64).map (fun i => d.lsByte c (b * 64 + i)) } :: x.undo })) d
  d.modCluster c (fun x => { x with trestle := x.trestle.lsPutAll (spread at_ bs) })

/-- A Trestle write to memory: logged, coherent, clearing every reservation on its lines (Table 5.8). Bytes that do not lie in DRAM are dropped
(DESIGN CHOICE, notes/assumptions/91.md). -/
def Dev.trMemWrite (d : Dev) (slot core pa : Nat) (bs : List Byte) : Dev :=
  let l := (spread pa bs).filter (fun (a, _) => paKind a == .dram)
  let d := d.yieldStores 128 (linesOf l)
  let d := d.logLines slot (core / 4) (d.toLog slot l)
  let d := each (linesOf l) (fun d n => (each (clusterCores (core / 4)) (fun d k => d.l1Drop k n)
    (d.l2Get core n true false)).clearResv n none) d
  d.poke l

/-- Undo entries that an operation's store needs are free (R334). -/
def Dev.trReady (d : Dev) (slot c : Nat) (st : Option (Bool × Nat × List Byte)) : Bool :=
  match st with
  | none => true
  | some (true, a, bs) => d.undoReady slot c ((spread a bs).filter (fun p => paKind p.1 == .dram))
  | some (false, a, bs) => decide ((d.lsToLog slot c (d.lsBase c slot + a) bs.length).length ≤ d.undoFree slot c)

/-- Physical register that takes a tagged result: KL-01 redirects an A register after a rotation (R518). -/
def Station.target (s : Station) (x : Ctx) : Option Nat :=
  match s.dst, s.aReg with
  | some p, some a => some (if s.rotated then x.phys a.toNat else p)
  | o, _ => o

/-! ### The wheel (R318, R320) -/

/-- TSLOT_A of a cluster; a cluster with one room gives it every slot of the wheel (R64). -/
def Dev.tslotA (d : Dev) (c : Nat) : Nat :=
  match d.plan.roomB d.pkg c with
  | none => 16
  | some _ => ((d.plan.cluster d.pkg c).map ClusterRec.tslotA).getD 0

/-- Package slot of room A or room B of a cluster. -/
def Dev.wheelRoom (d : Dev) (c : Nat) (a : Bool) : Option Nat :=
  ((if a then d.plan.roomA d.pkg c else d.plan.roomB d.pkg c)).bind d.slotOf

/-- The oldest operation of a room on a cluster. -/
def Dev.trHead (d : Dev) (c slot : Nat) : Option Station :=
  (d.cluster c).trestle.queue.find? (fun s => d.coreSlot (coreOf s.ctx) == some slot)

/-- An operation of a room waits on a cluster's Trestle. -/
def Dev.trWaiting (d : Dev) (c slot : Nat) : Bool := (d.trHead c slot).isSome

/-- The room that a wheel slot of 128 ns serves at a time: its owner; an idle owner's slot is lent to the other room, unless
either is TIMED or SEALED. -/
def Dev.wheelOwner (d : Dev) (c t : Nat) : Option Nat :=
  let isA := decide (t % 2048 / 128 < d.tslotA c)
  let own := d.wheelRoom c isA
  let other := d.wheelRoom c (!isA)
  let strict := fun (o : Option Nat) => match o with | some s => d.timed s || d.sealedRoom s | none => false
  match own, other with
  | some s, some o => if d.trWaiting c s || strict own || strict other then some s else if d.trWaiting c o then some o else some s
  | o, _ => o

/-- The unit whose datapath executes a cluster's operations: its own, or its helper's. -/
def Dev.trUnit (d : Dev) (c : Nat) : Option Nat :=
  match (d.cluster c).trestle.health with
  | .healthy => some c
  | .forwarded => some (d.cluster c).trestle.helper
  | .lost => none

/-- The cluster that a unit serves in a turn of the wheel: a helper its own in even turns, the forwarded one in odd turns. -/
def Dev.turnCluster (d : Dev) (u t : Nat) : Nat :=
  let x := (d.cluster u).trestle
  if x.serves && t / 2048 % 2 == 1 then x.served else u

/-- What the wheel gives a unit's datapath at this time: a cluster and the slot of one of its rooms. -/
def Dev.wheelNow (d : Dev) (u : Nat) : Option (Nat × Nat) :=
  let c := d.turnCluster u d.clk.tb
  if (d.cluster u).trestle.health == .healthy then (d.wheelOwner c d.clk.tb).map (fun s => (c, s)) else none

/-- The datapath executes a room's operations now: the wheel is in its slot, and the unit is not under test. -/
def Dev.trServes (d : Dev) (c slot : Nat) : Bool :=
  match d.trUnit c with
  | none => false
  | some u =>
    let t := (d.cluster u).trestle
    !t.testing && !(d.cluster c).trestle.testing && (t.loaded <|> d.wheelNow u) == some (c, slot)

/-- An idle datapath goes on to the next operation of the room whose state it holds. -/
def Dev.trBegin (d : Dev) (u : Nat) : Dev :=
  let t := (d.cluster u).trestle
  let l := t.loaded <|> d.wheelNow u
  d.modCluster u (fun x => { x with trestle := { x.trestle with
    loaded := l, running := t.running <|> l.bind (fun p => d.trHead p.1 p.2) } })

/-- The unit takes over a room's state (R318): it saves the outgoing room's, scrubs the datapath and restores the incoming room's. -/
def Dev.trLoad (d : Dev) (u : Nat) (l : Option (Nat × Nat)) : Dev :=
  let t := (d.cluster u).trestle
  if t.loaded == l then d.trBegin u
  else
    let key := fun (p : Nat × Nat) => p.1 * 64 + p.2
    let kept := match t.loaded, t.running with
      | some p, some s => Sparse.insert t.save (key p) s
      | _, _ => t.save
    let back := l.bind (fun p => (kept.find? (fun e => e.1 == key p)).map Prod.snd)
    let kept := match l with
      | some p => Sparse.erase kept (key p)
      | none => kept
    (d.modCluster u (fun x => { x with trestle := { x.trestle with loaded := l, running := back, save := kept } })).trBegin u

/-- Two records of one operation: a context has one pending operation for a tag. -/
def Station.same (a b : Station) : Bool := a.ctx == b.ctx && a.tag == b.tag

/-- An operation has begun: a datapath runs it, or a save store holds its state. -/
def Dev.trBegun (d : Dev) (s : Station) : Bool :=
  d.clusters.any (fun p => p.2.trestle.running.any s.same || p.2.trestle.save.any (fun e => s.same e.2))

/-- Operations leave the Trestles for good, with their state in datapaths and save stores. -/
def Dev.dropOps (d : Dev) (p : Station → Bool) : Dev :=
  { d with clusters := d.clusters.map (fun (k, x) => (k, { x with trestle := { x.trestle with
    queue := x.trestle.queue.filter (fun s => !p s),
    running := x.trestle.running.filter (fun s => !p s),
    save := x.trestle.save.filter (fun e => !p e.2) } })) }

/-! ### Completion (R313, R314) -/

/-- The lines that an operation reads and writes in memory, for which it waits like a core (R313). -/
def Dev.trLinesReady (d : Dev) (c slot : Nat) (s : Station) (st : Option (Bool × Nat × List Byte)) : Bool :=
  (dramLines (d.trSources c slot s)).all (fun n => d.lineReady (coreOf s.ctx) n false .data) &&
    (match st with
     | some (true, a, bs) => (dramLines [(a, bs.length)]).all (fun n => d.lineReady (coreOf s.ctx) n true .data)
     | _ => true)

/-- The contexts that take an operation's result: in a Paired room those of both cores of the pair (R307). -/
def Dev.trCtxs (d : Dev) (slot : Nat) (s : Station) : List Nat :=
  if d.plan.paired (d.idOf slot) then [s.ctx, pairOf (coreOf s.ctx) * 4 + s.ctx % 4] else [s.ctx]

/-- The oldest operation of a room on a cluster finishes: store buffer first for one that reads memory (R313), its lines through the L2,
result written, tag cleared. None while the wheel serves another room, the unit is under test, a line is not there, or undo entries are
short; nor while the room does not run, so that the stations a rollback reissues run in the epoch it resumes in (R319). -/
def Dev.trComplete (d : Dev) (c slot : Nat) : Option Dev :=
  let d0 := d
  match if (d.room slot).phase == .running && d.trServes c slot then d.trHead c slot else none with
  | none => none
  | some s =>
    let core := coreOf s.ctx
    let src := d.trSources c slot s
    let d := if src.isEmpty then d else d.drain core
    let st := d.trStore c slot s
    if !d.trReady slot c st || !d.trLinesReady c slot s st || (!src.isEmpty && !d0.drainReady core) then none
    else
      let vals := d.trValues c slot s
      let d := each (dramLines src) (fun d n => d.l2Get core n false false) d
      let d := match st with
        | some (true, a, bs) => d.trMemWrite slot core a bs
        | some (false, a, bs) => d.lsWrite slot c (d.lsBase c slot + a) bs
        | none => d
      let d := match st, s.target (d.ctx s.ctx) with
        | none, some p => each (d.trCtxs slot s) (fun (d : Dev) x => d.modCtx x (fun x => x.setP p (vals.getD 0 0))) d
        | _, _ => d
      let d := d.dropOps s.same
      some (d.trBegin ((d.trUnit c).getD c))

/-- The lines that the oldest operation of a room waits for leave as requests. -/
def Dev.trAsk (d : Dev) (c slot : Nat) : Dev :=
  match if d.trServes c slot then d.trHead c slot else none with
  | none => d
  | some s =>
    let core := coreOf s.ctx
    let d := d.askLines core (dramLines (d.trSources c slot s)) false .data
    match d.trStore c slot s with
    | some (true, a, bs) => d.askLines core (dramLines [(a, bs.length)]) true .data
    | _ => d

/-- Complete operations of a room on a cluster, oldest first, while one that satisfies `p` waits and the wheel serves the room. -/
def Dev.trDrain (d : Dev) (c slot : Nat) (p : Station → Bool) : Dev :=
  iter (fun d =>
    if (d.cluster c).trestle.queue.any (fun s => d.coreSlot (coreOf s.ctx) == some slot && p s) then
      (d.trComplete c slot).getD d
    else d) (d.cluster c).trestle.queue.length d

/-- Complete every operation of a room: the device waits for the slots of the wheel that serve it. -/
def Dev.trDrainRoom (d : Dev) (slot : Nat) : Dev :=
  each (d.clustersOf slot) (fun d c =>
    if !d.trWaiting c slot then d
    else (((d.trUnit c).map (fun u => d.trLoad u (some (c, slot)))).getD d).trDrain c slot (fun _ => true)) d

/-- Operations of a context are waiting. -/
def Dev.trPending (d : Dev) (ctx : Nat) (p : Station → Bool) : Bool :=
  (d.cluster (ctx / 16)).trestle.queue.any (fun s => s.ctx == ctx && p s)

/-- A younger instruction's write to a register cancels the Trestle writes to it (R314). -/
def Dev.trCancel (d : Dev) (ctx : Nat) (ps : List Nat) : Dev :=
  if (d.cluster (ctx / 16)).trestle.queue.isEmpty then d
  else d.modCluster (ctx / 16) (fun x => { x with trestle := { x.trestle with queue := x.trestle.queue.map (fun s =>
    if s.ctx == ctx && (match s.dst with | some p => ps.contains p | none => false) then { s with dst := none } else s) } })

end Sys2Proof.Machine
end

