-- ==== Sys2Proof/Machine/RoomOps.lean ====
section
/-!
DEFINITION. What the device does to a room as a whole: interrupt sources (R70, R376), incident records (R372), trace packets
(R493 to R497), epochs, checkpoints and confirmation (R328 to R346), rollback (R357), hold, start and reset (R182, R462).
-/
namespace Sys2Proof.Machine

/-! ### Interrupt sources (R70, R376, Table 17.1, Table 19.1) -/

/-- Level sources: those of CAN, MAC and UART controllers. -/
def levelSrc (s : Nat) : Bool := decide (768 ≤ s) && decide (s < 800)

/-- Condition of a level source (Table 19.1). -/
def Dev.level (d : Dev) (s : Nat) : Bool :=
  if s < 784 then
    let c := d.can ((s - 768) / 4)
    match s % 4 with
    | 0 => !c.fifo.isEmpty
    | 1 => c.txDone
    | 2 => c.errChange
    | _ => c.readyEvt
  else if s < 792 then
    let m := d.mac ((s - 784) / 4)
    match s % 4 with
    | 0 => m.srcRx
    | 1 => m.srcTx
    | 2 => m.srcTs
    | _ => m.srcLink || m.fault
  else
    let u := d.uart ((s - 792) / 4)
    match s % 4 with
    | 0 => !u.rx.isEmpty
    | 1 => u.en && decide (u.tx.length < 64)
    | 2 => u.err.getLsbD 0 || u.err.getLsbD 1 || u.err.getLsbD 2
    | _ => u.err.getLsbD 3

/-- FRC_GEVT of a group for a room (Table 18.5): bit n when node 16g + n, owned by the room, has an enabled event bit set. -/
def Dev.gevt (d : Dev) (slot g : Nat) : Nat :=
  let en := (d.room slot).frc.evtEn
  orAll ((d.plan.nodes.filter (fun r => r.node / 16 == g && r.inPa / 2 ^ 50 == d.pkg && d.slotOf r.roomId == some slot)).map
    (fun r =>
      let x := d.node r.node
      if (en.getLsbD 0 && x.input) || (en.getLsbD 1 && x.joined) || (en.getLsbD 2 && x.dropped) || (en.getLsbD 3 && x.auth) then
        2 ^ (r.node % 16)
      else 0))

/-- Pending bit of a source: a level source follows its condition, and a node-event group stays pending while an enabled bit
of a node of the room it is routed to is set (R376, R414). -/
def Dev.pendSrc (d : Dev) (s : Nat) : Bool :=
  if levelSrc s then d.level s
  else d.irqPend.contains s || (decide (256 ≤ s) && decide (s < 512) &&
    (match (d.route s).bind (fun r => d.slotOf r.roomId) with
     | some slot => d.gevt slot (s - 256) != 0
     | none => false))

def Dev.irqEn (d : Dev) (s : Nat) : Bool := !d.irqOff.contains s
def Dev.irqPrioOf (d : Dev) (s : Nat) : Nat := Sparse.get (((d.route s).map IrqRec.prio).getD 0) d.irqPrio s

/-! ### Incident records (R372, R529) -/

/-- Class of a kind (Table 16.6): 0 Handled, 1 Degraded, 2 Visible. -/
def incClass (k : Nat) : Nat :=
  if [0x05, 0x07, 0x0B, 0x0D, 0x11].contains k then 1
  else if [0x04, 0x06, 0x0A, 0x0C, 0x0E, 0x12, 0x13, 0x14, 0x16, 0x17].contains k then 2
  else 0

def Incident.zero : Incident :=
  { time := 0, seq := 0, cls := 0, kind := 0, pkg := 0, fromJournal := false, rooms := 0, loc := 0, buildTag := 0,
    epoch := 0, addr := 0, detail := 0, name := 0, rbkNs := 0 }

/-- Put a record into the ring; a full ring loses the record at INC_RD (R372). -/
def IncLog.push (l : IncLog) (r : Incident) : IncLog :=
  let full := (l.wr + 8192 - l.rd) % 8192 == 8191
  { l with ring := Sparse.insert l.ring l.wr (r, false), wr := (l.wr + 1) % 8192,
           rd := if full then (l.rd + 1) % 8192 else l.rd,
           lost := if full then satInc max32 l.lost else l.lost, expRing := false }

/-- Put a record into the MRAM journal of 256 (R372). -/
def IncLog.journalize (l : IncLog) (r : Incident) : IncLog :=
  if l.journal.length < 256 then { l with journal := l.journal ++ [(r, false)], expJnl := false }
  else { l with journal := l.journal.drop 1 ++ [(r, false)], jnlLost := satInc 0xFFFF l.jnlLost, expJnl := false }

/-- Write a record with its class (R372): ring, journal where its class or kind asks, sources 800 and 801. -/
def Dev.incidentAs (d : Dev) (cls kind loc addr detail : Nat) (rooms : List Nat) (rbkNs : Nat) : Dev :=
  let first := rooms.head?
  let r : Incident :=
    { time := d.clk.tb, seq := (d.inc.seq + 1) % 2 ^ 32, cls := cls, kind := kind, pkg := d.pkg,
      fromJournal := false, rooms := BitVec.ofNat 64 (orAll (rooms.map (2 ^ ·))), loc := loc,
      buildTag := d.plan.buildTag, epoch := (first.map (fun s => (d.room s).epo.cnt)).getD 0, addr := addr,
      detail := BitVec.ofNat 64 detail, name := ((first.bind d.rrec).map RoomRec.name).getD 0, rbkNs := rbkNs }
  let l := { d.inc.push r with seq := r.seq, last := r.seq }
  let l := if r.cls == 2 || kind == 0x03 || kind == 0x07 then l.journalize r else l
  let d := { d with inc := l }.raise 800
  if r.cls == 2 then d.raise 801 else d

/-- Write the record of an event, whose kind gives its class (Table 16.6). -/
def Dev.incident (d : Dev) (kind loc addr detail : Nat) (rooms : List Nat) (rbkNs : Nat) : Dev :=
  d.incidentAs (incClass kind) kind loc addr detail rooms rbkNs

/-! ### Trace (R493 to R497) -/

/-- Queue a packet of a core (R496): eight places; a loss marker goes ahead of the next packet accepted. -/
def Dev.traceCore (d : Dev) (core slot : Nat) (p : TracePkt) : Dev :=
  let c := d.core core
  let need := if c.traceMiss == 0 then 1 else 2
  if c.traceQ.length + need ≤ 8 then
    let mark : TracePkt := { p with typ := 8, port := 0, aux := 0, value := BitVec.ofNat 64 c.traceMiss }
    let q := if c.traceMiss == 0 then [p] else [mark, p]
    d.setCore core { c with traceQ := c.traceQ ++ q, traceMiss := 0 }
  else
    (d.setCore core { c with traceMiss := c.traceMiss + 1 }).modRoom slot (fun r =>
      { r with dbg := { r.dbg with trcLost := satInc max32 r.dbg.trcLost } })

/-- A core's queue writes its oldest packet. -/
def Dev.traceDrainOne (d : Dev) (core : Nat) : Dev :=
  match (d.core core).traceQ, d.coreSlot core with
  | p :: t, some slot => (d.modCore core (fun c => { c with traceQ := t })).tracePut slot p
  | _, _ => d

/-- Byte CTX of a packet (Table 22.7). -/
def Ctx.traceByte (x : Ctx) (bank : Nat) : Nat := bank + x.pl * 4 + b2n x.secure * 16

def Dev.tracePkt (d : Dev) (core slot typ aux : Nat) (value : Word) : TracePkt :=
  let x := d.ctx (d.curCtx core)
  { time := d.clk.tb, typ := typ, port := 0, ctx := x.traceByte (d.core core).cur, lcore := d.pkg * 128 + core,
    epoch := lo32 (d.room slot).epo.cnt, aux := aux, value := value }

/-- An event packet of a core, when its kind is enabled (R495): `kind` is the bit of DBG_TRC_CTL.EVT. -/
def Dev.traceEvt (d : Dev) (core slot kind typ aux : Nat) (value : Word) : Dev :=
  let g := (d.room slot).dbg
  if g.trcEn && g.trcEvt.getLsbD kind && (g.sec != 0 || g.norm != 0) then
    d.traceCore core slot (d.tracePkt core slot typ aux value)
  else d

/-! ### Long operations (R193 to R195) -/

/-- Write the result of an operation that ran beside the pipe: the register and each flag not cancelled. -/
def Ctx.finishLong (x : Ctx) (o : LongOp) : Ctx :=
  let x := if o.wr then x.setP o.dst o.val else x
  let fl := fun (x : Ctx) (i : Nat) (v : Option Bool) =>
    match v with
    | some b => x.setPsw i i (b2n b)
    | none => x
  fl (fl (fl (fl x 3 o.n) 2 o.z) 1 o.c) 0 o.v

/-- Cancel the pending long-operation writes to a physical register (R195). -/
def Ctx.cancelReg (x : Ctx) (p : Nat) : Ctx :=
  { x with long := x.long.map (fun o => if o.dst == p then { o with wr := false } else o) }

/-- Complete every pending long operation of a context, oldest first. -/
def Ctx.finishAll (x : Ctx) : Ctx := { x.long.foldl Ctx.finishLong x with long := [] }

/-! ### Outputs and mailboxes at a boundary (R338 to R342) -/

/-- The output snapshot of the current boundary (R338): every written node whose image the copier has not yet read. -/
def Dev.snapshot (d : Dev) (slot : Nat) : Dev :=
  let e := (d.room slot).epo
  if !e.snapDue then d
  else
    let d := each (d.writtenNodes slot (e.cnt - 1)) (fun d n => d.stageNode n e.cnt) d
    d.modRoom slot (fun r => { r with epo := { r.epo with snapDue := false } })

/-- Nodes of a room served here. -/
def Dev.nodesOf (d : Dev) (id : Nat) : List Nat :=
  (d.plan.nodes.filter (fun n => n.roomId == id && n.inPa / 2 ^ 50 == d.pkg)).map NodeRec.node

/-- Bytes left in a receive ring, measured from the receiver's confirmed MBX_RD (R342). -/
def mboxFree (half wr rd : Nat) : Nat := if wr < rd then rd - wr else half - wr + rd

/-- Try to deliver the oldest waiting message of a mailbox (R342). -/
def Dev.deliverOne (d : Dev) (n : Nat) : Dev :=
  match d.plan.mbox n, (d.mbox n).waiting with
  | some m, w :: rest =>
    let b := d.mbox n
    let half := m.bufSize / 2
    let need := 8 + (w.length + 7) / 8 * 8
    let wrap := decide (half < b.wr + need + 8)
    let room := mboxFree half b.wr b.rdConf
    let total := if wrap then (half - b.wr) + need + 8 else need + 8
    if total ≤ room then
      let base := m.bufPa + half
      let d := if wrap then d.engineWrite m.sender (base + b.wr) (leBytes 8 0) else d
      let wr := if wrap then 0 else b.wr
      let num := (b.released + 1) % 65536
      let hdr := leBytes 8 (w.length + num * 65536)
      let pad := List.replicate (need - 8 - w.length) (0 : Byte)
      let d := d.engineWrite m.sender (base + wr) (hdr ++ w ++ pad)
      let d := d.modMbox n (fun x => { x with waiting := rest, released := num, wr := (wr + need) % half,
                                              delivered := (x.delivered + 1) % 65536 })
      d.raise (128 + n)
    else d
  | _, _ => d

/-- Deliver in order until one must wait. -/
def Dev.deliver (d : Dev) (n : Nat) : Dev := iter (fun d => d.deliverOne n) (d.mbox n).waiting.length d

/-- Mailboxes of which a room is the sender, and the receiver. -/
def Dev.sends (d : Dev) (id : Nat) : List Nat := (d.plan.mboxes.filter (fun m => m.sender == id)).map MboxRec.mbox
def Dev.receives (d : Dev) (id : Nat) : List Nat := (d.plan.mboxes.filter (fun m => m.receiver == id)).map MboxRec.mbox

/-- Release the sends that an epoch queued (R341 step 4): each is counted, and leaves its place in the queue, once it is in the receive ring. -/
def Dev.releaseSends (d : Dev) (slot epoch : Nat) : Dev :=
  each (d.sends (d.idOf slot)) (fun d n =>
    match d.plan.mbox n with
    | none => d
    | some m =>
      let mine := (d.mbox n).queue.filter (fun q => q.epoch == epoch)
      let d := each mine (fun d q =>
        let bs := d.bytes (m.bufPa + q.ofs) q.len
        d.modMbox n (fun b => { b with waiting := b.waiting ++ [bs] })) d
      let d := d.modMbox n (fun b => { b with queue := b.queue.filter (fun q => q.epoch != epoch) })
      d.deliver n) d

/-! ### Boundaries and confirmation (R328 to R336, R346) -/

/-- Trestle stations of a room's contexts, with their cluster, in issue order (R319). -/
def Dev.stationsOf (d : Dev) (slot : Nat) : List (Nat × Station) :=
  (d.clustersOf slot).flatMap (fun c => ((d.cluster c).trestle.queue.filter (fun s =>
    d.coreSlot (coreOf s.ctx) == some slot)).map (fun s => (c, s)))

/-- The room's part of a checkpoint. -/
def Dev.roomCkpt (d : Dev) (slot k : Nat) : RoomCkpt :=
  let id := d.idOf slot
  { boundary := k, mbxSofs := (d.sends id).map (fun n => (n, (d.mbox n).sofs)),
    mbxRd := (d.receives id).map (fun n => (n, (d.mbox n).rd)), fwdSeq := (d.room slot).fwd.seq,
    fwdOut := (d.room slot).fwd.out, stations := d.stationsOf slot,
    cores := (d.coresOf slot).map (fun c => (c, (d.core c).cur, (d.core c).run)) }

/-- Contexts of a room: every enabled bank of its cores. -/
def Dev.ctxsOf (d : Dev) (slot : Nat) : List Nat :=
  (d.coresOf slot).flatMap (fun c => (d.banks c).map (fun b => c * 4 + b))

/-- The record of a context in a checkpoint: the reservation and the predictor's entries are not recorded (R331). -/
def Ctx.record (x : Ctx) : Ctx := { x with resv := none, btable := [], rstack := .empty, long := [] }

/-- Stream the shadow latches of a cluster into slot (k mod 2) (R331). -/
def Dev.stream (d : Dev) (slot c : Nat) : Dev :=
  let k := (d.room slot).epo.cnt
  let d := each ((d.ctxsOf slot).filter (fun x => x / 16 == c)) (fun d x =>
    { d with ckpts := Sparse.insert d.ckpts (x * 3 + k % 2) (Sparse.get Ctx.init d.ckpts (x * 3 + 2)) }) d
  d.modRoom slot (fun r => { r with epo := { r.epo with streaming := r.epo.streaming.filter (· != c) } })

/-- The commit of every core of a room (R330): buffered stores written, long operations complete, EWL clear, each enabled
bank latched. -/
def Dev.commit (d : Dev) (slot : Nat) : Dev :=
  let d := each (d.coresOf slot) (fun d c =>
    let d := d.drain c
    d.modCore c (fun x => { x with l1 := x.l1.map (fun e => { e with ewl := false }) })) d
  each (d.ctxsOf slot) (fun d x =>
    let d := d.modCtx x Ctx.finishAll
    { d with ckpts := Sparse.insert d.ckpts (x * 3 + 2) (d.ctx x).record }) d

/-- 48 cycles in ns at a P-level (R330, Table 20.1). -/
def commitNs (p : Nat) : Nat := [24, 30, 40, 80, 240].getD p 240

/-- Clusters of a room with a core that is not idle: the others satisfy a boundary without a commit (R345). -/
def Dev.busyClusters (d : Dev) (slot : Nat) : List Nat :=
  (d.clustersOf slot).filter (fun c => (d.coresOf slot).any (fun x => x / 4 == c && (d.core x).run != .idle))

/-- ns of the slowest commit of a room's clusters (R330, R345). -/
def Dev.slowest (d : Dev) (slot : Nat) : Nat := ((d.busyClusters slot).map (fun c => commitNs (d.cluster c).plevel)).foldl max 0

/-- The checkpoint slot of the last boundary is free: the epoch that began two boundaries before it is confirmed (R331, R335). -/
def Dev.ckptFree (d : Dev) (slot : Nat) : Bool := decide ((d.room slot).epo.cnt ≤ (d.room slot).epo.conf + 1)

/-- Take boundary cnt + 1 (R328 to R331): commit, number, checkpoint, snapshot due. A boundary that finds the previous
snapshot or streaming outstanding waits for it. The copy of an idle cluster's unchanged banks needs no streaming; its slot too is held until the epoch
before is confirmed. -/
def Dev.boundary (d : Dev) (slot : Nat) : Dev :=
  let d := d.snapshot slot
  let d := each (d.room slot).epo.streaming (fun d c => d.stream slot c) d
  let d := d.commit slot
  let k := (d.room slot).epo.cnt + 1
  let ck := d.roomCkpt slot k
  let d := d.modRoom slot (fun r => { r with epo := { r.epo with cnt := k } })
  let cl := if d.ckptFree slot then d.busyClusters slot else d.clustersOf slot
  let d := d.modRoom slot (fun r =>
    { r with ckpts := ck :: r.ckpts
             epo := { r.epo with
               streaming := cl, snapDue := true, readBad := false, lastAt := d.clk.tb
               maxDly := max r.epo.maxDly (d.slowest slot) } })
  let d := each ((d.clustersOf slot).filter (fun c => !cl.contains c)) (fun d c => d.stream slot c) d
  each (d.coresOf slot) (fun d c => d.traceEvt c slot 1 3 0 (BitVec.ofNat 64 k)) d

/-- What the confirmation of the oldest unconfirmed epoch does (R335): undo entries freed, outputs and sends released. -/
def Dev.confirmOne (d : Dev) (slot : Nat) : Dev :=
  let n := (d.room slot).epo.conf
  let id := d.idOf slot
  let d := each (d.clustersOf slot) (fun d c => d.modCluster c (fun x =>
    { x with undo := x.undo.filter (fun e => !(e.slot == slot && e.epoch == n)) })) d
  let d := each (d.nodesOf id) (fun d k => d.modNode k (fun x =>
    let x := { x with live := true }
    if (n + 1) % 2 == 0 then
      match x.staged0 with
      | some im => { x with released := im, staged0 := none }
      | none => x
    else
      match x.staged1 with
      | some im => { x with released := im, staged1 := none }
      | none => x)) d
  let d := d.modRoom slot (fun r =>
    { r with ckpts := r.ckpts.filter (fun k => decide (n < k.boundary)),
             delivered := r.delivered.filter (fun p => p.1 != n), epo := { r.epo with conf := n + 1 } })
  let d := d.releaseSends slot n
  let at1 := ((d.room slot).ckpts.find? (fun k => k.boundary == n + 1)).map RoomCkpt.mbxRd
  match at1 with
  | none => d
  | some l => each l (fun d (m, v) => (d.modMbox m (fun b => { b with rdConf := v })).deliver m) d

/-- Confirm every open epoch at once, as at a halt (R346). -/
def Dev.confirmAll (d : Dev) (slot : Nat) : Dev :=
  let d := d.snapshot slot
  let d := each (d.room slot).epo.streaming (fun d c => d.stream slot c) d
  iter (fun d => d.confirmOne slot) ((d.room slot).epo.cnt - (d.room slot).epo.conf) d

/-- The confirmation that the last boundary brought takes effect before the next one falls (R335): its checkpoint slot is taken again then. Package 0
confirms a spanning room's epochs (R347). -/
def Dev.confirmDue (d : Dev) (slot : Nat) : Dev :=
  if !d.spans slot && decide ((d.room slot).epo.conf + 2 ≤ (d.room slot).epo.cnt) then d.confirmOne slot else d

/-- A core holds X2 for a PCIe completion, or for a line that it has asked for: its instruction completes before a boundary or an interrupt (R200,
Table 7.5). -/
def Dev.holdsX2 (d : Dev) (core : Nat) : Bool := (d.core core).wait.isSome || (d.l1Uses core).contains .data

/-- A room can take a boundary: it runs, no rollback, no core holds X2, and every buffered store has its line; one that spans packages has its
checkpoint slot free (R347). -/
def Dev.canBound (d : Dev) (slot : Nat) : Bool :=
  let r := d.room slot
  r.phase == .running && r.rb.isNone && (d.coresOf slot).all (fun c => !d.holdsX2 c && d.drainReady c) &&
    (!d.spans slot || decide (r.epo.cnt ≤ r.epo.conf + 1))

/-- A boundary has fallen that the room has not taken: it issues no instruction before it (R330, Table 15.4). -/
def Dev.boundaryDue (d : Dev) (slot : Nat) : Bool :=
  let e := (d.room slot).epo
  decide (0 < e.want) || (!d.spans slot && !e.frozen && decide (e.next ≤ d.clk.tb))

/-- A boundary that the room cannot take yet waits. -/
def Dev.wantBoundary (d : Dev) (slot late : Nat) : Dev :=
  d.modRoom slot (fun r => { r with epo := { r.epo with want := r.epo.want + 1, wantAt := if r.epo.want == 0 then d.clk.tb - late else r.epo.wantAt } })

/-- A boundary with every open epoch confirmed: a halt (R346), a core reset (R463), a drain (R94), a suspension (R453). -/
def Dev.boundaryConfirm (d : Dev) (slot : Nat) : Dev := ((d.confirmDue slot).boundary slot).confirmAll slot

/-- Such a boundary, as soon as the room can take it. -/
def Dev.askConfirm (d : Dev) (slot : Nat) : Dev :=
  if d.canBound slot then d.boundaryConfirm slot
  else (d.wantBoundary slot 0).modRoom slot (fun r => { r with epo := { r.epo with confirmNext := true } })

/-- Next package epoch boundary strictly after a time (R328). -/
def nextPkg (t : Nat) : Nat := (t / 5000 + 1) * 5000
/-- The first one at or after a time. -/
def ceilPkg (t : Nat) : Nat := (t + 4999) / 5000 * 5000

/-! ### Forwarded commands (R323, R327) -/

/-- The command packet of Table 14.8. -/
def Dev.fwdPacket (d : Dev) (slot : Nat) (f : FwdRec) (c : FwdCmd) : List Byte :=
  leBytes 1 c.op.toNat ++ leBytes 1 (c.tag.toNat + b2n c.dr * 8) ++ leBytes 1 0 ++ leBytes 1 c.rgen ++
  leBytes 1 (d.idOf slot) ++ leBytes 1 (c.ctx % 4) ++ leBytes 2 (d.pkg * 128 + c.ctx / 4) ++ leBytes 8 c.seq ++
  leBytes 8 c.rdv.toNat ++ leBytes 8 c.rsv.toNat ++ leBytes 8 c.rtv.toNat ++ leBytes 4 c.user ++ leBytes 4 0 ++
  leBytes 8 c.epoch ++ leBytes 8 (f.cplPa + (c.seq % 64) * 64)

/-- Post a command: one 64-byte PCIe memory write (R323), dropped and counted while the link is down (R425). -/
def Dev.fwdPost (d : Dev) (slot : Nat) (c : FwdCmd) : Dev :=
  match d.plan.fwd (d.idOf slot) with
  | some f => (d.wake 100).pcieOut (f.cmdPa + (c.seq % 64) * 64) (d.fwdPacket slot f c)
  | none => d

/-! ### Rollback (R336, R337, R357) -/

/-- Stop issue on every core of a room. -/
def Dev.stopCores (d : Dev) (slot : Nat) : Dev :=
  each (d.coresOf slot) (fun d c => d.modCore c (fun x => { x with run := .stopped, wait := none, stepping := none })) d

/-- Put one undo entry back: a line but its non-rollback bytes (R344), or a block of the local store (R319). -/
def Dev.undoOne (d : Dev) (slot c : Nat) (e : UndoEntry) : Dev :=
  match e.kind with
  | .trestle =>
    d.modCluster c (fun x => { x with trestle := x.trestle.lsPutAll (spread (e.addr * 64) e.pre) })
  | _ =>
    let l := (spread (e.addr * 64) e.pre).filter (fun (a, _) => !d.nonRollback (d.idOf slot) a)
    let d := (d.poke l).clearResv e.addr none
    if (d.holders e.addr).isEmpty then d.writeBack e.addr else d

/-- Replay the undo entries of a room, newest first (R336, R357 step 3): epoch after epoch, since no two clusters log one line in one epoch. -/
def Dev.replay (d : Dev) (slot : Nat) : Dev :=
  let e := (d.room slot).epo
  let d := each ((List.range (e.cnt + 1 - e.conf)).reverse.map (e.conf + ·)) (fun d k =>
    each (d.clustersOf slot) (fun d c =>
      each ((d.cluster c).undo.filter (fun e => e.slot == slot && e.epoch == k)) (fun d e => d.undoOne slot c e) d) d) d
  each (d.clustersOf slot) (fun d c => d.modCluster c (fun x =>
    { x with undo := x.undo.filter (fun e => e.slot != slot) })) d

/-- The checkpoint of a boundary for a context: the shadow latch when it is the latest boundary's, else its slot. -/
def Dev.ckptOf (d : Dev) (slot x k : Nat) : Ctx :=
  if k == (d.room slot).epo.cnt then Sparse.get Ctx.init d.ckpts (x * 3 + 2)
  else Sparse.get Ctx.init d.ckpts (x * 3 + k % 2)

/-- Reload a context from a checkpoint; its predictor tables and secret stay (Table 8.5), and so does its return stack, of which neither Table 8.5
nor Table 15.1 speaks (DESIGN CHOICE, notes/assumptions/84.md). -/
def Dev.reload (d : Dev) (slot x k : Nat) : Dev :=
  let old := d.ctx x
  d.setCtx x { d.ckptOf slot x k with resv := none, btable := old.btable, rstack := old.rstack, long := [] }

/-- Drop a room's Trestle stations, with their state in datapaths and save stores. -/
def Dev.dropStations (d : Dev) (slot : Nat) : Dev := d.dropOps (fun s => d.coreSlot (coreOf s.ctx) == some slot)

/-- The units of a room's clusters go on with its stations. -/
def Dev.beginStations (d : Dev) (slot : Nat) : Dev :=
  each (((d.clustersOf slot).filter (fun c => d.trWaiting c slot)).filterMap d.trUnit) (fun d u => d.trBegin u) d

/-- The discarding and restoring of a rollback (R357 steps 1 to 4): to the oldest unconfirmed boundary. -/
def Dev.restore (d : Dev) (slot : Nat) : Dev :=
  let e := (d.room slot).epo
  let bnd := e.conf
  let id := d.idOf slot
  let d := (d.stopCores slot).finishTxns (d.clustersOf slot)
  let d := each (d.coresOf slot) (fun d c => d.modCore c (fun x => { x with sbuf := [] })) d
  let d := each (d.nodesOf id) (fun d n => d.modNode n (fun x => { x with staged0 := none, staged1 := none })) d
  let d := each (d.sends id) (fun d n => d.modMbox n (fun b => { b with queue := [] })) d
  let d := d.replay slot
  let d := d.dropStations slot
  let d := each (d.ctxsOf slot) (fun d x => d.reload slot x bnd) d
  let d := d.tlbRemoveRoom slot
  let rgen := (e.rgen + 1) % 256
  let d := d.modRoom slot (fun r => { r with
    epo := { r.epo with rbk := satInc 0xFFFFFF r.epo.rbk, rgen := rgen, snapDue := false, streaming := [] } })
  let back := (d.room slot).delivered
  let d := each back (fun d (_, s) => d.raise s) d
  let d := d.modRoom slot (fun r => { r with delivered := [] })
  match (d.room slot).ckpts.find? (fun k => k.boundary == bnd) with
  | none => d
  | some k =>
    let d := each k.cores (fun d (c, b, _) => d.modCore c (fun x => { x with cur := b })) d
    let d := each k.mbxSofs (fun d (n, v) => d.modMbox n (fun b => { b with sofs := v })) d
    let d := each k.mbxRd (fun d (n, v) => d.modMbox n (fun b => { b with rd := v })) d
    let d := each k.stations (fun d (c, s) => d.modCluster c (fun x => { x with trestle := { x.trestle with
      queue := x.trestle.queue ++ [s] } })) d
    let d := d.beginStations slot
    let due := d.clk.tb + ((d.plan.fwd id).map FwdRec.tmoUs).getD 0 * 1000
    let out := k.fwdOut.map (fun c => { c with rgen := rgen, due := due })
    let d := d.modRoom slot (fun r => { r with fwd := { r.fwd with seq := k.fwdSeq, out := out } })
    each out (fun d c => d.fwdPost slot c) d

/-- What a detection adds to a rollback: cores to test, and its record, once for each structure; a detector that names a single core of a pair
replaces the pair's unlocated mismatch (R359). -/
def Rollback.joined (b : Rollback) (testing : List Nat) (r : RbRec) : Rollback :=
  let same := fun (x : RbRec) => x.kind == r.kind && x.loc == r.loc && x.addr == r.addr
  let rest := b.recs.filter (fun x => !(x.kind == 1 && r.kind == 2 && x.loc / 2 == r.loc / 2))
  { b with testing := (b.testing ++ testing).eraseDups
           recs := if r.kind == 0 || b.recs.any same then b.recs else rest ++ [r] }

/-- Start a rollback of a room on a detected error (R357, Table 16.5): a second error in it names more cores and adds its record. `kind` is
the record to write at the resume (0: none). -/
def Dev.rollback (d : Dev) (slot : Nat) (testing : List Nat) (kind loc addr detail : Nat) : Dev :=
  let r := d.room slot
  let new : RbRec := { kind := kind, loc := loc, addr := addr, detail := detail }
  match r.rb with
  | some b => d.modRoom slot (fun r => { r with rb := some { b.joined testing new with started := d.clk.tb } })
  | none =>
    let d := d.restore slot
    let d := each (d.coresOf slot) (fun d c =>
      d.traceEvt c slot 2 4 (d.room slot).epo.rgen (BitVec.ofNat 64 r.epo.conf)) d
    let b : Rollback :=
      { back := r.epo.conf, started := d.clk.tb, testing := [], recs := [], thenReset := none, thenCore := none, subst := [], thenHalt := [] }
    d.modRoom slot (fun r => { r with phase := .rolling, rb := some (b.joined testing new) })

/-- The records of a room's rollback are written, with the rollback time where it resumes (R372). -/
def Dev.writeRecs (d : Dev) (slot ns : Nat) : Dev :=
  each (((d.room slot).rb.map Rollback.recs).getD []) (fun d r => d.incident r.kind r.loc r.addr r.detail [slot] ns) d

/-! ### Hold (R33, Table 16.10) -/

/-- Hold a room's part in this package with a reason: one that runs returns to its last confirmed checkpoint first (R33), and a rollback under
way writes its records. It stops and runs no command. -/
def Dev.holdHere (d : Dev) (slot reason : Nat) : Dev :=
  let d := (if (d.room slot).phase == .running then d.restore slot else d).writeRecs slot 0
  (d.stopCores slot).modRoom slot (fun r => { r with phase := .held, reason := reason, rb := none })

/-- A resource of the room is lost: the other packages that it spans hold it too (R33). -/
def Dev.tellHold (d : Dev) (slot reason : Nat) : Dev :=
  if d.spans slot && decide (reason < 7) then d.emit (.roomHeld (d.idOf slot) reason) else d

/-- Hold a room with a reason, in every package that it spans. -/
def Dev.hold (d : Dev) (slot reason : Nat) : Dev := (d.tellHold slot reason).holdHere slot reason

/-- A Degraded event touches a room (Table 16.10). -/
def Dev.degrade (d : Dev) (slot : Nat) : Dev := d.modRoom slot (fun r => { r with degraded := true })

/-- Slots of the rooms whose windows cover a line, with the secondary copies of mirrored windows (R66). -/
def Dev.slotsOver (d : Dev) (line : Nat) : List Nat :=
  (List.range 64).filter (fun s => match d.rrec s with
    | some r => (d.plan.windowsOf r.roomId).any (fun w => w.covers (line * 64) ||
        (w.mirror == 1 && decide (w.mirrorBase ≤ line * 64) && decide (line * 64 < w.mirrorBase + w.size)))
    | none => false)

/-- Slots of rooms present under the active floorplan. -/
def Dev.slots (d : Dev) : List Nat := (List.range 64).filter (fun s => (d.rrec s).isSome)

/-- Slots of rooms with a core, a cache way or a memory window on a die. -/
def Dev.slotsOnDie (d : Dev) (die : Nat) : List Nat :=
  let onDie := fun (sysRegion : Nat) => sysRegion / 4 == d.pkg * 2 + die
  d.slots.filter (fun s =>
    let id := d.idOf s
    (d.coresOf s).any (fun c => c / 64 == die) ||
    d.plan.caches.any (fun r => r.roomId == id && r.form == 1 && r.loc / 16 == d.pkg * 2 + die) ||
    d.plan.caches.any (fun r => r.roomId == id && r.form == 2 && onDie r.loc) ||
    (d.plan.windowsOf id).any (fun w => w.kind == 0 &&
      ((d.homeOf w.base).map onDie == some true || (w.mirror == 1 && (d.homeOf w.mirrorBase).map onDie == some true))))

/-- The home channel of a physical address is lost. -/
def Dev.lostHome (d : Dev) (pa : Nat) : Bool :=
  match d.homeOf pa with
  | some r => r / 8 == d.pkg && (d.region (r % 8)).chanLost
  | none => false

/-- A unit of a share is retired, and the spare does not stand in for it (R321). -/
def Trestle.unitLost (t : Trestle) (share : Nat × Nat) : Bool :=
  (List.range 16).any (fun u => decide (share.1 ≤ u) && decide (u < share.1 + share.2) &&
    (if t.spareUsed && t.spareFor == u then t.lsRetired.getLsbD 16 else t.lsRetired.getLsbD u))

/-- Why a room cannot run on the resources that its set gives it, by ROOM_STAT.REASON: a die, a core without a spare, the last way,
memory, a Trestle, a package or link that is lost (Table 16.10); none: they are healthy (Table 3.8). -/
def Dev.blocked (d : Dev) (slot : Nat) : Option Nat :=
  match d.rrec slot with
  | none => none
  | some r =>
    let ways := fun (c : Nat) => (bitsOf (d.l2Ways c r.roomId) 16).filter (fun w => !(d.l2Lock c r.roomId).testBit w)
    let lost := fun (w : WindowRec) => w.kind == 0 && d.lostHome w.base && (w.mirror != 1 || d.lostHome w.mirrorBase)
    if d.diesLost.any (fun die => (d.slotsOnDie die).contains slot) then some 1
    else if (d.coresOf slot).any (fun c => (d.cluster (c / 4)).unfilled (c % 4)) then some 2
    else if (d.clustersOf slot).any (fun c => !(ways c).isEmpty && (ways c).all (fun w => (d.cluster c).l2Retired.getLsbD w)) then some 3
    else if (d.plan.windowsOf r.roomId).any lost then some 4
    else if (d.clustersOf slot).any (fun c => (d.lsShare c slot).2 != 0 &&
        ((d.cluster c).trestle.health == .lost || (d.cluster c).trestle.unitLost (d.lsShare c slot))) then some 5
    else if (d.plan.uses r).any (fun k => k != d.pkg && !d.per.present.getLsbD k) then some 6
    else none

/-! ### Start (R182, R219, R96) -/

/-- Locked L2 ways of a room that are not retired (R267). -/
def Dev.lkLock (d : Dev) (c id : Nat) : Nat := orAll (((bitsOf (d.l2Lock c id) 16).filter (fun w => !(d.cluster c).l2Retired.getLsbD w)).map (2 ^ ·))

/-- LKFILL at reset: the lowest locked ways (Table 11.2). -/
def Dev.lkReset (d : Dev) (core : Nat) : Lkfill :=
  let l2 := d.lkLock (core / 4) ((d.coreRoom core).getD 0)
  { Lkfill.init with l2Way := (lowestBit l2 16).getD 0, l1Way := (lowestBit (d.l1Lock core) 4).getD 0 }

/-- A context at context start: ENTRY_PA[45:0], a fresh prediction secret (R182, R205, R219). -/
def Dev.startCtx (d : Dev) (x : Nat) (entry : Nat) : Dev :=
  let (sec, d) := d.draw
  d.setCtx x { Ctx.init with pc := BitVec.ofNat 64 (entry % 2 ^ 46), secret := sec }

def Dev.entryOf (d : Dev) (slot : Nat) : Nat := ((d.rrec slot).map RoomRec.entryPa).getD 0

/-- Every enabled bank of a core takes the start state; the lowest one is current (R182). -/
def Dev.startCore (d : Dev) (slot core : Nat) (run : CoreRun) : Dev :=
  let bs := d.banks core
  let d := each [0, 1, 2, 3] (fun d b => d.setCtx (core * 4 + b) Ctx.init) d
  let d := each bs (fun d b => d.startCtx (core * 4 + b) (d.entryOf slot)) d
  d.modCore core (fun c => { Core.init with cur := bs.headD 0, run := run, lk := d.lkReset core,
                                            traceQ := c.traceQ, traceMiss := c.traceMiss, l1 := c.l1 })

/-- A slot without a room, or before its room: WDG_STAT.BITES counts the slot's bites since power-on (R4, R390). -/
def Room.blank (r : Room) : Room := { Room.init with wdg := { WdgRegs.init with bites := r.wdg.bites } }

/-- The room's registers at their Reset values, but the fields of ROOM_RST and WDG_STAT.BITES (R462 step 5). -/
def Dev.freshRoom (d : Dev) (slot : Nat) (old : Room) : Room :=
  let id := ((d.rrec slot).map RoomRec.roomId).getD 0
  let frz := match d.plan.debug id with
    | some g => if g.freezePer then orAll (((List.range 8).filter (d.ownsPeriph slot)).map (2 ^ ·)) else 0
    | none => 0
  { Room.init with roomId := id, phase := old.phase, reason := old.reason, rstLast := old.rstLast,
                   rstCount := old.rstCount, zeroFill := old.zeroFill, readyAt := old.readyAt, sess := old.sess,
                   wdg := { WdgRegs.init with bites := old.wdg.bites },
                   dbg := { DbgRegs.init with frz := BitVec.ofNat 8 frz },
                   pwr := { PwrRegs.init with req := ((d.rrec slot).map RoomRec.plevReq).getD 0 } }

/-- Sources of a room take the image's EN and PRIO (R386). -/
def Dev.irqImage (d : Dev) (slot : Nat) : Dev :=
  { d with irqOff := d.irqOff.filter (fun s => !d.routedTo s slot),
           irqPrio := d.irqPrio.filter (fun (s, _) => !d.routedTo s slot) }

/-- At a room reset IRQ_CFG takes its reset values: the image's EN and PRIO, and no event pending (R387, R462 step 5). -/
def Dev.irqReset (d : Dev) (slot : Nat) : Dev :=
  { d.irqImage slot with irqPend := d.irqPend.filter (fun s => !d.routedTo s slot) }

/-- Scrub a room's share of a cluster's Trestle: stations, local store, save store, watermark. -/
def Dev.scrubTrestle (d : Dev) (slot : Nat) : Dev :=
  each (d.clustersOf slot) (fun d c =>
    let single := (d.plan.roomB d.pkg c).isNone
    let isA := d.plan.roomA d.pkg c == some (d.idOf slot)
    let a := ((d.plan.cluster d.pkg c).map ClusterRec.tlsA).getD 0
    let mine := fun (u : Nat) => single || (if isA then decide (u < a) else decide (a ≤ u))
    d.modCluster c (fun x => { x with trestle := { x.trestle with
      ls := x.trestle.ls.filter (fun (o, _) => !mine (o / 16384)),
      lsOpen := x.trestle.lsOpen &&& BitVec.ofNat 16 (orAll (((List.range 16).filter (fun u => !mine u)).map (2 ^ ·))),
      lswm := Sparse.erase x.trestle.lswm slot,
      lswmBusy := x.trestle.lswmBusy.filter (· != slot),
      loaded := if x.trestle.loaded == some (c, slot) then none else x.trestle.loaded } })) (d.dropStations slot)

/-- A started room's epochs: boundary 0 at the package epoch boundary it starts at (R328), checkpoint and all. -/
def Dev.beginEpochs (d : Dev) (slot k : Nat) : Dev :=
  let d := d.modRoom slot (fun r => { r with epo := { EpochRegs.init with
    cnt := k, conf := k, lastAt := d.clk.tb, rbk := r.epo.rbk, rgen := r.epo.rgen, forced := r.epo.forced,
    maxDly := r.epo.maxDly, substAt := r.epo.substAt, frozen := r.epo.frozen, swapHold := r.epo.swapHold,
    want := r.epo.want, wantAt := r.epo.wantAt, confirmNext := r.epo.confirmNext, coreReset := r.epo.coreReset,
    next := if d.spans slot then 0 else d.clk.tb + d.epochUs slot * 1000 } })
  let d := d.commit slot
  let ck := d.roomCkpt slot k
  let d := d.modRoom slot (fun r => { r with ckpts := [ck] })
  each (d.clustersOf slot) (fun d c => d.stream slot c) d

/-- Wake the clusters of a room (Table 20.13) and ask for their P-levels; a sealed room holds On the uncore of every region where it has a
bandwidth record (R300). -/
def Dev.wakeRoom (d : Dev) (slot : Nat) : Dev :=
  let d := each (d.clustersOf slot) (fun d c => (d.wake c).retarget c) d
  if d.sealedRoom slot then
    each ((List.range 8).filter (fun r => (d.bwOf r).any (fun b => b.roomId == d.idOf slot))) (fun d r => d.wake (64 + r)) d
  else d

/-- Resume a room from the checkpoint of a boundary, at a boundary that takes number `k` (R357 step 6): each core runs or idles
as it did. -/
def Dev.resumeFrom (d : Dev) (slot bnd k : Nat) : Dev :=
  let runs := (((d.room slot).ckpts.find? (fun k => k.boundary == bnd)).map RoomCkpt.cores).getD []
  let d := d.modRoom slot (fun r => { r with phase := .running, rb := none, reason := 0 })
  let d := each (d.coresOf slot) (fun d c =>
    let was := ((runs.find? (fun p => p.1 == c)).map (fun p => p.2.2)).getD .running
    d.modCore c (fun x => { x with run := if was == .idle then .idle else .running })) d
  (d.wakeRoom slot).beginEpochs slot k

/-- Resume a room that stands at a confirmed checkpoint: after a suspension, a cancelled drain or D-Retain (R453, Table 3.9). -/
def Dev.resumeStopped (d : Dev) (slot : Nat) : Dev :=
  let e := (d.room slot).epo
  d.resumeFrom slot e.cnt (e.cnt + 1)

/-- Run a room from its start state at a package epoch boundary (R182, R328). -/
def Dev.startRoom (d : Dev) (slot : Nat) : Dev :=
  let d := d.tlbRemoveRoom slot
  let d := each (d.coresOf slot) (fun d c => d.startCore slot c .running) d
  let d := d.modRoom slot (fun r => { d.freshRoom slot r with phase := .running, reason := 0, hasRun := true })
  let d := each (d.nodesOf (d.idOf slot)) (fun d n => d.modNode n (fun x => { x with begin_ := 0 })) d
  let d := d.irqImage slot
  (d.wakeRoom slot).beginEpochs slot 0

/-- A room that nothing holds back starts at the next package epoch boundary; one whose resources are lost stays held (R33, R96), one whose
zero-fill is pending with REASON 8 (R97), and with AUTOSTART = 0 a room is held with REASON 7, but room 0 always starts (R62, R462 step 6). -/
def Dev.scheduleStart (d : Dev) (slot : Nat) : Dev :=
  match d.rrec slot with
  | none => d
  | some r =>
    match d.blocked slot with
    | some reason => d.hold slot reason
    | none =>
      if (d.room slot).zeroFill then d.hold slot 8
      else if r.autostart || r.roomId == 0 then
        d.modRoom slot (fun x => { x with phase := .starting, readyAt := nextPkg d.clk.tb, reason := 0 })
      else d.hold slot 7

/-! ### Room reset (R462) -/

/-- Reset a room for a cause of ROOM_RST.LAST (Table 21.5). -/
def Dev.resetRoom (d : Dev) (slot cause : Nat) : Dev :=
  let id := d.idOf slot
  let d := d.stopCores slot
  let d := each (d.coresOf slot) (fun d c => d.drain c) d
  let d := each (d.nodesOf id) (fun d n => d.modNode n (fun x =>
    { x with staged0 := none, staged1 := none, live := false })) d
  let d := each (d.sends id) (fun d n => d.modMbox n (fun b =>
    { b with queue := [], sofs := 0, ovf := false, released := 0 })) d
  let d := each (d.receives id) (fun d n => d.modMbox n (fun b =>
    { b with wr := 0, rd := 0, rdConf := 0, delivered := 0 })) d
  let d := each (d.clustersOf slot) (fun d c => d.modCluster c (fun x =>
    { x with undo := x.undo.filter (fun e => e.slot != slot) })) d
  let d := each (d.clustersOf slot) (fun d c => d.flushL2 c (fun e => e.room == id)) d
  let d := d.tlbRemoveRoom slot
  let d := d.scrubTrestle slot
  let d := each (d.coresOf slot) (fun d c => d.startCore slot c .stopped) d
  let d := each (d.coresOf slot) (fun d c => d.modCore c (fun x => { x with l1 := [] })) d
  let d := each ((List.range 8).filter (d.ownsPeriph slot)) (fun d b => d.resetPeriph b) d
  let d := d.modRoom slot (fun r => { d.freshRoom slot r with phase := .held, rstLast := cause, rstCount := satInc 255 r.rstCount })
  let d := d.irqReset slot
  d.scheduleStart slot

/-- Reset one core of a room, with its partner in a Paired room (R463), at a confirmed boundary: start state, empty caches, TLBs and predictor, no
Trestle stations. -/
def Dev.resetCoreNow (d : Dev) (slot core : Nat) : Dev :=
  let cores := if d.plan.paired (d.idOf slot) then [core, pairOf core] else [core]
  each cores (fun d c =>
    let d := d.drain c
    let d := each (d.core c).l1 (fun d e => d.l1Drop c e.line) d
    let old := d.core c
    let d := d.dropOps (fun s => coreOf s.ctx == c)
    let d := d.modRoom slot (fun r => { r with fwd := { r.fwd with
      out := r.fwd.out.map (fun k => if coreOf k.ctx == c then { k with dst := none, tagOn := false } else k) } })
    (d.startCore slot c .running).modCore c (fun x =>
      { x with halted := old.halted, pendHalt := old.pendHalt, bps := old.bps })) d

/-- Reset one core of a room (R463): boundary, confirmation, then the reset. -/
def Dev.resetCore (d : Dev) (slot core : Nat) : Dev := (d.boundaryConfirm slot).resetCoreNow slot core

/-- A core reset of a room that rolls back waits for its resume (Table 21.8), one of a room that cannot take its boundary yet for that
boundary. -/
def Dev.requestCoreReset (d : Dev) (slot core : Nat) : Dev :=
  match (d.room slot).rb with
  | some b => d.modRoom slot (fun r => { r with rb := some { b with thenCore := some core } })
  | none =>
    if (d.room slot).phase != .running then d
    else if d.canBound slot then d.resetCore slot core
    else (d.askConfirm slot).modRoom slot (fun r => { r with epo := { r.epo with coreReset := r.epo.coreReset ++ [core] } })

/-- A room reset requested while a rollback runs waits for its end; otherwise it happens at once (Table 21.8). -/
def Dev.resetHere (d : Dev) (slot cause : Nat) : Dev :=
  match (d.room slot).rb with
  | some b => d.modRoom slot (fun r => { r with rb := some { b with thenReset := some cause } })
  | none => d.resetRoom slot cause

/-- A room reset is told to every other package that the room spans (Table 21.1). -/
def Dev.tellReset (d : Dev) (slot cause : Nat) : Dev := if d.spans slot then d.emit (.roomReset (d.idOf slot) cause) else d

/-- A reset of a room in every package that it spans (R461). -/
def Dev.requestReset (d : Dev) (slot cause : Nat) : Dev := (d.tellReset slot cause).resetHere slot cause

end Sys2Proof.Machine
end

