-- ==== Sys2Proof/Machine/Traps.lean ====
section
/-!
DEFINITION. Debug halts of a core (R482 to R488), the wait for tagged results (R314), the registers of a ring block (R160, R174), and what
ends an instruction.
-/
namespace Sys2Proof.Machine

/-! ### Debug levels, halt and resume -/

/-- The lower of DBG_EN and the floorplan cap for a world of a room (R482). -/
def Dev.dbgLevel (d : Dev) (slot : Nat) (secure : Bool) : Nat :=
  let g := (d.room slot).dbg
  match d.plan.debug (d.idOf slot) with
  | some p => if secure then min g.sec p.secMax else min g.norm p.normMax
  | none => 0

/-- The cores a halt of one core stops: both of a Paired pair (R485). -/
def Dev.haltSet (d : Dev) (core : Nat) : List Nat :=
  match d.coreRoom core with
  | some id => if d.plan.paired id then [core, pairOf core] else [core]
  | none => [core]

/-- Halt cores of a room for a session (R485): reservations go, long and Trestle operations complete (Table 14.5), the room
takes a boundary, confirms its open epochs, and its epoch timer freezes (R346). `aux` is the cause of Table 22.7. -/
def Dev.haltCores (d : Dev) (slot : Nat) (cores : List Nat) (sid aux : Nat) : Dev :=
  if cores.isEmpty then d
  else
    let d := each cores (fun d c =>
      let d := d.traceEvt c slot 4 6 aux (d.ctx (d.curCtx c)).pc
      let d := each [0, 1, 2, 3] (fun d b => d.modCtx (c * 4 + b) (fun x => { x.finishAll with resv := none })) d
      d.modCore c (fun x => { x with halted := some sid, pendHalt := none, stepping := none })) d
    let d := each ((List.range 127).filter (fun n => d.entering n && d.slotUses slot n)) (fun d n => d.abortEntry n 2) d
    let d := (d.trDrainRoom slot).askConfirm slot
    d.modRoom slot (fun r => { r with epo := { r.epo with frozen := true } })

/-- Halt one core, with its partner in a Paired room. -/
def Dev.haltCore (d : Dev) (core sid aux : Nat) : Dev :=
  match d.coreSlot core with
  | none => d
  | some slot => d.haltCores slot (d.haltSet core) sid aux

/-- The frozen controllers of a room run again (R491). -/
def Dev.thaw (d : Dev) (slot : Nat) : Dev :=
  each ((List.range 8).filter (d.ownsPeriph slot)) (fun d b =>
    if b < 4 then d.modCan b (fun x => { x with frz := false })
    else if b < 6 then d.modMac (b - 4) (fun x => { x with frz := false })
    else d.modUart (b - 6) (fun x => { x with frz := false })) d

/-- Resume a core (R487); with the last one of the room the open epoch ends, confirmed at once, and the timer restarts
(R346). -/
def Dev.resumeCore (d : Dev) (core : Nat) : Dev :=
  match d.coreSlot core with
  | none => d
  | some slot =>
    if (d.core core).halted.isNone then d
    else
      let d := each (d.haltSet core) (fun d c =>
        let d := d.modCore c (fun x => { x with halted := none, stepping := none, bpSkip := true })
        d.traceEvt c slot 4 7 0 (d.ctx (d.curCtx c)).pc) d
      if d.roomHalted slot then d
      else
        let d := (d.askConfirm slot).thaw slot
        d.modRoom slot (fun r => { r with epo :=
          { r.epo with frozen := false, next := d.clk.tb + d.epochUs slot * 1000 } })

/-- Effective level of a session on a world of a room (R482). -/
def Dev.sessLevel (d : Dev) (slot sid : Nat) (secure : Bool) : Nat :=
  min ((((d.room slot).sess.find? (fun l => l.sid == sid)).map RoomLevel.level).getD 0) (d.dbgLevel slot secure)

/-- The core stands at an instruction boundary, in a world on which the session holds full. -/
def Dev.mayHalt (d : Dev) (slot sid core : Nat) : Bool :=
  (d.core core).wait.isNone && d.sessLevel slot sid (d.ctx (d.curCtx core)).secure == 2

/-- Halt cores of a running room for a session: at once where it may, else the halt is pending (R484, R485). -/
def Dev.haltGroup (d : Dev) (slot sid : Nat) (cores : List Nat) : Dev :=
  let live := cores.filter (fun c => (d.core c).halted.isNone)
  let now := live.filter (d.mayHalt slot sid)
  let d := each (live.filter (fun c => !now.contains c)) (fun d c => d.modCore c (fun x => { x with pendHalt := some sid })) d
  (each now (fun d c => d.wake (c / 4)) d).haltCores slot now sid 0

/-- A comparator matches a context running at its level, world and ASID (Table 22.5). -/
def Bp.matchesCtx (b : Bp) (x : Ctx) : Bool :=
  b.mask.getLsbD x.pl && b.mask.getLsbD (if x.secure then 4 else 3) && (b.asid == 0xFFFF || b.asid == x.asid x.secure)

/-- The comparator that stops a core before the instruction at its PC (R488). -/
def Dev.bpHit (d : Dev) (core : Nat) : Option Bp :=
  let c := d.core core
  let x := d.ctx (d.curCtx core)
  match d.coreSlot core with
  | none => none
  | some slot =>
    if c.bpSkip then none
    else c.bps.find? (fun b => b.kind == .instruction && b.va == x.pc && b.matchesCtx x && d.sessLevel slot b.sid x.secure == 2)

/-- The comparator that an access of a context matches (R488). -/
def Dev.bpData (d : Dev) (core : Nat) (x : Ctx) (va : Word) (n : Nat) (k : AccKind) : Option Bp :=
  match d.coreSlot core with
  | none => none
  | some slot =>
    (d.core core).bps.find? (fun b =>
      d.sessLevel slot b.sid x.secure == 2 &&
      (match b.kind with
       | .instruction => false
       | .dataRead => k.reads
       | .dataWrite => k.writes
       | .dataAny => true) &&
      b.matchesCtx x &&
      overlap va.toNat n (b.va.toNat / 2 ^ b.sizeLog2 * 2 ^ b.sizeLog2) (2 ^ b.sizeLog2))

/-! ### Tagged results (R314) -/

/-- A younger write cancels the tagged writes to a register. -/
def Dev.tagCancel (d : Dev) (slot ctx : Nat) (ps : List Nat) : Dev :=
  let d := d.trCancel ctx ps
  if (d.room slot).fwd.out.isEmpty then d
  else d.modRoom slot (fun r => { r with fwd := { r.fwd with out := r.fwd.out.map (fun c =>
    if c.ctx == ctx && (match c.dst with | some p => ps.contains p | none => false) then { c with dst := none } else c) } })

/-- A register is still owed by a Trestle or a forwarded operation of the context. -/
def Dev.tagOwes (d : Dev) (slot ctx : Nat) (ps : List Nat) : Bool :=
  let owes := fun (o : Option Nat) => match o with | some p => ps.contains p | none => false
  d.trPending ctx (fun s => owes s.dst) || (d.room slot).fwd.out.any (fun c => c.ctx == ctx && owes c.dst)

/-- Wait for the tagged results that sources need: Trestle operations run on until they are written; a forwarded result that
has not come makes the instruction wait. -/
def Dev.tagWait (d : Dev) (core slot ctx : Nat) (ps : List Nat) : Option Dev :=
  if d.tagOwes slot ctx ps then
    let d := d.trDrain (core / 4) slot (fun s => s.ctx == ctx && (match s.dst with | some p => ps.contains p | none => false))
    if d.tagOwes slot ctx ps then none else some d
  else some d

/-! ### Ring blocks (R160, R174) -/

/-- The registers of one ring block in the layout of SPILLW: H0 to H7, then A0 to A7 (R160). -/
def Ctx.blockWords (x : Ctx) (b : Nat) : List Word := (List.range 16).map (fun j => x.getP (ringReg b j))

/-- Load registers of ring blocks, from register `j` of block `b` on. -/
def Ctx.loadBlock (x : Ctx) (b j : Nat) (l : List Word) : Ctx :=
  ((List.range l.length).zip l).foldl (fun x p => x.setP (ringReg (b + (j + p.1) / 16) ((j + p.1) % 16)) p.2) x

/-- Write the registers of ring blocks from block `b` on with the parts of a load and its completion. -/
def Ctx.loadParts (x : Ctx) (b : Nat) (l : List FillPart) (bs : List Byte) : Ctx :=
  (l.foldl (fun (r : Ctx × List Byte) p =>
    (r.1.loadBlock b (p.ofs / 8) [BitVec.ofNat 64 (leAt (p.bytes ++ r.2.take p.owed) 0 8)], r.2.drop p.owed)) (x, bs)).1

/-! ### What SWRET leaves (R242) -/

/-- Registers that SWRET scrubs: all but C1 to C4; their pending results are cancelled. -/
def Ctx.scrub (x : Ctx) : Ctx :=
  { x with
    regs := x.regs.filter (fun p => decide (p.1 ≤ 4))
    long := x.long.map (fun o => { o with wr := o.wr && decide (o.dst ≤ 4), n := none, z := none, c := none, v := none })
    rstack := .empty }

/-- The first block that SWRET loads, and the normal WSP that it leaves. -/
def Ctx.backBlock (x : Ctx) : Nat := (x.ncwp + 16 - x.nrd) % 16
def Ctx.backWsp (x : Ctx) : Word := x.wspN - BitVec.ofNat 64 (128 * x.fill)

/-- The context the normal world finds, but the FILL blocks, which the loads bring (R242 steps 2, 4 and 5). -/
def Ctx.returned (x : Ctx) : Ctx :=
  let h7 := (x.get (rH 7)).toNat
  let y := { x.scrub with wspN := x.backWsp, scN := x.scN - x.fill, rd := x.nrd, fill := 0, resv := none }
  let y := (((y.setPsw 11 8 x.ncwp).setPsw 29 24 (field h7 29 24)).setPsw 21 16 (min 32 (field h7 21 16)))
  let y := ((y.setPsw 7 7 (b2n (bit h7 7))).setPsw 3 0 (field h7 3 0)).setPsw 5 4 (min 1 (field h7 5 4))
  (y.setPsw 6 6 0).setPsw 12 12 0

/-- The normal world's context with its blocks loaded. -/
def Ctx.backHome (x : Ctx) (l : List FillPart) (bs : List Byte) : Ctx := x.returned.loadParts x.backBlock l bs

/-! ### Window traps and the current block -/

/-- The trap window shows a window trap (R530). -/
def Ctx.inWindowTrap (x : Ctx) : Bool := x.tw && (if x.pl == 2 then x.rec2 else x.rec1) == .windowTrap

/-- Physical registers of a ring block. -/
def blockRegs (b : Nat) : List Nat := (List.range 16).map (ringReg b)

/-- A SPILLW in a spill trap, or a FILLW in a fill trap, moves RD and SC of H5 by one (R174), each within its field: at the field's end it
wraps (DESIGN CHOICE, notes/assumptions/61.md). -/
def Ctx.countBlock (x : Ctx) (fill : Bool) : Ctx :=
  let h5 := (x.get (rH 5)).toNat
  if x.inWindowTrap && field h5 29 28 == (if fill then 2 else 1) then
    let rd := if fill then field h5 7 4 + 1 else field h5 7 4 + 15
    let sc := if fill then field h5 27 8 + 0xFFFFF else field h5 27 8 + 1
    x.set (rH 5) (BitVec.ofNat 64 (setField (setField h5 7 4 rd) 27 8 sc))
  else x

/-! ### Ends of an instruction (R486, R488) -/

/-- End of a step (R486): STEP 1 after one instruction, STEP RANGE when the PC has left the range. -/
def Dev.stepEnds (d : Dev) (core : Nat) : Bool :=
  let pc := (d.ctx (d.curCtx core)).pc
  match (d.core core).stepping with
  | none => false
  | some (.one _) => true
  | some (.range lo hi) => !(decide (lo.toNat ≤ pc.toNat) && decide (pc.toNat < hi.toNat))

/-- After an instruction or a trap entry: a matched data comparator halts the core, a step that ends halts it again. -/
def Dev.afterIssue (d : Dev) (core : Nat) (hit : Option Bp) : Dev :=
  let d := d.modCore core (fun c => { c with bpSkip := false })
  match hit with
  | some b => d.haltCore core b.sid (1 + b.index)
  | none =>
    if d.stepEnds core then d.haltCore core ((d.core core).halted.getD 0) 9 else d

/-- The block that SPILLW and FILLW move: the one H5 names in a trap window, else the current window's (R160, R174). -/
def Ctx.movedBlock (x : Ctx) : Nat := if x.tw then field (x.get (rH 5)).toNat 3 0 else x.cwp

def wordsBytes (l : List Word) : List Byte := l.flatMap (fun w => leBytes 8 w.toNat)

end Sys2Proof.Machine
end

