-- ==== Sys2Proof/Machine/Irq.lean ====
section
/-!
DEFINITION. Interrupt registers, tick timers and watchdogs (17_interrupts_timers.md), and the rows that pend and take interrupts.
-/
namespace Sys2Proof.Machine

/-! ### Delivery (R377, R378) -/

/-- A pending source would be deliverable to a context of a bank (R377); `idle` takes IE as 1 and TW as 0 (R165). -/
def Dev.deliverable (d : Dev) (slot ctx s : Nat) (idle : Bool) : Bool :=
  let x := d.ctx ctx
  match d.route s with
  | none => false
  | some r =>
    d.slotOf r.roomId == some slot && r.bank == ctx % 4 && d.irqEn s && d.pendSrc s &&
      decide (x.ipl < d.irqPrioOf s) && (idle || !x.tw) && (r.keeper || (!x.secure && (idle || x.ie)))

/-- The core that takes a source (R378); an IDLE too ends only on this core (DESIGN CHOICE, notes/assumptions/59.md). -/
def Dev.chosenCore (d : Dev) (slot s : Nat) : Option Nat :=
  match d.route s with
  | none => none
  | some r =>
    if r.target != 0xFFFF then (if r.target / 128 == d.pkg then some (r.target % 128) else none)
    else
      let cs := (d.coresOf slot).filter (fun c => d.leads c && (d.banks c).contains r.bank)
      match cs.find? (fun c => d.deliverable slot (d.curCtx c) s false) with
      | some c => some c
      | none =>
        match cs.find? (fun c => (d.core c).cur == r.bank) with
        | some c => some c
        | none => cs.head?

/-- The source a core would take next: the highest priority, then the lowest number (R377). -/
def Dev.nextIrq (d : Dev) (core : Nat) (idle : Bool) : Option Nat :=
  match d.coreSlot core with
  | none => none
  | some slot =>
    let cands := (d.plan.irqs.map IrqRec.source).eraseDups.filter (fun s =>
      d.deliverable slot (d.curCtx core) s idle && d.chosenCore slot s == some core)
    cands.foldl (fun best s =>
      match best with
      | none => some s
      | some b =>
        if d.irqPrioOf b < d.irqPrioOf s || (d.irqPrioOf b == d.irqPrioOf s && s < b) then some s else some b) none

/-- Delivery clears the pending bit of an event source, and the distributor records it (R376, R386). -/
def Dev.delivered (d : Dev) (slot s : Nat) : Dev :=
  if levelSrc s then d
  else
    let d := { d with irqPend := d.irqPend.filter (· != s) }
    d.modRoom slot (fun r => { r with delivered := (r.epo.cnt, s) :: r.delivered })

/-- Who accesses a device register: the context current on a core, with its room, level and world. -/
structure Acc where
  core : Nat
  slot : Nat
  id : Nat
  pl : Nat
  secure : Bool
  deriving DecidableEq, Repr

def Acc.keeper (a : Acc) : Bool := a.secure && a.pl == 2

def Dev.acc (d : Dev) (core : Nat) : Acc :=
  let x := d.ctx (d.curCtx core)
  { core := core, slot := (d.coreSlot core).getD 0, id := (d.coreRoom core).getD 0, pl := x.pl, secure := x.secure }

/-! ### IRQ_CFG and IRQ_SWGEN (R387, R388) -/

/-- IRQ_CFG of a source as a room reads it: zero where it is not routed to the room. -/
def Dev.irqCfg (d : Dev) (slot src : Nat) : Nat :=
  match d.route src with
  | none => 0
  | some r =>
    if d.routedTo src slot then
      2 ^ 31 + b2n r.keeper * 2 ^ 30 + r.bank % 4 * 2 ^ 28 + b2n (d.pendSrc src) * 2 ^ 24 +
        b2n (levelSrc src) * 2 ^ 23 + b2n (d.irqEn src) * 2 ^ 16 + d.irqPrioOf src * 2 ^ 8
    else 0

/-- IRQ_TGT: the target core of a source routed to the room. -/
def Dev.irqTgt (d : Dev) (slot src : Nat) : Nat :=
  match d.route src with
  | some r => if d.routedTo src slot then r.target else 0
  | none => 0

/-- Write of IRQ_CFG: PEND of an event source is cleared by 1; EN and PRIO of a source of the keeper take its writes only. -/
def Dev.irqCfgWrite (d : Dev) (a : Acc) (src v : Nat) : Dev :=
  match d.route src with
  | none => d
  | some r =>
    if a.pl == 0 || !d.routedTo src a.slot then d
    else
      let d := if v.testBit 24 && !levelSrc src then { d with irqPend := d.irqPend.filter (· != src) } else d
      if r.keeper && !a.keeper then d
      else
        let off := d.irqOff.filter (· != src)
        { d with irqOff := if v.testBit 16 then off else src :: off,
                 irqPrio := Sparse.insert d.irqPrio src (field v 13 8) }

/-- IRQ_SWGEN: pends a software source routed to the writing room (R388); writes from PL0 are ignored. -/
def Dev.swgen (d : Dev) (a : Acc) (v : Nat) : Dev :=
  let s := field v 9 0
  if a.pl != 0 && decide (928 ≤ s) && d.routedTo s a.slot then d.raise s else d

/-- A source may be delivered to a core: it is its target, or any core of the room in the package may take it (R378). -/
def Dev.mayTake (d : Dev) (core s : Nat) : Bool :=
  match d.route s with
  | some r => r.target == 0xFFFF || r.target == d.pkg * 128 + core
  | none => false

/-- IRQ_BPEND: banks of the reading core with a deliverable source waiting. -/
def Dev.bpend (d : Dev) (a : Acc) : Nat :=
  orAll (((d.banks a.core).filter (fun b => (d.plan.irqs.map IrqRec.source).any (fun s =>
    d.mayTake a.core s && d.deliverable a.slot (a.core * 4 + b) s false))).map (2 ^ ·))

/-! ### Tick timer (R389) -/

/-- The first multiple of a period strictly after a time. -/
def nextMultiple (t p : Nat) : Nat := (t / p + 1) * p

def Dev.tickCfgWrite (d : Dev) (a : Acc) (v : Nat) : Dev :=
  if a.pl == 0 then d
  else
    let period := clamp 10 10000000 (v / 256)
    let en := v.testBit 0
    d.modRoom a.slot (fun r =>
      let t := r.tick
      let next := if !en then 0 else if t.en then t.next else nextMultiple d.clk.tb (period * 1000)
      { r with tick := { t with period := period, en := en, next := next } })

/-- The scheduled tick falls (R389): its source pends, or merges and counts. -/
def Dev.tickDue (d : Dev) (slot : Nat) : Dev :=
  let t := (d.room slot).tick
  if t.en && (d.rrec slot).isSome && decide (t.next ≤ d.clk.tb) then
    let miss := d.irqPend.contains slot
    (d.raise slot).modRoom slot (fun r => { r with tick :=
      { t with next := nextMultiple t.next (t.period * 1000), miss := if miss then satInc max32 t.miss else t.miss } })
  else d

/-! ### Watchdog (R390) -/

def Dev.wdgCfgWrite (d : Dev) (a : Acc) (v : Nat) : Dev :=
  if !a.keeper then d
  else d.modRoom a.slot (fun r =>
    let w := r.wdg
    let timeout := clamp 100 10000000 (v / 256)
    let warn := max 1 (field v 7 4)
    let start := v.testBit 0 && !w.en
    { r with wdg := { w with timeout := timeout, warn := warn, kworld := v.testBit 1, en := w.en || v.testBit 0,
                             count := if start then timeout else w.count, loaded := if start then timeout else w.loaded,
                             acc := if start then 0 else w.acc, warned := if start then false else w.warned } })

def Dev.kick (d : Dev) (a : Acc) (v : Nat) : Dev :=
  d.modRoom a.slot (fun r =>
    let w := r.wdg
    if v == 0x4B49 && a.pl != 0 && a.secure == w.kworld then
      { r with wdg := { w with count := w.timeout, loaded := w.timeout, acc := 0, warned := false } }
    else { r with wdg := { w with badKick := satInc 0xFFFF w.badKick } })

/-- The count has fallen to the warning point. -/
def Dev.wdgWarn (d : Dev) (slot : Nat) : Dev :=
  let w := (d.room slot).wdg
  if w.en && !w.warned && decide (w.count ≤ w.loaded * w.warn / 16) then
    (d.raise (64 + slot)).modRoom slot (fun r => { r with wdg := { w with warned := true } })
  else d

/-- The count has reached zero: the bite resets the room (R390, R462) and is counted; during a halt it also takes the own level of every
session that held one on the room (R492). -/
def Dev.wdgBite (d : Dev) (slot : Nat) : Dev :=
  let w := (d.room slot).wdg
  if w.en && w.count == 0 && (d.rrec slot).isSome then
    let halted := d.roomHalted slot
    (d.modRoom slot (fun r => { r with
      wdg := { w with bites := satInc 255 w.bites }, sess := if halted then [] else r.sess })).requestReset slot 1
  else d

/-! ### Rows -/

/-- An event occurs at an event source (R376). -/
def execInterruptSourceEvent (src : Nat) (s : State) : Ans :=
  onDev (fun d => if decide (src < 1024) && !levelSrc src then d.raise src else d) s

def execTick (slot : Nat) (s : State) : Ans := onDev (fun d => d.tickDue slot) s

def execWatchdogWarning (slot : Nat) (s : State) : Ans := onDev (fun d => d.wdgWarn slot) s

def execWatchdogBite (slot : Nat) (s : State) : Ans := onDev (fun d => d.wdgBite slot) s

end Sys2Proof.Machine
end

