-- ==== Sys2Proof/Machine/Operands.lean ====
section
/-!
DEFINITION. Operand forms of an instruction (R113 to R122, Table 4.8 to Table 4.10): sizes, immediates, effective addresses,
the length, and the condition codes.
-/
namespace Sys2Proof
open Sys2Proof.Machine

/-- Operand width W in bits and in bytes (R115). -/
def Width.bits : Width → Nat
  | .w64 => 64
  | .w32 => 32
  | .w16 => 16
  | .w8 => 8
def Width.bytes (w : Width) : Nat := w.bits / 8

/-- A value cut to W bits. -/
def Width.cut (w : Width) (v : Word) : Nat := v.toNat % 2 ^ w.bits

/-- Bytes of the trailing field by SZ (Table 4.10). -/
def szBytes (sz : Nat) : Nat := if sz == 1 then 1 else if sz == 2 then 2 else if sz == 3 then 4 else if sz == 4 then 8 else 0

def Form.mode (f : Form) : Nat := f.am.toNat
def Form.size (f : Form) : Nat := szBytes f.sz.toNat
/-- The trailing field as it stands. -/
def Form.raw (f : Form) : Nat := f.ext.toNat % 2 ^ (8 * f.size)
/-- The trailing field sign-extended (R120). -/
def Form.imm (f : Form) : Word := sext64 (8 * f.size) f.raw
/-- RT of a three-register form or of a coprocessor immediate. -/
def Form.rt (f : Form) : Nat := f.raw % 32
def Form.rdn (f : Form) : Nat := f.rd.toNat
def Form.rsn (f : Form) : Nat := f.rs.toNat

/-- Number of prefix bytes. -/
def Form.prefixes (f : Form) : Nat :=
  b2n f.bank.isSome + b2n (f.width != .w64) + b2n f.lock + b2n f.hint

/-- Bytes of a full instruction whose opcode takes `ops` bytes, coprocessor prefix included (R131). -/
def Form.length (f : Form) (ops : Nat) : Nat := f.prefixes + ops + 2 + f.size

/-- Sources of a two-operand instruction: RD and RS in mode R, RS in mode RI. -/
def Form.src2 (f : Form) : List Nat := if f.mode == 0 then [f.rdn, f.rsn] else [f.rsn]

end Sys2Proof

namespace Sys2Proof.Machine

/-- Operand modes (Table 4.9). -/
def amR : Nat := 0
def amRI : Nat := 1
def amRT : Nat := 2
def amM : Nat := 3
def amMS : Nat := 4
def amMK : Nat := 5
def amMP : Nat := 6

/-- Short address (R110): the block of a bank register, and a 16-bit sum. -/
def Ctx.shortEa (x : Ctx) (f : Form) (bank : Nat) : Word :=
  let s := ((x.get f.rsn).toNat + f.imm.toNat) % 2 ^ 16
  (x.bk bank) + BitVec.ofNat 64 s

/-- Effective address of modes M, MS, MK and MP (Table 4.9); `next` is the address after the instruction. -/
def Ctx.ea (x : Ctx) (f : Form) (next : Word) : Word :=
  if f.mode == amMS then x.shortEa f ((f.bank.map BitVec.toNat).getD 0)
  else if f.mode == amMK then x.shortEa f ((f.bank.map BitVec.toNat).getD 1)
  else if f.mode == amMP then next + f.imm
  else x.get f.rsn + f.imm

/-- Flags of a context. -/
def Ctx.n (x : Ctx) : Bool := bit x.psn 3
def Ctx.z (x : Ctx) : Bool := bit x.psn 2
def Ctx.c (x : Ctx) : Bool := bit x.psn 1
def Ctx.v (x : Ctx) : Bool := bit x.psn 0

/-- Condition codes (Table 4.11a); 0xF is not assigned. -/
def Ctx.cond (x : Ctx) (cc : Nat) : Bool :=
  match cc with
  | 0 => x.z
  | 1 => !x.z
  | 2 => x.c
  | 3 => !x.c
  | 4 => x.n
  | 5 => !x.n
  | 6 => x.v
  | 7 => !x.v
  | 8 => !x.c && !x.z
  | 9 => x.c || x.z
  | 10 => x.n == x.v
  | 11 => x.n != x.v
  | 12 => !x.z && x.n == x.v
  | 13 => x.z || x.n != x.v
  | _ => true

end Sys2Proof.Machine
end

