-- ==== Sys2Proof/Machine/Flags.lean ====
section
/-!
DEFINITION. Integer results and flags (R137 to R141): each operation computes on the low W bits of its operands and answers the
W-bit result with the flags it writes.
-/
namespace Sys2Proof.Machine

/-- A result and the flags an operation writes; `none` leaves a flag as it is. -/
structure Res where
  val : Nat
  n : Option Bool := none
  z : Option Bool := none
  c : Option Bool := none
  v : Option Bool := none
  deriving DecidableEq, Repr

/-- Result with N and Z from it and the C and V given. -/
def Res.nz (w val : Nat) (c v : Bool) : Res :=
  { val := val, n := some (val.testBit (w - 1)), z := some (val == 0), c := some c, v := some v }

/-- Signed value of the low `w` bits. -/
def toSigned (w x : Nat) : Int := if x.testBit (w - 1) then (x : Int) - 2 ^ w else x
/-- A W-bit value of a signed number. -/
def ofSigned (w : Nat) (i : Int) : Nat := (i % 2 ^ w).toNat
/-- A signed number fits in `w` bits. -/
def fits (w : Nat) (i : Int) : Bool := decide (-(2 ^ (w - 1) : Int) ≤ i) && decide (i < 2 ^ (w - 1))

def aluAdd (w a b : Nat) : Res :=
  Res.nz w ((a + b) % 2 ^ w) (decide (2 ^ w ≤ a + b)) (!fits w (toSigned w a + toSigned w b))
/-- C is the borrow. -/
def aluSub (w a b : Nat) : Res :=
  Res.nz w ((a + 2 ^ w - b) % 2 ^ w) (decide (a < b)) (!fits w (toSigned w a - toSigned w b))
def aluAnd (w a b : Nat) : Res := Res.nz w (a &&& b) false false
def aluOr (w a b : Nat) : Res := Res.nz w (a ||| b) false false
def aluXor (w a b : Nat) : Res := Res.nz w (a ^^^ b) false false
def aluAndn (w a b : Nat) : Res := Res.nz w (a &&& (2 ^ w - 1 - b)) false false

/-- Shifts and rotates take the amount modulo W; C is the last bit out, 0 for an amount of 0 (R137). -/
def aluShl (w a b : Nat) : Res :=
  let k := b % w
  Res.nz w ((a * 2 ^ k) % 2 ^ w) (k != 0 && a.testBit (w - k)) false
def aluShr (w a b : Nat) : Res :=
  let k := b % w
  Res.nz w (a / 2 ^ k) (k != 0 && a.testBit (k - 1)) false
def aluSar (w a b : Nat) : Res :=
  let k := b % w
  Res.nz w (ofSigned w (toSigned w a / 2 ^ k)) (k != 0 && a.testBit (k - 1)) false
def aluRol (w a b : Nat) : Res :=
  let k := b % w
  Res.nz w ((a * 2 ^ k) % 2 ^ w + a / 2 ^ (w - k) % 2 ^ k) (k != 0 && a.testBit (w - k)) false
def aluRor (w a b : Nat) : Res :=
  let k := b % w
  Res.nz w (a / 2 ^ k + (a % 2 ^ k) * 2 ^ (w - k)) (k != 0 && a.testBit (k - 1)) false

/-- NEG is 0 − RS. -/
def aluNeg (w _ b : Nat) : Res := aluSub w 0 b
def aluNot (w _ b : Nat) : Res := Res.nz w (2 ^ w - 1 - b) false false
/-- MOV leaves the flags. -/
def aluMov (_ _ b : Nat) : Res := { val := b }

/-! ### Multiply and divide (R138, R139) -/

def aluMul (w a b : Nat) : Res :=
  Res.nz w ((a * b) % 2 ^ w) false (!fits w (toSigned w a * toSigned w b))
def aluMulh (w a b : Nat) : Res :=
  Res.nz w (ofSigned w (toSigned w a * toSigned w b / 2 ^ w)) false false
def aluMulhu (w a b : Nat) : Res := Res.nz w (a * b / 2 ^ w) false false

/-- The most negative W-bit value divided by −1. -/
def divOverflow (w a b : Nat) : Bool := a == 2 ^ (w - 1) && b == 2 ^ w - 1

def aluDiv (w a b : Nat) : Res :=
  if b == 0 then Res.nz w (2 ^ w - 1) false true
  else if divOverflow w a b then Res.nz w a false true
  else Res.nz w (ofSigned w (Int.tdiv (toSigned w a) (toSigned w b))) false false
def aluDivu (w a b : Nat) : Res :=
  if b == 0 then Res.nz w (2 ^ w - 1) false true else Res.nz w (a / b) false false
def aluRem (w a b : Nat) : Res :=
  if b == 0 then Res.nz w a false true
  else if divOverflow w a b then Res.nz w 0 false true
  else Res.nz w (ofSigned w (Int.tmod (toSigned w a) (toSigned w b))) false false
def aluRemu (w a b : Nat) : Res :=
  if b == 0 then Res.nz w a false true else Res.nz w (a % b) false false

/-! ### Bit operations (R140, R141) -/

/-- Position and end of a field named by BINS, BEXT or BEXTS, truncated at bit 63. -/
def bitPos (imm : Nat) : Nat := imm % 64
def bitLen (imm : Nat) : Nat := min (bitPos imm + (imm / 256 % 64 + 1)) 64 - bitPos imm

def opBins (imm rd rs : Nat) : Nat := setField rd (bitPos imm + bitLen imm - 1) (bitPos imm) rs
def opBext (imm rs : Nat) : Nat := (rs / 2 ^ bitPos imm) % 2 ^ bitLen imm
def opBexts (imm rs : Nat) : Nat := ofSigned 64 (toSigned (bitLen imm) (opBext imm rs))

/-- Leading zeros: the count of bits above the highest one. -/
def clz : Nat → Nat → Nat
  | 0, _ => 0
  | w + 1, x => if x.testBit w then 0 else clz w x + 1
def ctz (w x : Nat) : Nat := (lowestBit x w).getD w
def bswap (w x : Nat) : Nat := leNat (leBytes (w / 8) x).reverse

/-- BPERM (R141). -/
def bperm (rd rs rt : Word) : Word :=
  let table := leBytes 8 rs.toNat ++ leBytes 8 rt.toNat
  BitVec.ofNat 64 (leNat ((leBytes 8 rd.toNat).map (fun c =>
    if c.getLsbD 7 then (0 : Byte) else table.getD (c.toNat % 16) 0)))

/-! ### Writing results (R101, R195) -/

/-- Write a register as an instruction does: a younger write cancels a pending one. -/
def Ctx.wrP (x : Ctx) (p : Nat) (v : Word) : Ctx := (x.cancelReg p).setP p v
def Ctx.wr (x : Ctx) (n : Nat) (v : Word) : Ctx := x.wrP (x.phys n) v

/-- Cancel the pending writes to the flags that a result writes. -/
def LongOp.cancelFlags (o : LongOp) (r : Res) : LongOp :=
  { o with n := if r.n.isSome then none else o.n, z := if r.z.isSome then none else o.z,
           c := if r.c.isSome then none else o.c, v := if r.v.isSome then none else o.v }

def Ctx.cancelFlags (x : Ctx) (r : Res) : Ctx := { x with long := x.long.map (fun o => o.cancelFlags r) }

/-- Write flags as an instruction does, cancelling each pending flag that is written. -/
def Ctx.wrFlags (x : Ctx) (r : Res) : Ctx :=
  let x := x.cancelFlags r
  let put := fun (x : Ctx) (i : Nat) (b : Option Bool) =>
    match b with
    | some b => x.setPsw i i (b2n b)
    | none => x
  put (put (put (put x 3 r.n) 2 r.z) 1 r.c) 0 r.v

/-- Register and flags. -/
def Ctx.wrRes (x : Ctx) (n : Nat) (r : Res) : Ctx := (x.wr n (BitVec.ofNat 64 r.val)).wrFlags r

/-- Issue a long operation (R193, R194): its register and flags are pending; what it writes cancels older pending writes. -/
def Ctx.issueLong (x : Ctx) (n : Nat) (r : Res) : Ctx :=
  let x := (x.cancelReg (x.phys n)).cancelFlags r
  { x with long := x.long ++ [{ dst := x.phys n, val := BitVec.ofNat 64 r.val, wr := true, n := r.n, z := r.z,
                                c := r.c, v := r.v }] }

/-- An operation still owes a register or flag. -/
def LongOp.owes (o : LongOp) (ps : List Nat) (flags : Bool) : Bool :=
  (o.wr && ps.contains o.dst) || (flags && (o.n.isSome || o.z.isSome || o.c.isSome || o.v.isSome))

/-- Complete the pending operations that an instruction's sources wait for (R133, R194): those owing one of its source
registers or a flag it reads. -/
def Ctx.settle (x : Ctx) (regs : List Nat) (flags : Bool) : Ctx :=
  let ps := regs.map x.phys
  let now := x.long.filter (fun o => o.owes ps flags)
  { now.foldl Ctx.finishLong x with long := x.long.filter (fun o => !o.owes ps flags) }

end Sys2Proof.Machine
end

