-- ==== Sys2Proof/Machine/Encoding.lean ====
section
/-!
DEFINITION. The opcode maps and permitted forms (R113 to R131, Table 4.11 to Table 4.14, R308, R310): the rule of each opcode, the
first illegal cause of a form, and the decoder of raw bytes that ILLEGAL_INSTRUCTION uses.
-/
namespace Sys2Proof.Machine

/-- Where an opcode stands: primary, escapes 0xF0 and 0xF1, or after the coprocessor prefixes 0xEC and 0xED. -/
inductive OpMap where
  | prim | escF0 | escF1 | trestle | fwd
  deriving DecidableEq, Repr

/-- What Table 4.13 permits of an opcode. -/
structure OpRule where
  bare : Bool := false
  /-- Permitted modes with their SZ codes. -/
  modes : List (Nat × List Nat) := []
  /-- Modes in which the RD and RS fields must be zero. -/
  rdZero : List Nat := []
  rsZero : List Nat := []
  bank : Bool := false
  width : Bool := false
  lock : Bool := false
  hint : Bool := false
  /-- Bits of the trailing field that must be zero. -/
  zeros : Nat := 0
  /-- The values the RD field, and the trailing field, may name; none: any. -/
  rdMax : Option Nat := none
  vals : Option (List Nat) := none
  /-- Trestle: the DR it demands, and whether N must be 1, or must be 1 when DR = 1. -/
  dr : Option Bool := none
  one : Bool := false
  oneDr : Bool := false
  deriving DecidableEq, Repr

def sz18 : List Nat := [1, 2, 3, 4]
def sz08 : List Nat := [0, 1, 2, 3, 4]
def memModes : List (Nat × List Nat) := [(amM, sz08), (amMS, [1, 2]), (amMK, [1, 2])]

/-- Control register numbers of Table 4.5. -/
def crNumbers : List Nat := [0x00, 0x01, 0x02, 0x08, 0x09, 0x0A, 0x10, 0x11]

/-- Permitted forms of the primary opcodes (Table 4.11, Table 4.13); none where unassigned. -/
def primRule (op : Nat) : Option OpRule :=
  let alu : OpRule := { modes := [(amR, [0]), (amRI, sz18)], width := true }
  let one : OpRule := { modes := [(amR, [0])], width := true }
  let r : OpRule := { modes := [(amR, [0])] }
  let xfer : OpRule := { modes := [(amMP, [1, 2, 3]), (amM, sz08)], rdZero := [amMP, amM], rsZero := [amMP] }
  if op == 0x06 || op == 0x07 then some { alu with rdZero := [amRI] }
  else if op == 0x0D then some { alu with rsZero := [amRI] }
  else if op == 0x0E || op == 0x0F then some one
  else if op ≤ 0x0D || (decide (0x10 ≤ op) && op ≤ 0x16) then some alu
  else if decide (0x18 ≤ op) && op ≤ 0x1A then some { modes := [(amRI, [2])], zeros := 0xC0C0 }
  else if op == 0x1E then some { modes := [(amRT, [1])], zeros := 0xE0 }
  else if decide (0x1B ≤ op) && op ≤ 0x1F then some one
  else if op == 0x20 || op == 0x21 then
    some { modes := memModes ++ [(amMP, sz08)], bank := true, width := true, hint := true }
  else if op == 0x22 then some { modes := memModes, bank := true, width := true, hint := true }
  else if op == 0x23 then some { modes := memModes ++ [(amMP, sz08)], bank := true }
  else if op == 0x24 || op == 0x25 then some { modes := [(amM, sz08)], width := true }
  else if op == 0x26 then some { modes := memModes, bank := true, hint := true, rdMax := some 4 }
  else if op == 0x27 then some { modes := [(amRI, [1])], rdZero := [amRI] }
  else if decide (0x28 ≤ op) && op ≤ 0x2C then
    some { modes := memModes, bank := true, width := true, lock := true, hint := true }
  else if decide (0x30 ≤ op) && op ≤ 0x3F then some { modes := [(amMP, [1, 2, 3])], rdZero := [amMP], rsZero := [amMP] }
  else if decide (0x40 ≤ op) && op ≤ 0x42 then some xfer
  else if op == 0x43 || op == 0x44 || op == 0x46 then some { bare := true }
  else if op == 0x45 then some { modes := [(amRI, [1, 2])], rdZero := [amRI], rsZero := [amRI] }
  else if op == 0x4B then some { modes := [(amRT, [1])], zeros := 0xE0 }
  else if op == 0x4F then some { modes := [(amRI, [1])], vals := some (List.range 7) }
  else if decide (0x48 ≤ op) && op ≤ 0x4E then some r
  else if op == 0x50 || op == 0x51 then some { modes := [(amRI, [3])], rdZero := [amRI], hint := true }
  else if op == 0x52 || op == 0x53 then some { modes := [(amM, sz08)], rdZero := [amM] }
  else if op == 0x54 then
    some { modes := [(amRI, [1])], rdZero := [amRI], rsZero := [amRI], vals := some [0, 1, 2, 3] }
  else if decide (0x58 ≤ op) && op ≤ 0x5F then some { bare := true }
  else none

/-- Permitted forms of the escape opcodes (Table 4.12, Table 4.13). -/
def escF0Rule (op : Nat) : Option OpRule :=
  if op == 0 then some { modes := [(amRI, [1])], rsZero := [amRI], vals := some crNumbers }
  else if op == 1 then some { modes := [(amRI, [1])], rdZero := [amRI], vals := some crNumbers }
  else if op == 2 then some { modes := [(amRI, [1])], rsZero := [amRI], vals := some (List.range 8) }
  else if op == 3 then some { modes := [(amRI, [1])], rdZero := [amRI], vals := some (List.range 8) }
  else if op == 4 then some { bare := true }
  else none

def escF1Rule (op : Nat) : Option OpRule :=
  if op < 0x10 then some { modes := [(amR, [0])] }
  else if op < 0x20 then some { modes := [(amRT, [1])], zeros := 0xE0 }
  else none

/-- Permitted forms of the Trestle operations (R308, R310, Table 14.4). -/
def trestleRule (op : Nat) : Option OpRule :=
  let t : OpRule := { modes := [(amRI, [3])], zeros := 0xFC00 }
  if op == 0x00 || op == 0x30 then some { t with dr := some false }
  else if decide (0x10 ≤ op) && op ≤ 0x12 then some { t with oneDr := true }
  else if (decide (0x20 ≤ op) && op ≤ 0x23) || op == 0x40 || op == 0x41 then some t
  else if op == 0x50 then some { t with dr := some true, one := true }
  else if op == 0x51 then some { t with dr := some false, one := true }
  else none

def opRule (m : OpMap) (op : Nat) : Option OpRule :=
  match m with
  | .prim => primRule op
  | .escF0 => escF0Rule op
  | .escF1 => escF1Rule op
  | .trestle => trestleRule op
  | .fwd => if op < 0x40 then some { modes := [(amRI, [3])] } else none

/-- Opcode bytes, the coprocessor prefix included. -/
def OpMap.bytes : OpMap → Nat
  | .prim => 1
  | _ => 2

/-- An opcode that carries condition 0xF (R122). -/
def condF (m : OpMap) (op : Nat) : Bool := (m == .prim && op == 0x3F) || (m == .escF1 && (op == 0x0F || op == 0x1F))

/-- The lowest code among those found in one byte. -/
def lowest (l : List (Bool × Nat)) : Option Nat :=
  (l.filterMap (fun (b, c) => if b then some c else none)).foldl (fun best c =>
    match best with
    | none => some c
    | some b => some (min b c)) none

/-- First of several bytes that has a cause. -/
def firstByte : List (Nat × Option Nat) → Option (Nat × Nat)
  | [] => none
  | (i, some c) :: _ => some (i, c)
  | (_, none) :: t => firstByte t

/-- The first illegal cause of a form under its opcode's rule: byte index and code (R128, R129). `room` is the cause that the
room's OP_MASK or CTX_MASK adds (codes 0x08 at the opcode, 0x0A at the field). DESIGN CHOICE (notes/assumptions/55.md): another
prefix beside 0xEC or 0xED is found at the opcode byte. The byte 0xEF there has cause 0x01, the lowest of those that it meets (R129). -/
def firstCause (m : OpMap) (op : Nat) (f : Form) (room : Option Nat) : Option (Nat × Nat) :=
  let o := f.prefixes + m.bytes - 1
  match opRule m op with
  | none => some (o, match m with | .prim => 1 | .escF0 => 2 | .escF1 => 2 | _ => if op == 0xEF then 1 else if f.prefixes != 0 then 4 else 8)
  | some r =>
    let badPrefix := (f.bank.isSome && !r.bank) || (f.width != .w64 && !r.width) || (f.lock && !r.lock) ||
      (f.hint && !r.hint)
    let atOp := (o, lowest [(badPrefix, 4), (room == some 8, 8), (condF m op, 9)])
    if r.bare then firstByte [atOp]
    else
      let sizes := (r.modes.find? (fun p => p.1 == f.mode)).map Prod.snd
      let ok := sizes.isSome
      let atA := (o + 1, lowest [(r.bank && f.bank.isSome && f.mode != amMS && f.mode != amMK, 4), (!ok, 5),
        (ok && r.rdZero.contains f.mode && f.rdn != 0, 7),
        (match r.rdMax with | some x => decide (x < f.rdn) | none => false, 0x0A)])
      let needs := f.mode == amRI || f.mode == amRT || f.mode == amMS || f.mode == amMK
      let atB := (o + 2, lowest [(match sizes with
        | some l => !l.contains f.sz.toNat
        | none => decide (5 ≤ f.sz.toNat) || (needs && f.sz == 0) || (f.mode == amR && f.sz != 0), 6),
        (ok && r.rsZero.contains f.mode && f.rsn != 0, 7)])
      let bad := f.raw &&& r.zeros
      let n := f.raw / 65536
      let dr := f.raw.testBit 8
      let atField := (List.range f.size).map (fun i =>
        (o + 3 + i, lowest [((bad >>> (8 * i)) % 256 != 0, 7),
          (i == 0 && (match r.vals with | some l => !l.contains f.raw | none => false), 0x0A),
          (i == 0 && room == some 0x0A, 0x0A),
          (m == .trestle && i == 1 && (match r.dr with | some b => dr != b | none => false), 0x0A),
          (m == .trestle && i == 3 && (n == 0 || ((r.one || (r.oneDr && dr)) && n != 1)), 0x0A)]))
      firstByte (atOp :: atA :: atB :: atField)

/-! ### Raw bytes -/

/-- Prefix bytes read so far, in a form, and the first duplicate. -/
structure PrefixScan where
  form : Form
  cop : Option OpMap
  /-- Bytes read, and the byte at which a second prefix of a class stands. -/
  n : Nat
  dup : Option Nat
  deriving DecidableEq, Repr

/-- Read prefixes (R114): five classes, at most one of each. -/
def scanPrefixes : List Byte → PrefixScan → PrefixScan × List Byte
  | [], s => (s, [])
  | b :: t, s =>
    let v := b.toNat
    let again := fun (seen : Bool) => if seen then some (s.dup.getD s.n) else s.dup
    if decide (0xE0 ≤ v) && v < 0xE8 then
      scanPrefixes t { s with n := s.n + 1, dup := again s.form.bank.isSome, form := { s.form with bank := some (BitVec.ofNat 3 v) } }
    else if decide (0xE8 ≤ v) && v < 0xEB then
      scanPrefixes t { s with n := s.n + 1, dup := again (s.form.width != .w64),
                              form := { s.form with width := if v == 0xE8 then .w32 else if v == 0xE9 then .w16 else .w8 } }
    else if v == 0xEB then
      scanPrefixes t { s with n := s.n + 1, dup := again s.form.lock, form := { s.form with lock := true } }
    else if v == 0xEC || v == 0xED then
      scanPrefixes t { s with n := s.n + 1, dup := again s.cop.isSome, cop := some (if v == 0xEC then .trestle else .fwd) }
    else if v == 0xEE then
      scanPrefixes t { s with n := s.n + 1, dup := again s.form.hint, form := { s.form with hint := true } }
    else (s, b :: t)

/-- Operand bytes and the trailing field. -/
def scanOperands (f : Form) (l : List Byte) : Form :=
  let a := (l.getD 0 0).toNat
  let b := (l.getD 1 0).toNat
  let f := { f with rd := BitVec.ofNat 5 (a / 8), am := BitVec.ofNat 3 a, rs := BitVec.ofNat 5 (b / 8),
                    sz := BitVec.ofNat 3 b }
  { f with ext := BitVec.ofNat 64 (leAt l 2 f.size) }

/-- The opcode that bytes spell: its map and number, the form, the first byte with a cause found before the opcode, and
whether every byte of it is there. -/
structure RawOp where
  map : OpMap
  op : Nat
  form : Form
  pre : Option (Nat × Nat)
  whole : Bool
  deriving DecidableEq, Repr

/-- Decode bytes as far as they go; none when they end before an opcode. -/
def decodeRaw (l : List Byte) : Option RawOp :=
  let (s, rest) := scanPrefixes l { form := {}, cop := none, n := 0, dup := none }
  let pre := s.dup.map (fun i => (i, 3))
  let need := fun (m : OpMap) (op : Nat) (t : List Byte) =>
    match opRule m op with
    | some r =>
      let f := scanOperands s.form t
      some { map := m, op := op, form := f, pre := pre, whole := r.bare || decide (2 + f.size ≤ t.length) }
    | none => some { map := m, op := op, form := s.form, pre := pre, whole := true }
  match rest with
  | [] => pre.map (fun p => { map := .prim, op := 0x17, form := s.form, pre := some p, whole := true })
  | b :: t =>
    match s.cop with
    | some m => need m b.toNat t
    | none =>
      if b.toNat < 0xF0 then need .prim b.toNat t
      else match t with
        | [] => pre.map (fun p => { map := .prim, op := 0x17, form := s.form, pre := some p, whole := true })
        | c :: t => if b.toNat == 0xF1 then need .escF1 c.toNat t
            else need .escF0 (if b.toNat == 0xF0 then c.toNat else 0xFF) t

end Sys2Proof.Machine
end

