-- ==== Sys2Proof/Machine/Predict.lean ====
section
/-!
DEFINITION. The branch predictor (R204 to R212): kinds, lookup, the update of a resolution on the committed path, the return stack,
and the entry that a phantom guess invalidates. Placement is a keyed choice that the spec leaves open (Config.predSet, predTag).
-/
namespace Sys2Proof.Machine

/-- KIND of a transfer by its opcode and form (Table 8.1); none for an instruction that is not a predicted transfer. -/
def btKindOf (m : OpMap) (op : Nat) (f : Form) : Option BtKind :=
  if m != .prim then none
  else if decide (0x30 ≤ op) && op ≤ 0x3D then some .conditional
  else if op == 0x3E then some .direct
  else if decide (0x40 ≤ op) && op ≤ 0x42 then some (if f.mode == amMP then .direct else .indirect)
  else if op == 0x43 || op == 0x44 then some .ret
  else none

/-- Set and tag of the transfer at the PC, keyed by the secret; the tag covers the world. -/
def Ctx.btSet (x : Ctx) : Nat := (Config.predSet x.secret x.pc).toNat
def Ctx.btTag (x : Ctx) : BitVec 16 := Config.predTag x.secret (if x.secure then x.pc ^^^ (1#64 <<< 63) else x.pc)

def Ctx.btWays (x : Ctx) : List BtEntry := Sparse.get [] x.btable x.btSet
def Ctx.btFind (x : Ctx) : Option BtEntry := x.btWays.find? (fun e => e.tag == x.btTag)

def Ctx.setBtWays (x : Ctx) (l : List BtEntry) : Ctx := { x with btable := Sparse.set [] x.btable x.btSet l }

/-- An entry found at an instruction that is not a transfer of its KIND is invalidated (R209), unless the bar is set (R212). The freed way is
the next that its set fills (DESIGN CHOICE, notes/assumptions/62.md). -/
def Ctx.phantom (x : Ctx) (kind : Option BtKind) : Ctx :=
  if x.bar then x
  else match x.btFind with
    | some e => if kind == some e.kind then x else x.setBtWays (x.btWays.filter (fun y => y.tag != x.btTag))
    | none => x

/-- Direction counter after a resolution (Table 8.2). -/
def ctrNext (c : BitVec 2) (taken : Bool) : BitVec 2 :=
  if taken then (if c == 3 then 3 else c + 1) else (if c == 0 || c == 1 then 0 else c - 1)

/-- Update of a resolution on the committed path (R207): an entry moves to the front; a taken transfer without one allocates in
the least recently used way of its set. -/
def Ctx.resolve (x : Ctx) (kind : BtKind) (taken : Bool) (target : Word) : Ctx :=
  if x.bar then x
  else
    let tgt := (target ^^^ x.secret).truncate 48
    match x.btFind with
    | some e =>
      let e' := { e with ctr := if kind == .conditional then ctrNext e.ctr taken else e.ctr,
                         target := if kind == .ret || (kind == .conditional && !taken) then e.target else tgt }
      x.setBtWays (e' :: x.btWays.filter (fun y => y.tag != x.btTag))
    | none =>
      if taken then
        let e : BtEntry := { tag := x.btTag, kind := kind, ctr := if kind == .conditional then 2 else 0,
                             target := if kind == .ret then 0 else tgt }
        x.setBtWays ((e :: x.btWays).take 8)
      else x

/-- The return stack as the committed path leaves it (R208): sixteen places, the oldest overwritten. -/
def RetStack.push (r : RetStack) (a : Word) : RetStack :=
  { slots := Sparse.insert r.slots (r.depth % 16) a, depth := r.depth + 1 }
def RetStack.pop (r : RetStack) : RetStack := { r with depth := r.depth - 1 }
def RetStack.top (r : RetStack) : Option Word :=
  if r.depth == 0 then none else some (Sparse.get 0 r.slots ((r.depth - 1) % 16))

def Ctx.pushRet (x : Ctx) (a : Word) : Ctx := if x.bar then x else { x with rstack := x.rstack.push a }
def Ctx.popRet (x : Ctx) : Ctx := if x.bar then x else { x with rstack := x.rstack.pop }

/-! ### Guesses (R206, R212, R213) -/

/-- TARGET of an entry, unscrambled: a canonical VA (Table 8.1, R205). -/
def Ctx.unscramble (x : Ctx) (t : BitVec 48) : Word := (t ^^^ x.secret.truncate 48).signExtend 64

/-- The guess at the PC: the target of a transfer guessed taken; none for one guessed not taken, as every transfer under the bar is. -/
def Ctx.guess (x : Ctx) : Option Word :=
  if x.bar then none
  else match x.btFind with
    | none => none
    | some e =>
      match e.kind with
      | .conditional => if decide (2 ≤ e.ctr.toNat) then some (x.unscramble e.target) else none
      | .ret => x.rstack.top
      | _ => some (x.unscramble e.target)

/-- What the predictor takes from a chunk of instruction starts: the first transfer guessed taken, with its target. -/
def Ctx.chunkGuess (x : Ctx) (starts : List Word) : Option (Word × Word) :=
  starts.findSome? (fun a => (({ x with pc := a } : Ctx).guess).map (fun t => (a, t)))

/-- The guess at the PC of a transfer proves right: the path it goes on. -/
def Ctx.guessedRight (x : Ctx) (next pc : Word) : Bool := x.guess.getD next == pc

end Sys2Proof.Machine
end

