-- ==== Sys2Proof/Machine/Epochs.lean ====
section
/-!
DEFINITION. Epochs and mailboxes (15_epochs.md): boundaries of every kind, streaming, confirmation, system epochs, the mailbox
registers, and the epoch registers.
-/
namespace Sys2Proof.Machine

/-- STATE stays Armed while a substitution is in progress (Table 3.9), and for up to three further epochs of a room that
resumed from one within two epochs before SWAP (KL-03). -/
def Dev.swapHeld (d : Dev) : Bool :=
  d.slots.any (fun s =>
    let r := d.room s
    (match r.rb with | some b => !b.subst.isEmpty | none => false) || decide (r.epo.cnt < r.epo.swapHold))

/-- A room that drains for a swap stops at this boundary, its epochs confirmed (R94); a migrating room's Trestle operations
drain first (Table 14.5). -/
def Dev.drainAt (d : Dev) (slot : Nat) : Dev :=
  match (d.room slot).swapClass with
  | none => d
  | some .unchanged => d
  | some _ =>
    if d.swapHeld then d
    else
      let d := ((d.trDrainRoom slot).confirmAll slot).stopCores slot
      let d := d.modRoom slot (fun r => { r with phase := .drained })
      if d.flp.st == .armed then { d with flp := { d.flp with st := .draining } } else d

/-- ns that a boundary waits for the previous output snapshot: it ends within 1 µs and 2 ns for each line of the room's output buffers (R339). -/
def Dev.snapWait (d : Dev) (slot : Nat) : Nat :=
  let e := (d.room slot).epo
  let lines := ((d.plan.nodes.filter (fun r => r.roomId == d.idOf slot)).map (fun r => (r.outSize + 63) / 64)).sum
  if e.snapDue then e.lastAt + 1000 + 2 * lines - d.clk.tb else 0

/-- Take a boundary `late` ns after it fell: EPO_MAXDLY, the drain, and at a halt the confirmation at once (R346). -/
def Dev.takeBoundary (d : Dev) (slot late : Nat) : Dev :=
  let e := (d.room slot).epo
  let delay := late + d.snapWait slot + d.slowest slot
  let d := (d.confirmDue slot).boundary slot
  let d := d.modRoom slot (fun r => { r with epo := { r.epo with maxDly := max r.epo.maxDly delay, confirmNext := false } })
  let d := if e.frozen || e.confirmNext then d.confirmAll slot else d
  let d := if d.spans slot && d.pkg != 0 then d.emit (.epochReport (d.idOf slot) ((d.room slot).epo.cnt - 1) true) else d
  d.drainAt slot

/-- A scheduled boundary of a room that does not span packages (R328). -/
def Dev.scheduled (d : Dev) (slot : Nat) : Dev :=
  let e := (d.room slot).epo
  if d.canBound slot && !d.spans slot && !e.frozen && decide (e.next ≤ d.clk.tb) then
    let d := d.takeBoundary slot (d.clk.tb - e.next)
    d.modRoom slot (fun r => { r with epo := { r.epo with next := e.next + d.epochUs slot * 1000 } })
  else d

/-- A forced boundary: the free entries of the room's share in some cluster have fallen to 64 (R334). It is kept while the room cannot take it. -/
def Dev.forcedBoundary (d : Dev) (slot : Nat) : Dev :=
  let count := fun (d : Dev) => d.modRoom slot (fun r => { r with epo := { r.epo with forced := satInc max32 r.epo.forced } })
  if !(d.clustersOf slot).any (fun c => decide (d.undoFree slot c ≤ 64)) then d
  else if d.canBound slot then count (d.takeBoundary slot 0)
  else if (d.room slot).phase == .running && (d.room slot).epo.want == 0 then count (d.wantBoundary slot 0)
  else d

/-- EPO_CTL.FORCE by the keeper: a requested boundary (R329), kept while the room cannot take it (Table 15.4). -/
def Dev.epoCtl (d : Dev) (a : Acc) (v : Nat) : Dev :=
  if !(a.keeper && v.testBit 0) then d
  else if d.canBound a.slot then d.takeBoundary a.slot 0
  else d.wantBoundary a.slot 0

/-- A boundary that waited is taken; cores whose reset waited for it are reset (R463). -/
def Dev.wanted (d : Dev) (slot : Nat) : Dev :=
  let e := (d.room slot).epo
  if decide (0 < e.want) && d.canBound slot then
    let d := (d.modRoom slot (fun r => { r with epo := { r.epo with want := r.epo.want - 1, coreReset := [] } })).takeBoundary slot (d.clk.tb - e.wantAt)
    each e.coreReset (fun d c => d.resetCoreNow slot c) d
  else d

/-- Confirmation of the oldest epoch (R335): two boundaries later, no error, the checkpoint between read back good. -/
def Dev.confirmation (d : Dev) (slot : Nat) : Dev :=
  let r := d.room slot
  if (r.phase == .running || r.phase == .suspended) && r.rb.isNone && decide (r.epo.conf + 2 ≤ r.epo.cnt) && !r.epo.readBad then
    d.confirmOne slot
  else d

/-- A room whose start or resumption falls now runs (R328, R453, R462); one that a swap changes waits for it (Table 21.8). -/
def Dev.startsNow (d : Dev) (slot : Nat) : Dev :=
  let r := d.room slot
  let waits := d.flp.st != .idle && (match r.swapClass with | none => false | some c => c != .unchanged)
  if decide (d.clk.tb < r.readyAt) || r.pwr.susp || waits then d
  else if r.phase == .starting && !r.zeroFill then d.startRoom slot
  else if r.phase == .suspended then d.resumeStopped slot
  else d

/-- A system boundary falls, or fell `late` ns ago: on package 0 at a multiple of SYS_EPOCH_US of its timebase; elsewhere when it arrives
(R347). -/
def Dev.sysDue (d : Dev) (late : Nat) : Bool :=
  d.pkg != 0 || (decide (late ≤ d.clk.tb) && decide (0 < d.plan.sysEpochUs) && (d.clk.tb - late) % (d.plan.sysEpochUs * 1000) == 0)

/-- A system boundary (R347), `late` ns after it was due: only with two or more admitted packages. A room that cannot take it yet takes it when it can. -/
def Dev.systemBoundary (d : Dev) (late : Nat) : Dev :=
  if popCount d.per.present.toNat 4 < 2 || !d.sysDue late then d
  else
    let k := (d.ras.sysCnt + 1) % 2 ^ 64
    let d := { d with ras := { d.ras with
      sysCnt := k, sysLate := if late == 0 then d.ras.sysLate else satInc max32 d.ras.sysLate,
      sysMaxLag := max d.ras.sysMaxLag (min late max32), sysAt := d.clk.tb } }
    let d := if d.pkg == 0 then d.emit (.systemBoundary k) else d
    each ((d.slots).filter (fun s => d.spans s)) (fun d s =>
      if (d.room s).phase != .running then d.startsNow s
      else if (d.room s).epo.frozen then d
      else if d.canBound s then d.takeBoundary s late else d.wantBoundary s late) d

/-! ### Mailbox registers (Table 15.3) -/

def Dev.isSender (d : Dev) (a : Acc) (n : Nat) : Option MboxRec := (d.plan.mbox n).filter (fun m => m.sender == a.id)
def Dev.isReceiver (d : Dev) (a : Acc) (n : Nat) : Option MboxRec := (d.plan.mbox n).filter (fun m => m.receiver == a.id)

def Dev.mbxSofsWrite (d : Dev) (a : Acc) (n v : Nat) : Dev :=
  match d.isSender a n with
  | none => d
  | some m =>
    let half := m.bufSize / 2
    let o := field v 18 3 * 8
    d.modMbox n (fun b => { b with sofs := if half ≤ o then half - 8 else o })

/-- Queue a send (R341): LEN clamped, cut at the end of the half; with 16 queued it is ignored and sets OVF. -/
def Dev.mbxSend (d : Dev) (a : Acc) (n v : Nat) : Dev :=
  match d.isSender a n with
  | none => d
  | some m =>
    let b := d.mbox n
    let len := clamp 8 4096 (field v 12 0) / 8 * 8
    let len := min len (m.bufSize / 2 - b.sofs)
    if b.queue.length + b.waiting.length < 16 then
      d.setMbox n { b with queue := b.queue ++ [{ epoch := (d.room a.slot).epo.cnt, ofs := b.sofs, len := len }] }
    else d.setMbox n { b with ovf := true }

def Dev.mbxSstatWrite (d : Dev) (a : Acc) (n v : Nat) : Dev :=
  match d.isSender a n with
  | none => d
  | some _ => d.modMbox n (fun b => { b with ovf := b.ovf && !v.testBit 31 })

def Dev.mbxRdWrite (d : Dev) (a : Acc) (n v : Nat) : Dev :=
  match d.isReceiver a n with
  | none => d
  | some m =>
    let o := field v 18 3 * 8
    d.modMbox n (fun b => { b with rd := if m.bufSize / 2 ≤ o then 0 else o })

/-- A mailbox register as a room reads it (R343). -/
def Dev.mbxRead (d : Dev) (a : Acc) (n r : Nat) : Nat :=
  let b := d.mbox n
  let snd := (d.isSender a n).isSome
  let rcv := (d.isReceiver a n).isSome
  if r == 0x00 && snd then b.sofs
  else if r == 0x08 && snd then b2n b.ovf * 2 ^ 31 + min (b.queue.length + b.waiting.length) 16 * 2 ^ 16 + b.released
  else if r == 0x10 && rcv then b.wr
  else if r == 0x14 && rcv then b.rd
  else if r == 0x18 && rcv then b.delivered
  else 0

/-! ### Epoch registers (Table 15.4a) -/

/-- Timebase of the next scheduled boundary: a spanning room's is the next system boundary (R347). -/
def Dev.nextBoundary (d : Dev) (slot : Nat) : Nat :=
  let p := d.plan.sysEpochUs * 1000
  if d.spans slot && 0 < p then (d.clk.tb / p + 1) * p else (d.room slot).epo.next

def Dev.epoRead (d : Dev) (a : Acc) (r : Nat) : Nat :=
  let e := (d.room a.slot).epo
  let c := a.core / 4
  if r == 0x1000 then b2n e.frozen * 512 + b2n (d.spans a.slot) * 256 + d.epochUs a.slot % 256
  else if r == 0x1008 then lo32 e.cnt
  else if r == 0x100C then hi32 e.cnt
  else if r == 0x1010 then lo32 e.conf
  else if r == 0x1014 then hi32 e.conf
  else if r == 0x1018 then e.forced
  else if r == 0x101C then e.rbk * 256 + e.rgen
  else if r == 0x1020 then d.undoShare a.slot c * 65536 + d.undoFree a.slot c
  else if r == 0x1024 then lo32 (d.nextBoundary a.slot)
  else if r == 0x1028 then hi32 (d.nextBoundary a.slot)
  else if r == 0x102C then min e.maxDly max32
  else 0

/-- Side effect of a read: the RC counters clear. -/
def Dev.epoReadEff (d : Dev) (a : Acc) (r : Nat) : Dev :=
  if r == 0x1018 then d.modRoom a.slot (fun x => { x with epo := { x.epo with forced := 0 } })
  else if r == 0x102C then d.modRoom a.slot (fun x => { x with epo := { x.epo with maxDly := 0 } })
  else d

/-! ### Rows -/

def execEpochBoundary (slot : Nat) (s : State) : Ans := onDev (fun d => d.scheduled slot) s

def execForcedBoundary (slot : Nat) (s : State) : Ans := onDev (fun d => d.forcedBoundary slot) s

/-- A cluster's streaming of the last boundary ends (R331); its slot is free once the epoch before is confirmed (R335). -/
def execCheckpointStreamed (cluster slot : Nat) (s : State) : Ans :=
  onDev (fun d => if (d.room slot).epo.streaming.contains cluster && d.ckptFree slot then d.stream slot cluster else d) s

def execEpochConfirmation (slot : Nat) (s : State) : Ans := onDev (fun d => d.confirmation slot) s

def execOutputSnapshot (slot : Nat) (s : State) : Ans := onDev (fun d => d.snapshot slot) s

def execSystemEpochBoundary (lateNs : Nat) (s : State) : Ans := onDev (fun d => d.systemBoundary lateNs) s

def execMailboxDelivery (mbox : Nat) (s : State) : Ans := onDev (fun d => d.deliverOne mbox) s

end Sys2Proof.Machine
end

