-- ==== Sys2Proof/Machine/Failures.lean ====
section
/-!
DEFINITION. Failure containment (16_failure_containment.md, R33, R265 to R268, R320, R321): detected errors, quick tests and
substitution, resuming from a rollback, retirement of ways and local store units, DRAM faults, and lost dies and flits.
-/
namespace Sys2Proof.Machine

/-! ### Record particulars (R529) -/

/-- System numbers of a core, cluster, region and context of this package. -/
def Dev.sysCore (d : Dev) (core : Nat) : Nat := d.pkg * 128 + core

/-- DETAIL from its bytes, byte 0 first. -/
def detailOf (bs : List Nat) : Nat := leNat (bs.map (BitVec.ofNat 8))

def detCode : CoreDetector → Nat
  | .residue => 2
  | .parity => 3
  | .controlFlow => 4

/-- 86,400 s of the timebase, after which a counted error is dropped. -/
def dayNs : Nat := 86400 * 1000000000

/-- Times of a count that still stand. -/
def recent (tb : Nat) (l : List Nat) : List Nat := l.filter (fun t => decide (tb < t + dayNs))

/-- Physical slot of a logical core (R18). -/
def Dev.physSlot (d : Dev) (core : Nat) : Nat := (d.cluster (core / 4)).slotMap.getD (core % 4) 7

/-- Count a located error of a physical slot (R360). -/
def Dev.countLocated (d : Dev) (c p : Nat) : Dev :=
  d.modCluster c (fun x => { x with lerr := Sparse.insert x.lerr p (d.clk.tb :: recent d.clk.tb (Sparse.get [] x.lerr p)) })

def Dev.located (d : Dev) (c p : Nat) : Nat := (recent d.clk.tb (Sparse.get [] (d.cluster c).lerr p)).length

/-! ### Rollback by a detector (R351, R357, R359) -/

/-- A detector reports an error of a room, at the latest as the instruction leaves WB (R353): the room rolls back to its confirmed boundary, so
that the error counts against the epoch that it fell in. CORE_RBK counts it at the cluster whose detector it was (Table 16.9). A room that does
not run has no unconfirmed work. -/
def Dev.detect (d : Dev) (slot : Nat) (c : Option Nat) (testing : List Nat) (kind loc addr detail : Nat) : Dev :=
  let r := d.room slot
  if r.phase == .running || r.phase == .rolling then
    let d := match c, r.rb with
      | some c, none => d.modCluster c (fun x => { x with coreRbk := satInc max32 x.coreRbk })
      | _, _ => d
    let d := if r.rb.isNone && d.spans slot then d.emit (.epochReport (d.idOf slot) r.epo.cnt false) else d
    d.rollback slot testing kind loc addr detail
  else d

/-- A line has its pre-image in the log of an unconfirmed epoch of a room (EW set, R332). -/
def Dev.ew (d : Dev) (slot line : Nat) : Bool :=
  (d.clustersOf slot).any (fun c => (d.cluster c).undo.any (fun e =>
    e.slot == slot && e.kind != .trestle && e.addr == line))

/-- Data of a line is lost (R266, R367): what the channel holds is what is left, and every room over it is held. -/
def Dev.loseLine (d : Dev) (line kind detail : Nat) (owner : List Nat) : Dev :=
  let rooms := (owner ++ d.slotsOver line).eraseDups
  let loc := (d.homeOf (line * 64)).getD 0
  let d := d.incident kind loc (line * 64) detail rooms 0
  let d := each rooms (fun d s => d.hold s 4) d
  { d with mem := d.mem.putAll (spread (line * 64) ((List.range 64).map (fun i => Sparse.get Memory.unlisted d.chan (line * 64 + i)))) }

/-- An uncorrectable line of an L2, of cluster `c`, or an L3 whose room is in `slot` (Table 11.3). -/
def Dev.lineError (d : Dev) (slot c : Option Nat) (line : Nat) (dirty : Bool) (drop : Dev → Dev) : Dev :=
  if !dirty then drop d
  else match slot with
    | some s => if d.ew s line then (drop d).detect s c [] 0 0 0 5 else (drop d).loseLine line 0x06 5 [s]
    | none => (drop d).loseLine line 0x06 5 []

/-- A corrected error moves the way's counter (R267). -/
def Dev.countCorrected (d : Dev) (level : CacheLevel) (unit way : Nat) : Dev :=
  match level with
  | .l1 => d
  | .l2 => d.modCluster unit (fun x => { x with l2Ce := Sparse.set 0 x.l2Ce way (satInc 255 (Sparse.get 0 x.l2Ce way)) })
  | .l3 => d.modRegion unit (fun x => { x with l3Ce := Sparse.set 0 x.l3Ce way (satInc 255 (Sparse.get 0 x.l3Ce way)) })

/-- The codes correct an error (R265): single bits of any words in the L1U; in the L2 and the L3 also any number of bits of one word, which the
check word rebuilds; and a single bit of a tag entry. -/
def corrects (level : CacheLevel) (words : List Nat) (tag : Nat) : Bool :=
  let many := (words.filter (fun n => decide (2 ≤ n))).length
  decide (tag ≤ 1) && (match level with
    | .l1 => many == 0
    | _ => decide (many ≤ 1))

/-- DETAIL of a core's record before its quick test (Table 16.7b). -/
def coreDetail (det p : Nat) : Nat := detailOf [det, p, 0xFF, 0, 0, 0xFF]

/-- A core of a held room is tested: the count of its errors has located a core fault, and nothing is left to roll back (R266, R362). -/
def Dev.testHeld (d : Dev) (slot core : Nat) (r : RbRec) : Dev :=
  d.modRoom slot (fun x =>
    if x.phase != .held then x
    else
      let b : Rollback := x.rb.getD
        { back := x.epo.conf, started := d.clk.tb, testing := [], recs := [], thenReset := none, thenCore := none, subst := [], thenHalt := [] }
      { x with rb := some (b.joined [core] r) })

/-- An uncorrectable error of an array (R266). One in the L1U also counts against its core; a count that reaches the limit locates a core
fault, whose room rolls back to test the core (R362). -/
def Dev.arrayLost (d : Dev) (level : CacheLevel) (unit line : Nat) : Dev :=
  match level with
  | .l1 =>
    match (d.core unit).l1.find? (fun e => e.line == line) with
    | none => d
    | some e =>
      let c := unit / 4
      let p := d.physSlot unit
      let d := d.countLocated c p
      let drop := fun (d : Dev) => d.l1Drop unit line
      let limit := decide (d.ras.subLimit ≤ d.located c p)
      match d.coreSlot unit with
      | none => drop d
      | some s =>
        let named := fun (d : Dev) => d.detect s (some c) [unit] 0x02 (d.sysCore unit) (line * 64) (coreDetail 5 p)
        if e.st != .m then (if limit then named (drop d) else drop d)
        else if d.ew s line then named (drop d)
        else
          let d := (drop (d.l2Invalidate c line)).loseLine line 0x06 5 [s]
          if limit then d.testHeld s unit { kind := 0x02, loc := d.sysCore unit, addr := line * 64, detail := coreDetail 5 p } else d
  | .l2 =>
    match (d.cluster unit).l2.find? (fun e => e.line == line) with
    | none => d
    | some e => d.lineError (d.slotOf e.room) (some unit) line e.st.dirty (fun d => (d.l2Invalidate unit line).dirRefresh line)
  | .l3 =>
    match (d.region unit).l3.find? (fun e => e.line == line) with
    | none => d
    | some e =>
      d.lineError (d.slotOf e.room) none line e.ld (fun d => d.modRegion unit (fun g => { g with l3 := g.l3.filter (fun x => x.line != line) }))

/-- An access meets wrong bits in an array: none, a corrected error, or one that the codes cannot correct. -/
def Dev.arrayError (d : Dev) (level : CacheLevel) (unit way line : Nat) (words : List Nat) (tag : Nat) : Dev :=
  if words.all (· == 0) && tag == 0 then d
  else if corrects level words tag then d.countCorrected level unit way
  else d.arrayLost level unit line

/-! ### Trestle and local store (R320, R321) -/

/-- The entry of a unit in the BIST ledger says failed (R320, R362). -/
def Dev.ledgerFail (d : Dev) (u : Nat) : Dev :=
  { d with bist := { d.bist with ledger := Sparse.insert d.bist.ledger u { Sparse.get BistEntry.init d.bist.ledger u with st := 2 } } }

/-- Physical local store unit that serves a logical one: the spare (16) takes the number of the first unit retired. -/
def Dev.lsPhys (d : Dev) (c u : Nat) : Nat :=
  if (d.cluster c).trestle.spareUsed && (d.cluster c).trestle.spareFor == u then 16 else u

/-- Slots whose share holds a unit. -/
def Dev.holdersOfUnit (d : Dev) (c u : Nat) : List Nat :=
  (d.slotsOn c).filter (fun s => decide ((d.lsShare c s).1 ≤ u) && decide (u < (d.lsShare c s).1 + (d.lsShare c s).2))

/-- Retire the physical unit behind a logical one: the spare takes its number once; a second retirement holds the rooms. -/
def Dev.retireUnit (d : Dev) (c u det : Nat) : Dev :=
  let t := (d.cluster c).trestle
  let p := d.lsPhys c u
  if t.lsRetired.getLsbD p then d
  else if t.spareUsed || t.lsRetired.getLsbD 16 then
    let rooms := d.holdersOfUnit c u
    let d := d.modCluster c (fun x => { x with trestle := { x.trestle with lsRetired := x.trestle.lsRetired ||| BitVec.ofNat 17 (2 ^ p) } })
    each rooms (fun d s => d.hold s 5) (d.incident 0x0E (d.sysCluster c) 0 (detailOf [det, 0xFF, p]) rooms 0)
  else
    let d := d.modCluster c (fun x => { x with trestle := { x.trestle with
      lsRetired := x.trestle.lsRetired ||| BitVec.ofNat 17 (2 ^ p), spareUsed := true, spareFor := u, ce := Sparse.erase x.trestle.ce u } })
    d.incident 0x0F (d.sysCluster c) 0 (detailOf [det, p, 16]) (d.holdersOfUnit c u) 0

/-- An uncorrectable block of a unit (Table 11.3): rolled back when its pre-image is logged, else its data is lost; the unit retires. -/
def Dev.localStoreError (d : Dev) (c unit block : Nat) : Dev :=
  let b := unit * 256 + block
  let rooms := d.holdersOfUnit c unit
  let logged := fun (s : Nat) => (d.cluster c).undo.any (fun e => e.slot == s && e.kind == .trestle && e.addr == b)
  let d := if rooms.any logged then d
    else d.modCluster c (fun x => { x with trestle := x.trestle.lsPutAll (spread (b * 64) ((List.range 64).map (fun i =>
      Config.lostByte (d.clk.draws + i)))) })
  let d := each rooms (fun d s =>
    if logged s then d.detect s (some c) [] 0 0 0 5
    else (d.incident 0x06 (d.sysRegion (c / 4)) 0 5 [s] 0).hold s 5) d
  d.retireUnit c unit 5

def Dev.localStoreCorrected (d : Dev) (c unit : Nat) : Dev :=
  let n := satInc 255 (Sparse.get 0 (d.cluster c).trestle.ce unit)
  let d := d.modCluster c (fun x => { x with trestle := { x.trestle with ce := Sparse.insert x.trestle.ce unit n } })
  if (d.cluster c).trestle.ceLimit ≤ n then d.retireUnit c unit 5 else d

/-- A read of a block meets wrong bits, which SEC-DED and the check word correct as the L2's do (R307, R265). -/
def Dev.localStoreRead (d : Dev) (c unit block : Nat) (words : List Nat) : Dev :=
  if words.all (· == 0) then d
  else if corrects .l2 words 0 then d.localStoreCorrected c unit
  else d.localStoreError c unit block

/-- Mesh hops between clusters: none in one region; between regions one more than the difference of their numbers, for the spec draws no mesh
(DESIGN CHOICE, notes/assumptions/92.md). -/
def hops (a b : Nat) : Nat := if a / 4 == b / 4 then 0 else 1 + (if a / 4 < b / 4 then b / 4 - a / 4 else a / 4 - b / 4)

/-- The nearest healthy Trestle on the die that serves no other cluster (R320). -/
def Dev.helperFor (d : Dev) (c : Nat) : Option Nat :=
  let ok := (List.range 32).filter (fun k => k != c && k / 16 == c / 16 && (d.cluster k).trestle.health == .healthy &&
    !(d.cluster k).trestle.serves)
  ok.foldl (fun best k =>
    match best with
    | none => some k
    | some b => if hops c k < hops c b then some k else some b) none

def Dev.setHelper (d : Dev) (c h : Nat) : Dev :=
  let d := d.modCluster c (fun x => { x with trestle := { x.trestle with health := .forwarded, helper := h } })
  d.modCluster h (fun x => { x with trestle := { x.trestle with serves := true, served := c } })

/-- A cluster without a datapath of its own seeks a helper; where none is free its Trestle is lost (R320). The record names the rooms of the
cluster, and the timed and sealed rooms of the helper's. -/
def Dev.seekHelper (d : Dev) (c det : Nat) : Dev :=
  let rooms := d.slotsOn c
  match d.helperFor c with
  | some h =>
    let exact := (d.slotsOn h).filter (fun s => d.timed s || d.sealedRoom s)
    let d := d.setHelper c h
    each rooms (fun d s => d.degrade s)
      (d.incident 0x0D (d.sysCluster c) 0 (detailOf [det, h, 0xFF]) (rooms ++ exact).eraseDups 0)
  | none =>
    let d := d.modCluster c (fun x => { x with trestle := { x.trestle with health := .lost } })
    each rooms (fun d s => d.hold s 5) (d.incident 0x0E (d.sysCluster c) 0 (detailOf [det, 0xFF, 0xFF]) rooms 0)

/-- A Trestle datapath fails its test (R320): it is retired, with the state it held, and its cluster seeks a helper; so does the cluster that it
served. `det` is the detector. -/
def Dev.trestleFailed (d : Dev) (c det : Nat) : Dev :=
  let t := (d.cluster c).trestle
  let d := (d.ledgerFail (8 * c + 6)).modCluster c (fun x => { x with trestle := { x.trestle with
    health := .lost, serves := false, loaded := none, running := none, save := [] } })
  let d := d.seekHelper c det
  if t.serves then d.seekHelper t.served det else d

/-- The quick test of a Trestle ends (R320). One that passes is recorded; Table 16.6 gives the event no kind, so KIND is open
(DESIGN CHOICE, notes/assumptions/25.md). -/
def Dev.trestleTested (d : Dev) (c : Nat) (pass : Bool) : Dev :=
  if !(d.cluster c).trestle.testing then d
  else
    let d := d.modCluster c (fun x => { x with trestle := { x.trestle with testing := false } })
    if pass then d.incidentAs 0 Config.trestlePassKind.toNat (d.sysCluster c) 0 (detailOf [6]) (d.slotsOn c) 0 else d.trestleFailed c 6

/-- The Trestle whose datapath works for a cluster: its own, or its helper (R320). -/
def Dev.datapath (d : Dev) (c : Nat) : Nat :=
  let t := (d.cluster c).trestle
  if t.health == .forwarded then t.helper else c

/-- A datapath error in the work of the room in a slot, of a cluster: the room rolls back, and the datapath that worked is tested (R320). -/
def Dev.trestleError (d : Dev) (c slot : Nat) : Dev :=
  let k := d.datapath c
  if (d.clustersOf slot).contains c && (d.cluster k).trestle.health != .lost then
    (d.detect slot (some k) [] 0 0 0 6).modCluster k (fun x => { x with trestle := { x.trestle with testing := true } })
  else d

/-! ### DRAM (R364 to R367) -/

/-- A line lies in a mirrored window whose pair has both channels. -/
def Dev.mirrorServes (d : Dev) (line : Nat) : Bool :=
  match d.plan.windows.find? (fun w => w.mirror == 1 && (w.covers (line * 64) ||
      (decide (w.mirrorBase ≤ line * 64) && decide (line * 64 < w.mirrorBase + w.size)))) with
  | some w => !d.ras.mirrorDeg.getLsbD (((d.homeOf w.base).getD 0) % 8 / 2)
  | none => false

/-- An uncorrectable read of DRAM (R367). -/
def Dev.dramError (d : Dev) (line : Nat) : Dev :=
  match d.homeOf (line * 64) with
  | none => d
  | some r =>
    let above := d.slotsOver line
    if d.mirrorServes line then d.incident 0x09 r (line * 64) 8 above 0
    else match above.find? (fun s => d.ew s line) with
      | some s => d.detect s none [] 0x09 r (line * 64) 8
      | none => d.loseLine line 0x0A 8 []

/-- Another x4 device of the rank is an erasure: what one more device gets wrong is detected, not corrected (R364). -/
def Region.spent (g : Region) (h : PatrolHit) : Bool :=
  !g.mc.x8 && g.devMarked.any (fun m => m / 64 == h.rank && m != h.rank * 64 + h.device)

/-- A row of a channel, by rank, bank and row address. -/
def rowKey (h : PatrolHit) : Nat := (h.rank * 2 ^ 32 + Config.bankOf h.line % 2 ^ 32) * 2 ^ 32 + h.row

/-- One corrected error of a demand read or a patrol pass (R364, R365). -/
def Dev.patrolCorrected (d : Dev) (r : Nat) (h : PatrolHit) : Dev :=
  let dev := h.rank * 64 + h.device
  let rooms := d.slotsOver h.line
  let g := d.region r
  let times := d.clk.tb :: recent d.clk.tb (Sparse.get [] g.devErr dev)
  let rows := d.clk.tb :: recent d.clk.tb (Sparse.get [] g.rowErr (rowKey h))
  let mark := !g.mc.x8 && !g.devMarked.contains dev && decide (d.ras.devLimit ≤ times.length)
  let repair := d.ras.pprEn && decide (4 ≤ rows.length)
  let d := d.modRegion r (fun g =>
    { g with devErr := Sparse.insert g.devErr dev times, rowErr := Sparse.insert g.rowErr (rowKey h) (if repair then [] else rows),
             devMarked := if mark then dev :: g.devMarked else g.devMarked,
             softRows := if repair && g.mc.ppr != 0 then insertAsc g.softRows (rowKey h) else g.softRows
             mc := if repair then { g.mc with ppr := g.mc.ppr - 1 } else g.mc })
  let d := if mark then d.incident 0x07 (d.sysRegion r) (h.line * 64) (detailOf [8, h.rank, h.device]) rooms 0 else d
  if repair then
    d.incident 0x08 (d.sysRegion r) (h.line * 64)
      (detailOf ([8, h.rank, h.device, if g.mc.ppr == 0 then 1 else 0] ++ (leBytes 4 h.row).map BitVec.toNat)) rooms 0
  else d

/-- One error that a read met, which a spent rank detects only. -/
def Dev.patrolHit (d : Dev) (r : Nat) (h : PatrolHit) : Dev :=
  if (d.region r).spent h then d.dramError h.line else d.patrolCorrected r h

/-- Regions of this package that form a mirror pair with a region. -/
def Dev.mirrorPair (d : Dev) (r : Nat) : Option Nat :=
  match d.plan.pkgs.find? (fun p => p.pkg == d.pkg) with
  | some p => if p.mirrorPairs.testBit (r / 2) then some (r / 2) else none
  | none => none

/-- Slots with a DRAM window homed in a region, mirrored copies included. -/
def Dev.slotsHomed (d : Dev) (r : Nat) : List Nat :=
  d.slots.filter (fun s => (d.plan.windowsOf (d.idOf s)).any (fun w => w.kind == 0 &&
    (d.homeOf w.base == some (d.sysRegion r) || (w.mirror == 1 && d.homeOf w.mirrorBase == some (d.sysRegion r)))))

/-- Slots with an unmirrored DRAM window homed in a region. -/
def Dev.slotsAlone (d : Dev) (r : Nat) : List Nat :=
  d.slots.filter (fun s => (d.plan.windowsOf (d.idOf s)).any (fun w => w.kind == 0 && w.mirror != 1 && d.homeOf w.base == some (d.sysRegion r)))

/-- Rooms lose memory with a channel: a record, and each is held (R367). -/
def Dev.memoryLost (d : Dev) (loc det : Nat) (rooms : List Nat) : Dev :=
  each rooms (fun d s => d.hold s 4) (d.incident 0x0C loc 0 det rooms 0)

/-- A channel is lost (R367). Of a mirror pair the other serves on; a room with an unmirrored window on the lost one is held all the same
(R356). -/
def Dev.channelLost (d : Dev) (r det : Nat) : Dev :=
  if (d.region r).chanLost || 8 ≤ r then d
  else
    let d := d.modRegion r (fun g => { g with chanLost := true })
    let rooms := d.slotsHomed r
    match d.mirrorPair r with
    | some k =>
      let other := if r % 2 == 0 then r + 1 else r - 1
      if (d.region other).chanLost then d.memoryLost (d.sysRegion (2 * k)) det rooms
      else
        let alone := d.slotsAlone r
        let served := rooms.filter (fun s => !alone.contains s)
        let d := { d with ras := { d.ras with mirrorDeg := d.ras.mirrorDeg ||| BitVec.ofNat 4 (2 ^ k) } }.raise 803
        let d := each rooms (fun d s => d.degrade s) (d.incident 0x0B (d.sysRegion (2 * k)) 0 det served 0)
        if alone.isEmpty then d else d.memoryLost (d.sysRegion r) det alone
    | none => d.memoryLost (d.sysRegion r) det rooms

/-- The copy onto a channel that has returned is complete (R367). -/
def Dev.mirrorResynced (d : Dev) (k : Nat) : Dev :=
  if d.ras.mirrorDeg.getLsbD k && !(d.region (2 * k)).chanLost && !(d.region (2 * k + 1)).chanLost then
    let d := { d with ras := { d.ras with mirrorDeg := d.ras.mirrorDeg &&& ~~~ (BitVec.ofNat 4 (2 ^ k)) } }
    each (d.plan.windows.filter (fun w => w.mirror == 1 && (d.homeOf w.base).getD 0 % 8 / 2 == k)) (fun d w =>
      let both := (d.mem.filter (fun p => decide (w.base ≤ p.1) && decide (p.1 < w.base + w.size))).map (fun p =>
        (w.mirrorBase + (p.1 - w.base), p.2))
      { d with mem := (d.mem.zero w.mirrorBase w.size).putAll both }) d
  else d

/-! ### Retirement of ways (R267, R268) -/

/-- The dirty lines of an L3 way are written to the channel, and the way is empty. -/
def Dev.emptyL3 (d : Dev) (r way : Nat) : Dev :=
  (each ((d.region r).l3.filter (fun e => e.way == way && e.ld)) (fun d e => d.writeBack e.line) d).modRegion r (fun g =>
    { g with l3 := g.l3.filter (fun e => e.way != way) })

/-- Retire a way (R267): `cause` is 0 for an uncorrectable error, 1 for CE_LIMIT reached, 2 for a BIST failure. LKFILL.L2_WAY takes the lowest
locked way that is left, and 0 where none is (DESIGN CHOICE, notes/assumptions/89.md). -/
def Dev.retireWay (d : Dev) (level : CacheLevel) (unit way cause : Nat) : Dev :=
  let unc := cause != 1
  match level with
  | .l1 => d
  | .l2 =>
    let x := d.cluster unit
    if x.l2Retired.getLsbD way || 16 ≤ way || 32 ≤ unit || (!unc && Sparse.get 0 x.l2Ce way < x.l2CeLimit) then d
    else
      let d := d.flushL2 unit (fun e => e.way == way)
      let d := d.modCluster unit (fun x => { x with l2Retired := x.l2Retired ||| BitVec.ofNat 16 (2 ^ way) })
      let rooms := (d.slotsOn unit).filter (fun s => (d.l2Ways unit (d.idOf s)).testBit way)
      let d := d.incident 0x05 (way * 65536 + d.sysCluster unit) 0 (detailOf [if cause == 2 then 0x0B else 5, cause]) rooms 0
      let d := each (clusterCores unit) (fun d k =>
        let left := (bitsOf (d.l2Lock unit ((d.coreRoom k).getD 0)) 16).filter (fun w => !(d.cluster unit).l2Retired.getLsbD w)
        if (d.core k).lk.l2Way == way then d.modCore k (fun c => { c with lk := { c.lk with l2Way := left.headD 0 } }) else d) d
      each rooms (fun d s =>
        let d := d.degrade s
        let id := d.idOf s
        let free := (bitsOf (d.l2Ways unit id) 16).filter (fun w => !(d.l2Lock unit id).testBit w && !(d.cluster unit).l2Retired.getLsbD w)
        if free.isEmpty && !(d.l2Lock unit id).testBit way then d.hold s 3 else d) d
  | .l3 =>
    let x := d.region unit
    if x.l3Retired.getLsbD way || 16 ≤ way || 8 ≤ unit || (!unc && Sparse.get 0 x.l3Ce way < x.l3CeLimit) then d
    else
      let d := (d.emptyL3 unit way).modRegion unit (fun g => { g with l3Retired := g.l3Retired ||| BitVec.ofNat 16 (2 ^ way) })
      let rooms := d.slots.filter (fun s => (d.l3Ways unit (d.idOf s)).testBit way)
      each rooms (fun d s => d.degrade s)
        (d.incident 0x05 (2 ^ 24 + way * 65536 + d.sysRegion unit) 0 (detailOf [if cause == 2 then 0x0B else 5, cause]) rooms 0)

/-! ### Dies and flits (R33, R370) -/

/-- A die is lost (R33): the rooms on it roll back to their last confirmed checkpoint and are held. -/
def Dev.loseDie (d : Dev) (die det : Nat) : Dev :=
  if d.diesLost.contains die || 2 ≤ die then d
  else
    let rooms := d.slotsOnDie die
    let d := { d with diesLost := die :: d.diesLost }
    let d := each rooms (fun d s => d.hold s 1) d
    d.incident 0x13 die 0 det rooms 0

/-- The hub die has failed, by a unit of its or a flit: every room of the package is held (Table 21.4). -/
def Dev.hubLost (d : Dev) (det : Nat) : Dev :=
  let rooms := d.slots
  each rooms (fun d s => d.hold s 6) (d.incident 0x14 d.pkg 0 det rooms 0)

/-! ### Detected errors -/

def Dev.detectedError (d : Dev) (e : ErrorReport) : Dev :=
  match e with
  | .core det core =>
    match d.coreSlot core with
    | none => d
    | some s =>
      let p := d.physSlot core
      let d := d.countLocated (core / 4) p
      d.detect s (some (core / 4)) [core] 0x02 (d.sysCore core) 0 (coreDetail (detCode det) p)
  | .lockstep core =>
    match d.coreSlot core with
    | none => d
    | some s =>
      let named := ((d.room s).rb.map Rollback.recs).getD [] |>.any (fun x => x.kind == 2 && x.loc / 2 == d.sysCore core / 2)
      if !d.plan.paired (d.idOf s) || core % 2 == 1 then d
      else if named then d.detect s (some (core / 4)) [] 0 0 0 0
      else d.detect s (some (core / 4)) [core, core + 1] 0x01 (d.sysCore core) 0
        (detailOf [1, d.physSlot core, 0xFF, 0, 0, d.physSlot (core + 1)])
  | .array level unit way line words tag => d.arrayError level unit way line words tag
  | .arrayCorrected level unit way => d.countCorrected level unit way
  | .trestle c s => d.trestleError c s
  | .localStore c unit block words => if unit < 16 && block < 256 then d.localStoreRead c unit block words else d
  | .localStoreCorrected c unit => if unit < 16 then d.localStoreCorrected c unit else d
  | .readBack ctx =>
    match d.coreSlot (coreOf ctx) with
    | none => d
    | some s =>
      let d := d.modRoom s (fun r => { r with epo := { r.epo with readBad := true } })
      d.detect s none [] 0x15 (d.pkg * 512 + ctx) 0 7
  | .readBackCorrected _ => { d with ras := { d.ras with ckptCe := satInc max32 d.ras.ckptCe } }
  | .restoreLost s =>
    if (d.room s).phase == .rolling then (d.incident 0x0A 0 0 7 [s] 0).hold s 4 else d
  | .dram line => d.dramError line
  | .dramCorrected r hit => d.patrolHit r hit
  | .snoopFilter r set => if 8 ≤ r || 2048 ≤ set then d else d.modRegion r (fun g => { g with sfBad := insertAsc g.sfBad set })
  | .remote s (some cause) => if d.spans s then d.resetHere s cause else d
  | .remoteHeld s reason => if d.spans s then d.holdHere s reason else d
  | .remote s none =>
    if d.spans s && ((d.room s).phase == .running || (d.room s).phase == .rolling) then d.rollback s [] 0 0 0 0 else d

/-! ### Quick tests, substitution, resume (R359 to R363, R357 step 6) -/

def testCode : TestResult → Nat
  | .notRun => 0
  | .passed => 1
  | .failed => 2

/-- The spare takes a logical core's place (R362): it starts with empty TLBs and predictor, and of the L1U with the locked ways that the L2's
locked ways hold (Table 11.7). -/
def Dev.substitute (d : Dev) (slot core : Nat) : Dev :=
  let c := core / 4
  let p := d.physSlot core
  let d := each [c, 32 + c] (fun d n => if d.entering n then d.abortEntry n 0x0B else d) d
  let d := d.modCluster c (fun x => { x with slotMap := setAt x.slotMap (core % 4) x.spare, spare := 7,
                                             failed := x.failed ||| BitVec.ofNat 5 (2 ^ p) })
  let inLocked := fun (e : L1Line) => (d.l1Lock core).testBit e.way && (d.cluster c).l2.any (fun y =>
    y.line == e.line && (d.l2Lock c (d.idOf slot)).testBit y.way)
  let d := (d.ledgerFail (8 * c + p)).modCore core (fun x => { x with
    tlb1 := [], tlb2 := [], l1 := (x.l1.filter inLocked).map (fun e => { e with ewl := false }) })
  let d := each [0, 1, 2, 3] (fun d b => d.modCtx (core * 4 + b) (fun x => { x with btable := [], rstack := .empty, resv := none })) d
  (d.modRoom slot (fun r => { r with subst := satInc 255 r.subst,
                                     rb := r.rb.map (fun b => { b with subst := insertAsc b.subst c }) })).raise 802

/-- A record of a rollback names a core: itself, or the pair it is of. -/
def RbRec.ofCore (sys : Nat) (r : RbRec) : Bool := (r.kind == 2 && r.loc == sys) || (r.kind == 1 && r.loc / 2 == sys / 2)

/-- What a rollback holds of a core gives way to its outcome: a record, or none where one is written already. -/
def Dev.rbOutcome (d : Dev) (slot core : Nat) (new : List RbRec) : Dev :=
  d.modRoom slot (fun r => { r with rb := r.rb.map (fun b =>
    { b with recs := b.recs.filter (fun x => !x.ofCore (d.sysCore core)) ++ new }) })

/-- Mark physical slots failed, hold the room with REASON 2 and write kind 0x04 (Table 16.4). The slot map then names fewer than four healthy
slots, and the cluster has no spare (R18). -/
def Dev.noSpare (d : Dev) (slot c : Nat) (ps : List Nat) (loc detail : Nat) : Dev :=
  let d := d.modCluster c (fun x => { x with
    failed := x.failed ||| BitVec.ofNat 5 (orAll (ps.map (2 ^ ·))), spare := 7 })
  let d := each ps (fun d p => d.ledgerFail (8 * c + p)) d
  (d.incident 0x04 loc 0 detail [slot] 0).hold slot 2

/-- The spare's own test fails: it is marked, and the cluster has no spare (Table 16.4). -/
def Dev.spareFailed (d : Dev) (c : Nat) (ps : List Nat) : Dev :=
  if ps.isEmpty then d
  else (each ps (fun d p => d.ledgerFail (8 * c + p)) d).modCluster c (fun x => { x with
    failed := x.failed ||| BitVec.ofNat 5 (orAll (ps.map (2 ^ ·))), spare := 7 })

/-- Outcome of a core's or a pair's quick test for the slot map and the record (Table 16.4). -/
def Dev.testOutcome (d : Dev) (s core det addr : Nat) (isPair : Bool) (own pair spare : TestResult) : Dev :=
  let c := core / 4
  let p := d.physSlot core
  let sp := (d.cluster c).spare
  let spareOk := spare == .passed && sp != 7
  let lowSpare := if spare == .failed && sp != 7 then [sp] else []
  let det5 := fun (k after : Nat) => detailOf [det, d.physSlot k, after, testCode (if k == core then own else pair),
    testCode spare, if isPair then d.physSlot (pairOf k) else 0xFF]
  let out := fun (kind k after : Nat) => ({ kind := kind, loc := d.sysCore k, addr := addr, detail := det5 k after } : RbRec)
  let fails := (if own == .failed then [core] else []) ++ (if isPair && pair == .failed then [pairOf core] else [])
  let limit := !isPair && decide (d.ras.subLimit ≤ d.located c p)
  let bad := fails.headD core
  if fails.isEmpty && !limit then
    d.rbOutcome s core [if isPair then out 0x01 (min core (pairOf core)) 0xFF else out 0x02 core 0xFF]
  else if fails.length == 2 then
    (d.rbOutcome s core []).noSpare s c (fails.map d.physSlot ++ lowSpare) (d.sysCore core) (det5 core 0xFF)
  else if spareOk then (d.substitute s bad).rbOutcome s core [out 0x03 bad sp]
  else if fails.isEmpty then (d.spareFailed c lowSpare).rbOutcome s core [out 0x02 core 0xFF]
  else (d.rbOutcome s core []).noSpare s c (d.physSlot bad :: lowSpare) (d.sysCore bad) (det5 bad 0xFF)

/-- What waited for a rollback to end: a room reset (Table 21.8), a core reset, a halt (Table 16.5). -/
def Dev.afterRollback (d : Dev) (slot : Nat) (b : Rollback) : Dev :=
  match b.thenReset with
  | some cause => d.resetRoom slot cause
  | none =>
    let d := match b.thenCore with | some c => d.resetCore slot c | none => d
    each (b.thenHalt.map Prod.snd).eraseDups (fun d sid => d.haltGroup slot sid ((b.thenHalt.filter (fun p => p.2 == sid)).map Prod.fst)) d

/-- The tests of a held room have ended: its records are written (R266). -/
def Dev.heldTested (d : Dev) (slot : Nat) : Dev :=
  let r := d.room slot
  match r.rb with
  | none => d
  | some b =>
    if !b.testing.isEmpty || r.phase != .held then d
    else ((d.writeRecs slot 0).modRoom slot (fun r => { r with rb := none })).afterRollback slot b

/-- The result of the quick tests that a detection started (R363, Table 16.4). -/
def Dev.quickTested (d : Dev) (core : Nat) (own pair spare : TestResult) : Dev :=
  match d.coreSlot core with
  | none => d
  | some s =>
    match (d.room s).rb with
    | none => d
    | some b =>
      if !b.testing.contains core || d.clk.stopped then d
      else
        let c := core / 4
        let r := b.recs.find? (RbRec.ofCore (d.sysCore core))
        let isPair := r.any (fun x => x.kind == 1) && b.testing.contains (pairOf core)
        let done := if isPair then [core, pairOf core] else [core]
        let d := d.modRoom s (fun r => { r with rb := r.rb.map (fun x =>
          { x with testing := x.testing.filter (fun k => !done.contains k) }) })
        let sp := (d.cluster c).spare
        let d := each ((if own == .failed then [d.physSlot core] else []) ++ (if isPair && pair == .failed then [d.physSlot (pairOf core)] else []) ++
          (if spare == .failed && sp != 7 then [sp] else [])) (fun d p => d.countLocated c p) d
        let d := if r.isNone && own != .failed then d
          else d.testOutcome s core ((r.map (fun x => x.detail % 256)).getD 1) ((r.map RbRec.addr).getD 0) isPair own pair spare
        d.heldTested s

/-- Every core is ready: the room resumes at a boundary that takes its next number (R357 step 6); then the records, and what waited. -/
def Dev.resumeNow (d : Dev) (slot : Nat) : Dev :=
  let r := d.room slot
  match r.rb with
  | none => d
  | some b =>
    if !b.testing.isEmpty || r.phase != .rolling then d
    else
      let k := r.epo.cnt + 1
      let ns := d.clk.tb - b.started
      let d := d.resumeFrom slot b.back k
      let d := d.modRoom slot (fun r => { r with epo := { r.epo with substAt := if b.subst.isEmpty then none else some k } })
      (each b.recs (fun d r => d.incident r.kind r.loc r.addr r.detail [slot] ns) d).afterRollback slot b

/-- The rollback of a room ends at a package epoch boundary (R328, R357 step 6), unless the device or the supply has the room stand still. -/
def Dev.resumeRoom (d : Dev) (slot : Nat) : Dev :=
  if d.clk.tb % 5000 == 0 && !d.clk.stopped && !(d.room slot).pwr.susp then d.resumeNow slot else d

/-- Power state of a physical slot: a failed one is Off (R362), the spare is in Retention while its cluster runs, but when a located core is
under test (R361, R358), and the others have the cluster's. -/
def Dev.slotPower (d : Dev) (c p : Nat) : DomSt :=
  let x := d.cluster c
  let st := (d.domain c).st
  if x.failed.getLsbD p then .off
  else if x.spare != p then st
  else if (d.slotsOn c).any (fun s => (((d.room s).rb.map Rollback.testing).getD []).any (fun k => k / 4 == c)) then .on
  else if st == .off then .off else .retention

/-! ### Rows -/

def execDetectedError (e : ErrorReport) (s : State) : Ans := onDev (fun d => d.detectedError e) s

def execQuickTestComplete (core : Nat) (own pair spare : TestResult) (s : State) : Ans :=
  onDev (fun d => d.quickTested core own pair spare) s

def execRollbackResume (slot : Nat) (s : State) : Ans := onDev (fun d => d.resumeRoom slot) s

def execWayRetirement (level : CacheLevel) (unit way : Nat) (uncorrectable : Bool) (s : State) : Ans :=
  onDev (fun d => d.retireWay level unit way (if uncorrectable then 0 else 1)) s

/-- A patrol pass (R366): the devices' own counts and temperature are read (R420), and each error that it met takes effect. -/
def Dev.patrol (d : Dev) (r : Nat) (p : PatrolPass) : Dev :=
  each p.hits (fun d h => d.patrolHit r h)
    (d.modRegion r (fun g => { g with ecsCnt := min max32 (g.ecsCnt + p.ecs), ref2x := p.hot }))

def execPatrolScrub (region : Nat) (pass : PatrolPass) (s : State) : Ans := onDev (fun d => d.patrol region pass) s

def execChannelLoss (region : Nat) (s : State) : Ans := onDev (fun d => d.channelLost region 8) s

def execMirrorResyncDone (pair : Nat) (s : State) : Ans := onDev (fun d => d.mirrorResynced pair) s

def execDieFault (die : Nat) (s : State) : Ans := onDev (fun d => d.loseDie die 0) s

/-- An uncorrectable flit of a region's mesh or of the hub is sent again; a second failure is a die fault (R370), of the hub one of the whole
package (notes/assumptions/26.md). -/
def execFlitRetransmit (region : Option Nat) (second : Bool) (s : State) : Ans :=
  onDev (fun d =>
    match region with
    | some r => if second then d.loseDie (r / 4) 0x0A else d.incident 0x19 (d.sysRegion r) 0 (detailOf [0x0A]) [] 0
    | none => if second then d.hubLost 0x0A else d.incident 0x19 0xFFFFFFFF 0 (detailOf [0x0A]) [] 0) s

/-- A snoop filter set is rebuilt from the L2 tags (R370): recorded, and the filter forwards by what it lists again. -/
def execSnoopFilterRebuild (region set : Nat) (s : State) : Ans :=
  onDev (fun d => if decide (region < 8) && decide (set < 2048) then
    (d.modRegion region (fun g => { g with sfBad := g.sfBad.filter (· != set) })).incident 0x19 (d.sysRegion region) 0 (detailOf [5]) [] 0
    else d) s

def execTrestleQuickTestDone (cluster : Nat) (pass : Bool) (s : State) : Ans := onDev (fun d => d.trestleTested cluster pass) s

end Sys2Proof.Machine
end

