-- ==== Sys2Proof/Machine/Image.lean ====
section
/-!
DEFINITION. The floorplan image (02_floorplan_image.md): its fields by byte offset, the nine validation steps of Table 2.15 with
their reject codes (R528), and the records after clamping (R54, R55).
-/
namespace Sys2Proof.Machine

/-! ### Bytes of an image -/

/-- A directory entry (R57): type, offset, length. -/
structure DirEnt where
  ty : Nat
  ofs : Nat
  len : Nat
  deriving DecidableEq, Repr

def imgDir (l : List Byte) : List DirEnt :=
  (List.range (leAt l 0x17 1)).map (fun i =>
    { ty := leAt l (64 + 16 * i) 1, ofs := leAt l (68 + 16 * i) 4, len := leAt l (72 + 16 * i) 4 })

/-- Preamble length of a section type. -/
def secPre (ty : Nat) : Nat := if ty == 1 then 16 else if ty == 6 then 8 else if ty == 8 then 64 else if ty == 9 then 32 else 0

/-- Record size of a section type (R58). -/
def secRec (ty : Nat) : Nat := [0, 64, 32, 16, 40, 8, 16, 8, 24, 32, 8, 8, 32, 24].getD ty 0

def imgSec (l : List Byte) (ty : Nat) : Option DirEnt := (imgDir l).find? (fun e => e.ty == ty)

/-- The section's bytes, preamble first; none when the section is absent. -/
def secBytes (l : List Byte) (ty : Nat) : Option (List Byte) :=
  (imgSec l ty).map (fun e => slice l (e.ofs + 8) (e.len - 8))

/-- The records of a section, each as its bytes. -/
def secRecs (l : List Byte) (ty : Nat) : List (List Byte) :=
  match imgSec l ty with
  | none => []
  | some e => (List.range (leAt l (e.ofs + 4) 2)).map (fun i =>
      slice l (e.ofs + 8 + secPre ty + secRec ty * i) (secRec ty))

def distinct (l : List Nat) : Bool := l.eraseDups.length == l.length

/-- Some two elements, in order, satisfy `f`. -/
def anyPair {α : Type} (f : α → α → Bool) : List α → Bool
  | [] => false
  | a :: t => t.any (f a) || anyPair f t

/-! ### Step 1: the header (R56); step 2: the signature block (R79, R83) -/

/-- Stepping B0, coded as PKG_IDENT[15:8] (R2). -/
def stepping : Nat := 0x10

def imgStep1 (l : List Byte) : Bool :=
  let len := leAt l 0x10 4
  decide (1024 ≤ len) && decide (len ≤ 0x400000) && len % 8 == 0 && l.length == len &&
    l.take 4 == [0x4B, 0x46, 0x4C, 0x50] && leAt l 4 2 == 1 && leAt l 6 2 == 64 && leAt l 0x14 2 == 0x9128 &&
    decide (leAt l 0x16 1 ≤ stepping) && leAt l 8 8 != 0

/-- Generation of an image. -/
def imgGen (l : List Byte) : Nat := leAt l 8 8

/-- KEY_KIND, and whether the key is accepted and the signature valid. -/
def imgKind (l : List Byte) : Nat := leAt l (leAt l 0x10 4 - 256 + 4) 1

def imgSigned (l : List Byte) (ownerHash : List Byte) : Bool :=
  let s := leAt l 0x10 4 - 256
  let pub := slice l (s + 8) 96
  let hash := if imgKind l == 1 then Config.vendorKeyHash else ownerHash
  slice l s 4 == [0x4B, 0x53, 0x49, 0x47] && (imgKind l == 1 || (imgKind l == 2 && !ownerHash.isEmpty)) &&
    Config.sha384 pub == hash && Config.ecdsaP384 pub (Config.sha384 (l.take (s + 0x68))) (slice l (s + 0x68) 96)

/-! ### Step 4: the directory (R52, R57) -/

def imgStep4 (l : List Byte) : Bool :=
  let n := leAt l 0x17 1
  let ds := imgDir l
  decide (8 ≤ n) && decide (n ≤ 13) &&
    ds.all (fun e => decide (1 ≤ e.ty) && decide (e.ty ≤ 13) && e.ofs % 8 == 0 && decide (8 ≤ e.len) &&
      decide (64 + 16 * n ≤ e.ofs) && decide (e.ofs + e.len ≤ leAt l 0x10 4 - 256)) &&
    distinct (ds.map DirEnt.ty) && !anyPair (fun a b => overlap a.ofs a.len b.ofs b.len) ds &&
    [1, 2, 3, 4, 5, 7, 10, 11].all (fun t => (ds.map DirEnt.ty).contains t)

/-! ### Step 5: section headers, and fields whose clamp is "reject" -/

/-- Section header, record size and length (R58). -/
def secFramed (l : List Byte) (e : DirEnt) : Bool :=
  leAt l e.ofs 1 == e.ty && leAt l (e.ofs + 1) 1 == 1 && leAt l (e.ofs + 2) 2 == secRec e.ty &&
    e.len == (8 + secPre e.ty + leAt l (e.ofs + 4) 2 * secRec e.ty + 7) / 8 * 8

def pa52 (a align : Nat) : Bool := decide (a < 2 ^ 52) && a % align == 0

/-- A record's fields of class reject, against their Range columns. -/
def recOk (ty : Nat) (r : List Byte) : Bool :=
  let f := leAt r
  if ty == 1 then decide (f 0 1 ≤ 3) && decide (f 1 1 ≤ 7) && decide (f 2 1 ≤ 15) &&
    (List.range 8).all (fun i => decide (f (8 + 4 * i) 2 ≤ 1023))
  else if ty == 2 then [4, 5, 6, 7].all (fun i => decide (f i 1 < 64) || f i 1 == 0xFF) && f 8 8 % 4 == 0
  else if ty == 3 then decide (f 0 2 ≤ 127) && f 2 1 % 16 != 0
  else if ty == 4 then decide (f 1 1 ≤ 7) && f 2 1 % 8 != 0 && decide (f 3 1 ≤ 3) && decide (f 4 1 ≤ 1) && pa52 (f 8 8) 4096 &&
    decide (4096 ≤ f 16 8) && decide (f 16 8 ≤ 2 ^ 40) && f 16 8 % 4096 == 0 && (f 4 1 == 0 || pa52 (f 32 8) 4096)
  else if ty == 5 then
    (f 0 1 == 1 && decide (f 2 2 ≤ 127) || f 0 1 == 2 && decide (f 2 2 ≤ 31) ||
      f 0 1 == 3 && decide (f 2 2 ≤ 511) && decide (f 4 2 ≤ 15)) && f 4 2 != 0
  else if ty == 6 then decide (f 1 1 ≤ 31)
  else if ty == 7 then decide (f 0 2 ≤ 1023) && (decide (f 4 2 ≤ 511) || f 4 2 == 0xFFFF) && decide (f 6 1 ≤ 3)
  else if ty == 8 then decide (f 0 2 ≤ 4095) && decide (f 3 1 ≤ 7) && f 8 8 % 8 == 0 && f 16 8 % 8 == 0
  else if ty == 11 then decide (f 1 1 ≤ 1)
  else if ty == 12 then f 8 8 % 64 == 0 && f 16 8 % 64 == 0
  else if ty == 13 then decide (f 0 1 ≤ 127) && f 8 8 % 4096 == 0
  else true

def secOk (l : List Byte) (ty : Nat) : Bool :=
  match imgSec l ty with
  | none => true
  | some e =>
    secFramed l e && (secRecs l ty).all (recOk ty) &&
      (ty != 1 || (decide (1 ≤ leAt l (e.ofs + 8) 1) && decide (leAt l (e.ofs + 8) 1 ≤ 4)))

/-- The lowest section type that fails step 5. -/
def imgStep5 (l : List Byte) : Option Nat := (List.range 14).find? (fun ty => !secOk l ty)

/-! ### Step 6: the records after clamping (R54, R55) -/

def pkgRec (r : List Byte) : PkgRec :=
  { pkg := leAt r 0 1, linkEn := leAt r 1 1, mirrorPairs := leAt r 2 1, ddrMts := clamp 3200 6400 (leAt r 4 2) / 400 * 400,
    chan := (List.range 8).map (fun i => { baseGib := leAt r (8 + 4 * i) 2, sizeGib := min 128 (leAt r (10 + 4 * i) 2) }) }

def roomRec (r : List Byte) : RoomRec :=
  let fl := leAt r 1 1
  let floor := leAt r 3 1
  { roomId := leAt r 0 1, timed := fl.testBit 0, sealed := fl.testBit 1, span := fl.testBit 2, autostart := fl.testBit 3,
    plevReq := min 4 (leAt r 2 1), plevFloor := if floor == 0xFF then 0xFF else min 4 floor,
    slots := [4, 5, 6, 7].map (fun i => leAt r i 1), entryPa := leAt r 8 8, name := leAt r 16 8 }

def clusterRec (r : List Byte) : ClusterRec :=
  let mask := fun (x : Nat) => if x % 16 == 0 then 1 else x % 16
  { cluster := leAt r 0 2, coreEn := leAt r 2 1 % 16, coreRoom := [4, 5, 6, 7].map (fun i => leAt r i 1),
    tlsA := clamp 1 15 (leAt r 8 1), tslotA := clamp 1 15 (leAt r 9 1), ctxMaskA := mask (leAt r 10 1),
    ctxMaskB := mask (leAt r 11 1) }

def windowRec (r : List Byte) : WindowRec :=
  { roomId := leAt r 0 1, index := leAt r 1 1, perm := leAt r 2 1 % 8, kind := leAt r 3 1, mirror := leAt r 4 1,
    base := leAt r 8 8, size := leAt r 16 8, wmark := min (leAt r 16 8) (leAt r 24 8 / 4096 * 4096),
    mirrorBase := leAt r 32 8 }

def cacheRec (r : List Byte) : CacheRec :=
  { form := leAt r 0 1, roomId := leAt r 1 1, loc := leAt r 2 2, ways := leAt r 4 2,
    lock := if leAt r 0 1 == 1 then leAt r 6 2 &&& leAt r 4 2 else 0 }

def bwRec (r : List Byte) : BwRec :=
  { roomId := leAt r 0 1, region := leAt r 1 1, units := min 64 (leAt r 2 1), slots := leAt r 8 8 }

def irqRec (r : List Byte) : IrqRec :=
  { source := leAt r 0 2, roomId := leAt r 2 1, prio := min 63 (leAt r 3 1), target := leAt r 4 2, bank := leAt r 6 1,
    keeper := (leAt r 7 1).testBit 0 }

def nodePre (b : List Byte) : NodePre :=
  { etherType := if leAt b 0 2 < 0x600 then 0x88B5 else leAt b 0 2, portEn := leAt b 2 1, portMode := leAt b 3 1,
    granuleLog2 := (List.range 8).map (fun i => clamp 10 16 (leAt b (4 + i) 1)), hsrAgeMs := clamp 10 400 (leAt b 12 2),
    nodeTmoCyc := clamp 2 255 (leAt b 14 2), classUs := (List.range 8).map (fun i => clamp 250 100000 (leAt b (16 + 4 * i) 4)) }

def nodeRec (r : List Byte) : NodeRec :=
  let sz := fun (x : Nat) => (clamp 16 256 x + 7) / 8 * 8
  { node := leAt r 0 2, roomId := leAt r 2 1, cls := leAt r 3 1, inSize := sz (leAt r 4 2), outSize := sz (leAt r 6 2),
    inPa := leAt r 8 8, outPa := leAt r 16 8 }

def powerRec (p : Plan) (r : List Byte) : PowerRec :=
  let id := leAt r 0 1
  let serving := orAll ((List.range 32).map (fun c =>
    if (List.range 4).any (fun k => (p.clustersOf k id).contains c) then 2 ^ c else 0))
  { roomId := id, mayRetain := (leAt r 1 1).testBit 0, uncoreMaySleep := (leAt r 1 1).testBit 1,
    idleRetUs := clamp 10 1000000 (leAt r 4 4), wakeMask := leAt r 8 4 &&& serving, doorbell := leAt r 16 16 }

def debugRec (r : List Byte) : DebugRec :=
  { roomId := leAt r 0 1, normMax := min 2 (leAt r 1 1), secMax := min 2 (leAt r 2 1), roles := leAt r 3 1 % 32,
    traceKib := clamp 16 1024 (leAt r 4 2) / 16 * 16, freezeWdg := (leAt r 6 1).testBit 0, freezePer := (leAt r 6 1).testBit 1 }

def epochRec (r : List Byte) : EpochRec :=
  { roomId := leAt r 0 1, paired := leAt r 1 1 == 1, epochUs := clamp 5 200 (leAt r 2 2) }

def fwdRec (r : List Byte) : FwdRec :=
  { roomId := leAt r 0 1, tmoUs := clamp 10 100000 (leAt r 4 4), cmdPa := leAt r 8 8, cplPa := leAt r 16 8, opMask := leAt r 24 8 }

def mboxRec (r : List Byte) : MboxRec :=
  { mbox := leAt r 0 1, sender := leAt r 1 1, receiver := leAt r 2 1, bufPa := leAt r 8 8,
    bufSize := clamp 4096 0x100000 (leAt r 16 8) / 4096 * 4096 }

/-- Preamble of section 0x08 when it is absent (Table 2.3). -/
def nodePreNone : NodePre :=
  { etherType := 0x88B5, portEn := 0, portMode := 0, granuleLog2 := List.replicate 8 10, hsrAgeMs := 10, nodeTmoCyc := 2,
    classUs := List.replicate 8 250 }

/-- The floorplan an image holds, every quantity clamped. -/
def imgPlan (l : List Byte) : Plan :=
  let recs := secRecs l
  let p : Plan :=
    { Plan.empty with
      generation := imgGen l, buildTag := leAt l 0x18 4,
      sysEpochUs := clamp 5 200 (leAt ((secBytes l 1).getD []) 2 2),
      pkgs := (recs 1).map pkgRec, rooms := (recs 2).map roomRec, clusters := (recs 3).map clusterRec,
      windows := (recs 4).map windowRec, caches := (recs 5).map cacheRec,
      starveNs := match secBytes l 6 with | some b => clamp 500 20000 (leAt b 0 4) | none => 2000,
      bw := (recs 6).map bwRec, irqs := (recs 7).map irqRec,
      nodePre := ((secBytes l 8).map nodePre).getD nodePreNone, nodes := (recs 8).map nodeRec,
      powerPre := match secBytes l 9 with
        | some b => { bistSliceUs := clamp 50 5000 (leAt b 0 2), pinMask := leAt b 16 16 }
        | none => { bistSliceUs := 200, pinMask := 0 },
      debugs := (recs 10).map debugRec, epochs := (recs 11).map epochRec, fwds := (recs 12).map fwdRec,
      mboxes := (recs 13).map mboxRec }
  { p with powers := (recs 9).map (powerRec p) }

/-! ### Step 7: checks that read one section (codes 0x10 + section) -/

def Plan.pkgRec (p : Plan) (k : Nat) : Option PkgRec := p.pkgs.find? (fun r => r.pkg == k)

/-- LINK_EN bit of the link between two packages (R38: link j of p joins p and p XOR (j + 1)). -/
def Plan.linked (p : Plan) (a b : Nat) : Bool :=
  match p.pkgRec a with
  | some r => r.linkEn.testBit ((a ^^^ b) - 1)
  | none => false

def chk7Pkg (p : Plan) (count : Nat) : Bool :=
  p.pkgs.length == count && distinct (p.pkgs.map PkgRec.pkg) && p.pkgs.all (fun r => decide (r.pkg < count)) &&
    p.pkgs.all (fun r => r.chan.all (fun c => decide (c.baseGib + c.sizeGib ≤ 1024)) &&
      !anyPair (fun a b => overlap a.baseGib a.sizeGib b.baseGib b.sizeGib) (r.chan.filter (fun c => c.sizeGib != 0))) &&
    !anyPair (fun a b => p.linked a.pkg b.pkg != p.linked b.pkg a.pkg) p.pkgs

def chk7Room (p : Plan) : Bool :=
  decide (1 ≤ p.rooms.length) && decide (p.rooms.length ≤ 256) && distinct (p.rooms.map RoomRec.roomId) &&
    (match p.room 0 with | some r => r.slots.getD 0 0xFF == 0 | none => false) &&
    (List.range 4).all (fun k => distinct ((p.rooms.map (fun r => r.slots.getD k 0xFF)).filter (· != 0xFF))) &&
    p.rooms.all (fun r => if r.span then decide (2 ≤ r.present.length) else r.present.length == 1)

/-- Room of an enabled core of a cluster record. -/
def ClusterRec.served (r : ClusterRec) (k : Nat) : Option Nat :=
  if r.coreEn.testBit k then some (r.coreRoom.getD k 0) else none

def ClusterRec.rooms (r : ClusterRec) : List Nat := ((List.range 4).filterMap r.served).eraseDups

def chk7Cluster (p : Plan) : Bool :=
  distinct (p.clusters.map ClusterRec.cluster) && p.clusters.all (fun r => decide (r.rooms.length ≤ 2))

/-- Ranges of a window: its own, and its secondary copy's. -/
def WindowRec.ranges (w : WindowRec) : List (Nat × Nat) :=
  if w.mirror == 1 then [(w.base, w.size), (w.mirrorBase, w.size)] else [(w.base, w.size)]

def WindowRec.hits (a b : WindowRec) : Bool := a.ranges.any (fun x => b.ranges.any (fun y => overlap x.1 x.2 y.1 y.2))

def kindOfWindow (k : Nat) : PaKind := if k == 0 then .dram else if k == 1 then .pcie else if k == 2 then .reg else .hamper

/-- Offset of the first room view page in a package's slice. -/
def viewBase : Nat := regBase + 0x0F000000

def chk7Window (p : Plan) : Bool :=
  p.windows.all (fun w =>
    (w.mirror == 0 || w.kind == 0) &&
    w.ranges.all (fun x => paKind x.1 == kindOfWindow w.kind && paKind (x.1 + x.2 - 1) == kindOfWindow w.kind &&
      paPkg x.1 == paPkg (x.1 + x.2 - 1)) &&
    (w.kind != 2 || (w.roomId == 0 && decide (paOfs w.base + w.size ≤ viewBase))) && (w.kind != 3 || w.perm == 1)) &&
  !anyPair (fun a b => a.roomId == b.roomId && (a.index == b.index || a.hits b)) p.windows

/-- L2 ways of a room in a cluster by the records, and those locked. -/
def Plan.l2Of (p : Plan) (id c : Nat) : Nat × Nat :=
  let l := p.caches.filter (fun r => r.form == 1 && r.roomId == id && r.loc == c)
  (orAll (l.map CacheRec.ways), orAll (l.map CacheRec.lock))

def chk7Cache (p : Plan) : Bool :=
  !anyPair (fun a b => a.form == b.form && a.form != 3 && a.loc == b.loc && a.roomId != b.roomId && (a.ways &&& b.ways) != 0)
    p.caches &&
  p.caches.all (fun r => r.form != 1 || (let x := p.l2Of r.roomId r.loc; x.1 != x.2))

def chk7Bw (p : Plan) : Bool :=
  distinct (p.bw.map (fun r => r.roomId * 32 + r.region)) && p.bw.all (fun r => !r.slots.testBit 31 && !r.slots.testBit 63)

/-- Exchange time of a node in ns × 10 (R400). -/
def Plan.exchange (p : Plan) (r : NodeRec) : Nat :=
  (152 + r.inSize + r.outSize) * (if p.nodePre.portMode.testBit (r.node / 1024 * 2) then 80 else 8)

/-- Sum of the budget of a ring of a package, in ns × 10 per 250 µs (R400). -/
def Plan.budget (p : Plan) (pkg ring : Nat) : Nat :=
  ((List.range 8).map (fun k =>
    let l := p.nodes.filter (fun r => r.inPa / 2 ^ 50 == pkg && r.node / 1024 == ring && r.cls == k)
    let m := max 1 (p.nodePre.classUs.getD k 250 / 250)
    (l.length + m - 1) / m * (l.map p.exchange).foldl max 0)).sum

/-- Epoch length of a room record in µs (R76). -/
def Plan.epochOf (p : Plan) (id : Nat) : Nat :=
  if ((p.room id).map RoomRec.span).getD false then p.sysEpochUs
  else ((p.epochs.find? (fun e => e.roomId == id)).map EpochRec.epochUs).getD 20

def chk7Node (p : Plan) : Bool :=
  let cls := fun (r : NodeRec) => p.nodePre.classUs.getD r.cls 250
  let longest := (p.nodes.map cls).foldl max 0
  let bufs := fun (r : NodeRec) => [(r.inPa, r.inLen), (r.outPa, r.outSize)]
  (List.range 4).all (fun k =>
    let holds := p.nodes.any (fun r => r.node / 1024 == k)
    let en := field p.nodePre.portEn (2 * k + 1) (2 * k)
    let md := field p.nodePre.portMode (2 * k + 1) (2 * k)
    (!holds || en == 3) && (!(holds || en != 0) || md == 0 || md == 3)) &&
  distinct (p.nodes.map (fun r => r.inPa / 2 ^ 50 * 4096 + r.node)) &&
  p.nodes.all (fun r => r.inPa / 2 ^ 50 == r.outPa / 2 ^ 50 && cls r % 250 == 0 &&
    decide (3 * p.epochOf r.roomId + 50 < p.nodePre.nodeTmoCyc * cls r)) &&
  !anyPair (fun a b => (bufs a).any (fun x => (bufs b).any (fun y => overlap x.1 x.2 y.1 y.2))) p.nodes &&
  decide (2 * longest ≤ p.nodePre.hsrAgeMs * 1000) &&
  (List.range 4).all (fun pkg => (List.range 4).all (fun k => decide (p.budget pkg k ≤ 1750000)))

def chk7Power (p : Plan) : Bool :=
  distinct (p.powers.map PowerRec.roomId) && distinct ((p.powers.map PowerRec.doorbell).filter (· != 0))

/-- A range lies wholly in one writable window of a kind of a room. -/
def Plan.inWindow (p : Plan) (id kind base size : Nat) : Bool :=
  (p.windowsOf id).any (fun w => w.kind == kind && w.perm.testBit 1 && decide (w.base ≤ base) &&
    decide (base + size ≤ w.base + w.size))

def chk7Fwd (p : Plan) : Bool :=
  distinct (p.fwds.map FwdRec.roomId) &&
    p.fwds.all (fun f => p.inWindow f.roomId 1 f.cmdPa 4096 && p.inWindow f.roomId 0 f.cplPa 4096)

/-- Section 0x0D (R78). Two records that name one mailbox break it, with code 0x1D (DESIGN CHOICE, notes/assumptions/82.md). -/
def chk7Mbox (p : Plan) : Bool :=
  distinct (p.mboxes.map MboxRec.mbox) && p.mboxes.all (fun m => m.sender != m.receiver) &&
    !anyPair (fun a b => overlap a.bufPa a.bufSize b.bufPa b.bufSize) p.mboxes

/-- Section types that fail step 7, in order. A level rule of R20 to R42 that one section alone can break is among its section's checks (R528):
the three rooms of a cluster under 0x13, the owners of the L2 and L3 ways under 0x15 (DESIGN CHOICE, notes/assumptions/81.md). -/
def imgStep7 (l : List Byte) (p : Plan) : Option Nat :=
  ([(1, chk7Pkg p (leAt ((secBytes l 1).getD []) 0 1)), (2, chk7Room p), (3, chk7Cluster p), (4, chk7Window p),
    (5, chk7Cache p), (6, chk7Bw p), (8, chk7Node p), (9, chk7Power p), (10, distinct (p.debugs.map DebugRec.roomId)),
    (11, distinct (p.epochs.map EpochRec.roomId)), (12, chk7Fwd p), (13, chk7Mbox p)].find? (fun x => !x.2)).map Prod.fst

/-! ### Step 8: checks that read two or more sections (code 0x20) -/

/-- Every room ID that another section names has a room record (R61). -/
def Plan.namedRooms (p : Plan) : List Nat :=
  p.clusters.flatMap ClusterRec.rooms ++ p.windows.map WindowRec.roomId ++ p.caches.map CacheRec.roomId ++
    p.bw.map BwRec.roomId ++ p.irqs.map IrqRec.roomId ++ p.nodes.map NodeRec.roomId ++ p.powers.map PowerRec.roomId ++
    p.debugs.map DebugRec.roomId ++ p.epochs.map EpochRec.roomId ++ p.fwds.map FwdRec.roomId ++
    p.mboxes.flatMap (fun m => [m.sender, m.receiver])

/-- LINK_EN joins two packages, where the image describes both (R60); what names a package that it does not describe fails under
the section that names it (R62, R44). -/
def Plan.joined (p : Plan) (a b : Nat) : Bool :=
  a == b || (p.pkgRec a).isNone || (p.pkgRec b).isNone || p.linked a b

/-- LINK_EN connects the packages of a spanning room with one another, and the package of a window with every package in which its
room has a core (R60, Table 2.9). -/
def chk8Pkg (p : Plan) : Bool :=
  p.rooms.all (fun r =>
    r.present.all (fun a => r.present.all (p.joined a)) &&
      (p.windowsOf r.roomId).all (fun w => (List.range 4).all (fun a => (p.coresOf a r.roomId).isEmpty || p.joined a (paPkg w.base))))

/-- The entry point lies in a secure part of an executable window. -/
def Plan.entryOk (p : Plan) (id pa : Nat) : Bool :=
  (p.windowsOf id).any (fun w => w.perm.testBit 2 && decide (w.base ≤ pa) && decide (pa < w.base + w.wmark))

def chk8Room (p : Plan) : Bool :=
  p.namedRooms.all (fun id => (p.room id).isSome) &&
    p.rooms.all (fun r => r.present.all (fun k => (p.pkgRec k).isSome) && !(r.span && p.paired r.roomId) &&
      !(r.sealed && r.span) && p.entryOk r.roomId r.entryPa &&
      (!r.span || (List.range 4).all (fun k =>
        (p.coresOf k r.roomId).isEmpty || p.entryOk r.roomId (k * 2 ^ 50 + r.entryPa % 2 ^ 46))))

def chk8Cluster (p : Plan) : Bool :=
  p.clusters.all (fun c =>
    let k := c.cluster / 32
    (p.pkgRec k).isSome && c.rooms.all (fun id => (p.slotOf k id).isSome &&
      (!(p.paired id) || (((c.served 0 == some id) == (c.served 1 == some id)) &&
        ((c.served 2 == some id) == (c.served 3 == some id)))))) &&
  !(p.coresOf 0 0).isEmpty

/-- Start of the trace partition of a slot in a package (R493). -/
def Plan.traceBase (p : Plan) (k slot : Nat) : Nat :=
  let kib := fun (s : Nat) => match p.rooms.find? (fun r => r.slots.getD k 0xFF == s) with
    | some r => ((p.debug r.roomId).map DebugRec.traceKib).getD 0
    | none => 0
  k * 2 ^ 50 + 0x3E0001C00000 + ((List.range slot).map kib).sum * 1024

/-- The ranges of a mailbox buffer in the windows of its rooms: its own and its secondary copies. -/
def Plan.mboxRanges (p : Plan) (m : MboxRec) : List (Nat × Nat) :=
  ((m.bufPa, m.bufSize) :: (p.windows.filter (fun w => (w.roomId == m.sender || w.roomId == m.receiver) && w.mirror == 1 &&
    w.covers m.bufPa)).map (fun w => (w.mirrorBase + (m.bufPa - w.base), m.bufSize))).eraseDups

/-- Length of the intersection of two ranges. -/
def meet (a b : Nat × Nat) : Nat := min (a.1 + a.2) (b.1 + b.2) - max a.1 b.1

/-- Windows of two rooms overlap only inside mailbox buffers between the two. -/
def Plan.sharedOk (p : Plan) (a b : WindowRec) : Bool :=
  let bufs := (p.mboxes.filter (fun m => (m.sender == a.roomId && m.receiver == b.roomId) ||
    (m.sender == b.roomId && m.receiver == a.roomId))).flatMap p.mboxRanges
  a.ranges.all (fun x => b.ranges.all (fun y =>
    let lo := max x.1 y.1
    let n := meet x y
    n == 0 || (bufs.map (meet (lo, n))).sum == n))

def chk8Window (p : Plan) : Bool :=
  let sameChan := fun (x : Nat × Nat) => (p.homeOf x.1).isSome && p.homeOf x.1 == p.homeOf (x.1 + x.2 - 1)
  let chanOfs := fun (pa : Nat) => match p.homeOf pa, p.pkgRec (paPkg pa) with
    | some h, some r => pa - ((r.chan.getD (h % 8) { baseGib := 0, sizeGib := 0 }).baseGib * 2 ^ 30 + paPkg pa * 2 ^ 50)
    | _, _ => 0
  p.rooms.all (fun r => !(p.windowsOf r.roomId).isEmpty) &&
  p.windows.all (fun w =>
    (p.pkgRec (paPkg w.base)).isSome &&
    (w.kind != 0 || w.ranges.all sameChan) &&
    (w.mirror == 0 || (match p.homeOf w.base, p.homeOf w.mirrorBase with
      | some a, some b => a != b && a / 2 == b / 2 && chanOfs w.base == chanOfs w.mirrorBase &&
          (((p.pkgRec (a / 8)).map PkgRec.mirrorPairs).getD 0).testBit (a % 8 / 2)
      | _, _ => false)) &&
    (w.kind != 3 || (match p.slotOf (paPkg w.base) w.roomId with
      | some s =>
        let b := p.traceBase (paPkg w.base) s
        decide (b ≤ w.base) && decide (w.base + w.size ≤ b + ((p.debug w.roomId).map DebugRec.traceKib).getD 0 * 1024)
      | none => false)) &&
    (w.kind != 0 || (p.slotOf (paPkg w.base) w.roomId).isSome || ((p.room w.roomId).map RoomRec.span).getD false) &&
    p.mboxes.all (fun m => m.sender == w.roomId || m.receiver == w.roomId ||
      !(p.mboxRanges m).any (fun x => w.ranges.any (fun y => overlap x.1 x.2 y.1 y.2)))) &&
  !anyPair (fun a b => a.roomId != b.roomId && !p.sharedOk a b) p.windows

def chk8Cache (p : Plan) : Bool :=
  let timed := fun (id : Nat) => ((p.room id).map RoomRec.timed).getD false
  p.caches.all (fun r =>
    (r.form != 1 || p.serves r.roomId r.loc) && (r.form != 2 || (p.pkgRec (r.loc / 8)).isSome) &&
    (r.form != 3 || p.coreRoom (r.loc / 128) (r.loc % 128) == some r.roomId) &&
    (timed r.roomId || (r.form != 3 && r.lock == 0))) &&
  p.clusters.all (fun c => c.rooms.all (fun id => (p.l2Of id c.cluster).1 != 0 &&
    (!timed id || ((p.l2Of id c.cluster).2 != 0 && (List.range 4).all (fun k => c.served k != some id ||
      p.caches.any (fun r => r.form == 3 && r.roomId == id && r.loc == c.cluster * 4 + k))))))


/-- Home entries reserved in a region (R299). -/
def Plan.homeRsv (p : Plan) (region : Nat) : Nat :=
  ((p.bw.filter (fun r => r.region == region && p.sealedId r.roomId)).map (fun r =>
    16 * ((List.range 128).filter (p.serves r.roomId)).length)).sum

def chk8Bw (p : Plan) : Bool :=
  let cost := fun (r : BwRec) => if p.sealedId r.roomId then popCount r.slots 64 else r.units
  p.bw.all (fun r => (p.pkgRec (r.region / 8)).isSome && (p.sealedId r.roomId == (r.slots != 0))) &&
  (List.range 32).all (fun g => decide (((p.bw.filter (fun r => r.region == g)).map cost).sum ≤ 64) &&
    decide (p.homeRsv g ≤ 64)) &&
  !anyPair (fun a b => a.region == b.region && (a.slots &&& b.slots) != 0) p.bw &&
  p.windows.all (fun w => w.kind != 0 || !p.sealedId w.roomId || w.ranges.all (fun x =>
    p.bw.any (fun r => r.roomId == w.roomId && p.homeOf x.1 == some r.region))) &&
  p.clusters.all (fun c => decide (c.rooms.length < 2) || c.rooms.all (fun id => !p.sealedId id ||
    ((p.room id).map RoomRec.plevFloor).getD 0 != 0xFF))

/-- Banks that CTX_MASK enables on a system core. -/
def Plan.maskOf (p : Plan) (core : Nat) : Nat :=
  match p.cluster (core / 128) (core % 128 / 4) with
  | some r => if r.rooms.head? == r.served (core % 4) then r.ctxMaskA else r.ctxMaskB
  | none => 0

/-- Packages that a routing record applies to (R70). -/
def Plan.applies (p : Plan) (r : IrqRec) : List Nat :=
  if r.target != 0xFFFF then [r.target / 128]
  else (List.range 4).filter (fun k => match p.slotOf k r.roomId with
    | some s => decide (128 ≤ r.source) || s == r.source % 64
    | none => false)

def chk8Irq (p : Plan) : Bool :=
  p.irqs.all (fun r =>
    let ks := p.applies r
    (decide (128 ≤ r.source) || (!ks.isEmpty && ks.all (fun k => p.slotOf k r.roomId == some (r.source % 64)))) &&
    (!(decide (128 ≤ r.source) && decide (r.source < 256)) ||
      (p.mbox (r.source - 128)).any (fun m => m.receiver == r.roomId)) &&
    (if r.target != 0xFFFF then
      p.coreRoom (r.target / 128) (r.target % 128) == some r.roomId && (p.maskOf r.target).testBit r.bank
     else ks.all (fun k => (p.coresOf k r.roomId).any (fun c => (p.maskOf (k * 128 + c)).testBit r.bank)))) &&
  !anyPair (fun a b => a.source == b.source && (p.applies a).any (fun k => (p.applies b).contains k)) p.irqs &&
  (List.range 4).all (fun k => (List.range 8).all (fun b =>
    let l := [0, 1, 2, 3].map (fun i =>
      (p.irqs.find? (fun r => r.source == 768 + 4 * b + i && (p.applies r).contains k)).map IrqRec.roomId)
    l.eraseDups.length == 1))

def chk8Node (p : Plan) : Bool :=
  p.nodes.all (fun r => (p.slotOf (r.inPa / 2 ^ 50) r.roomId).isSome && p.inWindow r.roomId 0 r.inPa r.inLen &&
    p.inWindow r.roomId 0 r.outPa r.outSize)

def chk8Mbox (p : Plan) : Bool :=
  p.mboxes.all (fun m => [m.sender, m.receiver].all (fun id => (p.slotOf (m.bufPa / 2 ^ 50) id).isSome &&
    p.inWindow id 0 m.bufPa m.bufSize))

/-- A sealed room needs its section 0x06 (Table 2.3). -/
def sealedSection (l : List Byte) (p : Plan) : Bool := (imgSec l 6).isSome || !p.rooms.any RoomRec.sealed

/-- The lowest section whose rule fails step 8. -/
def imgStep8 (l : List Byte) (p : Plan) : Option Nat :=
  ([(1, chk8Pkg p), (2, chk8Room p), (3, chk8Cluster p), (4, chk8Window p), (5, chk8Cache p), (6, sealedSection l p && chk8Bw p), (7, chk8Irq p),
    (8, chk8Node p),
    (10, p.rooms.all (fun r => (p.debug r.roomId).isSome) && (List.range 4).all (fun k =>
      decide (((p.rooms.filter (fun r => r.present.contains k)).map (fun r =>
        ((p.debug r.roomId).map DebugRec.traceKib).getD 0)).sum ≤ 4096))),
    (11, p.rooms.all (fun r => p.epochs.any (fun e => e.roomId == r.roomId) &&
      (List.range 4).any (fun k => !(p.coresOf k r.roomId).isEmpty))),
    (12, p.fwds.all (fun f => !((p.room f.roomId).map RoomRec.timed).getD false)),
    (13, chk8Mbox p)].find? (fun x => !x.2)).map Prod.fst

/-! ### Step 9: the state of the device (code 0x21) -/

def chk9 (d : Dev) (p : Plan) : Option Nat :=
  let k := d.pkg
  let chans := match p.pkgRec k with
    | some r => (List.range 8).all (fun i =>
        let m := (d.region i).mc
        decide ((r.chan.getD i { baseGib := 0, sizeGib := 0 }).sizeGib ≤
          (if m.trained && !(d.region i).chanLost then m.gib else 0)))
    | none => false
  let local_ := p.clusters.filter (fun c => c.cluster / 32 == k)
  let cores := local_.all (fun c =>
    let x := d.cluster (c.cluster % 32)
    decide (popCount x.trestle.lsRetired.toNat 17 ≤ 1) &&
      (List.range 4).all (fun i => !c.coreEn.testBit i || !x.unfilled i))
  let ways := p.caches.all (fun r =>
    if r.form == 1 && r.loc / 32 == k then (r.ways &&& (d.cluster (r.loc % 32)).l2Retired.toNat) == 0
    else if r.form == 2 && r.loc / 8 == k then (r.ways &&& (d.region (r.loc % 8)).l3Retired.toNat) == 0
    else true)
  let ports := (strapPorts d.straps).all (fun q => decide ((p.portRooms d.straps q).length ≤ 1))
  let msi := p.irqs.all (fun r => !(decide (512 ≤ r.source) && decide (r.source < 768)) || !(p.applies r).contains k ||
    r.roomId == p.portOwner d.straps (portOfUnit d.straps ((r.source - 512) / 64)))
  let keys := p.nodes.all (fun r => r.inPa / 2 ^ 50 != k || d.keys.nodeKeys.any (fun e => e.1 == r.node))
  ([(1, chans), (3, cores), (4, ports), (5, ways), (7, msi), (8, keys)].find? (fun x => !x.2)).map Prod.fst

/-! ### The steps in order (Table 2.15) -/

/-- What step 2 and step 3 accept: a key kind, or any; the generation to exceed, if step 3 applies. -/
structure ImgMode where
  kind : Option Nat
  above : Option Nat
  deriving DecidableEq, Repr

/-- Validate an image: the floorplan, or the reject code and section of the first failure. -/
def Dev.validate (d : Dev) (l : List Byte) (m : ImgMode) : Except (Nat × Nat) Plan :=
  if !imgStep1 l then .error (0x01, 0)
  else if !(imgSigned l d.keys.ownerHash && (match m.kind with | some k => imgKind l == k | none => true)) then .error (0x02, 0)
  else if !(match m.above with | some g => decide (g < imgGen l) | none => true) then .error (0x03, 0)
  else if !imgStep4 l then .error (0x04, 0)
  else match imgStep5 l with
    | some s => .error (0x05, s)
    | none =>
      let p := imgPlan l
      match imgStep7 l p with
      | some s => .error (0x10 + s, s)
      | none =>
        match imgStep8 l p with
        | some s => .error (0x20, s)
        | none =>
          match chk9 d p with
          | some s => .error (0x21, s)
          | none => .ok p

end Sys2Proof.Machine
end

