-- ==== Sys2Proof/Machine/Field.lean ====
section
/-!
DEFINITION. The field ring controller (18_field_rings.md): base cycles and output frames, input frames, joining and rekeying,
doorbells, the host ring, redundancy and time, and the registers of Tables 18.5 and 18.6.
-/
namespace Sys2Proof.Machine

/-! ### Nodes, rings, classes (R392, R396, R397) -/

/-- Base cycle in ns (R396). -/
def cycleNs : Nat := 250000

def ringOf (n : Nat) : Nat := n / 1024
def ringPorts (r : Nat) : List Nat := [2 * r, 2 * r + 1]

/-- Node records that this package's FRC serves. -/
def Plan.nodesAt (p : Plan) (pkg : Nat) : List NodeRec := p.nodes.filter (fun r => r.inPa / 2 ^ 50 == pkg)

/-- Base cycles per period of a class. -/
def Plan.classM (p : Plan) (k : Nat) : Nat := max 1 (p.nodePre.classUs.getD k 0 / 250)

/-- Phase of a node: its place among the nodes of its class on its ring, modulo the class's cycles. -/
def Plan.phase (p : Plan) (pkg : Nat) (r : NodeRec) : Nat :=
  ((p.nodesAt pkg).filter (fun x => x.cls == r.cls && ringOf x.node == ringOf r.node && decide (x.node < r.node))).length %
    p.classM r.cls

/-- Insert into a list ordered by class, then node number (R398). -/
def insertNode (r : NodeRec) : List NodeRec → List NodeRec
  | [] => [r]
  | h :: t => if r.cls < h.cls || (r.cls == h.cls && r.node < h.node) then r :: h :: t else h :: insertNode r t

/-- Nodes whose node cycle a base cycle is, in the order their frames go. -/
def Dev.cycleNodes (d : Dev) (c : Nat) : List NodeRec :=
  ((d.plan.nodesAt d.pkg).filter (fun r => c % d.plan.classM r.cls == d.plan.phase d.pkg r)).foldr insertNode []

/-! ### Events and sessions of a node (R404, R405, R406) -/

/-- Node events by bit of FRC_NSTAT. -/
inductive NodeEvt where
  | input | joined | dropped | auth
  deriving DecidableEq, Repr

def NodeEvt.bit : NodeEvt → Nat
  | .input => 0
  | .joined => 1
  | .dropped => 2
  | .auth => 3

/-- Set an event bit of a node and raise its group source, when enabled and routed to the owning room (R405). -/
def Dev.nodeEvent (d : Dev) (r : NodeRec) (e : NodeEvt) : Dev :=
  let d := d.modNode r.node (fun x =>
    match e with
    | .input => { x with input := true }
    | .joined => { x with joined := true }
    | .dropped => { x with dropped := true }
    | .auth => { x with auth := true })
  let src := 256 + r.node / 16
  match d.slotOf r.roomId with
  | some slot => if (d.room slot).frc.evtEn.getLsbD e.bit && d.routedTo src slot then d.raise src else d
  | none => d

/-- Ports of a ring that can send. -/
def Dev.txPorts (d : Dev) (r : Nat) : List Nat := (ringPorts r).filter (fun p => (d.port p).en && (d.port p).link)

/-- A frame goes out on both ports of a ring, in copies whose HSR tag carries the ring's next sequence number (R393). -/
def Dev.ringSend (d : Dev) (r : Nat) (f : Nat → Nat → Out) : Dev :=
  let seq := (d.ring r).hsrSeq
  (each (d.txPorts r) (fun d p => d.emit (f p seq)) d).modRing r (fun x => { x with hsrSeq := (seq + 1) % 65536 })

/-- A session ends with LEAVE (R404). The count of missed node cycles stays (notes/assumptions/93.md). -/
def Dev.dropNode (d : Dev) (r : NodeRec) : Dev :=
  let d := d.ringSend (ringOf r.node) (fun p q => .kfxLeave p q (r.node % 1024))
  let d := d.modNode r.node (fun x => { x with st := .none, hs := none, ses := none, ses2 := none,
                                               drop := false, sentLive := none, gotInput := false })
  d.nodeEvent r .dropped

/-- A failed SEQ, tag or proof (R407). -/
def Dev.authFail (d : Dev) (r : NodeRec) : Dev :=
  (d.modNode r.node (fun x => { x with authFail := satInc 0xFFFF x.authFail })).nodeEvent r .auth

/-- The node key in the key store (R81). -/
def Dev.nodeKey (d : Dev) (n : Nat) : List Byte := Sparse.get [] d.keys.nodeKeys n

/-- An unprompted CHALLENGE when a direction's SEQ reaches 0xFFFF_0000 (R408). -/
def Dev.rekey (d : Dev) (r : NodeRec) : Dev :=
  let x := d.node r.node
  match x.ses with
  | none => d
  | some k =>
    if (0xFFFF0000 ≤ k.seqTx || 0xFFFF0000 ≤ k.seqRx) && x.hs.isNone && x.ses2.isNone then
      let (nd, d) := d.nonce
      let sid := d.frc.nextSid
      let port := 2 * ringOf r.node
      let d := d.modNode r.node (fun x => { x with hs := some { nn := k.nn, nd := nd, sid := sid, port := port } })
      let d := { d with frc := { d.frc with nextSid := (sid + 1) % 2 ^ 32 } }
      d.ringSend (ringOf r.node) (fun p q => .kfxChallenge p q (r.node % 1024) nd sid)
    else d

/-! ### Base cycles (R398 to R404) -/

/-- A node cycle ends (R404): missed when no input frame was accepted in it, or its output frame went with LIVE = 0. -/
def Dev.nodeEnd (d : Dev) (r : NodeRec) : Dev :=
  let x := d.node r.node
  match x.sentLive with
  | none => d
  | some live =>
    let missed := if x.gotInput && live then 0 else satInc 255 x.missed
    let d := d.setNode r.node { x with sentLive := none, gotInput := false, missed := missed }
    if missed != 0 && d.plan.nodePre.nodeTmoCyc ≤ missed then d.dropNode r else d

/-- The released copies as the output frames of the next base cycle will carry them. -/
def Dev.takeCopies (d : Dev) : Dev :=
  let d := each (d.plan.nodesAt d.pkg) (fun d r => d.modNode r.node (fun x =>
    { x with taken := if x.released.isEmpty then List.replicate r.outSize 0 else x.released })) d
  { d with frc := { d.frc with taken := true } }

/-- HOLD (R404): a core of the room is halted, or the room is held, drained or rolling back. -/
def Dev.holdFlag (d : Dev) (slot : Nat) : Bool :=
  let p := (d.room slot).phase
  d.roomHalted slot || p == .held || p == .drained || p == .rolling || p == .suspended

/-- The KFX header (Table 18.1). -/
def kfxHeader (vt flags node seq time : Nat) : List Byte :=
  leBytes 1 vt ++ leBytes 1 flags ++ leBytes 2 node ++ leBytes 4 seq ++ leBytes 8 time

/-- The GCM nonce (R407): salt, direction, three zeros, SEQ. -/
def kfxNonce (key : List Byte) (dir seq : Nat) : List Byte := (key.drop 32).take 4 ++ leBytes 1 dir ++ [0, 0, 0] ++ leBytes 4 seq

/-- One node's output frame at the start of its node cycle. Every node cycle, with a frame or without, begins LIVE anew (R404). A session that a
rekey made takes over at once, whatever the take point (R408). -/
def Dev.sendOutput (d : Dev) (r : NodeRec) : Dev :=
  let x := d.node r.node
  let d := d.setNode r.node { x with live := false }
  let at_ := d.frc.cycleAt
  if x.drop then d.dropNode r
  else
    let x := match x.ses2 with
      | some k => { x with ses := some { k with from_ := 0 }, ses2 := none }
      | none => x
    match x.ses with
    | none => d
    | some k =>
      if at_ ≤ k.from_ && k.from_ != 0 then d.setNode r.node { x with live := false }
      else
        let slot := (d.slotOf r.roomId).getD 64
        let hold := d.holdFlag slot
        let fresh := x.taken != x.sent
        let seq := (k.seqTx + 1) % 2 ^ 32
        let hdr := kfxHeader 0x11 (b2n x.live + b2n hold * 2 + b2n fresh * 4) (r.node % 1024) seq at_
        let (im, tag) := Config.gcmSeal (k.key.take 32) (kfxNonce k.key 1 seq) hdr x.taken
        let d := d.ringSend (ringOf r.node) (fun p q => .kfxOutput p q (r.node % 1024) seq x.live hold fresh at_ im tag)
        let d := d.setNode r.node { x with ses := some { k with seqTx := seq }, sent := x.taken, sentLive := some x.live,
                                           live := false, gotInput := false }
        d.rekey r

/-- A base cycle starts (R398): output frames go in order. It has an effect once per base cycle. -/
def Dev.baseCycle (d : Dev) : Dev :=
  let c := d.clk.tb / cycleNs
  if d.clk.stopped || c + 1 ≤ d.frc.cycleNo then d
  else
    let d := each (d.plan.nodesAt d.pkg) (fun d r => d.nodeEnd r) d
    let d := if d.frc.taken then d else d.takeCopies
    let d := { d with frc := { d.frc with cycleNo := c + 1, cycleAt := c * cycleNs, taken := false } }
    let d := each [0, 1, 2, 3] (fun d r => d.modRing r (fun x => { x with handshakes := 0 })) d
    each (d.cycleNodes c) (fun d r => d.sendOutput r) d

/-- The take point of the next base cycle, 5 µs before its start. -/
def Dev.takePoint (d : Dev) : Dev :=
  if d.frc.taken || d.clk.stopped || d.clk.tb < d.frc.cycleAt + 245000 then d else d.takeCopies

def Dev.nodeCycleEnd (d : Dev) (n : Nat) : Dev :=
  match d.plan.node d.pkg n with
  | some r => if d.frc.cycleAt + cycleNs ≤ d.clk.tb then d.nodeEnd r else d
  | none => d

/-! ### Receiving (R407, R409) -/

/-- Granule of a port and its pool in granules. -/
def Dev.granule (d : Dev) (p : Nat) : Nat := 2 ^ (d.plan.nodePre.granuleLog2.getD p 10)
def Dev.poolSize (d : Dev) (p : Nat) : Nat := 262144 / d.granule p

/-- A frame arrives at a port: it is taken in when the port is enabled and its receive path runs; a signal wakes an enabled
port's path and the FRC domain (R412). -/
def Dev.arrive (d : Dev) (p : Nat) : Dev × Bool :=
  if d.clk.stopped || 8 ≤ p || !(d.port p).en then (d, false)
  else if d.awake (91 + p) && d.awake 99 then ((d.wake (91 + p)).wake 99, true)
  else ((d.startWake (91 + p)).startWake 99, false)

def Dev.dOther (d : Dev) (p : Nat) : Dev := d.modPort p (fun x => { x with dOther := satInc max32 x.dOther })
def Dev.countRx (d : Dev) (p : Nat) : Dev := d.modPort p (fun x => { x with rx := satInc max32 x.rx })

/-- Steps 1 and 2 of R407: FCS, length, granules; none when a step discards the frame. -/
def Dev.accept (d : Dev) (p : Nat) (fcsOk : Bool) (len : Nat) : Dev × Bool :=
  let x := d.port p
  let need := (len + d.granule p - 1) / d.granule p
  if !fcsOk then (d.setPort p { x with dFcs := satInc max32 x.dFcs }, false)
  else if x.maxFrm < len then (d.setPort p { x with dSize := satInc max32 x.dSize }, false)
  else if d.poolSize p < x.used + need then (d.setPort p { x with dPool := satInc max32 x.dPool }, false)
  else (d, true)

/-- The duplicate-discard tables of a ring hold an entry that has not aged (R394). -/
def Dev.isDup (d : Dev) (p src seq : Nat) : Bool :=
  (ringPorts (p / 2)).any (fun q => (d.port q).discard.any (fun e =>
    e.1 == src && e.2.1 == seq && decide (d.clk.tb < e.2.2 + d.plan.nodePre.hsrAgeMs * 1000000)))

/-- Enter a frame in the duplicate-discard table of its port: aged entries leave, a full table loses its oldest. -/
def Dev.noteHsr (d : Dev) (p src : Nat) (hsr : Option Nat) : Dev :=
  match hsr with
  | none => d
  | some seq =>
    d.modPort p (fun x =>
      let keep := x.discard.filter (fun e => decide (d.clk.tb < e.2.2 + d.plan.nodePre.hsrAgeMs * 1000000))
      let full := decide (4096 ≤ keep.length)
      { x with discard := (if full then keep.drop 1 else keep) ++ [(src, seq, d.clk.tb)],
               hsrEvict := if full then satInc max32 x.hsrEvict else x.hsrEvict })

/-- Steps 1 to 3 of R407 for a frame that arrives at a port: false when it is lost or a step discards it. -/
def Dev.receive (d : Dev) (p : Nat) (fcsOk : Bool) (len src : Nat) (hsr : Option Nat) : Dev × Bool :=
  let (d, taken) := d.arrive p
  if !taken then (d, false)
  else
    let (d, ok) := d.accept p fcsOk len
    if !ok then (d, false)
    else if (match hsr with | some s => d.isDup p src s | none => false) then
      (d.modPort p (fun x => { x with hsrDup := satInc max32 x.hsrDup }), false)
    else (d, true)

/-- The FRC writes an accepted image (R403): BEGIN, RXTIME, the image, END. -/
def Dev.inputWrite (d : Dev) (r : NodeRec) : Dev :=
  match (d.node r.node).inbox with
  | none => d
  | some b =>
    let k := (d.node r.node).begin_ + 1
    let d := d.engineWrite r.roomId r.inPa (leBytes 8 k)
    let d := d.engineWrite r.roomId (r.inPa + 8) (leBytes 8 b.time)
    let d := d.engineWrite r.roomId (r.inPa + 16) (b.image.take r.inSize)
    let d := d.engineWrite r.roomId (r.inPa + 16 + r.inSize) (leBytes 8 k)
    let d := d.modPort b.port (fun x => { x with used := x.used - b.granules })
    let d := d.modNode r.node (fun x => { x with inbox := none, begin_ := k })
    d.nodeEvent r .input

/-- A frame that ends in the pool at step 4 (R407): the KFX type, version, flags and length fit an input frame of a node. -/
def RingFrame.fits (fr : RingFrame) (r : Option NodeRec) : Bool :=
  fr.vt == 0x12 && fr.flags == 0 && fr.tag.length == 16 && decide (fr.node < 1024) && decide (fr.body.length ≤ 256) &&
    (match r with | some r => fr.body.length == r.inSize | none => true)

/-- An input frame (R407): the eight steps in order. -/
def Dev.inputFrame (d : Dev) (p : Nat) (fr : RingFrame) : Dev :=
  let (d, ok) := d.receive p fr.fcsOk fr.len fr.src fr.hsr
  if !ok then d
  else
    if fr.etherType == 0x88F7 || fr.etherType == 0x88FB then d
    else if fr.etherType != d.plan.nodePre.etherType then (if d.frc.host.en then d else d.dOther p)
    else
      let rec_ := d.plan.node d.pkg (p / 2 * 1024 + fr.node)
      if !RingFrame.fits fr rec_ then d.dOther p
      else match rec_ with
        | none => d.dOther p
        | some r =>
          let x := d.node r.node
          match x.ses with
          | none => d.dOther p
          | some k =>
            if x.st != .active then d.dOther p
            else if fr.seq ≤ k.seqRx then d.authFail r
            else
              let hdr := kfxHeader fr.vt.toNat fr.flags.toNat fr.node fr.seq fr.time
              match Config.gcmOpen (k.key.take 32) (kfxNonce k.key 2 fr.seq) hdr fr.body fr.tag with
              | none => d.authFail r
              | some im =>
                let d := d.noteHsr p fr.src fr.hsr
                if x.sentLive.isNone || d.frc.cycleAt + cycleNs ≤ d.clk.tb then
                  d.modNode r.node (fun x => { x with late := satInc 0xFFFF x.late })
                else
                  let d := d.inputWrite r
                  let need := (fr.len + d.granule p - 1) / d.granule p
                  let box : Inbox := { time := d.clk.tb, port := p, granules := need, image := im }
                  let d := d.modPort p (fun x => { x with rx := satInc max32 x.rx, used := x.used + need })
                  let d := d.modNode r.node (fun x =>
                    { x with ses := some { k with seqRx := fr.seq }, gotInput := true, inbox := some box })
                  d.rekey r

def Dev.inputImageWrite (d : Dev) (n : Nat) : Dev :=
  match d.plan.node d.pkg n with
  | some r => d.inputWrite r
  | none => d

/-! ### Joining (R406, R408) -/

/-- Length of a KFX frame of another kind, from destination address to FCS (R400, R402). -/
def kfxLen (f : Frame) : Nat := f.body.length + 34 + (if f.hsr.isSome then 6 else 0)

/-- A handshake or doorbell frame whose payload must have `n` bytes: steps 1 to 4 of R407. One that passes enters the duplicate-discard table
(R394, notes/assumptions/93.md). -/
def Dev.kfxReceive (d : Dev) (p : Nat) (f : Frame) (n : Nat) : Dev × Bool :=
  let (d, ok) := d.receive p f.fcsOk (kfxLen f) f.src f.hsr
  if !ok then (d, false)
  else if f.body.length != n then (d.dOther p, false)
  else (d.noteHsr p f.src f.hsr, true)

/-- The node's lock is in force. -/
def Dev.nodeLocked (d : Dev) (n : Nat) : Bool := decide (d.clk.tb < (d.node n).lockUntil)

/-- The owning room is started, not held and not under debug halt. -/
def Dev.joinable (d : Dev) (r : NodeRec) : Bool :=
  match d.slotOf r.roomId with
  | some s =>
    let p := (d.room s).phase
    (p == .running || p == .rolling || p == .drained) && !d.roomHalted s
  | none => false

/-- REFUSE to a node of a port's ring (Table 18.3). -/
def Dev.refuseNode (d : Dev) (p j reason : Nat) : Dev := d.ringSend (p / 2) (fun p q => .kfxRefuse p q j reason)

/-- JOIN (R406): a CHALLENGE while a handshake of the base cycle is free, REFUSE while the node is locked, else no reply. -/
def Dev.join (d : Dev) (p j : Nat) (f : Frame) : Dev :=
  let (d, ok) := d.kfxReceive p f 16
  if !ok then d
  else match d.plan.node d.pkg (p / 2 * 1024 + j) with
    | none => d
    | some r =>
      let ring := p / 2
      if 1024 ≤ j || !d.joinable r || 4 ≤ (d.ring ring).handshakes then d
      else
        let d := d.countRx p
        if d.nodeLocked r.node then d.refuseNode p j 3
        else
          let (nd, d) := d.nonce
          let sid := d.frc.nextSid
          let d := { d with frc := { d.frc with nextSid := (sid + 1) % 2 ^ 32 } }
          let d := d.modRing ring (fun x => { x with handshakes := x.handshakes + 1 })
          let hs : Handshake := { nn := f.body, nd := nd, sid := sid, port := p }
          let d := d.modNode r.node (fun x => { x with hs := some hs, st := if x.st == .active then .active else .joining })
          d.ringSend ring (fun p q => .kfxChallenge p q j nd sid)

/-- The bytes both HMACs of Table 18.3 cover after their label. -/
def hsBytes (n : Nat) (h : Handshake) : List Byte :=
  leBytes 1 (ringOf n) ++ leBytes 2 (n % 1024) ++ h.nn ++ h.nd ++ leBytes 4 h.sid

/-- ASCII bytes of a label. -/
def ascii (s : String) : List Byte := s.toList.map (fun c => BitVec.ofNat 8 c.toNat)

/-- Session parameters P (R406). -/
def Dev.nodeParams (d : Dev) (r : NodeRec) : List Byte :=
  leBytes 4 (d.plan.nodePre.classUs.getD r.cls 0) ++ leBytes 2 (d.plan.phase d.pkg r) ++ leBytes 2 r.inSize ++ leBytes 2 r.outSize

/-- Lock after `fails` consecutive failed proofs: 60 s at the fifth, doubling, at most 61,440 s. -/
def lockNs (fails : Nat) : Nat := if fails < 5 then 0 else min 61440 (60 * 2 ^ (min (fails - 5) 10)) * 1000000000

def Dev.nodeProof (d : Dev) (p j : Nat) (f : Frame) : Dev :=
  let (d, ok) := d.kfxReceive p f 32
  if !ok then d
  else match (d.plan.node d.pkg (p / 2 * 1024 + j)).filter (fun _ => decide (j < 1024)) with
    | none => d.refuseNode p j 1
    | some r =>
      let x := d.node r.node
      match x.hs with
      | none => d
      | some h =>
        if !d.joinable r then d.refuseNode p j 2
        else if d.nodeLocked r.node then d.refuseNode p j 3
        else
          let key := d.nodeKey r.node
          let d := d.countRx p
          if f.body == Config.hmac256 key (ascii "KFXJ-N" ++ hsBytes r.node h) then
            let pars := d.nodeParams r
            let k : KfxSession :=
              { key := Config.hkdf256 key (h.nn ++ h.nd)
                  (ascii "KFXS" ++ leBytes 1 (ringOf r.node) ++ leBytes 2 (r.node % 1024) ++ leBytes 4 h.sid) 36,
                sid := h.sid, nn := h.nn, seqTx := 0, seqRx := 0, from_ := d.clk.tb + 5000 }
            let d := d.modNode r.node (fun x =>
              let x := { x with hs := none, fails := 0, lockUntil := 0 }
              if x.st == .active then { x with ses2 := some k } else { x with st := .active, ses := some k, missed := 0 })
            let d := d.ringSend (p / 2) (fun p q =>
              .kfxAccept p q j (Config.hmac256 key (ascii "KFXJ-D" ++ hsBytes r.node h ++ pars)) pars)
            d.nodeEvent r .joined
          else
            let fails := x.fails + 1
            let d := d.modNode r.node (fun x =>
              { x with hs := none, fails := fails, lockUntil := if fails < 5 then x.lockUntil else d.clk.tb + lockNs fails,
                       st := if x.st == .joining then .none else x.st })
            (d.refuseNode p j 4).authFail r

/-! ### Doorbells (R412) -/

/-- Clusters and region uncores that a room's doorbell wakes. -/
def Dev.bellDomains (d : Dev) (slot : Nat) : List Nat :=
  let mask := (d.plan.power (d.idOf slot)).wakeMask
  let cs := (d.clustersOf slot).filter mask.testBit
  cs ++ (cs.map (fun c => 64 + c / 4)).eraseDups

def Dev.bellReady (d : Dev) (slot : Nat) : Bool := (d.bellDomains slot).all (fun n => (d.domain n).st == .on)

/-- The room whose doorbell a code is. -/
def Dev.bellSlot (d : Dev) (code : List Byte) : Option Nat :=
  let v := leNat code
  if v == 0 then none
  else d.slots.find? (fun s => (d.plan.power (d.idOf s)).doorbell == v)

/-- The doorbell reply to a sender on a port's ring, with its NODE. -/
def Dev.bellAnswer (d : Dev) (p j : Nat) : Dev := d.ringSend (p / 2) (fun p q => .doorbellReply p q j)

def Dev.doorbell (d : Dev) (p j : Nat) (code : Frame) : Dev :=
  let (d, ok) := d.kfxReceive p code 16
  if !ok then d
  else
    let d := d.countRx p
    match d.bellSlot code.body with
    | none => { d with frc := { d.frc with dbBad := satInc max32 d.frc.dbBad } }
    | some s =>
      let f := (d.room s).frc
      let again := match f.dbLast with | some t => decide (d.clk.tb < t + 1000000) | none => false
      if again then d.modRoom s (fun r => { r with frc := { f with dbMerged := satInc 0xFFFF f.dbMerged, dbLast := some d.clk.tb } })
      else
        let d := each (d.bellDomains s) (fun d n => d.startWake n) d
        let d := d.modRoom s (fun r => { r with frc := { f with dbRecog := satInc 0xFFFF f.dbRecog, dbLast := some d.clk.tb } })
        if d.bellReady s then d.bellAnswer p j
        else d.modRoom s (fun r => { r with frc := { r.frc with dbReply := some (p, j) } })

/-- The reply owed for a doorbell, once every named domain is On. -/
def Dev.bellReply (d : Dev) (s : Nat) : Dev :=
  match (d.room s).frc.dbReply with
  | some (p, j) =>
    if d.bellReady s then
      (d.bellAnswer p j).modRoom s (fun r => { r with frc := { r.frc with dbReply := none } })
    else d
  | none => d

/-! ### Host ring (R411) -/

/-- A frame for the host ring. It enters the duplicate-discard table when the ring is in use (R394, notes/assumptions/93.md). -/
def Dev.hostFrame (d : Dev) (p : Nat) (f : Frame) : Dev :=
  let bs := f.body
  let (d, ok) := d.receive p f.fcsOk bs.length f.src f.hsr
  if !ok then d
  else
    if !d.frc.host.en then d.dOther p
    else
      let d := d.noteHsr p f.src f.hsr
      let h := d.frc.host
      let size := h.size * 4096
      let need := (16 + bs.length + 63) / 64 * 64
      let start := if size < h.wr + need then 0 else h.wr
      let total := if size < h.wr + need then (size - h.wr) + need else need
      let free := if h.wr < h.rd then h.rd - h.wr else size - h.wr + h.rd
      if free ≤ total then { d with frc := { d.frc with host := { h with ovf := true } } }
      else
        let hdr := leBytes 2 p ++ leBytes 2 bs.length ++ leBytes 4 0 ++ leBytes 8 d.clk.tb
        let d := d.engineWrite 0 (h.base + start) (hdr ++ bs ++ List.replicate (need - 16 - bs.length) 0)
        ({ d with frc := { d.frc with host := { h with wr := (start + need) % size } } }).countRx p

/-! ### Redundancy, time, links (R393, R395) -/

/-- Rooms with nodes on a ring. -/
def Dev.ringRooms (d : Dev) (k : Nat) : List Nat :=
  d.slots.filter (fun s => (d.plan.nodesAt d.pkg).any (fun r => ringOf r.node == k && d.slotOf r.roomId == some s))

/-- A supervision frame goes out on a ring, and comes back on each port or not; a ring that opens is recorded (kind 0x10). -/
def Dev.supervise (d : Dev) (k : Nat) (a b : Bool) : Dev :=
  if 4 ≤ k || d.clk.stopped then d
  else
    let was := (d.ring k).closed
    let d := (d.ringSend k (fun p q => .supervision p q)).modRing k (fun x => { x with closed := a && b })
    if was && !(a && b) then d.incident 0x10 (if a then 2 * k + 1 else 2 * k) 0 0 (d.ringRooms k) 0 else d

/-- A Sync interval of 125 ms of gPTP; every eighth has a peer delay exchange (R395). -/
def Dev.gptp (d : Dev) (p : Nat) (ofs : Int) : Dev :=
  let t := d.frc.tsync
  if d.clk.stopped || 8 ≤ p || !(d.port p).en then d
  else
  let n := (d.port p).syncs + 1
  let d := (d.modPort p (fun x => { x with syncs := n % 8 })).when (n == 8) (fun d => d.emit (.pdelay p))
  if !t.mode then d.emit (.gptp p)
  else if t.port != p then d
  else
    let good := if decide (-100 ≤ ofs) && decide (ofs ≤ 100) then t.good + 1 else 0
    { d with frc := { d.frc with tsync := { t with ofs := ofs, good := min good 8, locked := decide (8 ≤ good) } } }

/-- A link of a field port comes up or goes down. -/
def Dev.portLink (d : Dev) (p : Nat) (up : Bool) : Dev :=
  if 8 ≤ p then d
  else
    let x := d.port p
    let now := up && x.en
    let d := (d.setPort p { x with link := now }).modDomain (91 + p) (fun y => { y with since := d.clk.tb })
    if x.link && !now then
      (d.modRing (p / 2) (fun r => { r with closed := false })).incident 0x10 p 0 0 (d.ringRooms (p / 2)) 0
    else d

/-! ### A swap point meets the FRC (Table 18.4) -/

/-- Whether a node keeps its session over a swap from one plan to another. -/
def keepsSession (old new : Plan) (pkg : Nat) (r : NodeRec) : Bool :=
  let ring := ringOf r.node
  let set := fun (p : Plan) => ((p.nodesAt pkg).filter (fun x => x.cls == r.cls && ringOf x.node == ring)).map NodeRec.node
  let a := old.nodePre
  let b := new.nodePre
  (new.node pkg r.node == some r) && (set old).all (set new).contains && (set new).all (set old).contains &&
    a.classUs.getD r.cls 0 == b.classUs.getD r.cls 0 && a.etherType == b.etherType &&
    (ringPorts ring).all (fun p => a.portEn.testBit p == b.portEn.testBit p && a.portMode.testBit p == b.portMode.testBit p &&
      a.granuleLog2.getD p 10 == b.granuleLog2.getD p 10)

/-- Input writes complete, and sessions that the change touches end with LEAVE; run before the new plan is in force. -/
def Dev.frcLeave (d : Dev) (new : Plan) : Dev :=
  each (d.plan.nodesAt d.pkg) (fun d r =>
    let d := d.inputWrite r
    if keepsSession d.plan new d.pkg r then d
    else
      let x := d.node r.node
      let d := if x.ses.isSome || x.hs.isSome then d.dropNode r else d
      if (new.node d.pkg r.node).map NodeRec.roomId == some r.roomId then d
      else d.setNode r.node { Node.init with fails := x.fails, lockUntil := x.lockUntil }) d

/-- Port enables take the new plan's where it changes them; run once the new plan is in force. -/
def Dev.frcPorts (d : Dev) (old : Plan) : Dev :=
  each (List.range 8) (fun d p =>
    let was := old.nodePre.portEn.testBit p
    let now := d.plan.nodePre.portEn.testBit p
    if was == now then d
    else d.modPort p (fun x => { x with en := now, link := x.link && now, discard := [] })) d

/-! ### Registers (Tables 18.5, 18.6) -/

/-- The selected node, when the room owns it. -/
def Dev.selNode (d : Dev) (a : Acc) : Option NodeRec :=
  (d.plan.node d.pkg (d.room a.slot).frc.nsel).filter (fun r => r.roomId == a.id)

def NodeSt.code : NodeSt → Nat
  | .none => 0
  | .joining => 1
  | .active => 2
  | .lockedOut => 3

/-- FRC_NSTAT.STATE; a lock shows while no session is active. -/
def Dev.nodeState (d : Dev) (n : Nat) : Nat :=
  let x := d.node n
  if x.st == .active then 2 else if d.nodeLocked n then 3 else x.st.code

def Dev.frcRoomRead (d : Dev) (a : Acc) (r : Nat) : Nat :=
  let f := (d.room a.slot).frc
  let onNode := fun (g : NodeRec → Node → Nat) => match d.selNode a with
    | some k => g k (d.node k.node)
    | none => 0
  match r with
  | 0x6000 => f.nsel
  | 0x6004 => onNode (fun k x => 2 ^ 31 + d.nodeState k.node * 2 ^ 28 + k.cls % 8 * 2 ^ 24 + x.missed * 2 ^ 16 +
      b2n x.auth * 8 + b2n x.dropped * 4 + b2n x.joined * 2 + b2n x.input)
  | 0x6008 => onNode (fun _ x => lo32 x.begin_)
  | 0x600C => onNode (fun _ x => x.authFail * 65536 + x.late)
  | 0x6014 => f.evtEn.toNat
  | 0x6018 => f.gsel
  | 0x601C => d.gevt a.slot f.gsel
  | 0x6020 => f.dbRecog * 65536 + f.dbMerged
  | _ => 0

/-- Side effect of a read: the RC counters clear. -/
def Dev.frcRoomReadEff (d : Dev) (a : Acc) (r : Nat) : Dev :=
  if r == 0x600C then
    match d.selNode a with
    | some k => d.modNode k.node (fun x => { x with authFail := 0, late := 0 })
    | none => d
  else if r == 0x6020 then d.modRoom a.slot (fun x => { x with frc := { x.frc with dbRecog := 0, dbMerged := 0 } })
  else d

/-- FRC_NCTL.DROP, by the keeper (R414). -/
def Dev.nctlDrop (d : Dev) (a : Acc) (v : Nat) : Dev :=
  match d.selNode a with
  | some k => if a.keeper && v.testBit 0 && (d.node k.node).ses.isSome then d.modNode k.node (fun x => { x with drop := true }) else d
  | none => d

def Dev.frcRoomWrite (d : Dev) (a : Acc) (r v : Nat) : Dev :=
  let setF := fun (g : FrcRoom → FrcRoom) => d.modRoom a.slot (fun x => { x with frc := g x.frc })
  if a.pl == 0 then d
  else match r with
    | 0x6000 => setF (fun f => { f with nsel := v % 4096 })
    | 0x6004 =>
      match d.selNode a with
      | some k =>
        let d := d.modNode k.node (fun x => { x with
          auth := x.auth && !v.testBit 3, dropped := x.dropped && !v.testBit 2, joined := x.joined && !v.testBit 1,
          input := x.input && !v.testBit 0 })
        let g := k.node / 16
        if d.gevt a.slot g == 0 && d.routedTo (256 + g) a.slot then { d with irqPend := d.irqPend.filter (· != 256 + g) } else d
      | none => d
    | 0x6010 => d.nctlDrop a v
    | 0x6014 => setF (fun f => { f with evtEn := BitVec.ofNat 4 v })
    | 0x6018 => setF (fun f => { f with gsel := v % 256 })
    | _ => d

/-- FRC_PORT_CTL of a port; EN clear silences it, EN set again clears its discard table (Table 18.4). -/
def Dev.portCtl (d : Dev) (p v : Nat) : Dev :=
  let allowed := d.plan.nodePre.portEn.testBit p
  let en := v.testBit 31 && allowed
  d.modPort p (fun x => { x with
    en := en, link := x.link && en, discard := if en && !x.en then [] else x.discard,
    maxFrm := clamp 64 (min 9216 (8 * d.granule p)) (v % 16384) })

def Dev.frcSysRead (d : Dev) (o : Nat) : Nat :=
  let h := d.frc.host
  let t := d.frc.tsync
  if o < 0x800 then
    let p := o / 256
    let x := d.port p
    match o % 256 with
    | 0x00 => b2n x.en * 2 ^ 31 + b2n x.link * 2 ^ 30 + b2n (d.plan.nodePre.portMode.testBit p) * 2 ^ 29 +
        (d.plan.nodePre.granuleLog2.getD p 10 - 10) * 2 ^ 16 + x.maxFrm
    | 0x04 => x.rx
    | 0x08 => x.dSize
    | 0x0C => x.dPool
    | 0x10 => x.dFcs
    | 0x14 => x.dOther
    | 0x18 => x.hsrDup
    | 0x1C => x.hsrEvict
    | _ => 0
  else if decide (0x1000 ≤ o) && decide (o < 0x1100) then
    let k := (o - 0x1000) / 64
    match o % 64 with
    | 0 =>
      let act := ((d.plan.nodesAt d.pkg).filter (fun r => ringOf r.node == k && (d.node r.node).st == .active)).length
      act * 2 ^ 20 + b2n (d.port (2 * k)).link * 2 ^ 16 + b2n (d.port (2 * k + 1)).link * 2 ^ 17 +
        b2n (d.ring k).closed * 2 ^ 12 + (d.plan.budget d.pkg k + 2499) / 2500 % 1024
    | 4 => lo32 (d.ring k).mac.toNat
    | 8 => (d.ring k).mac.toNat / 2 ^ 32
    | _ => 0
  else match o with
    | 0x2000 => b2n t.locked * 2 ^ 31 + b2n t.mode * 16 + t.port
    | 0x2004 => (t.ofs % 2 ^ 32).toNat
    | 0x2010 => d.frc.dbBad
    | 0x2020 => b2n h.en * 2 ^ 31 + b2n h.ovf * 2 ^ 30 + h.size
    | 0x2024 => lo32 h.base
    | 0x2028 => hi32 h.base
    | 0x202C => h.wr
    | 0x2030 => h.rd
    | _ => 0

def Dev.frcSysReadEff (d : Dev) (o : Nat) : Dev :=
  if o < 0x800 then
    d.modPort (o / 256) (fun x =>
      match o % 256 with
      | 0x04 => { x with rx := 0 }
      | 0x08 => { x with dSize := 0 }
      | 0x0C => { x with dPool := 0 }
      | 0x10 => { x with dFcs := 0 }
      | 0x14 => { x with dOther := 0 }
      | 0x18 => { x with hsrDup := 0 }
      | 0x1C => { x with hsrEvict := 0 }
      | _ => x)
  else if o == 0x2010 then { d with frc := { d.frc with dbBad := 0 } }
  else d

/-- The host ring stays in a writable DRAM window of room 0; a base outside clears EN. -/
def Dev.hostCheck (d : Dev) (h : HostRing) : Dev :=
  let ok := d.plan.inWindow 0 0 h.base (h.size * 4096)
  let rd := if h.size * 4096 ≤ h.rd then 0 else h.rd
  let wr := if h.size * 4096 ≤ h.wr then 0 else h.wr
  { d with frc := { d.frc with host := { h with en := h.en && ok, rd := rd, wr := wr } } }

def Dev.frcSysWrite (d : Dev) (o v : Nat) : Dev :=
  let h := d.frc.host
  let t := d.frc.tsync
  if o < 0x800 then (if o % 256 == 0 then d.portCtl (o / 256) v else d)
  else if decide (0x1000 ≤ o) && decide (o < 0x1100) then
    let k := (o - 0x1000) / 64
    match o % 64 with
    | 4 => d.modRing k (fun x => { x with mac := BitVec.ofNat 48 (setField x.mac.toNat 31 0 v) })
    | 8 => d.modRing k (fun x => { x with mac := BitVec.ofNat 48 (setField x.mac.toNat 47 32 v) })
    | _ => d
  else match o with
    | 0x2000 =>
      let mode := v.testBit 4 && d.pkg == 0
      let same := mode == t.mode && v % 8 == t.port
      { d with frc := { d.frc with tsync := { t with mode := mode, port := v % 8, locked := t.locked && same,
                                                     good := if same then t.good else 0 } } }
    | 0x2020 => d.hostCheck { h with en := v.testBit 31, ovf := h.ovf && !v.testBit 30, size := max 1 (v % 256) }
    | 0x2024 => d.hostCheck { h with base := setField h.base 31 0 (v / 4096 * 4096) }
    | 0x2028 => d.hostCheck { h with base := setField h.base 63 32 v }
    | 0x2030 =>
      let o := field v 19 6 * 64
      { d with frc := { d.frc with host := { h with rd := if h.size * 4096 ≤ o then 0 else o } } }
    | _ => d

/-! ### Rows -/

def execBaseCycle (s : State) : Ans := onDev (fun d => d.baseCycle) s
def execTakePoint (s : State) : Ans := onDev (fun d => d.takePoint) s
def execNodeCycleEnd (node : Nat) (s : State) : Ans := onDev (fun d => d.nodeCycleEnd node) s
def execInputFrame (port : Nat) (fr : RingFrame) (s : State) : Ans := onDev (fun d => d.inputFrame port fr) s
def execInputImageWrite (node : Nat) (s : State) : Ans := onDev (fun d => d.inputImageWrite node) s
def execJoin (port node : Nat) (nn : Frame) (s : State) : Ans := onDev (fun d => d.join port node nn) s
def execNodeProof (port node : Nat) (mac : Frame) (s : State) : Ans := onDev (fun d => d.nodeProof port node mac) s
def execDoorbell (port node : Nat) (code : Frame) (s : State) : Ans := onDev (fun d => d.doorbell port node code) s
def execDoorbellReply (slot : Nat) (s : State) : Ans := onDev (fun d => d.bellReply slot) s
def execHostRingFrame (port : Nat) (bytes : Frame) (s : State) : Ans := onDev (fun d => d.hostFrame port bytes) s
def execHsrSupervision (ring : Nat) (backA backB : Bool) (s : State) : Ans := onDev (fun d => d.supervise ring backA backB) s
def execGptpSync (port : Nat) (offsetNs : Int) (s : State) : Ans := onDev (fun d => d.gptp port offsetNs) s
def execFieldPortLinkChange (port : Nat) (up : Bool) (s : State) : Ans := onDev (fun d => d.portLink port up) s

end Sys2Proof.Machine
end

