-- ==== Sys2Proof/Machine/Power.lean ====
section
/-!
DEFINITION. Power (20_power_clocks.md): P-levels, thermal and supply limits, domain requests with their refusers, automatic entry,
entry and wake, BIST slices (R470, R471), device states and supply events, and the registers of Tables 20.11 and 20.12 and of CLK.
-/
namespace Sys2Proof.Machine

/-! ### P-levels (R438, R439, KL-10) -/

/-- A room of the cluster is committing: a boundary fell within the last 48 cycles. -/
def Dev.committing (d : Dev) (c : Nat) : Option Nat :=
  (d.slotsOn c).find? (fun s => (d.room s).phase == .running && decide (d.clk.tb < (d.room s).epo.lastAt + commitNs (d.cluster c).plevel))

/-- PWR_PREQ.REQ of a room; a request written during a commit takes effect one epoch later (KL-10). -/
def Dev.preqWrite (d : Dev) (a : Acc) (v : Nat) : Dev :=
  if a.pl == 0 then d
  else
    let d := d.modRoom a.slot (fun r => { r with pwr := { r.pwr with req := min 4 (v % 8) } })
    each (d.clustersOf a.slot) (fun d c =>
      let d := d.retarget c
      match if (d.cluster c).plevelNext.isSome then d.committing c else none with
      | some s => d.modCluster c (fun x => { x with plevelLate := some (s, (d.room s).epo.cnt) })
      | none => d) d

/-- The clock of a cluster switches to the level asked for; a frozen rail is not raised (R441), and a late request waits one
epoch more. -/
def Dev.switchLevel (d : Dev) (c : Nat) : Dev :=
  let x := d.cluster c
  match x.plevelNext with
  | none => d
  | some l =>
    if d.clk.stopped || (decide (l < x.plevel) && d.porch.frozen.contains (c / 16)) then d
    else if x.plevelLate.any (fun p => (d.room p.1).phase == .running && (d.room p.1).epo.cnt == p.2) then d
    else d.setCluster c { x with plevel := l, plevelNext := none, plevelLate := none }

/-! ### Thermal and supply limits (R440, R441) -/

/-- A throttle is in force somewhere in the package. -/
def Dev.anyThrottle (d : Dev) : Bool := (List.range 32).any (fun c => (d.cluster c).throttled)

/-- Sources 834 and 835: the start and the end of any throttle. -/
def Dev.throttleEdge (d : Dev) (before : Bool) : Dev :=
  if !before && d.anyThrottle then d.raise 834 else if before && !d.anyThrottle then d.raise 835 else d

/-- A cluster goes one level slower. -/
def Dev.slower (d : Dev) (c : Nat) : Dev :=
  d.modCluster c (fun x => { x with throttled := true, throtStep := d.clk.tb,
                                    plevelNext := if x.nextLevel < 4 then some (x.nextLevel + 1) else x.plevelNext })

/-- A sample of a cluster's own sensor: slower every 100 µs until 5 °C below THR, then faster every 1 ms to the normal level. -/
def Dev.clusterTemp (d : Dev) (c : Nat) (t : Int) : Dev :=
  let x := d.cluster c
  let thr : Int := d.porch.thr
  if !x.throttled then (if thr ≤ t then d.slower c else d)
  else if thr - 5 < t then (if x.throtStep + 100000 ≤ d.clk.tb then d.slower c else d)
  else if d.porch.hot.contains (c / 16) || d.clk.tb < x.throtStep + 1000000 then d
  else if d.normalLevel c < x.nextLevel then
    d.setCluster c { x with plevelNext := some (x.nextLevel - 1), throtStep := d.clk.tb }
  else (d.setCluster c { x with throttled := false }).retarget c

def Sensor.index : Sensor → Nat
  | .cluster c => c
  | .region r => 32 + r
  | .hub => 40

def Sensor.die : Sensor → Option Nat
  | .cluster c => some (c / 16)
  | .region r => some (r / 4)
  | .hub => none

/-- Every sensor of a die reads below THR. -/
def Dev.dieCool (d : Dev) (die : Nat) : Bool :=
  (List.range 40).all (fun k =>
    let on := if k < 32 then k / 16 == die else (k - 32) / 4 == die
    !on || decide (Sparse.get (0 : Int) d.porch.temps k < (d.porch.thr : Int)))

/-- One temperature sample. -/
def Dev.sample (d : Dev) (sn : Sensor) (t : Int) : Dev :=
  let before := d.anyThrottle
  let top := match d.porch.tmax with | some m => max m t | none => t
  let d := { d with porch := { d.porch with temps := Sparse.insert d.porch.temps (Sensor.index sn) t, tmax := some top } }
  let d := match (Sensor.die sn) with
    | none => d
    | some die =>
      if (gradeMax : Int) ≤ t then
        let d := { d with porch := { d.porch with hot := insertAsc d.porch.hot die } }
        each ((List.range 32).filter (fun c => c / 16 == die)) (fun d c =>
          d.modCluster c (fun x => { x with throttled := true, plevel := 4, plevelNext := none, throtStep := d.clk.tb })) d
      else if d.porch.hot.contains die && d.dieCool die then
        { d with porch := { d.porch with hot := d.porch.hot.filter (· != die) } }
      else d
  let d := match sn with
    | .cluster c => d.clusterTemp c t
    | _ => d
  d.throttleEdge before

/-- The last telemetry of a rail (R432): volts in mV above, amperes in tenths below. -/
def Dev.telemetry (d : Dev) (rail : Nat) (r : RailRead) : Dev :=
  { d with porch := { d.porch with tel := Sparse.insert d.porch.tel rail (BitVec.ofNat 32 (r.mv % 65536 * 65536 + r.tenthsA % 65536)) } }

/-- A PMBus transaction with a regulator, of die 0, die 1 or VDD_S (rail 2): a failure or ALERT_N freezes a die's rail, a success frees it;
clusters above what READ_VOUT supports are made slower (R441). -/
def Dev.supplyRead (d : Dev) (die : Nat) (r : RailRead) (failed : Bool) : Dev :=
  let d := if failed || 3 ≤ die then d else d.telemetry die r
  if 2 ≤ die then (if failed && die == 2 then d.raise 838 else d)
  else
    let mv := r.mv
    let others := d.porch.frozen.filter (· != die)
    let d := { d with porch := { d.porch with frozen := if failed then die :: others else others,
                                              supply := Sparse.insert d.porch.supply die mv } }
    let cs := (List.range 32).filter (fun c => c / 16 == die)
    let low := cs.filter (fun c => decide ((d.cluster c).plevel < levelFor mv))
    let d := each low (fun d c => d.modCluster c (fun x => { x with plevel := levelFor mv, plevelNext := none, supLim := true })) d
    let d := each cs (fun d c =>
      let x := d.cluster c
      if x.supLim && !failed && levelFor mv ≤ d.normalLevel c then (d.setCluster c { x with supLim := false }).retarget c
      else if x.supLim then d.retarget c else d) d
    if failed || !low.isEmpty then d.raise 838 else d

/-! ### BIST units and slices (R468 to R471) -/

/-- A domain runs: On or Clock-gated. -/
def Dev.runs (d : Dev) (n : Nat) : Bool := (d.domain n).st == .on || (d.domain n).st == .gated

/-- Domain of a hub unit (Table 21.3): FRC, crypto and key store, Hamper, PCIe, Elvust, peripherals, distributor and epoch controller. -/
def hubDomain (u : Nat) : Nat := [99, 115, 114, 100, 102, 105, 125].getD (u - 290) 90

/-- Units tested when a domain enters Retention or Off (Table 21.3). -/
def bistUnits (n : Nat) : List Nat :=
  if n < 32 then (List.range 8).map (fun u => 8 * n + u)
  else if decide (64 ≤ n) && decide (n < 88) then (List.range 3).map (fun u => 256 + 4 * (n % 8) + u)
  else []

/-- Units tested when a domain enters D-Retain (Table 21.3): the fabrics and the hub's too. -/
def deviceUnits (n : Nat) : List Nat :=
  if n == 88 || n == 89 then [200 + n]
  else if n < 90 then bistUnits n
  else ((List.range 7).map (· + 290)).filter (fun u => hubDomain u == n)

/-- Segments of 40 µs of a unit's full test; the hub units share 400 ms. -/
def bistSegs (u : Nat) : Nat :=
  if u < 256 then (if u % 8 < 5 then 200 else if u % 8 == 5 then 1200 else if u % 8 == 6 then 150 else 300)
  else if u < 288 then (if u % 4 == 0 then 2000 else if u % 4 == 1 then 250 else 100)
  else if u < 290 then 500
  else 1429

def Dev.ledger (d : Dev) (u : Nat) : BistEntry := Sparse.get BistEntry.init d.bist.ledger u

/-- A unit is stale (R469). -/
def Dev.stale (d : Dev) (u : Nat) : Bool := (d.ledger u).st != 1 || decide (d.bist.ageH ≤ (d.ledger u).onh)

/-- The unit a slice takes: stale, with the largest ONH. -/
def Dev.nextUnit (d : Dev) (us : List Nat) : Option Nat :=
  (us.filter d.stale).foldl (fun best u =>
    match best with
    | none => some u
    | some b => if (d.ledger b).onh < (d.ledger u).onh then some u else some b) none

/-- A physical slot fails its test (Table 21.4): the spare, or the core it serves, which the spare replaces. Without a spare its room is held
at once where the cluster runs, else at the next wake (`Dev.heldAtWake`). -/
def Dev.slotFailed (d : Dev) (c p : Nat) : Dev :=
  let x := d.cluster c
  if x.spare == p then
    (d.setCluster c { x with spare := 7, failed := x.failed ||| BitVec.ofNat 5 (2 ^ p) }).raise 802
  else match (List.range 4).find? (fun k => x.slotMap.getD k 7 == p) with
    | none => d.setCluster c { x with failed := x.failed ||| BitVec.ofNat 5 (2 ^ p) }
    | some k =>
      let core := c * 4 + k
      let rooms := match d.coreSlot core with | some s => [s] | none => []
      let det := fun (after : Nat) => detailOf [0x0B, p, after, 0, 0, 0xFF]
      if x.spare != 7 then
        let sp := x.spare
        let d := match rooms with
          | s :: _ => d.substitute s core
          | [] => (d.setCluster c { x with slotMap := setAt x.slotMap k sp, spare := 7,
                                           failed := x.failed ||| BitVec.ofNat 5 (2 ^ p) }).raise 802
        d.incident 0x03 (d.sysCore core) 0 (det sp) rooms 0
      else
        let asleep := !d.runs c
        let d := d.setCluster c { x with failed := x.failed ||| BitVec.ofNat 5 (2 ^ p) }
        if asleep then d else each rooms (fun d s => d.hold s 2) (d.incident 0x04 (d.sysCore core) 0 (det 0xFF) rooms 0)

/-- A room runs on a cluster with a core slot that failed while the cluster slept, and has no spare (Table 21.4): the wake holds it. -/
def Dev.heldAtWake (d : Dev) (slot : Nat) : Dev :=
  if (d.room slot).phase != .running then d
  else match (d.coresOf slot).find? (fun k => (d.cluster (k / 4)).unfilled (k % 4) && d.settledOn (k / 4)) with
    | none => d
    | some k => (d.incident 0x04 (d.sysCore k) 0 (detailOf [0x0B, d.physSlot k, 0xFF, 0, 0, 0xFF]) [slot] 0).hold slot 2

/-- What the failure of a unit's segment does (Table 21.4). -/
def Dev.unitFailed (d : Dev) (u seg : Nat) : Dev :=
  if u < 256 then
    let c := u / 8
    if u % 8 < 5 then d.slotFailed c (u % 8)
    else if u % 8 == 5 then d.retireWay .l2 c (seg / 75 % 16) 2
    else if u % 8 == 6 then d.trestleFailed c 0x0B
    else d.retireUnit c (min 15 (seg * 16 / 300)) 0x0B
  else if u < 288 then
    let r := (u - 256) / 4
    if u % 4 == 0 then d.retireWay .l3 r (seg / 125 % 16) 2
    else if u % 4 == 1 then d.loseDie (r / 4) 0x0B
    else d.channelLost r 0x0B
  else if u < 290 then d.loseDie (u - 288) 0x0B
  else if d.devState == .retain then { d with bist := { d.bist with hubFail := true } }
  else d.hubLost 0x0B

/-- One segment of a unit ends; the ledger entry is written at once. A segment of an L3 leaves its way empty (Table 21.3). -/
def Dev.segment (d : Dev) (u : Nat) (pass : Bool) : Dev :=
  let e := d.ledger u
  let seg := if e.st == 1 then 0 else e.seg
  let put := fun (d : Dev) (x : BistEntry) => { d with bist := { d.bist with ledger := Sparse.insert d.bist.ledger u x } }
  let d := if decide (256 ≤ u) && decide (u < 288) && u % 4 == 0 then d.emptyL3 ((u - 256) / 4) (seg / 125 % 16) else d
  if !pass then
    let d := put d { e with st := 2, seg := seg }
    ({ d with bist := { d.bist with fails := satInc max32 d.bist.fails } }).unitFailed u seg
  else if bistSegs u ≤ seg + 1 then put d { st := 1, seg := 0, onh := 0 }
  else put d { e with st := if e.st == 2 then 2 else 3, seg := seg + 1 }

/-- Run the segments of a slice over units, in the order the device takes them, at most `n`. -/
def Dev.segments (d : Dev) (us : List Nat) : Nat → List (Nat × Bool) → Dev
  | 0, _ => d
  | _, [] => d
  | n + 1, (u, pass) :: t =>
    if d.nextUnit us == some u || (us.contains u && d.stale u && (d.ledger u).st == 3) then
      (d.segment u pass).segments us n t
    else d

/-- Slots whose rooms claim a domain (R250). -/
def Dev.claimed (d : Dev) (n : Nat) : List Nat :=
  (List.range 64).filter (fun s => (domainGroup n).any (fun k => (d.room s).claims.getLsbD k))

/-- Units that a slice may test in an entry of a domain: none of a claimed domain, nor those of a claimed Trestle (Table 10.8). -/
def Dev.sliceUnits (d : Dev) (n : Nat) : List Nat :=
  if !(d.claimed n).isEmpty then []
  else (if d.devState == .retain then deviceUnits n else bistUnits n).filter (fun u =>
    decide (256 ≤ u) || decide (u % 8 < 6) || (d.claimed (32 + n)).isEmpty)

/-- Slices that run in claimed domains end (Table 10.8). -/
def Dev.endClaimed (d : Dev) : Dev :=
  each ((List.range 127).filter (fun n => (d.domain n).slice && !(d.claimed n).isEmpty)) (fun d n =>
    { d with bist := { d.bist with run := d.bist.run &&& ~~~ (BitVec.ofNat 3 (2 ^ bistCtl n)) } }.modDomain n (fun x => { x with slice := false })) d

/-- A slice ends within its budget: counted, and as a budget stop when stale units are left (R470, R471). -/
def Dev.runSlice (d : Dev) (n : Nat) (l : List (Nat × Bool)) : Dev :=
  let us := d.sliceUnits n
  let d := d.segments us (d.bist.sliceUs / 40) l
  let left := us.any d.stale
  { d with bist := { d.bist with
      slices := satInc max32 d.bist.slices, budgetStops := if left then satInc 0xFFFF d.bist.budgetStops else d.bist.budgetStops,
      run := d.bist.run &&& ~~~ (BitVec.ofNat 3 (2 ^ bistCtl n)) } }

/-! ### Refusers (R449, Tables 20.4 and 20.6) -/

/-- Who asks for a domain state: a room's slot with its world; nobody's room for the Lobby and the power controller itself. -/
structure Asker where
  slot : Option Nat
  secure : Bool
  /-- Where PWR_DRES reports: a slot, 64 for the PWR block, none for the Lobby and automatic entries. -/
  reply : Option Nat
  deriving DecidableEq, Repr

/-- PIN_MASK, a started sealed room's bandwidth record (R300), or the locked ways of a timed room (R445). -/
def Dev.pinned (d : Dev) (n : Nat) (st : DomSt) : Bool :=
  (domainGroup n).any (fun k => d.plan.powerPre.pinMask.testBit k) ||
  (decide (64 ≤ n) && decide (n < 88) && d.plan.bw.any (fun b => b.region == d.pkg * 8 + n % 8 &&
    (match d.slotOf b.roomId with
     | some s => d.sealedRoom s && (d.room s).phase != .held && (d.room s).phase != .absent
     | none => false))) ||
  (decide (n < 32) && st == .off && (d.slotsOn n).any d.timed)

/-- Every bank of a cluster equals its checkpoints of the open epochs (R445). -/
def Dev.banksExact (d : Dev) (c : Nat) : Bool :=
  (d.slotsOn c).all (fun s =>
    let e := (d.room s).epo
    (d.room s).phase == .held && !(d.room s).hasRun ||
    (d.ctxsOf s).all (fun x => x / 16 != c ||
      ((List.range (e.cnt + 1 - e.conf)).all (fun k => d.ckptOf s x (e.conf + k) == (d.ctx x).record))))

/-- The domain runs or is on its way there. -/
def Dev.risen (d : Dev) (n : Nat) : Bool := d.runs n || (d.domain n).waking

/-- Table 20.4 forbids a state; a domain that is waking counts as one that runs (R31, R32). -/
def Dev.dependent (d : Dev) (n : Nat) (st : DomSt) : Bool :=
  let deep := st == .retention || st == .off
  if decide (64 ≤ n) && decide (n < 88) then
    deep && (List.range 4).any (fun k => d.risen (n % 8 * 4 + k))
  else if n == 88 || n == 89 then
    (deep && ((List.range 4).any (fun k => d.risen (64 + (n - 88) * 4 + k)) || (List.range 16).any (fun k => d.risen ((n - 88) * 16 + k)))) ||
    (st == .off && ((List.range 16).any (fun k => (d.domain ((n - 88) * 16 + k)).st == .retention) ||
      (List.range 16).any (fun k => (d.domain (32 + (n - 88) * 16 + k)).st == .retention) ||
      (List.range 4).any (fun k => (d.domain (64 + (n - 88) * 4 + k)).st == .retention)))
  else if decide (32 ≤ n) && decide (n < 64) then
    st == .off && (d.domain (n - 32)).st != .off &&
      (d.slotsOn (n - 32)).any (fun s => decide (0 < (d.lsShare (n - 32) s).2))
  else if [90, 117, 124, 125, 126].contains n then (List.range 32).any d.risen
  else if n == 114 then st == .off || d.slots.any (fun s => (d.room s).phase == .running)
  else if decide (102 ≤ n) && decide (n < 105) then
    !(d.usersOf n).isEmpty ||
      d.slots.any (fun s => (d.plan.windowsOf (d.idOf s)).any (fun w => paPkg w.base == d.pkg ^^^ (n - 101)))
  else false

/-- The cluster of a cluster's or Trestle's domain. -/
def domCluster (n : Nat) : Option Nat := if n < 32 then some n else if n < 64 then some (n - 32) else none

def domDie (n : Nat) : Option Nat :=
  if n < 32 then some (n / 16) else if n < 64 then some ((n - 32) / 16) else if n < 88 then some (n % 8 / 4)
  else if n < 90 then some (n - 88) else none

def Dev.shadowUses (d : Dev) (n : Nat) : Bool :=
  match d.shadowPlan with
  | some p => p.rooms.any (fun r => (domainGroup n).any (fun k => p.uses128 d.straps r.roomId k))
  | none => false

/-- Clusters in which a room substitutes a core. -/
def Dev.substituting (d : Dev) (s : Nat) : List Nat := ((d.room s).rb.map Rollback.subst).getD []

/-- The first refuser of a request, in code order (Table 20.6). `auto`: the hardware's own clock gating passes a claim
(Table 10.8). -/
def Dev.refuser (d : Dev) (q : Asker) (n : Nat) (st : DomSt) (auto : Bool) : Option Nat :=
  let claim := (d.claimed n).any (fun s => !(q.slot == some s && q.secure)) && !(auto && st == .gated)
  let field := ((decide (91 ≤ n) && decide (n < 99) && (d.port (n - 91)).en) || n == 99) &&
    (d.plan.nodesAt d.pkg).any (fun r => (d.node r.node).st == .active)
  let open_ := st == .off && (match domCluster n with | some c => !d.banksExact c | none => false)
  let thermal := match domDie n with
    | some die => (List.range 32).any (fun c => c / 16 == die && (d.cluster c).throttled)
    | none => false
  let subst := match domCluster n with | some c => (d.slotsOn c).any (fun s => (d.substituting s).contains c) | none => false
  let l : List (Bool × Nat) :=
    [(claim, 1), ((d.usersOf n).any d.roomHalted, 2), (open_, 3), ((domainGroup n).any (fun k => (d.domain k).slice), 4),
     (field, 5), (d.pinned n st, 6), (d.dependent n st, 7), ((domainGroup n).any (fun k => (d.domain k).waking), 8),
     (thermal, 9), (d.flp.st != .idle && d.shadowUses n, 0x0A), (subst, 0x0B)]
  (l.find? Prod.fst).map Prod.snd

/-! ### Entry (R451, R284, R285) -/

/-- How deep a state is. -/
def DomSt.deeper (a b : DomSt) : Bool := decide (b.code < a.code)

/-- Report to the one that asked. -/
def Dev.answer (d : Dev) (reply : Option Nat) (busy : Bool) : Dev :=
  match reply with
  | none => d
  | some s =>
    if s < 64 then d.modRoom s (fun r => { r with pwr :=
      { r.pwr with busy := busy, refused := false, aborted := false, code := 0 } })
    else { d with porch := { d.porch with dBusy := busy, dRefused := false, dAborted := false, dCode := 0 } }

/-- The local store of a Trestle loses power: what it holds is open. -/
def Dev.loseLocalStore (d : Dev) (c : Nat) : Dev :=
  let n := d.clk.draws
  let d := { d with clk := { d.clk with draws := n + 262144 } }
  d.modCluster c (fun x => { x with trestle := { x.trestle with ls := [], lsOpen := 0xFFFF, lsDraw := n } })

/-- What a cluster has under way ends before it sleeps: its buffered stores are written, its transactions complete (R284, R285). -/
def Dev.settleCluster (d : Dev) (c : Nat) : Dev := (each (clusterCores c) Dev.drain d).quiet [c]

/-- A cluster goes Off (R285, R445): its caches are written back, and they, the TLBs and the predictor are empty. -/
def Dev.clusterOff (d : Dev) (c : Nat) : Dev :=
  let d := (d.settleCluster c).flushL2 c (fun _ => true)
  let d := each (clusterCores c) (fun d k =>
    let d := d.modCore k (fun x => { x with l1 := [], tlb1 := [], tlb2 := [] })
    each [0, 1, 2, 3] (fun d b => d.modCtx (k * 4 + b) (fun x => { x with btable := [], rstack := .empty, resv := none })) d) d
  (d.modCluster c (fun x => { x with pendList := [] })).loseLocalStore c

/-- What a state takes from a domain as it is entered (Table 20.3). -/
def Dev.enterEffects (d : Dev) (n : Nat) (st : DomSt) : Dev :=
  match st with
  | .retention => if n < 32 then (d.settleCluster n).cleanL2 n else d
  | .off =>
    if n < 32 then d.clusterOff n
    else if n < 64 then d.loseLocalStore (n - 32)
    else if n < 88 then (d.cleanL3 (n % 8)).modRegion (n % 8) (fun g => { g with l3 := [] })
    else if decide (91 ≤ n) && decide (n < 99) then d.modPort (n - 91) (fun x => { x with link := false })
    else if decide (105 ≤ n) && decide (n < 113) then
      let was := d.can (n - 105)
      let d := d.clearPeriph (n - 105)
      if n < 109 then d.modCan (n - 105) (fun x => { x with watch := was.en && was.wake }) else d
    else d
  | _ => d

/-- A state is entered: what it takes from the domain, and the state. -/
def Dev.enterState (d : Dev) (n : Nat) (st : DomSt) : Dev := (d.enterEffects n st).setDomainSt n st

/-- A cluster with its Trestle is put into a state by a device state or the emergency operating point, which nothing refuses
(R450). -/
def Dev.forceCluster (d : Dev) (c : Nat) (st : DomSt) : Dev := (d.enterState c st).setDomainSt (32 + c) st

/-- A domain's entry is complete. A Trestle enters Retention and Off with its cluster, by an automatic entry of its own (Table
20.5), which is refused and counted as any other is (R447, Table 10.8). -/
def Dev.finishEntry (d : Dev) (n : Nat) (st : DomSt) : Dev :=
  let d := d.enterState n st
  if decide (n < 32) && (st == .retention || st == .off) && st.deeper (d.domain (32 + n)).st then
    match d.refuser { slot := none, secure := false, reply := none } (32 + n) st true with
    | some code => d.countEntry (32 + n) code none false
    | none => d.enterState (32 + n) st
  else d

/-- A slice runs in an entry: stale units, no claim, no pin; a busy controller skips it (R470). -/
def Dev.startSlice (d : Dev) (n : Nat) : Dev :=
  let n := (domainGroup n).headD n
  if !(d.sliceUnits n).any d.stale || d.pinned n .retention then d
  else if d.bist.run.getLsbD (bistCtl n) then { d with bist := { d.bist with skipped := satInc max32 d.bist.skipped } }
  else
    ({ d with bist := { d.bist with run := d.bist.run ||| BitVec.ofNat 3 (2 ^ bistCtl n) } }).modDomain n (fun x =>
      { x with slice := true })

/-- Accept an entry: clock gating at once, the others under way until their DOMAIN_ENTRY_DONE, a cluster Clock-gated meanwhile. -/
def Dev.beginEntry (d : Dev) (n : Nat) (st : DomSt) (reply : Option Nat) : Dev :=
  if st == .gated then (d.finishEntry n .gated).answer reply false
  else
    let d := if decide (n < 32) && (d.domain n).st == .on then d.setDomainSt n .gated else d
    let d := each (domainGroup n) (fun d k => d.modDomain k (fun x => { x with entering := some st, asker := reply })) d
    (d.startSlice n).answer reply true

/-- A request for a state (R448, R449): On is a wake; a domain that is as deep already, or on its way there, stays. -/
def Dev.request (d : Dev) (q : Asker) (n : Nat) (st : DomSt) : Dev :=
  if 127 ≤ n || d.clk.stopped then d
  else if st == .on then (d.startWake n).answer q.reply false
  else match d.refuser q n st false with
    | some code => d.countEntry n code q.reply false
    | none =>
      if !st.deeper (d.domain n).st then d.answer q.reply false
      else d.beginEntry n st q.reply

/-- An entry is complete: its contents, its state, the answer to the one that asked, and its slice, whose failures resolve before a wake. Where a
domain that depends on it has come to run meanwhile, the wake event aborts it instead (R446, R450). In D-Retain a slice alone ends. -/
def Dev.entryDone (d : Dev) (n : Nat) (slice : List (Nat × Bool)) : Dev :=
  let g := domainGroup n
  let sliced := g.any (fun k => (d.domain k).slice)
  match g.find? (fun k => (d.domain k).entering.isSome) with
  | none =>
    if sliced then each g (fun d k => d.modDomain k (fun x => { x with slice := false })) (d.runSlice (g.headD n) slice) else d
  | some k =>
    match (d.domain k).entering with
    | none => d
    | some st =>
      let reply := (d.domain k).asker
      if d.dependent n st then d.abortEntry n 8
      else
        let d := (d.finishEntry n st).answer reply false
        if sliced then d.runSlice (g.headD n) slice else d

/-- A waking domain is ready, and with it what it depends on (R31, R32); the home of a region then grants what waits for it (Table 12.6). -/
def Dev.domReady (d : Dev) (n : Nat) : Dev :=
  let d := if (domainGroup n).any (fun k => (d.domain k).waking) then
      let old := (d.domain n).st
      (each ((domainDeps n).filter d.depAsleep) (fun d k => d.wakeOne k) (d.setDomainSt n .on)).wakeEffects n old
    else d
  each ((domainGroup n).filter (fun k => decide (64 ≤ k) && decide (k < 72))) (fun d k => d.grantWaiting (k - 64)) d

/-! ### Automatic entry (Table 20.5) -/

/-- Every active core of a cluster is idle and its Trestle has no pending station. -/
def Dev.clusterIdle (d : Dev) (c : Nat) : Bool :=
  (clusterCores c).all (fun k => (d.core k).run != .running) && (d.cluster c).trestle.queue.isEmpty

def Dev.autoTarget (d : Dev) (n : Nat) : Option DomSt :=
  let x := d.domain n
  let idle := d.clk.tb - x.since
  if n < 32 then
    let recs := (d.slotsOn n).map (fun s => d.plan.power (d.idOf s))
    if recs.isEmpty then some .off
    else if !d.clusterIdle n then none
    else if x.st == .on then some .gated
    else if x.st == .gated && recs.all PowerRec.mayRetain &&
        decide ((recs.map PowerRec.idleRetUs).foldl min 0xFFFFFFFF * 1000 ≤ idle) then some .retention
    else none
  else if n < 64 then
    let c := n - 32
    let shared := (d.slotsOn c).any (fun s => decide (0 < (d.lsShare c s).2))
    if (d.domain c).st == .off || !shared then some .off
    else if (d.domain c).st == .retention then some .retention
    else if (d.cluster c).trestle.queue.isEmpty then some .gated
    else none
  else if n < 88 then
    let users := d.usersOf n
    if users.isEmpty then some .off
    else if x.st == .on then (if 1000 ≤ idle then some .gated else none)
    else if (List.range 4).all (fun k => !d.runs (n % 8 * 4 + k)) && decide (1000000 ≤ idle) &&
        users.all (fun s => (d.plan.power (d.idOf s)).uncoreMaySleep) then some .retention
    else none
  else if n < 90 then none
  else if decide (91 ≤ n) && decide (n < 99) then
    let p := d.port (n - 91)
    if !p.en then some .off else if !p.link && decide (1000000 ≤ idle) then some .retention else none
  else if decide (105 ≤ n) && decide (n < 113) then
    let b := n - 105
    let owned := (d.plan.periphOwner d.pkg b).isSome
    let en := if b < 4 then (d.can b).en else if b < 6 then (d.mac (b - 4)).en else (d.uart (b - 6)).en
    if decide (b < 4) && !owned then some .off
    else if en || !owned then none
    else if x.st == .on then some .gated
    else if 1000000 ≤ idle then some .retention
    else none
  else if n == 127 then none
  else if x.st == .on && decide (1000 ≤ idle) then some .gated
  else none

def Dev.autoEntry (d : Dev) (n : Nat) : Dev :=
  let x := d.domain n
  if d.clk.stopped || 128 ≤ n || x.entering.isSome then d
  else match d.autoTarget n with
    | none => d
    | some st =>
      if !st.deeper x.st then d
      else match d.refuser { slot := none, secure := false, reply := none } n st true with
        | some code => d.countEntry n code none false
        | none => d.beginEntry n st none

/-! ### Device states (R452, R453) -/

/-- Suspend a room at a confirmed checkpoint (R453 step 1). One that rolls back stands there already: its rollback ends, with its tests and its
substitution, when the room may run again. -/
def Dev.suspendRoom (d : Dev) (slot : Nat) : Dev :=
  if (d.room slot).phase == .running then
    let d := ((d.trDrainRoom slot).boundaryConfirm slot).stopCores slot
    d.modRoom slot (fun r => { r with phase := .suspended })
  else d

/-- LEAVE to every node with a session or a handshake (R453 step 2), of the nodes given. -/
def Dev.leaveAll (d : Dev) (l : List NodeRec) : Dev :=
  each l (fun d r => if (d.node r.node).ses.isSome || (d.node r.node).hs.isSome then d.dropNode r else d) d

/-- The device stops: rooms suspended, nodes left, clusters Off, dirty lines written, channels in self-refresh, timebase stopped,
clean-stop mark (R453 steps 1 to 5). -/
def Dev.stopDevice (d : Dev) (st : DevSt) : Dev :=
  let d := each d.slots (fun d s => d.suspendRoom s) d
  let d := d.leaveAll (d.plan.nodesAt d.pkg)
  let d := each (List.range 32) (fun d c => d.forceCluster c .off) d
  let deep : DomSt := if st == .off then .off else .retention
  let d := each (List.range 8) (fun d r => (d.cleanL3 r).setDomainSt (64 + r) deep) d
  let d := each ((List.range 127).filter (fun n => decide (88 ≤ n))) (fun d n =>
    d.setDomainSt n (if n == 88 || n == 89 then .off else deep)) d
  let d := { d with devState := st, clk := { d.clk with stopped := true, lock := 0 }, store := { d.store with cleanStop := true } }
  if st == .retain then each (List.range 127) (fun d n => d.startSlice n) d else d

/-- In D-Off the Hamper and DRAM lose power, and the Lobby's sessions end; the shutdown test follows, when it has a budget. -/
def Dev.toOff (d : Dev) : Dev :=
  let d := d.stopDevice .off
  let d := each d.slots (fun d s => d.writeRecs s 0) d
  let d := each (List.range 8) (fun d r => d.modRegion r (fun g => { g with l3 := [] })) d
  { d with mem := [], chan := [], endSessions := true, bist := { d.bist with shutdown := decide (0 < d.bist.shutMs) } }

/-- Refusal of a device command (R453): DEBUG_HOLD, SWAP_IN_PROGRESS, SUBSTITUTION. -/
def Dev.devRefuser (d : Dev) : Nat :=
  if d.slots.any d.roomHalted then 2
  else if d.flp.st != .idle then 0x0A
  else if d.slots.any (fun s => !(d.substituting s).isEmpty) then 0x0B
  else 0

/-- A command of PWR_DEV.CMD or of the Lobby: 1 D-Retain, 2 D-Off; others are ignored. -/
def Dev.devCommand (d : Dev) (cmd : Nat) : Dev :=
  if d.devState != .run || (cmd != 1 && cmd != 2) then d
  else
    let code := d.devRefuser
    let d := { d with porch := { d.porch with result := code } }
    if code != 0 then d else if cmd == 1 then d.stopDevice .retain else d.toOff

/-- Resume of the suspended rooms of a list, at the next package epoch boundary. -/
def Dev.resumeRooms (d : Dev) (l : List Nat) : Dev :=
  each l (fun d s => d.modRoom s (fun r =>
    if r.phase == .suspended then { r with readyAt := nextPkg d.clk.tb, pwr := { r.pwr with susp := false } }
    else if r.phase == .starting then { r with readyAt := nextPkg d.clk.tb } else { r with pwr := { r.pwr with susp := false } })) d

/-- The timebase at a wake or boot (R456): seeded from the real-time clock, then stepped to the grandmaster's time in that mode. -/
def Dev.seedTime (d : Dev) : Dev :=
  let gm := d.frc.tsync.mode
  let n := d.clk.draws
  let tb := (if gm then (Config.grandmaster n).toNat else d.clk.rtc * 1953125 / 64) % 2 ^ 64
  { d with keys := d.keys.rebase d.clk.tb tb
           frc := d.frc.rebase d.clk.tb tb
           clk := { d.clk with tb := tb, seeded := gm, stepped := false, aligned := false, stopped := false, lock := 7,
                               draws := if gm then n + 1 else n } }

/-- Tick timers and forwarded timeouts stood still with the timebase (R453): a timeout has left what it had, and a tick falls at the next
multiple of its period in the seeded timebase (R456, notes/assumptions/77.md). -/
def Room.retime (r : Room) (old new : Nat) : Room :=
  { r with tick := { r.tick with next := if r.tick.en then nextMultiple new (r.tick.period * 1000) else r.tick.next }
           rb := r.rb.map (fun b => { b with started := b.started - old + new })
           frc := { r.frc with dbLast := r.frc.dbLast.map (fun t => t + new - old) }
           fwd := { r.fwd with out := r.fwd.out.map (fun c => { c with due := c.due - old + new }) } }

/-- The wake stops the slices that D-Retain began (Table 21.4). -/
def Dev.stopSlices (d : Dev) : Dev :=
  each ((List.range 127).filter (fun n => (d.domain n).slice)) (fun d n => (d.stopSlice n).modDomain n (fun x => { x with slice := false })) d

/-- Leave D-Retain: slices stop, PLLs, channels, timebase, hub domains On, rooms resume or, when a hub unit has failed, are held. -/
def Dev.leaveRetain (d : Dev) (bit : Nat) : Dev :=
  let old := d.clk.tb
  let d := d.stopSlices
  let d := d.seedTime
  let d := each d.slots (fun d s => d.modRoom s (fun r => r.retime old d.clk.tb)) d
  let d := each ((List.range 127).filter (fun n => decide (88 ≤ n))) (fun d n =>
    let old := (d.domain n).st
    (d.setDomainSt n .on).wakeEffects n old) d
  let d := { d with devState := .run, store := { d.store with cleanStop := false },
                    porch := { d.porch with wakeSrc := BitVec.ofNat 7 (2 ^ bit), byMain := false } }
  let d := (d.raise 836).resumeRooms (List.range 64)
  if d.bist.hubFail then ({ d with bist := { d.bist with hubFail := false } }).hubLost 0x0B else d

/-- Bit of a wake source in PWR_WAKE_EN (R455). -/
def WakeSource.bit : WakeSource → Nat
  | .fieldSignal => 0
  | .doorbell => 1
  | .canPattern => 2
  | .uartStart => 3
  | .wakeN => 4
  | .alarm => 5
  | .mainOk => 6

/-- A wake source occurs that is enabled and, for the alarm, due; a doorbell is recognised in D-Retain only (R455). -/
def Dev.wakes (d : Dev) (w : WakeSource) : Bool :=
  (w != .doorbell || d.devState == .retain) &&
  d.porch.wakeEn.getLsbD (WakeSource.bit w) && (w != .alarm || (d.porch.alarm != 0 && decide (d.porch.alarm ≤ d.clk.rtc)))

/-! ### The main supply (R454, Table 20.9) -/

/-- A swap has started and is not over: a supply event waits for it (Table 20.13). -/
def Dev.swapUnderWay (d : Dev) : Bool := d.flp.st == .armed || d.flp.st == .draining || d.flp.st == .swapping

/-- The emergency operating point, or D-Retain. -/
def Dev.emergency (d : Dev) : Dev :=
  let c := d.porch.emCluster
  if c < 32 then
    let out := d.slots.filter (fun s => !(d.coresOf s).all (fun k => k / 4 == c))
    let d := each out (fun d s =>
      let d := d.suspendRoom s
      let d := d.leaveAll ((d.plan.nodesAt d.pkg).filter (fun r => d.slotOf r.roomId == some s))
      d.modRoom s (fun r => { r with pwr := { r.pwr with susp := true } })) d
    let d := each ((List.range 32).filter (· != c)) (fun d k =>
      if (d.slotsOn k).all out.contains then d.forceCluster k .off else d) d
    let d := { d with porch := { d.porch with emerg := true } }
    d.modCluster c (fun x => { x with plevel := 4, plevelNext := none })
  else { (d.stopDevice .retain) with porch := { d.porch with byMain := true } }

def Dev.mainFall (d : Dev) : Dev :=
  let d := { d with porch := { d.porch with mainOk := false } }
  if d.devState != .run then d
  else
    let d := d.raise 832
    if d.swapUnderWay then d else d.emergency

/-- A swap has ended or been cancelled: a supply event that waited for it takes effect. -/
def Dev.lateMainFall (d : Dev) : Dev :=
  if !d.porch.mainOk && !d.porch.emerg && d.devState == .run then d.emergency else d

def Dev.mainRise (d : Dev) : Dev :=
  let d := { d with porch := { d.porch with mainOk := true } }
  match d.devState with
  | .retain => if d.porch.byMain then (d.raise 833).leaveRetain 6 else d
  | .run =>
    let was := d.porch.emerg
    let d := { d.raise 833 with porch := { d.porch with emerg := false } }
    if !was then d
    else
      let d := d.resumeRooms ((List.range 64).filter (fun s => (d.room s).pwr.susp))
      each (List.range 32) (fun d c => d.retarget c) d
  | _ => d

/-! ### Timebase alignment (R456) -/

/-- Packages 1 to 3 measure their offset from package 0: one step at boot, then the rate is steered. -/
def Dev.align (d : Dev) (ofs : Int) : Dev :=
  if d.pkg == 0 || d.clk.stopped then d
  else
    let k := d.clk
    let ok := decide (-50 ≤ ofs) && decide (ofs ≤ 50)
    if k.stepped then { d with clk := { k with tbOfs := ofs, aligned := ok } }
    else
      let tb := (((k.tb : Int) - ofs) % 2 ^ 64).toNat
      { d with keys := d.keys.rebase k.tb tb, frc := d.frc.rebase k.tb tb, clk := { k with tb := tb, stepped := true, tbOfs := 0, aligned := true } }

/-! ### Registers (Tables 20.11 and 20.12, R459) -/

def Dev.pwrRoomRead (d : Dev) (a : Acc) (r : Nat) : Nat :=
  let p := (d.room a.slot).pwr
  let x := d.cluster (a.core / 4)
  match r with
  | 0x400 => x.plevel * 65536 + b2n x.throttled * 4096 + b2n x.supLim * 2048 + p.req
  | 0x404 => p.dreqState.toNat * 256 + p.dreqDomain
  | 0x408 => b2n p.busy * 2 ^ 31 + b2n p.refused * 2 ^ 30 + b2n p.aborted * 2 ^ 29 + p.code
  | 0x40C => b2n p.susp
  | _ => 0

def domStOf (n : Nat) : DomSt := if n == 0 then .on else if n == 1 then .gated else if n == 2 then .retention else .off

/-- PWR_DREQ of a room: GO is ignored for a domain that the room does not use alone (R448). -/
def Dev.dreqWrite (d : Dev) (a : Acc) (v : Nat) : Dev :=
  if a.pl == 0 then d
  else
    let n := v % 128
    let d := d.modRoom a.slot (fun r => { r with pwr := { r.pwr with dreqState := BitVec.ofNat 2 (v / 256), dreqDomain := n } })
    if v.testBit 31 && d.usersOf n == [a.slot] then
      d.request { slot := some a.slot, secure := a.secure, reply := some a.slot } n (domStOf (field v 9 8))
    else d

def Dev.pwrRoomWrite (d : Dev) (a : Acc) (r v : Nat) : Dev :=
  if r == 0x400 then d.preqWrite a v else if r == 0x404 then d.dreqWrite a v else d

/-- PWR_DREQ of the PWR block: room 0's keeper, for any domain. -/
def Dev.dreqBlock (d : Dev) (a : Acc) (v : Nat) : Dev :=
  let n := v % 128
  let d := { d with porch := { d.porch with dreqState := BitVec.ofNat 2 (v / 256), dreqDomain := n } }
  if v.testBit 31 && a.keeper then
    d.request { slot := some a.slot, secure := true, reply := some 64 } n (domStOf (field v 9 8))
  else d

/-- PWR_DEV.STATE: D-Idle while every cluster is Clock-gated or lower. -/
def Dev.devCode (d : Dev) : Nat :=
  if d.porch.emerg then 2 else if (List.range 32).all (fun c => (d.domain c).st != .on) then 1 else 0

def Dev.pwrSysRead (d : Dev) (o : Nat) : Nat :=
  let p := d.porch
  if decide (0x100 ≤ o) && decide (o < 0x120) then
    let k := (o - 0x100) / 4
    ((List.range 16).map (fun j => (d.domain (16 * k + j)).st.code * 4 ^ j)).sum
  else if decide (0x1000 ≤ o) && decide (o < 0x1200) then
    let x := d.domain ((o - 0x1000) / 4)
    x.refused * 65536 + x.aborted * 256 + x.last
  else match o with
    | 0x00 => p.dreqState.toNat * 256 + p.dreqDomain
    | 0x04 => b2n p.dBusy * 2 ^ 31 + b2n p.dRefused * 2 ^ 30 + b2n p.dAborted * 2 ^ 29 + p.dCode
    | 0x10 => d.devCode * 2 ^ 30 + p.result * 256
    | 0x14 => b2n p.mainOk * 2 ^ 31 + b2n p.emerg * 2 ^ 30 + p.emCluster
    | 0x18 => p.wakeEn.toNat
    | 0x1C => p.wakeSrc.toNat
    | 0x20 => lo32 p.alarm
    | 0x24 => hi32 p.alarm
    | 0x28 => (p.tmax.getD 0 % 256).toNat * 2 ^ 24 + p.thr * 256
    | _ => 0

def Dev.pwrSysReadEff (d : Dev) (o : Nat) : Dev :=
  if decide (0x1000 ≤ o) && decide (o < 0x1200) then
    d.modDomain ((o - 0x1000) / 4) (fun x => { x with refused := 0, aborted := 0 })
  else if o == 0x28 then { d with porch := { d.porch with tmax := none } }
  else d

def Dev.pwrSysWrite (d : Dev) (a : Acc) (o v : Nat) : Dev :=
  let p := d.porch
  match o with
  | 0x00 => d.dreqBlock a v
  | 0x10 => if a.keeper then d.devCommand (v % 4) else d
  | 0x14 => { d with porch := { p with emCluster := if v % 256 < 32 then v % 256 else 0xFF } }
  | 0x18 => { d with porch := { p with wakeEn := BitVec.ofNat 7 v } }
  | 0x20 => { d with porch := { p with alarm := setField p.alarm 31 0 v } }
  | 0x24 => { d with porch := { p with alarm := setField p.alarm 47 32 v } }
  | 0x28 => { d with porch := { p with thr := clamp 60 (gradeMax - 5) (field v 15 8) } }
  | _ => d

def Dev.clkRead (d : Dev) (o : Nat) : Nat :=
  match o with
  | 0x00 => d.clk.lock.toNat
  | 0x08 => lo32 d.clk.rtc
  | 0x0C => hi32 d.clk.rtc
  | 0x10 => if d.pkg == 0 then 0 else (d.clk.tbOfs % 2 ^ 32).toNat
  | 0x14 => b2n d.clk.aligned * 2 ^ 31 + b2n d.clk.seeded * 2 ^ 30
  | _ => 0

/-! ### Rows -/

def execPLevelSwitch (cluster : Nat) (s : State) : Ans := onDev (fun d => d.switchLevel cluster) s
def execThermalSample (sn : Sensor) (celsius : Int) (s : State) : Ans := onDev (fun d => d.sample sn celsius) s
def execSupplyFault (rail : Nat) (read : RailRead) (failed : Bool) (s : State) : Ans := onDev (fun d => d.supplyRead rail read failed) s
def execAutomaticEntry (domain : Nat) (s : State) : Ans := onDev (fun d => d.autoEntry domain) s
def execDomainEntryDone (domain : Nat) (slice : List (Nat × Bool)) (s : State) : Ans := onDev (fun d => d.entryDone domain slice) s
def execDomainWake (domain : Nat) (s : State) : Ans := onDev (fun d => d.startWake domain) s
def execDomainReady (domain : Nat) (s : State) : Ans := onDev (fun d => d.domReady domain) s

/-- The shutdown test (R473): the stale units of the package, largest ONH first, within SHUT_MS. -/
def execShutdownTest (slice : List (Nat × Bool)) (s : State) : Ans :=
  onDev (fun d =>
    if d.devState == .off && d.bist.shutdown then
      let d := d.segments (List.range 297) (d.bist.shutMs * 25) slice
      { d with bist := { d.bist with shutdown := false } }
    else d) s

def execMainOkFall (s : State) : Ans := onDev (fun d => d.mainFall) s
def execMainOkRise (s : State) : Ans := onDev (fun d => d.mainRise) s
def execTimebaseAlign (offsetNs : Int) (s : State) : Ans := onDev (fun d => d.align offsetNs) s

end Sys2Proof.Machine
end

