-- ==== Sys2Proof/Machine/Floorplan.lean ====
section
/-!
DEFINITION. Loading an image and the swap (03_sessions_and_swaps.md): the FLP commands, validation, the classes of R93, the drain, the
swap point of R95 to R97, and the FLP registers. Sessions reach the same commands through Lobby.lean.
-/
namespace Sys2Proof.Machine

/-! ### Commands that fail, and their results (Table 3.6) -/

/-- A command ends with a result and no other effect. -/
def Dev.flpResult (d : Dev) (result : Nat) : Dev := { d with flp := { d.flp with result := result } }

/-- The shadow slot and its register set are emptied and STATE is Idle. -/
def Dev.flpEmpty (d : Dev) (result : Nat) : Dev :=
  { d with store := { d.store with shadow := [] }, shadowPlan := none, flp := { d.flp with st := .idle, result := result } }

/-- Every changed room that drained resumes under the active set, as a migrated room does (Table 3.9). -/
def Dev.undrain (d : Dev) : Dev :=
  let d := each (List.range 64) (fun d s => d.modRoom s (fun r => { r with swapClass := none, epo := { r.epo with swapHold := 0 } })) d
  each d.slots (fun d s => if (d.room s).phase == .drained then d.resumeStopped s else d) d

/-- A floorplan in the shadow set is given up for a reason of its own: a link is lost (R435). -/
def Dev.flpAbandon (d : Dev) (result : Nat) : Dev :=
  if d.flp.st == .armed || d.flp.st == .draining then ((d.flpEmpty result).undrain).lateMainFall else d

/-! ### LOAD, REVERT, CANCEL (R91, R99) -/

/-- Other packages are admitted beside this one. -/
def Dev.others (d : Dev) : List Nat := (List.range 4).filter (fun k => k != d.pkg && d.per.present.getLsbD k)

/-- Package 0 sends a floorplan command on to every other package (R99). -/
def Dev.flpTell (d : Dev) (o : Out) : Dev := if d.others.isEmpty || d.pkg != 0 then d else d.emit o

/-- An image stands in the shadow slot and validation starts; it goes to the other packages too (R99). -/
def Dev.flpShadow (d : Dev) (image : List Byte) (origin : Nat) (reverting : Bool) : Dev :=
  let d := { d with
    store := { d.store with shadow := image }, shadowPlan := none
    flp := { d.flp with st := .validating, result := 0, origin := origin, reverting := reverting } }
  d.flpTell (.floorplan image reverting)

/-- In a system of several packages LOAD and SWAP are package 0's: here they end with RESULT 0x33 (R99, notes/assumptions/52.md). -/
def Dev.flpOwn (d : Dev) (f : Dev → Dev) : Dev :=
  if d.pkg != 0 && d.per.present.getLsbD 0 then d.flpResult 0x33 else f d

/-- The image that package 0 sends (R99). -/
def Dev.flpReceive (d : Dev) (bySession : Bool) (image : List Byte) (reverting : Bool) : Dev :=
  if d.pkg == 0 || !d.per.present.getLsbD 0 || d.flp.st != .idle then d else d.flpShadow image (b2n bySession) reverting

/-- A command that package 0 sends on. -/
def Dev.flpRelayed (d : Dev) (f : Dev → Dev) : Dev := if d.pkg == 0 || !d.per.present.getLsbD 0 then d else f d

/-- A range lies wholly in one readable DRAM window of room 0. -/
def Dev.flpSource (d : Dev) (pa n : Nat) : Bool :=
  (d.plan.windowsOf 0).any (fun w => w.kind == 0 && w.perm.testBit 0 && decide (w.base ≤ pa) && decide (pa + n ≤ w.base + w.size))

def Flp.src (f : Flp) : Nat := f.srcLo.toNat / 8 * 8 + f.srcHi.toNat % 2 ^ 20 * 2 ^ 32
/-- FLP_LEN.BYTES after its clamp. -/
def Flp.bytes (f : Flp) : Nat := clamp 1024 0x400000 f.len

/-- LOAD by the keeper: copy from room 0's memory. -/
def Dev.loadKeeper (d : Dev) : Dev :=
  let f := d.flp
  if f.st != .idle then d.flpResult 0x31
  else if !d.flpSource f.src f.bytes then { d with flp := { f with result := 0x30, origin := 0 } }
  else d.flpShadow (d.bytes f.src f.bytes) 0 false

/-- LOAD by a session: the next payload of the stream of `have_` bytes; the new length of the stream, or none once it is complete. -/
def Dev.loadSession (d : Dev) (have_ : Nat) (chunk : List Byte) : Dev × Option Nat :=
  let f := d.flp
  if d.pkg != 0 && d.per.present.getLsbD 0 then (d.flpResult 0x33, none)
  else if (have_ == 0 && f.st != .idle) || (have_ != 0 && f.st != .loading) then (d.flpResult 0x31, none)
  else
    let l := (if have_ == 0 then [] else d.store.shadow) ++ chunk
    let total := min 0x400000 (leAt l 0x10 4)
    if l.length < 0x14 || l.length < total then
      ({ d with store := { d.store with shadow := l }, flp := { f with st := .loading, result := 0, origin := 1 } }, some l.length)
    else (d.flpShadow (l.take total) 1 false, none)

/-- The session that streams an image closes before the image is whole. -/
def Dev.streamLost (d : Dev) : Dev := if d.flp.st == .loading then d.flpEmpty 0x01 else d

def Dev.revert (d : Dev) (origin : Nat) : Dev :=
  if d.flp.st != .idle then d.flpResult 0x31 else d.flpShadow d.store.lastGood origin true

def Dev.cancel (d : Dev) (origin : Nat) : Dev :=
  if d.flp.st == .ready || d.flp.st == .armed || d.flp.st == .draining then
    let d := (d.flpEmpty 0).flpTell (.floorplanCmd 3 0)
    (({ d with flp := { d.flp with origin := origin } }).undrain).lateMainFall
  else d

/-! ### Validation (R80, R83, R91) -/

/-- What steps 2 and 3 accept in the validation under way. -/
def Dev.flpMode (d : Dev) : ImgMode :=
  if d.flp.reverting then { kind := none, above := none }
  else { kind := some (if d.keys.own == .unowned then 1 else 2), above := some d.store.highGen }

/-- This package's own verdict goes to the others (R99). -/
def Dev.flpVerdict (d : Dev) (ready : Bool) : Dev := if d.others.isEmpty then d else d.emit (.floorplanVerdict ready)

/-- Validation ends, once every admitted package has reported (R99). A pass fills the shadow register set, and its verdict is told once. -/
def Dev.validationDone (d : Dev) (peers : List PeerVerdict) : Dev :=
  if d.flp.st != .validating then d
  else match d.validate d.store.shadow d.flpMode with
    | .error (code, sec) =>
      let d := (d.flpVerdict false).flpEmpty code
      let d := { d with flp := { d.flp with section_ := sec } }
      d.incident 0x18 3 0 (detailOf [0x0D, code, sec, 0]) [] 0
    | .ok p =>
      let d := if d.shadowPlan.isNone then { d.flpVerdict true with shadowPlan := some p } else d
      if peers.any (fun v => !v.ready && d.others.contains v.pkg) then d.flpEmpty 0x32
      else if d.others.all (fun k => peers.any (fun v => v.pkg == k)) then
        { d with flp := { d.flp with st := .ready, result := 0 } }
      else d

/-! ### Classes of rooms (R93) -/

/-- Two lists hold the same elements. -/
def sameSet {α : Type} [BEq α] (a b : List α) : Bool := a.all b.contains && b.all a.contains

/-- A room's node records with the class period that counts as part of each. -/
def Plan.nodeView (p : Plan) (id : Nat) : List (NodeRec × Nat) :=
  (p.nodes.filter (fun r => r.roomId == id)).map (fun r => (r, p.nodePre.classUs.getD r.cls 0))

def Plan.mboxesOf (p : Plan) (id : Nat) : List MboxRec := p.mboxes.filter (fun m => m.sender == id || m.receiver == id)

/-- SYS_EPOCH_US as it counts for a room: it is a spanning room's EPOCH_US. -/
def Plan.sysOf (p : Plan) (id : Nat) : Nat := if ((p.room id).map RoomRec.span).getD false then p.sysEpochUs else 0

/-- What a migrated room keeps as an unchanged one does. -/
def keepsRoom (a b : Plan) (id : Nat) : Bool :=
  sameSet (a.windowsOf id) (b.windowsOf id) && sameSet (a.nodeView id) (b.nodeView id) &&
    sameSet (a.mboxesOf id) (b.mboxesOf id) &&
    sameSet (a.epochs.filter (fun r => r.roomId == id)) (b.epochs.filter (fun r => r.roomId == id)) &&
    sameSet (a.fwds.filter (fun r => r.roomId == id)) (b.fwds.filter (fun r => r.roomId == id)) && a.sysOf id == b.sysOf id

/-- Every record that names the room is identical. -/
def unchangedRoom (a b : Plan) (id : Nat) : Bool :=
  a.room id == b.room id && keepsRoom a b id &&
    sameSet (a.clusters.filter (fun c => c.rooms.contains id)) (b.clusters.filter (fun c => c.rooms.contains id)) &&
    sameSet (a.caches.filter (fun r => r.roomId == id)) (b.caches.filter (fun r => r.roomId == id)) &&
    sameSet (a.bw.filter (fun r => r.roomId == id)) (b.bw.filter (fun r => r.roomId == id)) &&
    sameSet (a.irqs.filter (fun r => r.roomId == id)) (b.irqs.filter (fun r => r.roomId == id)) &&
    sameSet (a.powers.filter (fun r => r.roomId == id)) (b.powers.filter (fun r => r.roomId == id)) &&
    sameSet (a.debugs.filter (fun r => r.roomId == id)) (b.debugs.filter (fun r => r.roomId == id))

def RoomRec.noLevels (r : RoomRec) : RoomRec := { r with plevReq := 0, plevFloor := 0 }
def IrqRec.noTarget (r : IrqRec) : IrqRec := { r with prio := 0, target := 0 }

/-- CTX masks of a room's cores in a package, in ascending order of its cores. -/
def Plan.masksOf (p : Plan) (pkg id : Nat) : List Nat := (p.coresOf pkg id).map (fun c => p.maskOf (pkg * 128 + c))

/-- Only what a migrated room may change differs. -/
def migratedRoom (a b : Plan) (id : Nat) : Bool :=
  (a.room id).map RoomRec.noLevels == (b.room id).map RoomRec.noLevels && keepsRoom a b id &&
    sameSet ((a.irqs.filter (fun r => r.roomId == id)).map IrqRec.noTarget) ((b.irqs.filter (fun r => r.roomId == id)).map IrqRec.noTarget) &&
    (List.range 4).all (fun k => a.masksOf k id == b.masksOf k id)

/-- The room record of a slot of a package. -/
def Plan.slotRec (p : Plan) (pkg slot : Nat) : Option RoomRec := p.rooms.find? (fun r => r.slots.getD pkg 0xFF == slot)

/-- Class of a room (R93): in one of the two sets only it is removed or added. -/
def roomClass (a b : Plan) (id : Nat) : SwapClass :=
  match a.room id, b.room id with
  | some _, some _ => if unchangedRoom a b id then .unchanged else if migratedRoom a b id then .migrated else .restarted
  | none, some _ => .added
  | _, none => .removed

/-- What becomes of a slot under a new set: the class of its room; a room that comes from another slot or package is restarted (R93), and
a slot that no room of the new set takes, or that another room takes over, loses its room. -/
def Dev.swapClassOf (d : Dev) (new : Plan) (slot : Nat) : Option SwapClass :=
  match d.plan.slotRec d.pkg slot, new.slotRec d.pkg slot with
  | none, none => none
  | none, some n => some (roomClass d.plan new n.roomId)
  | some o, none => some (if (new.room o.roomId).isSome then .restarted else .removed)
  | some o, some n => some (if o.roomId == n.roomId then roomClass d.plan new o.roomId else roomClass d.plan new n.roomId)

/-- The slot holds a room that is not unchanged. -/
def Dev.changes (d : Dev) (slot : Nat) : Bool :=
  match (d.room slot).swapClass with
  | none => false
  | some c => c != .unchanged

/-! ### SWAP (R94, KL-03, R450) -/

/-- A room resumed from a substitution within two epochs before SWAP: it holds the swap for a free number of further epochs. -/
def Dev.swapHoldOf (d : Dev) (slot : Nat) : Dev :=
  let e := (d.room slot).epo
  match e.substAt with
  | none => d
  | some k =>
    if e.cnt < k + 2 then
      let n := d.clk.draws
      let d := { d with clk := { d.clk with draws := n + 1 } }
      d.modRoom slot (fun r => { r with epo := { r.epo with swapHold := e.cnt + 1 + (Config.swapDelay n).toNat } })
    else d

/-- SWAP in Ready: classes, aborted entries, wakes of the domains that the shadow set needs. -/
def Dev.swap (d : Dev) (origin : Nat) : Dev :=
  match d.flp.st, d.shadowPlan with
  | .ready, some new =>
    let cls := (List.range 64).map (fun s => d.swapClassOf new s)
    let d := d.flpTell (.floorplanCmd 2 0)
    let d := { d with flp := { d.flp with st := .armed, result := 0, origin := origin } }
    let d := each (List.range 64) (fun d s =>
      let d := if (d.room s).phase == .absent && (cls.getD s none).isNone then d
        else d.modRoom s (fun r => { r with swapClass := cls.getD s none })
      d.swapHoldOf s) d
    let d := each ((List.range 127).filter d.entering) (fun d n =>
      if d.entering n then d.abortEntry n 0x0A else d) d
    each ((List.range 127).filter d.shadowUses) (fun d n => d.startWake n) d
  | _, _ => d.flpResult 0x31

/-! ### The swap point (R95 to R97) -/

/-- A changed room has stopped: drained, held, suspended, not yet started, or under a debug halt. -/
def Dev.swapStopped (d : Dev) (slot : Nat) : Bool :=
  let r := d.room slot
  !d.changes slot || r.phase == .absent || r.phase == .held || r.phase == .starting || r.phase == .drained ||
    r.phase == .suspended || (r.phase == .running && d.roomHalted slot)

/-- A time at which a swap point may fall: a package epoch boundary, and in a system of several packages a system epoch boundary, which another
package than 0 has from package 0's message (R94, R99, R347). -/
def Dev.swapTime (d : Dev) : Bool :=
  if d.others.isEmpty then d.clk.tb % 5000 == 0
  else if d.pkg == 0 then d.clk.tb % (max 5 d.plan.sysEpochUs * 1000) == 0
  else decide (0 < d.ras.sysCnt) && d.ras.sysAt == d.clk.tb

/-- The swap point has come: its time, every changed room stopped, no watermark move, every domain that the shadow set needs On. -/
def Dev.swapReady (d : Dev) : Bool :=
  (d.flp.st == .armed || d.flp.st == .draining) && !d.swapHeld && d.swapTime &&
    (List.range 64).all d.swapStopped && d.slots.all (fun s => !(d.room s).wm.busy) &&
    ((List.range 127).filter d.shadowUses).all (fun n => (d.domain n).st == .on)

/-- The debug halt of a changed room ends, its work committed and confirmed. -/
def Dev.endHalt (d : Dev) (slot : Nat) : Dev :=
  let d := if (d.room slot).phase == .running then ((d.trDrainRoom slot).boundaryConfirm slot).stopCores slot else d
  let d := each (d.coresOf slot) (fun d c => d.modCore c (fun x => { x with halted := none, pendHalt := none, stepping := none })) d
  d.modRoom slot (fun r => { r with epo := { r.epo with frozen := false } })

/-- A held room's contexts and memory go back to its confirmed checkpoint, unless they stand there. -/
def Dev.backToCkpt (d : Dev) (slot : Nat) : Dev :=
  let conf := (d.room slot).epo.conf
  let same := (d.ctxsOf slot).all (fun x => d.ckptOf slot x conf == (d.ctx x).record)
  let open_ := (d.clustersOf slot).any (fun c => (d.cluster c).undo.any (fun e => e.slot == slot))
  if (d.room slot).hasRun && (!same || open_) then d.restore slot else d

/-- A swap takes a way of a cluster's L2 from a migrated room, or makes it a locked one or an open one (R256, R269). -/
def Dev.takesL2 (d : Dev) (new : Plan) (id c w : Nat) : Bool :=
  let n : Dev := { d with plan := new }
  !(n.l2Ways c id).testBit w || (n.l2Lock c id).testBit w != (d.l2Lock c id).testBit w

/-- The lines of a room leave the ways that a swap takes from it: all of them unless it migrates (R269). -/
def Dev.flushRoom (d : Dev) (new : Plan) (slot : Nat) : Dev :=
  let id := d.idOf slot
  let n : Dev := { d with plan := new }
  let all := (d.room slot).swapClass != some .migrated
  let d := each (List.range 32) (fun d c => d.flushL2 c (fun e => e.room == id && (all || d.takesL2 new id c e.way))) d
  let d := each (d.coresOf slot) (fun d c =>
    if all || n.coreRoom c != some id then d.modCore c (fun x => { x with l1 := [] })
    else d.flushL1 c (fun e => (n.l1Lock c).testBit e.way != (d.l1Lock c).testBit e.way)) d
  each (List.range 8) (fun d r =>
    let out := fun (e : L3Line) => e.room == id && (all || !(n.l3Ways r id).testBit e.way)
    let d := each ((d.region r).l3.filter (fun e => out e && e.ld)) (fun d e => d.writeBack e.line) d
    d.modRegion r (fun g => { g with l3 := g.l3.filter (fun e => !out e) })) d

/-- A changed room leaves the old set: caches, TLBs, undo entries, Trestle share. -/
def Dev.leaveSet (d : Dev) (new : Plan) (slot : Nat) : Dev :=
  let d := d.endHalt slot
  let d := if (d.room slot).swapClass == some .migrated && (d.room slot).phase == .held then d.backToCkpt slot else d
  let d := d.flushRoom new slot
  let d := each (List.range 32) (fun d c => d.modCluster c (fun x => { x with undo := x.undo.filter (fun e => e.slot != slot) })) d
  d.tlbRemoveRoom slot

/-- Contents of a room's share of a Trestle's local store, by offset in the share: what is listed, and every byte of a unit whose
contents are open. -/
def Dev.shareBytes (d : Dev) (c slot : Nat) : List (Nat × Byte) :=
  let t := (d.cluster c).trestle
  let (u0, n) := d.lsShare c slot
  (List.range n).flatMap (fun k =>
    let u := u0 + k
    let os := if t.lsOpen.getLsbD u then (List.range 16384).map (u * 16384 + ·)
      else (t.ls.filter (fun p => p.1 / 16384 == u)).map Prod.fst
    os.map (fun o => (o - u0 * 16384, t.lsGet o)))

/-- Put a share's contents and watermark into the room's share of another cluster, as far as it reaches. -/
def Dev.putShare (d : Dev) (c slot : Nat) (bytes : List (Nat × Byte)) (wm : Nat) : Dev :=
  let (u0, n) := d.lsShare c slot
  let l := (bytes.filter (fun p => decide (p.1 < n * 16384))).map (fun p => (u0 * 16384 + p.1, p.2))
  d.modCluster c (fun x => { x with trestle := { x.trestle.lsPutAll l with
    lswm := Sparse.set 0 x.trestle.lswm slot (min wm (n * 16)) } })

/-- A context's new number when its core moves. -/
def moveCtx (cores : List (Nat × Nat)) (x : Nat) : Nat :=
  match cores.find? (fun p => p.1 == x / 4) with
  | some p => p.2 * 4 + x % 4
  | none => x

def RoomCkpt.move (k : RoomCkpt) (cores : List (Nat × Nat)) : RoomCkpt :=
  { k with fwdOut := k.fwdOut.map (fun c => { c with ctx := moveCtx cores c.ctx })
           stations := k.stations.map (fun p => (moveCtx cores p.2.ctx / 16, { p.2 with ctx := moveCtx cores p.2.ctx }))
           cores := k.cores.map (fun p => (moveCtx cores (p.1 * 4) / 4, p.2)) }

/-- Restore a migrated room's confirmed checkpoint onto its new cores: old and new cores and clusters pair in ascending order.
`d0` is the device before the new set was in force. A core that stays with the room keeps its L1U; LKFILL takes its reset values
(DESIGN CHOICE, notes/assumptions/88.md). -/
def Dev.arrive_ (d d0 : Dev) (slot : Nat) : Dev :=
  let cores := (d0.coresOf slot).zip (d.coresOf slot)
  let d := each cores (fun d (o, n) =>
    let d := each [0, 1, 2, 3] (fun d b =>
      let d := d.setCtx (n * 4 + b) { d0.ctx (o * 4 + b) with btable := [], rstack := .empty, resv := none }
      each [0, 1, 2] (fun d k =>
        { d with ckpts := Sparse.insert d.ckpts ((n * 4 + b) * 3 + k) (Sparse.get Ctx.init d0.ckpts ((o * 4 + b) * 3 + k)) }) d) d
    d.modCore n (fun x => { x with
      l1 := if (d0.coresOf slot).contains n then (d0.core n).l1 else []
      cur := (d0.core o).cur, run := .stopped, lk := d.lkReset n, bps := (d0.core o).bps })) d
  let d := each ((d0.clustersOf slot).zip (d.clustersOf slot)) (fun d (o, n) =>
    d.putShare n slot (d0.shareBytes o slot) (Sparse.get 0 (d0.cluster o).trestle.lswm slot)) d
  d.modRoom slot (fun r => { r with ckpts := r.ckpts.map (fun k => k.move cores),
                                    fwd := { r.fwd with out := r.fwd.out.map (fun c => { c with ctx := moveCtx cores c.ctx }) } })

/-- DRAM of a room's windows that lies in this package, with secondary copies. -/
def Plan.dramOf (p : Plan) (pkg id : Nat) : List (Nat × Nat) :=
  ((p.windowsOf id).filter (fun w => w.kind == 0)).flatMap (fun w => w.ranges.filter (fun x => paPkg x.1 == pkg))

/-- A range that a set grants to a room and the other does not, at least in part. -/
def newRange (old : List (Nat × Nat)) (x : Nat × Nat) : Bool := decide ((old.map (meet x)).sum < x.2)

/-- Zero-fill of what a room newly holds in this package, whether or not it has a slot here (R97): the bytes read zero from the swap
point on. -/
def Dev.grant (d : Dev) (old new : Plan) (id : Nat) : Dev :=
  let was := old.dramOf d.pkg id
  let fresh := (new.dramOf d.pkg id).filter (newRange was)
  let inAny := fun (l : List (Nat × Nat)) (a : Nat) => l.any (fun x => decide (x.1 ≤ a) && decide (a < x.1 + x.2))
  let keep := fun (c : Nat × Byte) => !(inAny fresh c.1 && !inAny was c.1)
  if fresh.isEmpty then d else { d with mem := d.mem.filter keep, chan := d.chan.filter keep }

/-- Mailbox ends of a room at their reset values. -/
def Dev.resetEnds (d : Dev) (id : Nat) : Dev :=
  let d := each (d.sends id) (fun d n => d.modMbox n (fun b => { b with queue := [], sofs := 0, ovf := false, released := 0 })) d
  each (d.receives id) (fun d n => d.modMbox n (fun b => { b with wr := 0, rd := 0, rdConf := 0, delivered := 0 })) d

/-- A room starts afresh under the new set: its contexts and registers, then its zero-fill, its start, or a hold: resources that are
lost, AUTOSTART = 0 (R96, R97). `d0` is the device before the new set was in force: the room keeps its sessions' levels and a fill that
is pending, whichever slot it had, and LAST and COUNT of ROOM_RST (R475). -/
def Dev.freshStart (d d0 : Dev) (slot : Nat) : Dev :=
  match d.rrec slot with
  | none => d
  | some r =>
    let was := match d0.slotOf r.roomId with
      | some s => d0.room s
      | none => Room.init
    let d := d.setRoom slot { (d0.room slot).blank with sess := was.sess, rstLast := was.rstLast, rstCount := was.rstCount }
    let d := d.modRoom slot (fun x => { d.freshRoom slot x with phase := .held, reason := 7 })
    let d := each (d.coresOf slot) (fun d c => d.startCore slot c .stopped) d
    let d := (d.irqImage slot).resetEnds r.roomId
    let fresh := !((d.plan.dramOf d.pkg r.roomId).filter (newRange (d0.plan.dramOf d.pkg r.roomId))).isEmpty
    let d := d.modRoom slot (fun x => { x with zeroFill := fresh || was.zeroFill })
    match d.blocked slot with
    | some reason => d.modRoom slot (fun x => { x with reason := reason })
    | none =>
      if fresh || was.zeroFill then d.modRoom slot (fun x => { x with reason := 8 })
      else if r.autostart || r.roomId == 0 then d.startRoom slot
      else d

/-- Each room proceeds by its class (Table 3.8). -/
def Dev.proceed (d d0 : Dev) (slot : Nat) : Dev :=
  let cls := (d0.room slot).swapClass
  match cls with
  | none => d
  | some .unchanged => d
  | some .migrated =>
    let d := d.arrive_ d0 slot
    let r := d.room slot
    let old := (d0.rrec slot).map RoomRec.plevReq
    let new := (d.rrec slot).map RoomRec.plevReq
    let req := if old == new then r.pwr.req else new.getD 0
    let d := d.modRoom slot (fun x => { x with swapClass := none, pwr := { x.pwr with req := req } })
    let d := if d0.traceKib slot == d.traceKib slot then d
      else d.modRoom slot (fun x => { x with dbg := { x.dbg with trcWr := 0, trcRd := 0 } })
    if r.phase == .starting || r.phase == .suspended then d
    else if r.phase == .held && (r.reason == 7 || (d.blocked slot).isSome) then d
    else if r.zeroFill then d.modRoom slot (fun x => { x with phase := .held, reason := 8 })
    else if !r.hasRun then d.startRoom slot
    else d.resumeFrom slot r.epo.conf (r.epo.cnt + 1)
  | some _ => if (d.rrec slot).isSome then d.freshStart d0 slot else d.setRoom slot (d0.room slot).blank

/-- A changed room's sessions keep their level where its new ROLES still permit their role (Table 3.9). -/
def Dev.keepLevels (d : Dev) (slot : Nat) : Dev :=
  let roles := ((d.plan.debug (d.idOf slot)).map DebugRec.roles).getD 0
  d.modRoom slot (fun r => { r with sess := r.sess.filter (fun l => roles.testBit l.role) })

/-- The shadow set becomes active, the slots rotate, and each room proceeds by its class. Open transactions complete first, under the old
set (Tables 12.6 and 13.4). STARVE_NS and SLICE_US keep what software wrote where both sets have one value for the field (DESIGN
CHOICE, notes/assumptions/76.md). -/
def Dev.swapTo (d : Dev) (new : Plan) : Dev :=
  let changed := (List.range 64).filter d.changes
  let d := d.finishAllTxns.quiet (changed.flatMap d.clustersOf).eraseDups
  let d := each changed (fun d s => d.leaveSet new s) d
  let d := d.frcLeave new
  let d0 := d
  let old := d.plan
  let d := each changed (fun d s => d.scrubTrestle s) d
  let gone := (List.range 128).filter (fun c => match d0.coreSlot c with | some s => d0.changes s | none => (new.coreRoom d0.pkg c).isSome)
  let d := each gone (fun d c =>
    let d := d.modCore c (fun x => { Core.init with traceQ := x.traceQ, traceMiss := x.traceMiss })
    { d with ctxs := d.ctxs.filter (fun p => coreOf p.1 != c), ckpts := d.ckpts.filter (fun p => coreOf (p.1 / 3) != c) }) d
  let d := { d with
    plan := new, shadowPlan := none
    store := { d.store with lastGood := d.store.active, active := d.store.shadow, shadow := [],
                            highGen := max d.store.highGen new.generation }
    flp := { d.flp with st := .idle }, devState := if d.devState == DevSt.noImage then .run else d.devState
    mboxes := d.mboxes.filter (fun p => old.mbox p.1 == new.mbox p.1)
    irqOff := d.irqOff.filter (fun s => old.route d.pkg s == new.route d.pkg s)
    irqPrio := d.irqPrio.filter (fun p => old.route d.pkg p.1 == new.route d.pkg p.1)
    ras := { d.ras with starveNs := if old.starveNs == new.starveNs then d.ras.starveNs else new.starveNs }
    bist := { d.bist with sliceUs := if old.powerPre.bistSliceUs == new.powerPre.bistSliceUs then d.bist.sliceUs
                                     else new.powerPre.bistSliceUs } }
  let d := each (new.rooms.map RoomRec.roomId) (fun d id => d.grant old new id) (d.frcPorts old)
  let d := each (List.range 64) (fun d s => d.proceed d0 s) d
  let d := each (List.range 64) (fun d s => if (d.room s).swapClass.isSome then d.modRoom s (fun r => { r with swapClass := none }) else d) d
  let d := each (changed.filter (fun s => (d.rrec s).isSome)) (fun d s => d.keepLevels s) d
  let d := each (List.range 32) (fun d c => d.retarget c) d
  d.lateMainFall

def Dev.swapPoint (d : Dev) : Dev :=
  match d.shadowPlan with
  | none => d
  | some new => if d.swapReady then d.swapTo new else d

/-- The zero-fill of a held room is complete (R97, Table 16.10): it starts, or is held for AUTOSTART = 0. -/
def Dev.zeroFillDone (d : Dev) (slot : Nat) : Dev :=
  let r := d.room slot
  if r.zeroFill then
    let d := d.modRoom slot (fun x => { x with zeroFill := false })
    if r.phase == .held && r.reason == 8 then d.scheduleStart slot else d
  else d

/-! ### START_ROOM (R92) -/

/-- Start a room by its ID: the result. -/
def Dev.startRoomCmd (d : Dev) (id origin : Nat) : Dev :=
  if d.flp.st == .draining || d.flp.st == .swapping then d.flpResult 0x31
  else
    let d := { d with flp := { d.flp with origin := origin } }
    match d.slotOf id with
    | none => d.flpResult 0x33
    | some s =>
      let r := d.room s
      if r.phase != .held then d.flpResult 0
      else if r.reason != 7 then d.flpResult 0x34
      else ((d.flpResult 0).flpTell (.floorplanCmd 5 id)).modRoom s (fun x => { x with phase := .starting, readyAt := nextPkg d.clk.tb, reason := 0 })

/-! ### Registers (Tables 3.5 to 3.7) -/

def FlpSt.code : FlpSt → Nat
  | .idle => 0
  | .loading => 1
  | .validating => 2
  | .ready => 3
  | .armed => 4
  | .draining => 5
  | .swapping => 6

def Dev.flpRead (d : Dev) (o : Nat) : Nat :=
  let f := d.flp
  match o with
  | 0x04 => f.origin * 2 ^ 24 + f.section_ * 2 ^ 16 + f.result * 2 ^ 8 + f.st.code
  | 0x08 => f.srcLo.toNat
  | 0x0C => f.srcHi.toNat
  | 0x10 => f.len
  | 0x18 => lo32 d.plan.generation
  | 0x1C => hi32 d.plan.generation
  | 0x20 => lo32 d.store.highGen
  | 0x24 => hi32 d.store.highGen
  | _ => 0

/-- FLP_CMD: the commands of Table 3.5; an unassigned code sets RESULT 0x33. -/
def Dev.flpCmd (d : Dev) (v : Nat) : Dev :=
  match v % 16 with
  | 1 => d.flpOwn Dev.loadKeeper
  | 2 => d.flpOwn (fun d => d.swap 0)
  | 3 => d.cancel 0
  | 4 => d.revert 0
  | 5 => d.startRoomCmd (field v 31 24) 0
  | _ => d.flpResult 0x33

/-- Writes of the FLP block: room 0's keeper alone (R90). -/
def Dev.flpWrite (d : Dev) (a : Acc) (o v : Nat) : Dev :=
  let f := d.flp
  if !a.keeper || a.id != 0 then d
  else match o with
    | 0x00 => d.flpCmd v
    | 0x08 => { d with flp := { f with srcLo := BitVec.ofNat 32 (v / 8 * 8) } }
    | 0x0C => { d with flp := { f with srcHi := BitVec.ofNat 32 (v % 2 ^ 20) } }
    | 0x10 => { d with flp := { f with len := clamp 1024 0x400000 (v % 2 ^ 23) } }
    | _ => d

/-! ### Rows -/

def execValidationDone (peers : List PeerVerdict) (s : State) : Ans := onDev (fun d => d.validationDone peers) s

def execSwapPoint (s : State) : Ans := onDev (fun d => d.swapPoint) s

def execZeroFillDone (slot : Nat) (s : State) : Ans := onDev (fun d => d.zeroFillDone slot) s

end Sys2Proof.Machine
end

