-- ==== Sys2Proof/Machine/CacheCtl.lean ====
section
/-!
DEFINITION. What the keeper controls of caches, TLBs and watermarks: LKFILL (R257), TLB maintenance (R233), watermark moves (R246 to
R248), and the local-store watermark (R317), with the secure claims (R250).
-/
namespace Sys2Proof.Machine

/-! ### LKFILL (Table 11.2) -/

def Dev.lkRead (d : Dev) (a : Acc) : Nat :=
  let k := (d.core a.core).lk
  if d.timed a.slot then k.count * 65536 + k.l2Way * 1024 + k.l1Way * 256 + b2n k.enL1 * 2 + b2n k.enL2 else 0

/-- CLR_L1: the lines of way L1_WAY leave the core's L1U. -/
def Dev.clrL1 (d : Dev) (core : Nat) : Dev :=
  let w := (d.core core).lk.l1Way
  d.flushL1 core (fun e => e.way == w)

/-- CLR_L2: the lines of way L2_WAY leave the cluster's L2 with their L1U copies. -/
def Dev.clrL2 (d : Dev) (core : Nat) : Dev :=
  let w := (d.core core).lk.l2Way
  d.flushL2 (core / 4) (fun e => e.way == w)

def Dev.lkWrite (d : Dev) (a : Acc) (v : Nat) : Dev :=
  if !a.keeper || !d.timed a.slot then d
  else
    let k := (d.core a.core).lk
    let l2 := d.lkLock (a.core / 4) a.id
    let l1 := d.l1Lock a.core
    let w2 := field v 13 10
    let w1 := field v 9 8
    let en1 := v.testBit 1
    let k' : Lkfill :=
      { count := if en1 && !k.enL1 then 0 else k.count,
        l2Way := if l2.testBit w2 then w2 else (lowestBit l2 16).getD 0,
        l1Way := if l1.testBit w1 then w1 else (lowestBit l1 8).getD 0,
        enL1 := en1, enL2 := en1 || v.testBit 0 }
    let d := d.modCore a.core (fun c => { c with lk := k' })
    let d := if v.testBit 3 then d.clrL1 a.core else d
    if v.testBit 2 then d.clrL2 a.core else d

/-! ### TLB maintenance (Table 9.9) -/

def Dev.tlbiRead (d : Dev) (a : Acc) (r : Nat) : Nat :=
  let t := (d.room a.slot).tlbi
  if r == 0x100 then t.vaLo.toNat
  else if r == 0x104 then t.vaHi.toNat
  else if r == 0x108 then b2n t.busy * 2 ^ 31 + t.asid.toNat * 16 + b2n t.bothw * 8
  else 0

def Dev.tlbiVaWrite (d : Dev) (a : Acc) (r v : Nat) : Dev :=
  if a.pl == 0 then d
  else d.modRoom a.slot (fun x =>
    if r == 0x100 then { x with tlbi := { x.tlbi with vaLo := BitVec.ofNat 32 (v / 4096 * 4096) } }
    else { x with tlbi := { x.tlbi with vaHi := BitVec.ofNat 32 (v % 65536) } })

/-- Entries that an operation removes. -/
def tlbiMatch (op : Nat) (worlds : List Bool) (asid : BitVec 16) (va : Nat) (e : TlbEntry) : Bool :=
  worlds.contains e.secure &&
  (let maps := e.va / 2 ^ e.size.bits == va / 2 ^ e.size.bits
   if op == 1 then true
   else if op == 2 then !e.g && e.asid == asid
   else if op == 3 then maps && (e.g || e.asid == asid)
   else maps)

/-- OP and BOTHW of a write to TLBI_CTL. -/
def tlbiOp (v : Nat) : Nat := if 4 < v % 8 then 0 else v % 8
def tlbiBoth (a : Acc) (v : Nat) : Bool := v.testBit 3 && a.pl == 2

/-- An invalidation on the cores of a room here (R233). -/
def Dev.invalidateOn (d : Dev) (slot op : Nat) (both secure : Bool) (asid : BitVec 16) (va : Nat) : Dev :=
  if op == 0 then d
  else d.tlbRemove slot (fun e => e.room == d.idOf slot && tlbiMatch op (if both then [true, false] else [secure]) asid va e)

/-- The invalidation that a core here asks for, with the VA that goes with it: on the cores here, and told to the other packages that the room
spans. -/
def Dev.invalidate (d : Dev) (a : Acc) (v va : Nat) : Dev :=
  let op := tlbiOp v
  let asid := BitVec.ofNat 16 (v / 16)
  let d := d.invalidateOn a.slot op (tlbiBoth a v) a.secure asid va
  if op != 0 && d.spans a.slot then d.emit (.tlbi a.id op (tlbiBoth a v) a.secure asid va) else d

/-- An invalidation that another package tells of (R233). -/
def Dev.tlbiTold (d : Dev) (room op : Nat) (both secure : Bool) (asid : BitVec 16) (va : Nat) : Dev :=
  match d.slotOf room with
  | some s => if d.spans s then d.invalidateOn s op both secure asid va else d
  | none => d

/-- TLBI_CTL: the invalidation acts on every core of the room; BUSY until it is complete. -/
def Dev.tlbiWrite (d : Dev) (a : Acc) (v : Nat) : Dev :=
  let t := (d.room a.slot).tlbi
  if a.pl == 0 || t.busy then d
  else
    let d := d.modRoom a.slot (fun x => { x with tlbi := { x.tlbi with
      asid := BitVec.ofNat 16 (v / 16), bothw := tlbiBoth a v, busy := tlbiOp v != 0 } })
    d.invalidate a v (t.vaLo.toNat + t.vaHi.toNat * 2 ^ 32)

/-- The block of the room in another package (R233): what the cores here write to its TLBI_VA is kept for the operation, which acts here too.
Whether it is BUSY there, its own package knows (notes/assumptions/63.md). -/
def Dev.tlbiFar (d : Dev) (a : Acc) (pkg r v : Nat) : Dev :=
  let t := (d.room a.slot).tlbi
  let put := fun (k x : Nat) => d.modRoom a.slot (fun y => { y with tlbi := { y.tlbi with far := Sparse.insert y.tlbi.far k x } })
  if a.pl == 0 then d
  else match r with
    | 0x100 => put (pkg * 2) (v / 4096 * 4096)
    | 0x104 => put (pkg * 2 + 1) (v % 65536)
    | 0x108 => d.invalidateOn a.slot (tlbiOp v) (tlbiBoth a v) a.secure (BitVec.ofNat 16 (v / 16))
        (Sparse.get 0 t.far (pkg * 2) + Sparse.get 0 t.far (pkg * 2 + 1) * 2 ^ 32)
    | _ => d

/-! ### Watermark moves (Table 10.5) -/

def Dev.winOf (d : Dev) (slot win : Nat) : Option WindowRec :=
  (d.plan.windowsOf (d.idOf slot)).find? (fun w => w.index == win)

def Dev.wmRead (d : Dev) (a : Acc) (r : Nat) : Nat :=
  let m := (d.room a.slot).wm
  let cur := ((d.winOf a.slot m.win).map (d.wmark a.slot)).getD 0
  if r == 0x140 then m.newLo.toNat
  else if r == 0x144 then m.newHi.toNat
  else if r == 0x148 then b2n m.busy * 2 ^ 31 + m.win
  else if r == 0x150 then lo32 cur / 4096 * 4096
  else if r == 0x154 then cur / 2 ^ 32 % 512
  else 0

/-- The span of a move in PAs. -/
def Dev.wmSpan (d : Dev) (slot : Nat) (w : WindowRec) (target : Nat) : Nat × Nat :=
  (w.base + min target (d.wmark slot w), w.base + max target (d.wmark slot w))

/-- Buffered stores into the span are written, and its lines leave the caches (R247 steps 2 and 3). -/
def Dev.wmFlush (d : Dev) (slot lo hi : Nat) : Dev :=
  let d := each (d.coresOf slot) (fun d c => d.drain c) d
  let d := each (d.coresOf slot) (fun d c =>
    d.flushL1 c (fun e => decide (lo ≤ e.line * 64) && decide (e.line * 64 < hi))) d
  d.flushRange slot lo hi

/-- A move starts: its span is held and flushed (R247). -/
def Dev.wmStart (d : Dev) (slot : Nat) (w : WindowRec) (ofs : Nat) : Dev :=
  let target := min w.size ofs
  let (lo, hi) := d.wmSpan slot w target
  ((d.trDrainRoom slot).wmFlush slot lo hi).modRoom slot (fun x =>
    { x with wm := { x.wm with moving := w.index, busy := true, target := target } })

/-- A write of the block: with GO it starts a move, of which the other packages that the room spans are told. -/
def Dev.wmWrite (d : Dev) (a : Acc) (r v : Nat) : Dev :=
  let m := (d.room a.slot).wm
  if !a.keeper || m.busy then d
  else if r == 0x140 then d.modRoom a.slot (fun x => { x with wm := { m with newLo := BitVec.ofNat 32 (v / 4096 * 4096) } })
  else if r == 0x144 then d.modRoom a.slot (fun x => { x with wm := { m with newHi := BitVec.ofNat 32 (v % 512) } })
  else if r == 0x148 then
    let win := v % 8
    let d := d.modRoom a.slot (fun x => { x with wm := { m with win := win } })
    match d.winOf a.slot win with
    | none => d
    | some w =>
      if !v.testBit 3 then d
      else
        let ofs := m.newLo.toNat + m.newHi.toNat * 2 ^ 32
        let d := d.wmStart a.slot w ofs
        if d.spans a.slot then d.emit (.watermark a.id win (min w.size ofs)) else d
  else d

/-- The block of the room in another package: what the cores here write to WM_NEW there is kept for the move, which acts here too (R247). -/
def Dev.wmFar (d : Dev) (a : Acc) (pkg r v : Nat) : Dev :=
  let m := (d.room a.slot).wm
  let put := fun (k x : Nat) => d.modRoom a.slot (fun y => { y with wm := { m with far := Sparse.insert m.far k x } })
  if !a.keeper || m.busy then d
  else match r with
    | 0x140 => put (pkg * 2) (v / 4096 * 4096)
    | 0x144 => put (pkg * 2 + 1) (v % 512)
    | 0x148 => match d.winOf a.slot (v % 8) with
      | some w => if v.testBit 3 then d.wmStart a.slot w (Sparse.get 0 m.far (pkg * 2) + Sparse.get 0 m.far (pkg * 2 + 1) * 2 ^ 32) else d
      | none => d
    | _ => d

/-- A move that another package tells of (R247). -/
def Dev.wmTold (d : Dev) (room win ofs : Nat) : Dev :=
  match d.slotOf room with
  | some s => match d.winOf s win with
    | some w => if d.spans s && !(d.room s).wm.busy then d.wmStart s w ofs else d
    | none => d
  | none => d

/-- A miss register holds a line of a span for an access of a core. -/
def Dev.missIn (d : Dev) (core lo hi : Nat) : Bool :=
  (d.cluster (core / 4)).miss.any (fun p => overlap (p.2.line * 64) 64 lo (hi - lo) &&
    ((p.2.core, p.2.use) :: p.2.secs).any (fun q => q.1 == core && !q.2.isHint))

/-- An access to a span that was issued earlier is still open: a streamed operand of the room's Trestle work, a read of PCIe memory, or an access
that waits in a miss register (DEDUCED, notes/assumptions/94.md). -/
def Dev.spanOpen (d : Dev) (slot lo hi : Nat) : Bool :=
  let meets := fun (p : Piece) => overlap p.1 p.2 lo (hi - lo)
  (d.stationsOf slot).any (fun p =>
    (d.trSources p.1 slot p.2).any meets || (match d.trStore p.1 slot p.2 with
      | some (true, a, bs) => meets (a, bs.length)
      | _ => false)) ||
    (d.coresOf slot).any (fun c => (d.core c).wait.any (fun w => meets (w.pa, w.len)) || d.missIn c lo hi)

/-- The move is done once no earlier access to the span is open: the new watermark is in force. -/
def Dev.wmDone (d : Dev) (slot : Nat) : Dev :=
  let m := (d.room slot).wm
  let span := ((d.winOf slot m.moving).map (fun w => d.wmSpan slot w m.target)).getD (0, 0)
  if m.busy && !d.spanOpen slot span.1 span.2 then (d.wmFlush slot span.1 span.2).modRoom slot (fun x =>
    { x with wmarks := Sparse.insert x.wmarks m.moving m.target, wm := { m with busy := false } })
  else d

/-! ### Local-store watermark (R317, Table 14.6) -/

def Dev.lswmOf (d : Dev) (c slot : Nat) : Nat := Sparse.get 0 (d.cluster c).trestle.lswm slot

/-- Operations of a room on a cluster. -/
def Dev.ownOp (d : Dev) (slot : Nat) (s : Station) : Bool := d.coreSlot (coreOf s.ctx) == some slot

/-- A new watermark applies to later operations; BUSY while an operation of the room that issued earlier waits. -/
def Dev.lswmWrite (d : Dev) (a : Acc) (v : Nat) : Dev :=
  if !a.keeper then d
  else
    let c := a.core / 4
    let wm := min (v % 512) ((d.lsShare c a.slot).2 * 16)
    d.modCluster c (fun x => { x with trestle := { x.trestle with
      lswm := Sparse.set 0 x.trestle.lswm a.slot wm,
      queue := x.trestle.queue.map (fun s => if d.ownOp a.slot s then { s with early := true } else s),
      lswmBusy := if d.trWaiting c a.slot then insertAsc x.trestle.lswmBusy a.slot else x.trestle.lswmBusy } })

/-- The operations that issued before the write have completed: BUSY clears. -/
def Dev.lswmDone (d : Dev) (c slot : Nat) : Dev :=
  if (d.cluster c).trestle.queue.any (fun s => d.ownOp slot s && s.early) then d
  else d.modCluster c (fun x => { x with trestle := { x.trestle with lswmBusy := x.trestle.lswmBusy.filter (· != slot) } })

/-! ### Rows without a register of their own -/

def execTlbiComplete (slot : Nat) (s : State) : Ans :=
  onDev (fun d => d.modRoom slot (fun x => { x with tlbi := { x.tlbi with busy := false } })) s

def execWatermarkMoveDone (slot : Nat) (s : State) : Ans := onDev (fun d => d.wmDone slot) s

def execTrLswmDone (cluster slot : Nat) (s : State) : Ans := onDev (fun d => d.lswmDone cluster slot) s

end Sys2Proof.Machine
end

