-- ==== Sys2Proof/Machine/TrestleRegs.lean ====
section
/-!
DEFINITION. Trestle and forwarded-block rows that no instruction issues (14_trestle.md): completions, the wheel, and the
registers of Tables 14.6 and 14.7.
-/
namespace Sys2Proof.Machine

/-! ### The wheel (R318, R320) -/

/-- At a slot boundary where the room changes the unit takes over the incoming room's state. A helper serves its own cluster in even turns
and the forwarded cluster in odd turns; a retired datapath serves nobody. -/
def Dev.slotSwitch (d : Dev) (c : Nat) : Dev := if 32 ≤ c then d else d.trLoad c (d.wheelNow c)

/-! ### Forwarded commands (R323 to R327) -/

/-- A forwarded fault (R325): count, last SEQ, and the interrupt of FWD_CTL. -/
def Dev.fwdFault (d : Dev) (slot seq : Nat) : Dev :=
  let d := d.modRoom slot (fun r => { r with fwd := { r.fwd with fltCnt := satInc max32 r.fwd.fltCnt, last := seq } })
  let f := (d.room slot).fwd
  if f.irqEn && d.routedTo (864 + f.irqOfs) slot then d.raise (864 + f.irqOfs) else d

/-- A command leaves the outstanding list: its tag completes and its register, unless cancelled, takes a value. -/
def Dev.fwdFinish (d : Dev) (slot : Nat) (c : FwdCmd) (v : Word) : Dev :=
  let d := d.modRoom slot (fun r => { r with fwd := { r.fwd with out := r.fwd.out.filter (· != c) } })
  match c.dst with
  | some p => d.modCtx c.ctx (fun x => x.setP p v)
  | none => d

/-- Slot of the room of this package whose completion page holds a PA. -/
def Dev.cplSlot (d : Dev) (pa : Nat) : Option Nat :=
  (d.plan.fwds.find? (fun f => decide (f.cplPa ≤ pa) && decide (pa < f.cplPa + 4096) && (d.slotOf f.roomId).isSome)).bind
    (fun f => d.slotOf f.roomId)

/-- A completion write at the root complex (R324, R326): matched by address, SEQ and RGEN, else discarded and counted. A
matched write goes on to memory. -/
def Dev.fwdCompletion (d : Dev) (pa : Nat) (bs : List Byte) : Dev :=
  match d.cplSlot pa with
  | none => d
  | some slot =>
    let seq := leAt bs 0 8
    let base := ((d.plan.fwd (d.idOf slot)).map FwdRec.cplPa).getD 0
    let ok := bs.length == 64 && pa == base + seq % 64 * 64
    match (d.room slot).fwd.out.find? (fun c => c.seq == seq && c.rgen == leAt bs 16 1) with
    | some c =>
      if ok then
        let d := (d.engineWrite (d.idOf slot) pa bs).fwdFinish slot c (BitVec.ofNat 64 (leAt bs 8 8))
        if leAt bs 17 1 == 0 then d else d.fwdFault slot seq
      else d.modRoom slot (fun r => { r with fwd := { r.fwd with badCnt := satInc max32 r.fwd.badCnt } })
    | none => d.modRoom slot (fun r => { r with fwd := { r.fwd with badCnt := satInc max32 r.fwd.badCnt } })

/-- A command has not completed TMO_US after posting (R325). -/
def Dev.fwdTimeout (d : Dev) (slot seq : Nat) : Dev :=
  match (d.room slot).fwd.out.find? (fun c => c.seq == seq) with
  | some c => if c.due ≤ d.clk.tb then (d.fwdFinish slot c 0xFFFFFFFFFFFFFFFF).fwdFault slot seq else d
  | none => d

/-! ### Registers (Tables 14.6 and 14.7) -/

def TrHealth.code : TrHealth → Nat
  | .healthy => 0
  | .forwarded => 1
  | .lost => 2

/-- A room's Trestle or forwarded register, at its view-page offset. -/
def Dev.trRegRead (d : Dev) (a : Acc) (r : Nat) : Nat :=
  let c := a.core / 4
  let t := (d.cluster c).trestle
  let isA := d.plan.roomA d.pkg c == some a.id
  let f := (d.room a.slot).fwd
  if r == 0x300 then
    t.health.code * 2 ^ 24 + (if t.health == .forwarded then t.helper else 0) * 2 ^ 19 +
      (if isA then d.tslotA c else 16 - d.tslotA c) * 2 ^ 14 + (d.lsShare c a.slot).2 * 16
  else if r == 0x304 then b2n (t.lswmBusy.contains a.slot) * 2 ^ 31 + d.lswmOf c a.slot
  else if r == 0x310 then b2n f.irqEn * 32 + f.irqOfs
  else if r == 0x314 then f.out.length
  else if r == 0x318 then f.fltCnt
  else if r == 0x31C then f.badCnt
  else if r == 0x320 then lo32 f.last
  else if r == 0x324 then hi32 f.last
  else 0

/-- Side effect of a read: the RC counters clear. -/
def Dev.trRegReadEff (d : Dev) (a : Acc) (r : Nat) : Dev :=
  if r == 0x318 then d.modRoom a.slot (fun x => { x with fwd := { x.fwd with fltCnt := 0 } })
  else if r == 0x31C then d.modRoom a.slot (fun x => { x with fwd := { x.fwd with badCnt := 0 } })
  else d

def Dev.trRegWrite (d : Dev) (a : Acc) (r v : Nat) : Dev :=
  if r == 0x304 then d.lswmWrite a v
  else if r == 0x310 && a.keeper then
    d.modRoom a.slot (fun x => { x with fwd := { x.fwd with irqEn := v.testBit 5, irqOfs := v % 32 } })
  else d

/-- TR_HEALTH and TR_RAS_CFG of a cluster (Table 14.7). -/
def Dev.trSysRead (d : Dev) (c r : Nat) : Nat :=
  let t := (d.cluster c).trestle
  if r == 0x10000 then
    b2n t.spareUsed * 2 ^ 30 + t.lsRetired.toNat * 2 ^ 13 + (if t.serves then t.served else 0) * 2 ^ 8 +
      b2n t.serves * 2 ^ 7 + (if t.health == .forwarded then t.helper else 0) * 4 + t.health.code
  else if r == 0x10008 then t.ceLimit
  else 0

def Dev.trSysWrite (d : Dev) (c r v : Nat) : Dev :=
  if r == 0x10008 then
    d.modCluster c (fun x => { x with trestle := { x.trestle with ceLimit := max 1 (v % 64) } })
  else d

/-! ### Rows -/

def execTrestleOpComplete (cluster slot : Nat) (s : State) : Ans :=
  onDev (fun d => (d.trComplete cluster slot).getD (d.trAsk cluster slot)) s

def execTrestleSlotSwitch (cluster : Nat) (s : State) : Ans := onDev (fun d => d.slotSwitch cluster) s

def execForwardedCompletion (pa : Nat) (data : List Byte) (s : State) : Ans := onDev (fun d => d.fwdCompletion pa data) s

def execForwardedTimeout (slot seq : Nat) (s : State) : Ans := onDev (fun d => d.fwdTimeout slot seq) s

end Sys2Proof.Machine
end

