-- ==== Sys2Proof/Machine/External.lean ====
section
/-!
DEFINITION. The interfaces of 19_external_interfaces.md: CAN controllers, management MACs and UARTs with their registers, the PCIe root
ports, the memory controllers' registers, PMBus telemetry, and the Elvust links.
-/
namespace Sys2Proof.Machine

/-! ### CAN (R427, R428, Table 19.6) -/

def Can.ctl (c : Can) : Nat :=
  b2n c.en * 2 ^ 31 + b2n c.fd * 2 ^ 30 + b2n c.listen * 2 ^ 29 + b2n c.wake * 2 ^ 28 + c.txreq.toNat

def Dev.canRead (d : Dev) (k o : Nat) : Nat :=
  let c := d.can k
  if d.clk.tb < c.deafUntil then 0
  else if o == 0x000 then c.ctl
  else if o == 0x004 then c.nbt.toNat
  else if o == 0x008 then c.dbt.toNat
  else if o == 0x00C then
    b2n c.ready * 2 ^ 31 + c.st * 2 ^ 29 + c.fifo.length * 2 ^ 23 + min c.tec 511 * 2 ^ 8 + min c.rcv 255
  else if decide (0x100 ≤ o) && decide (o < 0x340) then
    leNat ((List.range 4).map (fun i => Sparse.get (0 : Byte) c.txbuf (o - 0x100 + i)))
  else if decide (0x400 ≤ o) && decide (o < 0x448) then leAt (c.fifo.headD []) (o - 0x400) 4
  else if decide (0x600 ≤ o) && decide (o < 0x680) then (Sparse.get (0 : W32) c.filters ((o - 0x600) / 4)).toNat
  else 0

/-- Side effect of a read: CAN_STAT takes back the event conditions. -/
def Dev.canReadEff (d : Dev) (k o : Nat) : Dev :=
  if o == 0x00C && decide ((d.can k).deafUntil ≤ d.clk.tb) then
    d.modCan k (fun c => { c with errChange := false, readyEvt := false })
  else d

def canNbt (v : Nat) : Nat :=
  max 1 (field v 24 16) * 2 ^ 16 + max 2 (field v 15 8) * 2 ^ 8 + max 2 (field v 6 0)
def canDbt (v : Nat) : Nat :=
  b2n (v.testBit 31) * 2 ^ 31 + max 1 (field v 20 16) * 2 ^ 16 + max 1 (field v 12 8) * 2 ^ 8 + max 1 (field v 3 0)

def Dev.canWrite (d : Dev) (k o v : Nat) : Dev :=
  let c := d.can k
  if o == 0x000 then
    let en := v.testBit 31
    d.setCan k { c with
      en := en, fd := v.testBit 30, listen := v.testBit 29, wake := v.testBit 28, txreq := BitVec.ofNat 8 v
      fifo := if v.testBit 16 then c.fifo.drop 1 else c.fifo, txDone := false
      ready := if en && !c.en then decide (c.deafUntil ≤ d.clk.tb) else c.ready }
  else if o == 0x004 then d.setCan k { c with nbt := BitVec.ofNat 32 (canNbt v) }
  else if o == 0x008 then d.setCan k { c with dbt := BitVec.ofNat 32 (canDbt v) }
  else if decide (0x100 ≤ o) && decide (o < 0x340) then
    d.setCan k { c with txbuf := (List.range 4).foldl (fun m i =>
      Sparse.set (0 : Byte) m (o - 0x100 + i) (BitVec.ofNat 8 (v / 256 ^ i))) c.txbuf }
  else if decide (0x600 ≤ o) && decide (o < 0x680) then
    d.setCan k { c with filters := Sparse.set (0 : W32) c.filters ((o - 0x600) / 4) (BitVec.ofNat 32 v) }
  else d

/-- ID word of a frame and whether it is an FD frame: bytes 0 to 3, and bit 0 of byte 5 (notes/assumptions/40.md). -/
def canId (l : List Byte) : Nat := leAt l 0 4
def canFd (l : List Byte) : Bool := (leAt l 5 1).testBit 0

/-- A frame passes an acceptance filter: every bit that the mask names agrees. -/
def Can.passes (c : Can) (l : List Byte) : Bool :=
  (List.range 16).any (fun i =>
    let id := (Sparse.get (0 : W32) c.filters (2 * i)).toNat
    let mask := (Sparse.get (0 : W32) c.filters (2 * i + 1)).toNat
    (id ^^^ canId l) &&& mask == 0)

def Dev.canReceived (d : Dev) (k : Nat) (frame : List Byte) : Dev :=
  let c := d.can k
  let l := slice frame 0 72
  if d.canOnBus k && (c.fd || !canFd l) && c.passes l && decide (c.fifo.length < 32) then d.setCan k { c with fifo := c.fifo ++ [l] }
  else d

/-- Buffer `b` of a controller, 72 bytes. -/
def Can.buffer (c : Can) (b : Nat) : List Byte := (List.range 72).map (fun i => Sparse.get (0 : Byte) c.txbuf (b * 72 + i))

def Dev.canSent (d : Dev) (k b : Nat) : Dev :=
  let c := d.can k
  let frozen := d.perFrozen k
  if d.canOnBus k && !c.listen && decide (b < 8) && c.txreq.getLsbD b && (c.fd || !canFd (c.buffer b)) && !(frozen && c.frz) then
    (d.setCan k { c with txreq := c.txreq &&& ~~~ (BitVec.ofNat 8 (2 ^ b)), txDone := true, frz := frozen }).emit
      (.canFrame k b (c.buffer b))
  else d

/-- Error state by the counters (ISO 11898-1, PRESUMED: notes/assumptions/40.md). -/
def canState (tec rcv : Nat) : Nat := if 256 ≤ tec then 2 else if 128 ≤ tec || 128 ≤ rcv then 1 else 0

def Dev.canError (d : Dev) (k tec rcv : Nat) : Dev :=
  if d.canOnBus k then
    d.modCan k (fun c => { c with tec := min tec 511, rcv := min rcv 255, st := canState tec rcv, errChange := true })
  else d

/-- The wake-up pattern on RXD of a controller that sleeps (R428). -/
def Dev.canPattern (d : Dev) (k : Nat) : Dev :=
  let c := d.can k
  let st := (d.domain (105 + k)).st
  if decide (k < 4) && !d.clk.stopped && ((st == .retention && c.en && c.wake) || (st == .off && c.watch)) then d.startWake (105 + k)
  else d

/-! ### Management MACs (R429, Table 19.7) -/

def Dev.macRead (d : Dev) (k o : Nat) : Nat :=
  let m := d.mac k
  match o with
  | 0x00 => b2n m.en * 2 ^ 31 + m.speed.toNat * 2 ^ 29 + b2n m.link * 2 ^ 28
  | 0x04 => lo32 m.rxBase
  | 0x08 => hi32 m.rxBase
  | 0x0C => lo32 m.txBase
  | 0x10 => hi32 m.txBase
  | 0x14 => m.txLog2 * 2 ^ 16 + m.rxLog2
  | 0x18 => m.txTail * 2 ^ 16 + m.rxHead
  | 0x1C => lo32 m.ts.toNat
  | 0x20 => hi32 m.ts.toNat
  | 0x24 => b2n m.fault * 2 ^ 31 + m.drop
  | _ => 0

/-- Side effects of reads: the read that tells of a condition takes it back; DROP clears. -/
def Dev.macReadEff (d : Dev) (k o : Nat) : Dev :=
  d.modMac k (fun m =>
    match o with
    | 0x00 => { m with srcLink := false }
    | 0x18 => { m with srcRx := false }
    | 0x20 => { m with srcTs := false }
    | 0x24 => { m with drop := 0 }
    | _ => m)

def Mac.fit (m : Mac) : Mac :=
  { m with rxHead := m.rxHead % 2 ^ m.rxLog2, txHead := m.txHead % 2 ^ m.txLog2,
           txTail := if 2 ^ m.txLog2 ≤ m.txTail then 0 else m.txTail }

def Dev.macWrite (d : Dev) (k o v : Nat) : Dev :=
  d.modMac k (fun m =>
    match o with
    | 0x00 => { m with en := v.testBit 31 }
    | 0x04 => { m with rxBase := setField m.rxBase 31 0 (v / 64 * 64) }
    | 0x08 => { m with rxBase := setField m.rxBase 51 32 v }
    | 0x0C => { m with txBase := setField m.txBase 31 0 (v / 64 * 64) }
    | 0x10 => { m with txBase := setField m.txBase 51 32 v }
    | 0x14 => Mac.fit { m with txLog2 := clamp 4 12 (field v 19 16), rxLog2 := clamp 4 12 (field v 3 0) }
    | 0x18 => Mac.fit { m with txTail := field v 27 16, srcTx := false }
    | 0x24 => { m with fault := m.fault && !v.testBit 31 }
    | _ => m)

/-- A descriptor or buffer access fails: the MAC stops. -/
def Dev.macFault (d : Dev) (k : Nat) : Dev := d.modMac k (fun m => { m with fault := true })

/-- A frame for the owner's ring: descriptor bytes 0 to 7 PA, 8 and 9 length, 10 and 11 flags (bit 0: the MAC's), 12 to 15 timestamp
(notes/assumptions/41.md). -/
def Dev.macReceived (d : Dev) (k : Nat) (fr : MacFrame) : Dev :=
  let m := d.mac k
  if !d.macOn k || fr.toLobby || 1522 < fr.bytes.length || fr.bytes.isEmpty then d
  else
    let at_ := m.rxBase + 16 * m.rxHead
    if !d.macMay k .read at_ 16 then d.macFault k
    else
      let desc := d.bytes at_ 16
      let buf := leAt desc 0 8
      let n := fr.bytes.length
      if !(leAt desc 10 2).testBit 0 || leAt desc 8 2 < n then d.setMac k { m with drop := satInc 0xFFFF m.drop }
      else if !d.macMay k .write buf n || !d.macMay k .write (at_ + 8) 8 then d.macFault k
      else
        let d := d.engineWrite ((d.macRoom k).map Prod.snd |>.getD 0) buf fr.bytes
        let ts := if fr.ptpEvent then lo32 d.clk.tb else leAt desc 12 4
        let d := d.engineWrite ((d.macRoom k).map Prod.snd |>.getD 0) (at_ + 8) (leBytes 2 n ++ leBytes 2 (leAt desc 10 2 - 1) ++ leBytes 4 ts)
        d.modMac k (fun m =>
          let m := { m with rxHead := (m.rxHead + 1) % 2 ^ m.rxLog2, srcRx := true }
          if fr.ptpEvent then { m with ts := BitVec.ofNat 64 d.clk.tb, srcTs := true } else m)

/-- The next frame of the transmit ring has gone. -/
def Dev.macSent (d : Dev) (k : Nat) (ptp : Bool) : Dev :=
  let m := d.mac k
  let frozen := d.perFrozen (4 + k)
  if !d.macOn k || m.txHead == m.txTail || (frozen && m.frz) then d
  else
    let at_ := m.txBase + 16 * m.txHead
    if !d.macMay k .read at_ 16 then d.macFault k
    else
      let desc := d.bytes at_ 16
      let buf := leAt desc 0 8
      let n := min 1522 (leAt desc 8 2)
      if !d.macMay k .read buf n || (ptp && !d.macMay k .write (at_ + 12) 4) then d.macFault k
      else
        let d := d.emit (.macFrame k (d.bytes buf n))
        let d := if ptp then d.engineWrite ((d.macRoom k).map Prod.snd |>.getD 0) (at_ + 12) (leBytes 4 (lo32 d.clk.tb)) else d
        d.modMac k (fun m =>
          let m := { m with txHead := (m.txHead + 1) % 2 ^ m.txLog2, srcTx := true, frz := frozen }
          if ptp then { m with ts := BitVec.ofNat 64 d.clk.tb, srcTs := true } else m)

def Dev.macLink (d : Dev) (k : Nat) (up : Bool) (speed : BitVec 2) : Dev :=
  if k < 2 then d.modMac k (fun m => { m with link := up, speed := speed, srcLink := true }) else d

/-! ### UARTs (R431, Table 19.7) -/

def Dev.uartRead (d : Dev) (k o : Nat) : Nat :=
  let u := d.uart k
  match o with
  | 0x00 => b2n u.en * 2 ^ 31 + u.par * 16 + b2n u.stop2 * 8 + b2n u.bits7 * 4
  | 0x04 => u.divInt * 16 + u.divFrac
  | 0x0C => match u.rx with | b :: _ => 256 + b.toNat | [] => 0
  | 0x10 => u.rx.length * 2 ^ 16 + u.tx.length * 2 ^ 8 + u.err.toNat
  | _ => 0

/-- A read of UART_RX pops the oldest byte. -/
def Dev.uartReadEff (d : Dev) (k o : Nat) : Dev :=
  if o == 0x0C then d.modUart k (fun u => { u with rx := u.rx.drop 1 }) else d

def Dev.uartWrite (d : Dev) (k o v : Nat) : Dev :=
  d.modUart k (fun u =>
    match o with
    | 0x00 => { u with en := v.testBit 31, par := if field v 5 4 == 3 then 0 else field v 5 4, stop2 := v.testBit 3, bits7 := v.testBit 2 }
    | 0x04 => { u with divInt := max 4 (field v 19 4), divFrac := v % 16 }
    | 0x08 => if u.tx.length < 64 then { u with tx := u.tx ++ [BitVec.ofNat 8 v] } else u
    | 0x10 => { u with err := u.err &&& ~~~ (BitVec.ofNat 4 v) }
    | _ => u)

/-- A byte on RXD: a UART of no room serves the Lobby, whose messages are commands of their own; a byte that meets a sleeping domain
wakes it and is lost. -/
def Dev.uartReceived (d : Dev) (k : Nat) (b : Byte) (err : BitVec 4) : Dev :=
  let u := d.uart k
  if 2 ≤ k || (d.periphSlot (6 + k)).isNone || !u.en || d.clk.stopped then d
  else if !d.awake (111 + k) then d.startWake (111 + k)
  else
    let b := if u.bits7 then b &&& 0x7F else b
    if 64 ≤ u.rx.length then d.setUart k { u with err := u.err ||| err ||| 1 }
    else d.setUart k { u with rx := u.rx ++ [b], err := u.err ||| err }

def Dev.uartSent (d : Dev) (k : Nat) : Dev :=
  let u := d.uart k
  let frozen := d.perFrozen (6 + k)
  match u.tx with
  | [] => d
  | b :: t =>
    if decide (k < 2) && u.en && d.perAwake (6 + k) && !(frozen && u.frz) then
      (d.setUart k { u with tx := t, frz := frozen }).emit (.uartByte k (if u.bits7 then b &&& 0x7F else b))
    else d

/-! ### PCIe (R422 to R426) -/

def Dev.pcieDeny (d : Dev) (p : Nat) : Dev := d.modPciePort p (fun x => { x with deny := satInc max32 x.deny })

/-- The owner of a port as a room of this package. -/
def Dev.portRoom (d : Dev) (p : Nat) : Option (Nat × Nat) :=
  let id := d.plan.portOwner d.straps p
  (d.slotOf id).map (fun s => (s, id))

def Dev.portMay (d : Dev) (p : Nat) (k : AccKind) (pa n : Nat) : Bool :=
  match d.portRoom p with
  | some r => d.engineMay r k pa n
  | none => false

/-- An MSI write: a vector of the port's block sets the pending bit of its source. -/
def Dev.msi (d : Dev) (p : Nat) (data : Nat) : Dev :=
  if data % 256 < 64 * portSpan d.straps then d.raise (512 + 64 * p + data % 256) else d.pcieDeny p

/-- PCIE_MSI of this package. -/
def Dev.msiPa (d : Dev) : Nat := d.pkg * 2 ^ 50 + regBase + 0x10F000

/-- Wake the uncores that serve a range. -/
def Dev.wakeHomes (d : Dev) (pa n : Nat) : Dev :=
  each ((List.range ((pa + n - 1) / 64 + 1 - pa / 64)).filterMap (fun i => d.homeLocal (pa / 64 + i))).eraseDups (fun d r => d.wake (64 + r)) d

def Dev.pcieInbound (d : Dev) (p : Nat) (r : PcieReq) : Dev :=
  if !d.portUp p then d
  else match r with
  | .read pa n =>
    if n == 0 || 4096 < n then d
    else if d.portMay p .read pa n then (d.wakeHomes pa n).emit (.pcieCompletion p (d.bytes pa n))
    else (d.pcieDeny p).emit (.pcieUnsupported p)
  | .write pa bs =>
    if bs.isEmpty || 512 < bs.length then d
    else if pa == d.msiPa && bs.length == 4 then d.msi p (leNat bs)
    else if (d.cplSlot pa).isSome then d.fwdCompletion pa bs
    else if d.portMay p .write pa bs.length then (d.wakeHomes pa bs.length).engineWrite (d.plan.portOwner d.straps p) pa bs
    else d.pcieDeny p

/-- The core that waits for a read takes its value: the register, then issue goes on (R425). -/
def Dev.finishWait (d : Dev) (core : Nat) (w : PcieWait) (bs : List Byte) : Dev :=
  let raw := leAt (w.pre ++ bs) w.skip w.item
  let v := if w.signed then sext64 (8 * w.item) raw else BitVec.ofNat 64 raw
  let put := fun (x : Ctx) => match w.block with
    | some f => if f.ret then x.backHome f.parts bs else ((x.loadParts f.block f.parts bs).countBlock true).setPsw 21 16 w.blk
    | none => (x.setP w.dst v).setPsw 21 16 w.blk
  let d := d.modCore core (fun c => { c with wait := none })
  let d := d.modCtx (d.curCtx core) (fun x => { put x with pc := w.next })
  if w.hit.isNone && w.more then d else d.afterIssue core w.hit

def Dev.pcieTimeout (d : Dev) (core : Nat) : Dev :=
  match (d.core core).wait with
  | none => d
  | some w =>
    if w.due ≤ d.clk.tb then
      (d.modPciePort (d.portAt w.pa) (fun x => { x with cto := satInc max32 x.cto })).finishWait core w (List.replicate w.len 0xFF)
    else d

def Dev.pcieCompleted (d : Dev) (core : Nat) (bs : List Byte) : Dev :=
  match (d.core core).wait with
  | none => d
  | some w => if bs.length == w.len then d.finishWait core w bs else d

/-- Reads that wait on a port whose link goes down return all ones at once. -/
def Dev.pcieLinkDown (d : Dev) (p : Nat) : Dev :=
  each ((List.range 128).filter (fun c => match (d.core c).wait with | some w => d.portAt w.pa == p | none => false)) (fun d c =>
    match (d.core c).wait with
    | some w => d.finishWait c w (List.replicate w.len 0xFF)
    | none => d) d

def Dev.pcieLinkChange (d : Dev) (p : Nat) (up : Bool) (speed width : Nat) : Dev :=
  if !(strapPorts d.straps).contains p || !(d.pcie p).en || d.clk.stopped then d
  else if up then d.modPciePort p (fun x => { x with link := true, speed := clamp 1 5 speed, width := min 4 width })
  else (d.modPciePort p (fun x => { x with link := false, speed := 0, width := 0 })).pcieLinkDown p

/-- A configuration access by room 0 (R426): a read that fails returns all ones. -/
def Dev.pcieConfig (d : Dev) (write : Option W32) (bus : Option W32) : Dev × Nat :=
  let v : W32 := match write, bus with
    | some w, _ => w
    | none, some r => r
    | none, none => 0xFFFFFFFF
  (d.emit (.pcieConfig d.per.cfga write v), v.toNat)

def Dev.pcieRegRead (d : Dev) (o : Nat) : Nat :=
  if o == 0x8000 then d.per.cfga.toNat
  else
    let p := o / 0x1000
    let x := d.pcie p
    if !(strapPorts d.straps).contains p then 0
    else match o % 0x1000 with
      | 0x000 => b2n x.en * 2 ^ 31 + b2n x.link * 2 ^ 30 + x.speed * 2 ^ 27 + x.width * 2 ^ 24 + b2n x.ecrc * 2 ^ 17 +
          b2n x.l1 * 2 ^ 16 + x.ctoUs
      | 0x004 => d.plan.portOwner d.straps p
      | 0x008 => x.deny
      | 0x00C => x.cto
      | 0x010 => x.drop
      | _ => 0

def Dev.pcieRegReadEff (d : Dev) (o : Nat) : Dev :=
  let p := o / 0x1000
  if !(strapPorts d.straps).contains p then d
  else match o % 0x1000 with
    | 0x008 => d.modPciePort p (fun x => { x with deny := 0 })
    | 0x00C => d.modPciePort p (fun x => { x with cto := 0 })
    | 0x010 => d.modPciePort p (fun x => { x with drop := 0 })
    | _ => d

/-- Fields of PCIE_CFGA that a write keeps: bus, device, function, dword. -/
def Dev.pcieRegWrite (d : Dev) (o v : Nat) : Dev :=
  if o == 0x8000 then { d with per := { d.per with cfga := BitVec.ofNat 32 (field v 27 2 * 4) } }
  else
    let p := o / 0x1000
    if o % 0x1000 == 0 && (strapPorts d.straps).contains p then
      let en := v.testBit 31
      let d := d.modPciePort p (fun x => { x with
        en := en, link := x.link && en, speed := if en then x.speed else 0, width := if en then x.width else 0,
        ecrc := v.testBit 17, l1 := v.testBit 16, ctoUs := clamp 10 50000 (v % 65536) })
      if en then d else d.pcieLinkDown p
    else d

/-! ### Memory controllers (R421, Table 19.3) and MGT -/

/-- t_sealed in units of 0.1 ns; where it is no multiple, rounded either way. -/
def sealedTenths (mts trfc : Nat) : Nat :=
  if mts == 0 then 0
  else
    let whole := 160000 / mts
    440 + whole + (if 160000 % mts != 0 && Config.sealRound mts then 1 else 0) + 10 * trfc

def Dev.mcRead (d : Dev) (r o : Nat) : Nat :=
  let g := d.region r
  let m := g.mc
  match o with
  | 0x00 => b2n m.trained * 2 ^ 31 + b2n m.rdimm * 2 ^ 30 + b2n m.x8 * 2 ^ 29 + b2n m.rank2 * 2 ^ 28 + b2n g.ref2x * 2 ^ 27 + g.mts
  | 0x04 => m.gib
  | 0x08 => m.trfcNs
  | 0x0C => if m.trained then sealedTenths g.mts m.trfcNs else 0
  | 0x10 => g.ecsCnt
  | 0x14 => m.ppr
  | _ => 0

def Dev.mcReadEff (d : Dev) (r o : Nat) : Dev := if o == 0x10 then d.modRegion r (fun g => { g with ecsCnt := 0 }) else d

/-- 169.254.74.80 + m. -/
def Dev.lobbyIp (d : Dev) (m : Nat) : Nat := (Sparse.get (BitVec.ofNat 32 (0xA9FE4A50 + m)) d.per.lobbyIps m).toNat

/-! ### Elvust links (R434, R435, Tables 1.3 and 19.9) -/

/-- The widest width that healthy lanes permit: 0 x16, 1 x8, 2 x4. -/
def linkWidth (lanes : Nat) : Option Nat :=
  if lanes % 65536 == 0xFFFF then some 0
  else if field lanes 7 0 == 0xFF || field lanes 15 8 == 0xFF then some 1
  else if [0, 4, 8, 12].any (fun k => field lanes (k + 3) k == 15) then some 2
  else none

/-- Package at the other end of link j (R38). -/
def Dev.linkPeer (d : Dev) (j : Nat) : Nat := d.pkg ^^^ (j + 1)

/-- Slots of rooms that need a package: they span it, or hold a window homed there. -/
def Dev.needing (d : Dev) (pkg : Nat) : List Nat :=
  d.slots.filter (fun s => match d.rrec s with | some r => (d.plan.uses r).contains pkg | none => false)

/-- LINK_EN of the active floorplan (R59). -/
def Dev.linkEn (d : Dev) (j : Nat) : Bool := ((d.plan.pkgRec d.pkg).map PkgRec.linkEn |>.getD 0).testBit j

/-- A link is lost (R368): rooms that need the other package are held, and an armed swap is given up. -/
def Dev.linkLost (d : Dev) (j : Nat) : Dev :=
  let q := d.linkPeer j
  let rooms := d.needing q
  let d := d.modLink j (fun x => { x with st := .lost, admitted := false, busy := false, wide := false, held := [] })
  let d := { d with per := { d.per with present := d.per.present &&& ~~~ (BitVec.ofNat 4 (2 ^ q)) } }
  let d := each rooms (fun d s => d.hold s 6) (d.incident 0x12 j 0 9 rooms 0)
  d.flpAbandon 0x32

/-- A link trains and is admitted (R434, Table 1.3). -/
def Dev.linkTrain (d : Dev) (j : Nat) (p : LinkPartner) : Dev :=
  let x := d.link j
  if 3 ≤ j || !d.linkEn j || d.clk.stopped || !(x.st == .down || x.st == .training) then d
  else match linkWidth p.lanes.toNat with
    | none =>
      let d := d.setLink j { x with st := .training, lanes := p.lanes, tries := x.tries + 1 }
      if 1 ≤ x.tries then d.linkLost j else d
    | some w =>
      let d := d.setLink j { x with width := w, lanes := p.lanes, tries := 0, st := .down, admitted := false }
      if p.pkg == d.pkg || p.generation != d.plan.generation then d.incident 0x14 (p.pkg % 4) 0 0 [] 0
      else
        let d := d.modLink j (fun x => { x with st := .up, admitted := true })
        { d with per := { d.per with present := d.per.present ||| BitVec.ofNat 4 (2 ^ p.pkg) } }

/-- A retrain ends (R435): the width that the lanes permit, no wider than before unless room 0 asked; two failures lose the link. -/
def Dev.retrained (d : Dev) (j : Nat) (lanes : BitVec 16) (ns : Nat) : Dev :=
  let x := d.link j
  if !x.busy then d
  else
    let x := { x with retrains := satInc max32 x.retrains, maxRt := max x.maxRt (min ns max32), lanes := lanes, fails := 0 }
    match linkWidth lanes.toNat with
    | none => if 1 ≤ x.tries then (d.setLink j x).linkLost j else d.setLink j { x with tries := x.tries + 1 }
    | some w =>
      let w' := if x.wide then w else max x.width w
      let d := (d.setLink j { x with width := w', tries := 0, busy := false, wide := false }).releaseLink j
      if x.width < w' then d.incident 0x11 j 0 (detailOf [9, x.width, w']) (d.needing (d.linkPeer j)) 0 else d

/-- A flit is replayed; the eighth failure of one flit starts a retrain. -/
def Dev.replay_ (d : Dev) (j : Nat) : Dev :=
  let x := d.link j
  if x.st != .up || x.busy then d
  else
    let n := x.fails + 1
    d.setLink j { x with replay := satInc max32 x.replay, crc := satInc max32 x.crc, fails := if 8 ≤ n then 0 else n, busy := decide (8 ≤ n) }

def LinkSt.code : LinkSt → Nat
  | .down => 0
  | .training => 1
  | .up => 2
  | .lost => 3

def Dev.elvRead (d : Dev) (j o : Nat) : Nat :=
  let x := d.link j
  match o with
  | 0x04 => (if x.busy then 1 else x.st.code) * 2 ^ 30 + min 2 x.width * 2 ^ 28 + x.lanes.toNat
  | 0x08 => x.replay
  | 0x0C => x.retrains
  | 0x10 => x.maxRt
  | 0x14 => x.crc
  | _ => 0

def Dev.elvReadEff (d : Dev) (j o : Nat) : Dev :=
  d.modLink j (fun x =>
    match o with
    | 0x08 => { x with replay := 0 }
    | 0x0C => { x with retrains := 0 }
    | 0x10 => { x with maxRt := 0 }
    | 0x14 => { x with crc := 0 }
    | _ => x)

/-- ELV_CTL.RETRAIN; ignored while a retrain is in progress. -/
def Dev.elvWrite (d : Dev) (j o v : Nat) : Dev :=
  let x := d.link j
  if o == 0 && v.testBit 31 && x.st == .up && !x.busy then d.setLink j { x with busy := true, wide := true } else d

/-! ### Rows -/

def execCanFrameReceived (can : Nat) (frame : List Byte) (s : State) : Ans := onDev (fun d => d.canReceived can frame) s
def execCanFrameSent (can buf : Nat) (s : State) : Ans := onDev (fun d => d.canSent can buf) s
def execCanBusError (can tec rec_ : Nat) (s : State) : Ans := onDev (fun d => d.canError can tec rec_) s
def execCanWakePattern (can : Nat) (s : State) : Ans := onDev (fun d => d.canPattern can) s
def execMacFrameReceived (mac : Nat) (fr : MacFrame) (s : State) : Ans := onDev (fun d => d.macReceived mac fr) s
def execMacFrameSent (mac : Nat) (ptpEvent : Bool) (s : State) : Ans := onDev (fun d => d.macSent mac ptpEvent) s
def execMacLinkChange (mac : Nat) (up : Bool) (speed : BitVec 2) (s : State) : Ans := onDev (fun d => d.macLink mac up speed) s
def execUartByteReceived (uart : Nat) (b : Byte) (err : BitVec 4) (s : State) : Ans := onDev (fun d => d.uartReceived uart b err) s
def execUartByteSent (uart : Nat) (s : State) : Ans := onDev (fun d => d.uartSent uart) s
def execPcieInboundRequest (port : Nat) (r : PcieReq) (s : State) : Ans := onDev (fun d => d.pcieInbound port r) s
def execPcieMsi (port : Nat) (data : W32) (s : State) : Ans :=
  onDev (fun d => if d.portUp port then d.msi port data.toNat else d) s
def execCompletionTimeout (core : Nat) (s : State) : Ans := onDev (fun d => d.pcieTimeout core) s
def execPcieReadCompletion (core : Nat) (data : List Byte) (s : State) : Ans := onDev (fun d => d.pcieCompleted core data) s
def execPcieLinkChange (port : Nat) (up : Bool) (speed width : Nat) (s : State) : Ans :=
  onDev (fun d => d.pcieLinkChange port up speed width) s
def execLinkTraining (link : Nat) (p : LinkPartner) (s : State) : Ans := onDev (fun d => d.linkTrain link p) s
def execRetrain (link : Nat) (lanes : BitVec 16) (ns : Nat) (s : State) : Ans := onDev (fun d => d.retrained link lanes ns) s
def execFlitReplay (link : Nat) (s : State) : Ans := onDev (fun d => d.replay_ link) s

end Sys2Proof.Machine
end

