-- ==== Sys2Proof/Machine/Wheel.lean ====
section
/-!
DEFINITION. The wheel of 64 slots of a region's channel (R296 to R298, R301): owners, lending, credits, starvation, closed pages and refresh,
with the registers of Table 13.3.
-/
namespace Sys2Proof.Machine

/-! ### A slot (R296 to R298, R301, R420) -/

/-- The oldest of some requests; of equal ages the lower requester number. -/
def Dev.oldest (d : Dev) (l : List ChanReq) : Option ChanReq :=
  bestBy (fun q b => d.older q.stamp q.requester b.stamp b.requester) l

/-- A sealed owner uses its slots while it is started. -/
def Dev.ownerRuns (d : Dev) (id : Nat) : Bool :=
  match d.slotOf id with
  | some s =>
    let p := (d.room s).phase
    (p == .running || p == .rolling) && !d.roomHalted s
  | none => true

/-- What an open slot serves: a request, whether as starving, and whether a credit pays for it. A sealed room's request that missed its slot
waits for the room's next one (Table 13.4). -/
def Dev.openGrant (d : Dev) (r : Nat) : Option (ChanReq × Bool × Bool) :=
  let g := d.region r
  let l := g.chanQ.filter (fun q => !(q.late && d.ownerRuns q.room))
  match d.oldest (l.filter (fun q => decide (d.ras.starveNs ≤ d.ageOf q.stamp))) with
  | some q => some (q, true, false)
  | none =>
    match d.oldest (l.filter (fun q => decide (0 < Sparse.get 0 g.credit q.room))) with
    | some q => some (q, false, true)
    | none => (d.oldest l).map (fun q => (q, false, false))

/-- Credits at the start of a turn. -/
def Dev.newCredit (d : Dev) (r : Nat) : Sparse Nat :=
  (d.bwOf r).foldl (fun m b => Sparse.set 0 m b.roomId (d.unitsIn (d.bwOf r) b.roomId)) []

/-- The slot of a channel that runs at a time, counted from timebase 0: t_slot is 8,000 / DDR_MTS ns, and slot 0 starts at a multiple of 64 of them
(R296). -/
def slotsBy (mts tb : Nat) : Nat := tb * mts / 8000

/-- The slot that starts now, counted from timebase 0: the next one that this nanosecond has started, or none where no slot starts. A timebase that
has stepped back starts over. -/
def Dev.nextSlot (d : Dev) (r : Nat) : Option Nat :=
  let g := d.region r
  let now := slotsBy g.mts d.clk.tb
  let k := max (g.wheelAt + 1) (min now (slotsBy g.mts (d.clk.tb - 1) + 1))
  if k ≤ now then some k else if now + 1 < g.wheelAt then some now else none

/-- The wheels of a package start to turn with a set, in step with the timebase (R296); later sets apply from the next turn (R301). -/
def Dev.startWheels (d : Dev) : Dev :=
  each (List.range 8) (fun d r =>
    let now := slotsBy (d.region r).mts d.clk.tb
    d.modRegion r (fun g => { g with wheel := (now + 1) % 64, wheelAt := now, turn := d.sealedBw r, credit := d.newCredit r })) d

/-- The sealed owner of a slot of this turn, or of the next, which a swap may have changed. -/
def Dev.ownerAhead (d : Dev) (r n : Nat) : Option Nat := if n < 64 then d.turnOwner r n else d.slotOwner r (n % 64)

/-- Banks after a slot: the two slots before a sealed slot, and that slot, leave every bank idle; another leaves the row of its line open
(R298). -/
def Dev.pagesAfter (d : Dev) (r n : Nat) (q : Option ChanReq) : Sparse Nat :=
  if [n, n + 1, n + 2].any (fun k => (d.ownerAhead r k).isSome) then []
  else match q with
    | some q => Sparse.insert (d.region r).pages (Config.bankOf q.line) q.line
    | none => (d.region r).pages

/-- The next slot of a region's wheel starts. -/
def Dev.wheelSlot (d : Dev) (r : Nat) : Dev :=
  let g := d.region r
  match if 8 ≤ r || d.clk.stopped then none else d.nextSlot r with
  | none => d
  | some k =>
    let n := k % 64
    let new := k / 64 != g.wheelAt / 64
    let d := d.setRegion r { g with
      wheel := (n + 1) % 64
      wheelAt := k
      turn := if new then d.sealedBw r else g.turn
      credit := if new then d.newCredit r else g.credit
      refresh := if n == 31 || n == 63 then (g.refresh + 1) % 4 else g.refresh }
    let st := (d.domain (64 + r)).st
    if st != .on && st != .gated then d
    else
      let owner := (d.turnOwner r n).filter d.ownerRuns
      let mine := owner.bind (fun id => d.oldest ((d.region r).chanQ.filter (fun q => q.room == id)))
      let lent := (d.turnOwner r n).isSome && mine.isNone
      let pick := match mine with
        | some q => some (q, false, false)
        | none => d.openGrant r
      let d := d.modRegion r (fun g => { g with
        pages := d.pagesAfter r n (pick.map Prod.fst)
        lentCnt := if lent then satInc max32 g.lentCnt else g.lentCnt })
      match pick with
      | none => d
      | some (q, starving, paid) =>
        (d.served r q.stamp).modRegion r (fun g => { g with
          chanQ := dropFirst (· == q) g.chanQ
          starveCnt := if starving then satInc max32 g.starveCnt else g.starveCnt
          credit := if paid then Sparse.set 0 g.credit q.room (Sparse.get 0 g.credit q.room - 1) else g.credit })

/-! ### Registers (Table 13.3) -/

/-- Four values of 8 bits in one register. -/
def pack4 (f : Nat → Nat) (k : Nat) : Nat := ((List.range 4).map (fun j => f (4 * k + j) % 256 * 256 ^ j)).sum

def Dev.homeRead (d : Dev) (r o : Nat) : Nat :=
  let g := d.region r
  let mask := orAll ((List.range 64).filterMap (fun n => (d.slotOwner r n).map (fun _ => 2 ^ n)))
  if o < 0x40 then pack4 (fun n => (d.slotOwner r n).getD 0) (o / 4)
  else if o < 0x80 then pack4 (fun s => ((d.rrec s).map (fun x => d.unitsIn (d.bwOf r) x.roomId)).getD 0) ((o - 0x40) / 4)
  else match o with
    | 0x80 => g.starveCnt
    | 0x84 => g.lentCnt
    | 0x88 => g.maxAge
    | 0x8C => d.plan.homeRsv (d.sysRegion r)
    | 0xA0 => lo32 mask
    | 0xA4 => hi32 mask
    | _ => if decide (0x90 ≤ o) && decide (o < 0xA0) then pack4 (fun k => Sparse.get 0 g.sealedMiss k) ((o - 0x90) / 4) else 0

def Dev.homeReadEff (d : Dev) (r o : Nat) : Dev :=
  match o with
  | 0x80 => d.modRegion r (fun g => { g with starveCnt := 0 })
  | 0x84 => d.modRegion r (fun g => { g with lentCnt := 0 })
  | 0x88 => d.modRegion r (fun g => { g with maxAge := 0 })
  | _ =>
    if decide (0x90 ≤ o) && decide (o < 0xA0) then
      d.modRegion r (fun g => { g with sealedMiss := g.sealedMiss.filter (fun p => p.1 / 4 != (o - 0x90) / 4) })
    else d

/-! ### Rows -/

def execWheelSlot (region : Nat) (s : State) : Ans := onDev (fun d => d.wheelSlot region) s

end Sys2Proof.Machine
end

