-- ==== Sys2Proof/Machine/Boot.lean ====
section
/-!
DEFINITION. Resets, boot and the self-test at boot (21_reset_boot_bist.md), surrender's steps (R522, R523), and the registers of PKG_RST,
ROOM_RST and the BIST block.
-/
namespace Sys2Proof.Machine

/-! ### What a reset leaves (R461) -/

/-- What the BIST ledger keeps of a cluster: slot map, failed slots, retired ways, retired Trestle parts. -/
def Cluster.kept (x : Cluster) : Cluster :=
  { Cluster.init with
    slotMap := x.slotMap, spare := x.spare, failed := x.failed, l2Retired := x.l2Retired
    trestle := { Trestle.init with
      health := x.trestle.health, spareUsed := x.trestle.spareUsed, spareFor := x.trestle.spareFor,
      lsRetired := x.trestle.lsRetired } }

/-- What the ledger keeps of a region: retired ways, a lost channel, the rows to repair; the hard repairs are counted since power-on. -/
def Region.kept (x : Region) (power : Bool) : Region :=
  { Region.init with l3Retired := x.l3Retired, chanLost := x.chanLost, softRows := x.softRows, hardRows := if power then 0 else x.hardRows }

/-- The Porch through a device warm reset: its own registers and the board's MAIN_OK; the hub's registers of PWR reset. -/
def Porch.kept (p : Porch) : Porch :=
  { Porch.init with mainOk := p.mainOk, emCluster := p.emCluster, wakeEn := p.wakeEn, wakeSrc := p.wakeSrc, alarm := p.alarm }

/-- The fields of a room that only a power-on reset clears. -/
def Room.kept (r : Room) : Room :=
  { Room.init with roomId := r.roomId, rstLast := r.rstLast, rstCount := r.rstCount, wdg := { WdgRegs.init with bites := r.wdg.bites } }

/-- Every unit at its reset value. The timebase starts anew: a lock is held as what is left of its period (R86, notes/assumptions/50.md),
and no IDENT has been answered. A power-on reset keeps the MRAM alone; a warm reset keeps RWS fields, PWR_ACCT, the real-time clock and
what the DRAM channels hold: lines not written back are lost. -/
def Dev.cleared (d : Dev) (power : Bool) : Dev :=
  let inDram := fun (p : Nat × Byte) => paKind p.1 == .dram
  { Dev.reset with
    straps := d.straps, board := d.board
    store := d.store, keys := { d.keys.rebase d.clk.tb 0 with identAt := [] }
    inc := { IncLog.init with seq := if power then 0 else d.inc.seq, journal := d.inc.journal, jnlLost := d.inc.jnlLost, expJnl := d.inc.expJnl }
    ras := { PkgRas.init with mirrorDeg := d.ras.mirrorDeg }
    frc := if power then Frc.init else d.frc.kept.rebase d.clk.tb 0
    clusters := d.clusters.map (fun p => (p.1, p.2.kept))
    regions := d.regions.map (fun p => (p.1, p.2.kept power))
    rooms := if power then [] else d.rooms.map (fun p => (p.1, p.2.kept))
    domains := if power then []
      else d.domains.map (fun p => (p.1, { Domain.init with refused := p.2.refused, aborted := p.2.aborted, last := p.2.last }))
    mem := if power then [] else d.chan.filter inDram
    chan := if power then [] else d.chan.filter inDram
    porch := if power then { Porch.init with mainOk := d.porch.mainOk } else d.porch.kept
    bist := { Bist.init with ledger := d.bist.ledger, shutMs := if power then 800 else d.bist.shutMs,
                             ageH := if power then 168 else d.bist.ageH }
    clk := { Clock.init with draws := d.clk.draws, rtc := if power then 0 else d.clk.rtc, rtcAcc := if power then 0 else d.clk.rtcAcc }
    endSessions := true
    outbox := d.outbox }

/-! ### Surrender (R522, R523) -/

/-- Keys, image slots and the journal are destroyed; the factory slot, HIGH_GEN and the BIST ledger stay. -/
def Dev.zeroize (d : Dev) : Dev :=
  { d with
    keys := { d.keys with ownerHash := [], slots := [], nodeKeys := [] }
    store := { d.store with active := [], shadow := [], lastGood := [] }
    inc := IncLog.init
    mem := d.mem.filter (fun p => paKind p.1 != .hamper) }

/-! ### Boot (R89, R466) -/

/-- The journal's records enter the ring ahead of new ones, with FLAGS bit 0 set (R372). -/
def Dev.journalToRing (d : Dev) : Dev :=
  let l := d.inc.journal.map (fun p => ({ p.1 with fromJournal := true }, p.2))
  let ring := ((List.range l.length).zip l)
  { d with inc := { d.inc with ring := ring, wr := l.length % 8192 } }

/-- A channel as training found it (R419): the rows of the last soft repairs are repaired hard (R365), and one that fails is lost, one that
trains is back (R367). -/
def Dev.trainOne (d : Dev) (r : Nat) : Dev :=
  let m := d.board.chans.getD r ChannelTraining.none
  let g := d.region r
  let n := g.hardRows + if m.trained then g.softRows.length else 0
  let lost := !m.trained && (g.chanLost || decide (0 < m.gib))
  let d := d.modRegion r (fun g => { g with
    mc := { m with ppr := m.ppr - n }, chanLost := lost, hardRows := n, softRows := if m.trained then [] else g.softRows })
  if lost && !g.chanLost then d.incident 0x0C (d.sysRegion r) 0 8 [] 0 else d

/-- Every channel is trained. -/
def Dev.trained (d : Dev) : Dev := each (List.range 8) Dev.trainOne d

/-- The first store slot whose image passes, with its number; each failure is recorded as a fallback (kind 0x18). -/
def Dev.bootSlot (d : Dev) : List (Nat × List Byte) → Dev × Option (Nat × Plan)
  | [] => (d, none)
  | (k, l) :: t =>
    match d.validate l { kind := none, above := none } with
    | .ok p => (d, some (k, p))
    | .error (code, sec) => (d.incident 0x18 k 0 (detailOf [0x0D, code, sec, 1]) [] 0).bootSlot t

/-- Channels that the floorplan uses keep what training found; the others are untrained. -/
def Dev.bootChannels (d : Dev) : Dev :=
  match d.plan.pkgRec d.pkg with
  | none => d
  | some r =>
    each (List.range 8) (fun d i =>
      if (r.chan.getD i { baseGib := 0, sizeGib := 0 }).sizeGib == 0 then d.modRegion i (fun g => { g with mc := ChannelTraining.none })
      else d.modRegion i (fun g => { g with mts := r.ddrMts })) d

/-- Units that the floorplan uses (R472): of every cluster that serves a room, of every region a room uses, of the dies, of the hub. -/
def Dev.usedUnits (d : Dev) : List Nat :=
  let uses := fun (n : Nat) => d.plan.rooms.any (fun r => d.plan.uses128 d.straps r.roomId n)
  (List.range 297).filter (fun u =>
    if u < 256 then uses (u / 8) && (decide (5 ≤ u % 8) || !(d.cluster (u / 8)).failed.getLsbD (u % 8))
    else if u < 288 then decide (u % 4 < 3) && uses (64 + (u - 256) / 4)
    else if u < 290 then uses (u - 200) else true)

/-- Stale used units are tested before they are used; failures resolve as Table 21.4. -/
def Dev.bootTests (d : Dev) : Dev :=
  each (d.usedUnits.filter d.stale) (fun d u =>
    match d.board.failedUnits.find? (fun p => p.1 == u) with
    | some (_, seg) =>
      let d := { d with bist := { d.bist with ledger := Sparse.insert d.bist.ledger u { d.ledger u with st := 2, seg := seg },
                                              fails := satInc max32 d.bist.fails } }
      d.unitFailed u seg
    | none => { d with bist := { d.bist with ledger := Sparse.insert d.bist.ledger u { st := 1, seg := 0, onh := 0 } } }) d

/-- A Trestle that the ledger holds as failed has a helper chosen again, since a reset clears HELPER and SERVES (Table 14.7); without one it is
lost (notes/assumptions/64.md). -/
def Dev.bootHelpers (d : Dev) : Dev :=
  each ((List.range 32).filter (fun c => (d.cluster c).trestle.health == .forwarded)) (fun d c =>
    match d.helperFor c with
    | some h => d.setHelper c h
    | none => each (d.slotsOn c) (fun d s => d.hold s 5) (d.modCluster c (fun x => { x with trestle := { x.trestle with health := .lost } }))) d

/-- Links train and partners are admitted; rooms that need a package that is not there are held (R434, Table 1.3). -/
def Dev.bootLinks (d : Dev) : Dev :=
  let d := { d with per := { d.per with present := BitVec.ofNat 4 (2 ^ d.pkg) } }
  let partner := fun (j : Nat) => d.board.links.getD j none
  let d := each [0, 1, 2] (fun d j => match partner j with | some p => d.linkTrain j p | none => d) d
  each ((d.plan.pkgs.map PkgRec.pkg).filter (fun q => q != d.pkg)) (fun d q =>
    if d.per.present.getLsbD q then d
    else
      let rooms := d.needing q
      let d := each rooms (fun d s => d.hold s 6) d
      let j := (d.pkg ^^^ q) - 1
      if (partner j).isSome && d.linkEn j then d else d.incident 0x14 q 0 0 rooms 0) d

/-- DRAM that the floorplan grants in this package. -/
def Dev.granted (d : Dev) : List (Nat × Nat) := d.plan.rooms.flatMap (fun r => d.plan.dramOf d.pkg r.roomId)

/-- Every granted range is zero-filled, and rooms with such ranges are held with REASON 8 until it is done. -/
def Dev.bootFill (d : Dev) : Dev :=
  let g := d.granted
  let keep := fun (c : Nat × Byte) => !g.any (fun x => decide (x.1 ≤ c.1) && decide (c.1 < x.1 + x.2))
  let d := { d with mem := d.mem.filter keep, chan := d.chan.filter keep }
  each d.slots (fun d s =>
    if (d.plan.dramOf d.pkg (d.idOf s)).isEmpty then d
    else d.modRoom s (fun r => { r with zeroFill := true, reason := if r.reason == 0 || r.reason == 7 then 8 else r.reason })) d

/-- Every room of the floorplan in its slot, held until it starts. WDG_STAT.BITES is the slot's (R4, R390). -/
def Dev.bootRooms (d : Dev) : Dev :=
  let old := d.rooms
  let d := { d with rooms := [] }
  each (List.range 64) (fun d s =>
    let was := Sparse.get Room.init old s
    let bites := was.blank
    match d.rrec s with
    | none => if was.wdg.bites == 0 then d else d.setRoom s bites
    | some r =>
      let k := if was.roomId == r.roomId then was else bites
      d.setRoom s { d.freshRoom s k with phase := .held, reason := 7 }) d

/-- Rooms that nothing holds back start (R462 step 6, Table 21.2). -/
def Dev.bootStart (d : Dev) : Dev :=
  each d.slots (fun d s => if (d.room s).phase == .held && (d.room s).reason == 7 then d.scheduleStart s else d) d

/-- The domains of a cluster without a record stay Off (R63). -/
def Dev.bootDomains (d : Dev) : Dev :=
  each ((List.range 32).filter (fun c => (d.plan.cluster d.pkg c).isNone)) (fun d c =>
    each [c, 32 + c] (fun d n => d.modDomain n (fun x => { x with st := .off, since := d.clk.tb })) d) d

/-- A booted floorplan is in force: blocks take its preambles, units are tested, links train, rooms start. -/
def Dev.bootPlan (d : Dev) (kind slot : Nat) (p : Plan) (fill clean : Bool) : Dev :=
  let n := d.clk.draws
  let d := { d with
    plan := p, devState := .run
    ras := { d.ras with starveNs := p.starveNs }, bist := { d.bist with sliceUs := p.powerPre.bistSliceUs }
    rst := { kind := kind, slot := slot, clean := clean, bootMs := (Config.bootMs n).toNat }
    store := { d.store with highGen := max d.store.highGen p.generation }
    clk := { d.clk with draws := n + 1 } }
  let d := d.bootChannels.startWheels.bootRooms.bootDomains.frcPorts Plan.empty
  let d := d.bootHelpers.bootTests.bootLinks
  let d := if fill then d.bootFill else d
  let d := each (List.range 32) (fun d c => d.modCluster c (fun x => { x with plevel := d.normalLevel c, plevelNext := none })) d
  d.bootStart

/-- Boot a device whose units are at reset (R466). `oldGen`: the generation in force before a warm reset. -/
def Dev.boot (d : Dev) (kind : Nat) (oldGen : Nat) : Dev :=
  let d := { d with keys := { d.keys with firmwareOk := d.board.firmwareOk } }
  let clean := d.store.cleanStop
  let d := { d with store := { d.store with cleanStop := false } }
  if !d.keys.firmwareOk then { d.emit .failureLine with devState := .noImage }
  else
    let d := d.seedTime
    if d.keys.own == .surrendering then { d.zeroize with devState := .noImage }
    else if d.keys.own == .returned then { d with devState := .noImage }
    else
      let d := d.journalToRing.trained
      let d := if kind == 0 && !clean then d.incident 0x17 0 0 0x0C [] 0 else d
      let (d, found) := d.bootSlot [(0, d.store.active), (1, d.store.lastGood), (2, d.store.factory)]
      match found with
      | none => { d.bootDomains with devState := .noImage }
      | some (slot, p) =>
        let fill := kind == 0 || kind == 4 || p.generation != oldGen
        d.bootPlan kind slot p fill clean

/-! ### Resets of the package (R461, R465, R507) -/

/-- Refurbishment at the vendor's premises (R527): a Returned device becomes Unowned, with a new factory image and an empty ledger but
for the units that still fail; failed slots and retired ways stay, and so does the disabled TAP (notes/assumptions/51.md). -/
def Dev.refurbished (d : Dev) : Dev :=
  match d.board.refurbish with
  | none => d
  | some image =>
    if d.keys.own != .returned then d
    else { d with
      keys := { d.keys with own := .unowned }, store := { d.store with factory := image }
      bist := { d.bist with ledger :=
        ((List.range 297).filter (fun u => d.board.failedUnits.any (fun p => p.1 == u))).map (fun u => (u, { d.ledger u with st := 2 })) } }

/-- PWRON_RST_N: everything volatile is cleared, straps and board are sampled, and the device boots. -/
def Dev.powerOn (d : Dev) (straps : Straps) (board : Board) : Dev :=
  (({ d.cleared true with straps := straps, board := board }).refurbished).boot 0 0

/-- A device warm reset: rooms stop without confirmation, the FRC is silent, PERST_N is asserted, and the device boots. -/
def Dev.warmReset (d : Dev) (kind : Nat) : Dev :=
  if d.devState == .inReset then d
  else
    let gen := d.plan.generation
    let d := each d.slots (fun d s => d.writeRecs s 0) d
    ((d.emit .perst).cleared false).boot kind gen

/-- A rail leaves its range: group A as PWRON_RST_N low, without a clean-stop mark; the others, while PWR_EN is high,
as a warm reset with a journal record (R507). -/
def Dev.excursion (d : Dev) (groupA : Bool) : Dev :=
  if d.devState == .inReset then d
  else if groupA then { d.cleared true with store := { d.store with cleanStop := false } }
  else if d.devState == .off && !d.bist.shutdown then d
  else (d.incident 0x17 0 0 0x0C [] 0).warmReset 1

/-- An enabled wake source occurs in D-Retain or D-Off (R453, R506). -/
def Dev.devWake (d : Dev) (w : WakeSource) : Dev :=
  if !d.wakes w then d
  else match d.devState with
    | .retain => d.leaveRetain (WakeSource.bit w)
    | .off =>
      let d := { d with porch := { d.porch with wakeSrc := BitVec.ofNat 7 (2 ^ WakeSource.bit w) }, bist := { d.bist with shutdown := false } }
      let d := d.cleared false
      (d.boot 4 0).when (w == WakeSource.mainOk) (fun d => { d with porch := { d.porch with mainOk := true } })
    | _ => d

/-- Rooms stop, keys and images go (R522): the device stays in this state until its DRAM is zeroed. -/
def Dev.surrendered (d : Dev) : Dev :=
  let d := { d with keys := { d.keys with own := .surrendering } }
  { ((d.emit .perst).cleared false).seedTime.zeroize with devState := .noImage, endSessions := false }

/-- DRAM is zeroed: the device is Returned, and a warm reset follows. -/
def Dev.surrenderDone (d : Dev) : Dev :=
  if d.keys.own != .surrendering then d
  else
    let d := { d with keys := { d.keys with own := .returned }, mem := [], chan := [] }
    ({ d.cleared false with endSessions := true }).boot 3 0

/-! ### Registers (Tables 21.5 to 21.7) -/

/-- PKG_RST, by room 0's keeper with its key (R474). -/
def Dev.pkgRst (d : Dev) (a : Acc) (v : Nat) : Dev :=
  if !a.keeper || a.id != 0 || field v 31 24 != 0xA5 then d
  else
    let d := match v.testBit 0, d.slotOf (field v 23 16) with
      | true, some s => d.requestReset s 4
      | _, _ => d
    if v.testBit 1 then d.warmReset 2 else d

def Dev.rstCauseWord (d : Dev) : Nat :=
  let r := d.rst
  r.kind * 2 ^ 28 + r.slot * 2 ^ 24 + b2n r.clean * 2 ^ 16 + r.bootMs % 65536

/-- ROOM_RST as it reads. -/
def Dev.roomRstRead (d : Dev) (a : Acc) : Nat :=
  let r := d.room a.slot
  r.rstLast * 2 ^ 26 + r.rstCount * 2 ^ 18

/-- ROOM_RST: PERIPH above PL0, CORE_GO and SELF by the keeper (R462 to R464, R475); room 0 also resets unowned controllers. -/
def Dev.roomRst (d : Dev) (a : Acc) (v : Nat) : Dev :=
  if a.pl == 0 then d
  else
    let mine := fun (b : Nat) => d.ownsPeriph a.slot b || (a.id == 0 && (d.plan.periphOwner d.pkg b).isNone)
    let d := each ((List.range 8).filter (fun b => v.testBit b && mine b)) (fun d b => d.resetPeriph b) d
    if !a.keeper then d
    else
      let core := field v 17 9
      let d := if v.testBit 30 && core / 128 == d.pkg && d.coreRoom (core % 128) == some a.id then d.requestCoreReset a.slot (core % 128) else d
      if v.testBit 31 then d.requestReset a.slot 3 else d

def Dev.bistRead (d : Dev) (o : Nat) : Nat :=
  let b := d.bist
  let e := d.ledger b.usel
  match o with
  | 0x00 => b.sliceUs * 2 ^ 16 + b.shutMs
  | 0x04 => b.ageH
  | 0x08 => b.slices
  | 0x0C => b.budgetStops * 2 ^ 16 + b.wakeStops
  | 0x10 => b.skipped
  | 0x14 => b.fails
  | 0x20 => b.usel
  | 0x24 => e.st * 2 ^ 30 + e.seg * 2 ^ 16 + e.onh
  | 0x28 => b.run.toNat
  | _ => 0

def Dev.bistReadEff (d : Dev) (o : Nat) : Dev :=
  let b := d.bist
  match o with
  | 0x08 => { d with bist := { b with slices := 0 } }
  | 0x0C => { d with bist := { b with budgetStops := 0, wakeStops := 0 } }
  | 0x10 => { d with bist := { b with skipped := 0 } }
  | 0x14 => { d with bist := { b with fails := 0 } }
  | _ => d

def Dev.bistWrite (d : Dev) (o v : Nat) : Dev :=
  let b := d.bist
  match o with
  | 0x00 => { d with bist := { b with sliceUs := clamp 50 5000 (field v 28 16), shutMs := min 800 (v % 1024) } }
  | 0x04 => { d with bist := { b with ageH := clamp 1 4000 (v % 4096) } }
  | 0x20 => { d with bist := { b with usel := min 296 (v % 512) } }
  | _ => d

/-! ### Rows -/

def execPwronRstN (straps : Straps) (board : Board) (s : State) : Ans := onDev (fun d => d.powerOn straps board) s
def execWarmRstN (s : State) : Ans := onDev (fun d => d.warmReset 1) s
def execSupplyExcursion (groupA : Bool) (s : State) : Ans := onDev (fun d => d.excursion groupA) s
def execDeviceWake (src : WakeSource) (s : State) : Ans := onDev (fun d => d.devWake src) s
def execSurrenderComplete (s : State) : Ans := onDev (fun d => d.surrenderDone) s

end Sys2Proof.Machine
end

