-- ==== Sys2Proof/Machine/RegMask.lean ====
section
/-!
DEFINITION. The bits of every register that can read as one: reserved bits, write-only fields and unassigned offsets read zero on every
package (R4, R7). The rows follow the register tables, block by block.
-/
namespace Sys2Proof.Machine

/-- Registers of one kind: `count` of them from `first`, `stride` apart, and the bits that they can return. -/
structure MaskRow where
  first : Nat
  stride : Nat
  count : Nat
  mask : Nat
  deriving DecidableEq, Repr

def MaskRow.hit (r : MaskRow) (o : Nat) : Bool :=
  decide (r.first ≤ o) && (o - r.first) % r.stride == 0 && decide ((o - r.first) / r.stride < r.count)

def maskIn (l : List MaskRow) (o : Nat) : Nat := ((l.find? (·.hit o)).map (·.mask)).getD 0

def wordMask : Nat := 0xFFFFFFFF

/-- A CAN controller (Table 19.6 and the buffers of R427). -/
def canMask : List MaskRow :=
  [⟨0x00, 4, 1, 0xF00000FF⟩, ⟨0x04, 4, 1, 0x01FFFF7F⟩, ⟨0x08, 4, 1, 0x801F1F0F⟩, ⟨0x0C, 4, 1, 0xFF81FFFF⟩,
   ⟨0x100, 4, 144, wordMask⟩, ⟨0x400, 4, 18, wordMask⟩, ⟨0x600, 4, 32, wordMask⟩]

/-- A MAC (Table 19.7). -/
def macMask : List MaskRow :=
  [⟨0x00, 4, 1, 0xF0000000⟩, ⟨0x04, 8, 2, 0xFFFFFFC0⟩, ⟨0x08, 8, 2, wordMask⟩, ⟨0x14, 4, 1, 0x000F000F⟩, ⟨0x18, 4, 1, 0x0FFF0FFF⟩,
   ⟨0x1C, 4, 2, wordMask⟩, ⟨0x24, 4, 1, 0x8000FFFF⟩]

/-- A UART (Table 19.7). -/
def uartMask : List MaskRow :=
  [⟨0x00, 4, 1, 0x8000003C⟩, ⟨0x04, 4, 1, 0x000FFFFF⟩, ⟨0x0C, 4, 1, 0x000001FF⟩, ⟨0x10, 4, 1, 0x007F7F0F⟩]

/-- Controller `b` of Table 19.1. -/
def periphMask (b o : Nat) : Nat :=
  if b < 4 then maskIn canMask o else if b < 6 then maskIn macMask o else if b < 8 then maskIn uartMask o else 0

/-- A room view page without its controllers (Tables 1.10, 9.9, 10.5, 10.7, 11.2, 14.6, 15.3, 15.4a, 16.10, 17.7, 17.8, 18.5, 20.11, 21.6,
22.8 and R250). -/
def viewMask : List MaskRow :=
  [⟨0x000, 4, 1, 0x00FFC0FF⟩, ⟨0x004, 4, 1, 0x8F0100FF⟩, ⟨0x008, 4, 1, 0x3FFC0000⟩,
   ⟨0x100, 4, 1, 0xFFFFF000⟩, ⟨0x104, 4, 1, 0x0000FFFF⟩, ⟨0x108, 4, 1, 0x800FFFF8⟩,
   ⟨0x140, 16, 2, 0xFFFFF000⟩, ⟨0x144, 16, 2, 0x000001FF⟩, ⟨0x148, 4, 1, 0x80000007⟩,
   ⟨0x180, 4, 4, wordMask⟩, ⟨0x200, 4, 1, 0x03FF3F03⟩,
   ⟨0x300, 4, 1, 0x0FFFC1F0⟩, ⟨0x304, 4, 1, 0x800001FF⟩, ⟨0x310, 4, 1, 0x0000003F⟩, ⟨0x314, 4, 1, 0x0000007F⟩, ⟨0x318, 4, 4, wordMask⟩,
   ⟨0x400, 4, 1, 0x00071807⟩, ⟨0x404, 4, 1, 0x0000037F⟩, ⟨0x408, 4, 1, 0xE00000FF⟩, ⟨0x40C, 4, 1, 0x00000001⟩] ++
  [⟨0x1000, 4, 1, 0x000003FF⟩, ⟨0x1008, 4, 10, wordMask⟩,
   ⟨0x2000, 4, 1, 0xFFFFFF01⟩, ⟨0x2004, 4, 3, wordMask⟩, ⟨0x2010, 4, 1, 0xFFFFFFF3⟩, ⟨0x2018, 4, 1, wordMask⟩, ⟨0x201C, 4, 1, 0xFF00FFFF⟩,
   ⟨0x3000, 4, 1, 0x000003FF⟩, ⟨0x3004, 4, 1, 0xF1813F00⟩, ⟨0x3008, 4, 1, 0x0000FFFF⟩, ⟨0x3010, 4, 1, 0x0000000F⟩,
   ⟨0x4000, 64, 128, 0x0007FFF8⟩, ⟨0x4008, 64, 128, 0x801FFFFF⟩, ⟨0x4010, 64, 128, 0x0007FFF8⟩, ⟨0x4014, 64, 128, 0x0007FFF8⟩,
   ⟨0x4018, 64, 128, 0x0000FFFF⟩] ++
  [⟨0x6000, 4, 1, 0x00000FFF⟩, ⟨0x6004, 4, 1, 0xF7FF000F⟩, ⟨0x6008, 4, 2, wordMask⟩, ⟨0x6014, 4, 1, 0x0000000F⟩, ⟨0x6018, 4, 1, 0x000000FF⟩,
   ⟨0x601C, 4, 1, 0x0000FFFF⟩, ⟨0x6020, 4, 1, wordMask⟩,
   ⟨0xC000, 4, 1, 0x0000000F⟩, ⟨0xC004, 4, 1, 0xF000FF0F⟩, ⟨0xC008, 4, 1, 0x000000FF⟩, ⟨0xC00C, 4, 1, 0xFF0F001F⟩,
   ⟨0xC010, 4, 2, 0x000FFFE0⟩, ⟨0xC018, 4, 1, wordMask⟩, ⟨0xC01C, 4, 1, 0x000007FF⟩, ⟨0xC020, 4, 8, wordMask⟩]

/-- A region block without its clusters (Tables 11.6, 12.8, 13.3, 19.3). -/
def regionMask : List MaskRow :=
  [⟨0x00000, 4, 1, wordMask⟩, ⟨0x00008, 4, 1, 0x0000003F⟩, ⟨0x00010, 4, 8, wordMask⟩,
   ⟨0x10000, 4, 35, wordMask⟩, ⟨0x1008C, 4, 1, 0x0000007F⟩, ⟨0x10090, 4, 6, wordMask⟩,
   ⟨0x20000, 4, 5, wordMask⟩,
   ⟨0x30000, 4, 1, 0xF8001FFF⟩, ⟨0x30004, 4, 1, 0x000000FF⟩, ⟨0x30008, 4, 1, 0x000003FF⟩, ⟨0x3000C, 4, 1, 0x0000FFFF⟩,
   ⟨0x30010, 4, 1, wordMask⟩, ⟨0x30014, 4, 1, 0x000000FF⟩]

/-- A cluster's sub-block (Tables 11.5, 14.7, 16.9). -/
def clusterMask : List MaskRow :=
  [⟨0x00000, 4, 2, wordMask⟩, ⟨0x00008, 4, 1, 0x0000003F⟩, ⟨0x00010, 4, 4, wordMask⟩,
   ⟨0x10000, 4, 1, 0x7FFFFFFF⟩, ⟨0x10008, 4, 1, 0x0000003F⟩,
   ⟨0x10100, 4, 1, 0x1F077777⟩, ⟨0x10104, 4, 1, wordMask⟩, ⟨0x10108, 4, 1, 0x000000FF⟩, ⟨0x1010C, 4, 1, wordMask⟩]

/-- The package blocks up to offset 0x0017_0000 without the CAN, MAC and UART controllers (Tables 0.2, 1.9, 3.6, 3.7, 13.2, 15.5, 16.8, 18.6,
19.5, 19.7, 19.9, 20.12, 21.5, 21.7, 24.2 and R388, R430, R432, R459). -/
def packageMask : List MaskRow :=
  [⟨0x00000, 4, 1, 0xFFFFFFF0⟩, ⟨0x00004, 4, 1, 0x00000FFF⟩, ⟨0x00008, 4, 2, wordMask⟩, ⟨0x00010, 4, 1, 0x00007FFF⟩, ⟨0x00024, 4, 1, 0xF301FFFF⟩,
   ⟨0x10004, 4, 1, 0x0FFFFF0F⟩, ⟨0x10008, 4, 1, 0xFFFFFFF8⟩, ⟨0x1000C, 4, 1, 0x000FFFFF⟩, ⟨0x10010, 4, 1, 0x007FFFFF⟩, ⟨0x10018, 4, 4, wordMask⟩,
   ⟨0x20000, 4, 5, wordMask⟩,
   ⟨0x30000, 4, 1, 0xFF013F0F⟩, ⟨0x30004, 4, 1, 0xF0FF7F3F⟩, ⟨0x30008, 4, 2, 0x00001FFF⟩, ⟨0x30010, 4, 2, wordMask⟩, ⟨0x30018, 4, 1, 0xFFFF01FF⟩,
   ⟨0x31000, 4, 32, wordMask⟩] ++
  [⟨0x40000, 4, 1, 0x0000037F⟩, ⟨0x40004, 4, 1, 0xE00000FF⟩, ⟨0x40010, 4, 1, 0xC000FF00⟩, ⟨0x40014, 4, 1, 0xC00000FF⟩, ⟨0x40018, 4, 2, 0x0000007F⟩,
   ⟨0x40020, 4, 1, wordMask⟩, ⟨0x40024, 4, 1, 0x0000FFFF⟩, ⟨0x40028, 4, 1, 0xFF00FF00⟩, ⟨0x40100, 4, 8, wordMask⟩, ⟨0x41000, 4, 128, wordMask⟩,
   ⟨0x50000, 4, 1, 0x00000007⟩, ⟨0x50008, 4, 3, wordMask⟩, ⟨0x50014, 4, 1, 0xC0000000⟩,
   ⟨0x60000, 16, 1024, 0xFF3FF001⟩, ⟨0x60004, 16, 1024, 0x0000FFFF⟩] ++
  [⟨0x80000, 0x100, 8, 0xE0073FFF⟩, ⟨0x80004, 0x100, 8, wordMask⟩, ⟨0x80008, 0x100, 8, wordMask⟩, ⟨0x8000C, 0x100, 8, wordMask⟩,
   ⟨0x80010, 0x100, 8, wordMask⟩, ⟨0x80014, 0x100, 8, wordMask⟩, ⟨0x80018, 0x100, 8, wordMask⟩, ⟨0x8001C, 0x100, 8, wordMask⟩,
   ⟨0x81000, 0x40, 4, 0xFFF313FF⟩, ⟨0x81004, 0x40, 4, wordMask⟩, ⟨0x81008, 0x40, 4, 0x0000FFFF⟩,
   ⟨0x82000, 4, 1, 0x80000017⟩, ⟨0x82004, 4, 1, wordMask⟩, ⟨0x82010, 4, 1, wordMask⟩, ⟨0x82020, 4, 1, 0xC00000FF⟩, ⟨0x82024, 4, 1, 0xFFFFF000⟩,
   ⟨0x82028, 4, 1, wordMask⟩, ⟨0x8202C, 4, 2, 0x000FFFC0⟩] ++
  [⟨0x100000, 0x1000, 8, 0xFF03FFFF⟩, ⟨0x100004, 0x1000, 8, 0x000000FF⟩, ⟨0x100008, 0x1000, 8, wordMask⟩, ⟨0x10000C, 0x1000, 8, wordMask⟩,
   ⟨0x100010, 0x1000, 8, wordMask⟩, ⟨0x108000, 4, 2, wordMask⟩, ⟨0x122000, 4, 2, wordMask⟩, ⟨0x124000, 4, 3, wordMask⟩,
   ⟨0x130004, 0x100, 3, 0xF000FFFF⟩, ⟨0x130008, 0x100, 3, wordMask⟩, ⟨0x13000C, 0x100, 3, wordMask⟩, ⟨0x130010, 0x100, 3, wordMask⟩,
   ⟨0x130014, 0x100, 3, wordMask⟩,
   ⟨0x150000, 4, 1, 0x1FFF03FF⟩, ⟨0x150004, 4, 1, 0x00000FFF⟩, ⟨0x150008, 4, 4, wordMask⟩, ⟨0x150020, 4, 1, 0x000001FF⟩, ⟨0x150024, 4, 1, 0xCFFFFFFF⟩,
   ⟨0x150028, 4, 1, 0x00000007⟩, ⟨0x160000, 4, 1, 0xF00001FF⟩, ⟨0x160004, 4, 16383, wordMask⟩]

/-- The bits that a register at offset `o` of a package's register space can return. -/
def regMask (o : Nat) : Nat :=
  if 0xF000000 ≤ o then
    let p := o % 0x10000
    if decide (0x8000 ≤ p) && decide (p < 0xC000) then periphMask ((p - 0x8000) / 0x800) (p % 0x800) else maskIn viewMask p
  else if decide (0x1000000 ≤ o) && decide (o < 0x1800000) then
    let r := o % 0x100000
    if 0x80000 ≤ r then maskIn clusterMask (r % 0x20000) else maskIn regionMask r
  else if decide (0x110000 ≤ o) && decide (o < 0x112000) then periphMask ((o - 0x110000) / 0x800) (o % 0x800)
  else if decide (0x120000 ≤ o) && decide (o < 0x121000) then periphMask (4 + (o - 0x120000) / 0x800) (o % 0x800)
  else if o < 0x170000 then maskIn packageMask o
  else 0

end Sys2Proof.Machine
end

