-- ==== Sys2Proof/Machine/RegMap.lean ====
section
/-!
DEFINITION. Where every register stands (Tables 1.4 to 1.8): the room view page, the package blocks, the region and cluster sub-blocks, with
the access codes of R4, and the clock domain that serves each.
-/
namespace Sys2Proof.Machine

/-! ### The room's own registers that no other file holds (Tables 1.10, 16.10, R250, 17.7, 17.8) -/

def Dev.roomSelf (d : Dev) (a : Acc) : Nat :=
  b2n (d.spans a.slot) * 2 ^ 23 + b2n (d.sealedRoom a.slot) * 2 ^ 22 + b2n (d.timed a.slot) * 2 ^ 21 +
    b2n (d.plan.paired a.id) * 2 ^ 20 + a.slot * 2 ^ 14 + a.id

def Dev.roomStat (d : Dev) (a : Acc) : Nat :=
  let r := d.room a.slot
  let held := r.phase == .held
  b2n held * 2 ^ 31 + (if held then r.reason else 0) * 2 ^ 24 + b2n r.degraded * 2 ^ 16 + min 255 r.subst

/-- SEC_CLAIMk, whoever reads it (DESIGN CHOICE, notes/assumptions/86.md). -/
def Dev.claimRead (d : Dev) (a : Acc) (k : Nat) : Nat := field (d.room a.slot).claims.toNat (32 * k + 31) (32 * k)

/-- A claim write by the keeper; bits of domains that the room does not use, and of the Porch, are dropped, and no slice goes on in a claimed
domain. -/
def Dev.claimWrite (d : Dev) (a : Acc) (k v : Nat) : Dev :=
  if !a.keeper then d
  else
    let bits := (List.range 32).filter (fun i => v.testBit i && d.slotUses a.slot (32 * k + i))
    (d.modRoom a.slot (fun r =>
      { r with claims := BitVec.ofNat 128 (setField r.claims.toNat (32 * k + 31) (32 * k) (orAll (bits.map (2 ^ ·)))) })).endClaimed

def Dev.timerRead (d : Dev) (a : Acc) (o : Nat) : Nat :=
  let t := (d.room a.slot).tick
  let w := (d.room a.slot).wdg
  match o with
  | 0x2000 => t.period * 256 + b2n t.en
  | 0x2004 => lo32 t.next
  | 0x2008 => hi32 t.next
  | 0x200C => t.miss
  | 0x2010 => w.timeout * 256 + w.warn * 16 + b2n w.kworld * 2 + b2n w.en
  | 0x2018 => w.count
  | 0x201C => w.bites * 2 ^ 24 + w.badKick
  | _ => 0

def Dev.timerReadEff (d : Dev) (a : Acc) (o : Nat) : Dev :=
  match o with
  | 0x200C => d.modRoom a.slot (fun r => { r with tick := { r.tick with miss := 0 } })
  | 0x201C => d.modRoom a.slot (fun r => { r with wdg := { r.wdg with badKick := 0 } })
  | _ => d

def Dev.timerWrite (d : Dev) (a : Acc) (o v : Nat) : Dev :=
  match o with
  | 0x2000 => d.tickCfgWrite a v
  | 0x2010 => d.wdgCfgWrite a v
  | 0x2014 => d.kick a v
  | 0x201C => if a.pl == 0 then d else d.modRoom a.slot (fun r => { r with wdg := { r.wdg with bites := field v 31 24 } })
  | _ => d

def Dev.irqRead (d : Dev) (a : Acc) (o : Nat) : Nat :=
  let sel := (d.room a.slot).irqSel
  match o with
  | 0x3000 => sel
  | 0x3004 => d.irqCfg a.slot sel
  | 0x3008 => d.irqTgt a.slot sel
  | 0x3010 => d.bpend a
  | _ => 0

def Dev.irqWrite (d : Dev) (a : Acc) (o v : Nat) : Dev :=
  match o with
  | 0x3000 => if a.pl == 0 then d else d.modRoom a.slot (fun r => { r with irqSel := v % 1024 })
  | 0x3004 => d.irqCfgWrite a (d.room a.slot).irqSel v
  | 0x300C => d.swgen a v
  | _ => d

/-! ### Mailboxes and epochs (Tables 15.3, 15.4a) -/

def Dev.mbxWrite (d : Dev) (a : Acc) (n r v : Nat) : Dev :=
  match r with
  | 0x00 => d.mbxSofsWrite a n v
  | 0x04 => d.mbxSend a n v
  | 0x08 => d.mbxSstatWrite a n v
  | 0x14 => d.mbxRdWrite a n v
  | _ => d

/-! ### Debug and trace registers (Tables 10.7, 22.8) -/

/-- A level of DBG_EN above the floorplan's maximum takes the maximum. -/
def Dev.dbgCap (d : Dev) (a : Acc) (secure : Bool) : Nat :=
  match d.plan.debug a.id with
  | some r => if secure then r.secMax else r.normMax
  | none => 0

/-- DBG_EN by the keeper: a level that falls below 2 resumes the halted contexts of its world at once (R249). -/
def Dev.dbgEnWrite (d : Dev) (a : Acc) (v : Nat) : Dev :=
  if !a.keeper then d
  else
    let d := d.modRoom a.slot (fun r => { r with dbg :=
      { r.dbg with sec := min (field v 3 2) (d.dbgCap a true), norm := min (field v 1 0) (d.dbgCap a false) } })
    each ((d.coresOf a.slot).filter (fun c => (d.core c).halted.isSome)) (fun d c =>
      if (d.core c).halted.isSome && d.dbgLevel a.slot (d.ctx (d.curCtx c)).secure < 2 then d.resumeCore c else d) d

def Dev.dbgStat (d : Dev) (a : Acc) : Nat :=
  let cs := d.coresOf a.slot
  let n := (cs.filter (fun c => (d.core c).halted.isSome)).length
  let frz := ((d.plan.debug a.id).map DebugRec.freezeWdg).getD true
  b2n (0 < n) * 2 ^ 31 + b2n (cs.any (fun c => (d.core c).pendHalt.isSome)) * 2 ^ 30 + b2n (frz && decide (0 < n)) * 2 ^ 29 +
    b2n (decide (0 < n) && (d.room a.slot).dbg.frz != 0) * 2 ^ 28 + n * 2 ^ 8 + (d.room a.slot).sess.length

def Dev.dbgRead (d : Dev) (a : Acc) (o : Nat) : Nat :=
  let g := (d.room a.slot).dbg
  match o with
  | 0xC000 => g.sec * 4 + g.norm
  | 0xC004 => d.dbgStat a
  | 0xC008 => g.frz.toNat
  | 0xC00C => b2n g.trcEn * 2 ^ 31 + b2n g.trcStop * 2 ^ 30 + b2n g.trcIrqEn * 2 ^ 29 + g.trcIrqOfs * 2 ^ 24 + g.trcFill * 2 ^ 16 +
      g.trcEvt.toNat
  | 0xC010 => g.trcWr
  | 0xC014 => g.trcRd
  | 0xC018 => g.trcLost
  | 0xC01C => d.traceKib a.slot
  | _ => if decide (0xC020 ≤ o) && decide (o < 0xC040) then (Sparse.get (0 : W32) g.stimEn ((o - 0xC020) / 4)).toNat else 0

def Dev.dbgReadEff (d : Dev) (a : Acc) (o : Nat) : Dev :=
  if o == 0xC018 then d.modRoom a.slot (fun r => { r with dbg := { r.dbg with trcLost := 0 } }) else d

def Dev.dbgWrite (d : Dev) (a : Acc) (o v : Nat) : Dev :=
  let setG := fun (f : DbgRegs → DbgRegs) => d.modRoom a.slot (fun r => { r with dbg := f r.dbg })
  if a.pl == 0 then d
  else match o with
    | 0xC000 => d.dbgEnWrite a v
    | 0xC008 =>
      if a.keeper then
        setG (fun g => { g with frz := BitVec.ofNat 8 (orAll (((List.range 8).filter (fun b => v.testBit b && d.ownsPeriph a.slot b)).map (2 ^ ·))) })
      else d
    | 0xC00C =>
      setG (fun g => { g with
        trcEn := v.testBit 31, trcStop := v.testBit 30, trcIrqEn := v.testBit 29, trcIrqOfs := field v 28 24,
        trcFill := max 1 (field v 19 16), trcEvt := BitVec.ofNat 5 v })
    | 0xC014 => setG (fun g => { g with trcRd := if d.traceKib a.slot * 1024 ≤ field v 19 5 * 32 then 0 else field v 19 5 * 32 })
    | _ =>
      if decide (0xC020 ≤ o) && decide (o < 0xC040) then
        setG (fun g => { g with stimEn := Sparse.set (0 : W32) g.stimEn ((o - 0xC020) / 4) (BitVec.ofNat 32 v) })
      else d

/-! ### Peripheral controllers (Table 19.1) -/

/-- Controller and offset within it, from an offset in the window 0x8000 to 0xBFFF of a view page. -/
def periphAt (o : Nat) : Option (Nat × Nat) :=
  let b := (o - 0x8000) / 0x800
  if decide (0x8000 ≤ o) && decide (o < 0xC000) then some (b, o % 0x800) else none

def Dev.periphRead (d : Dev) (b o : Nat) : Nat :=
  if b < 4 then d.canRead b o else if b < 6 then d.macRead (b - 4) o else if b < 8 then d.uartRead (b - 6) o else 0

def Dev.periphReadEff (d : Dev) (b o : Nat) : Dev :=
  if b < 4 then d.canReadEff b o else if b < 6 then d.macReadEff (b - 4) o else if b < 8 then d.uartReadEff (b - 6) o else d

/-- Writes from PL0 are ignored (R417). -/
def Dev.periphWrite (d : Dev) (a : Acc) (b o v : Nat) : Dev :=
  if a.pl == 0 then d
  else if b < 4 then d.canWrite b o v else if b < 6 then d.macWrite (b - 4) o v else if b < 8 then d.uartWrite (b - 6) o v else d

/-- The block copy of a controller that belongs to no room; a UART of no room serves the Lobby and nobody reaches it (R416, R431). -/
def Dev.blockCopy (d : Dev) (b : Nat) : Bool := (d.plan.periphOwner d.pkg b).isNone && decide (b < 6)

/-- Controller and offset from an offset in the CAN and MGT blocks. -/
def blockPeriph (o : Nat) : Option (Nat × Nat) :=
  if decide (0x110000 ≤ o) && decide (o < 0x112000) then some ((o - 0x110000) / 0x800, o % 0x800)
  else if decide (0x120000 ≤ o) && decide (o < 0x121000) then some (4 + (o - 0x120000) / 0x800, o % 0x800)
  else if decide (0x121000 ≤ o) && decide (o < 0x122000) then some (6 + (o - 0x121000) / 0x800, o % 0x800)
  else none

/-! ### The view page (Table 1.8) -/

def Dev.viewRead (d : Dev) (a : Acc) (o : Nat) : Nat :=
  if o < 0x100 then
    (match o with
     | 0x00 => d.roomSelf a
     | 0x04 => d.roomStat a
     | 0x08 => d.roomRstRead a
     | _ => 0)
  else if o < 0x140 then d.tlbiRead a o
  else if o < 0x180 then d.wmRead a o
  else if o < 0x190 then d.claimRead a ((o - 0x180) / 4)
  else if o == 0x200 then d.lkRead a
  else if decide (0x300 ≤ o) && decide (o < 0x400) then d.trRegRead a o
  else if decide (0x400 ≤ o) && decide (o < 0x500) then d.pwrRoomRead a o
  else if o < 0x1000 then 0
  else if o < 0x2000 then d.epoRead a o
  else if o < 0x3000 then d.timerRead a o
  else if o < 0x4000 then d.irqRead a o
  else if o < 0x6000 then d.mbxRead a ((o - 0x4000) / 64) (o % 64)
  else if o < 0x8000 then d.frcRoomRead a o
  else if o < 0xC000 then
    (match periphAt o with
     | some (b, p) => if d.ownsPeriph a.slot b then d.periphRead b p else 0
     | none => 0)
  else if o < 0xF000 then d.dbgRead a o
  else 0

def Dev.viewReadEff (d : Dev) (a : Acc) (o : Nat) : Dev :=
  if decide (0x300 ≤ o) && decide (o < 0x400) then d.trRegReadEff a o
  else if decide (0x1000 ≤ o) && decide (o < 0x2000) then d.epoReadEff a o
  else if decide (0x2000 ≤ o) && decide (o < 0x3000) then d.timerReadEff a o
  else if decide (0x6000 ≤ o) && decide (o < 0x8000) then d.frcRoomReadEff a o
  else if decide (0xC000 ≤ o) && decide (o < 0xF000) then d.dbgReadEff a o
  else match periphAt o with
    | some (b, p) => if d.ownsPeriph a.slot b then d.periphReadEff b p else d
    | none => d

def Dev.viewWrite (d : Dev) (a : Acc) (o v : Nat) : Dev :=
  if o < 0x100 then (if o == 0x08 then d.roomRst a v else d)
  else if o < 0x140 then (if o == 0x108 then d.tlbiWrite a v else if o == 0x100 || o == 0x104 then d.tlbiVaWrite a o v else d)
  else if o < 0x180 then d.wmWrite a o v
  else if o < 0x190 then d.claimWrite a ((o - 0x180) / 4) v
  else if o == 0x200 then d.lkWrite a v
  else if decide (0x300 ≤ o) && decide (o < 0x400) then d.trRegWrite a o v
  else if decide (0x400 ≤ o) && decide (o < 0x500) then d.pwrRoomWrite a o v
  else if o < 0x1000 then d
  else if o < 0x2000 then (if o == 0x1004 then d.epoCtl a v else d)
  else if o < 0x3000 then d.timerWrite a o v
  else if o < 0x4000 then d.irqWrite a o v
  else if o < 0x6000 then d.mbxWrite a ((o - 0x4000) / 64) (o % 64) v
  else if o < 0x8000 then d.frcRoomWrite a o v
  else if o < 0xC000 then
    (match periphAt o with
     | some (b, p) => if d.ownsPeriph a.slot b then d.periphWrite a b p v else d
     | none => d)
  else if o < 0xF000 then d.dbgWrite a o v
  else d

/-! ### PKG, EPO, RAS, IRQ, KEY (Tables 0.2, 1.9, 13.2, 15.5, 16.8, 24.2, R388) -/

def Dev.pkgLoc (d : Dev) : Nat :=
  let up := orAll (((List.range 3).filter (fun j => (d.link j).st == .up && (d.link j).admitted)).map (2 ^ ·))
  up * 256 + (d.per.present ||| BitVec.ofNat 4 (2 ^ d.pkg)).toNat * 16 + (d.plan.pkgs.length - 1) % 4 * 4 + d.pkg

/-- PKG_IDENT of a package of a grade (Table 0.2). -/
def pkgIdent (ae : Bool) : Nat := 0x91281000 + (if ae then 0x10 else 0x20)

def Dev.pkgRead (d : Dev) (o : Nat) : Nat :=
  match o with
  | 0x00 => pkgIdent Config.gradeAE
  | 0x04 => d.pkgLoc
  | 0x08 => lo32 Config.serial.toNat
  | 0x0C => hi32 Config.serial.toNat
  | 0x10 => d.ras.starveNs
  | 0x24 => d.rstCauseWord
  | _ => 0

def Dev.pkgWrite (d : Dev) (a : Acc) (o v : Nat) : Dev :=
  match o with
  | 0x10 => { d with ras := { d.ras with starveNs := clamp 500 20000 (v % 2 ^ 15) } }
  | 0x20 => d.pkgRst a v
  | _ => d

def Dev.epoBlockRead (d : Dev) (o : Nat) : Nat :=
  match o with
  | 0x00 => lo32 d.ras.sysCnt
  | 0x04 => hi32 d.ras.sysCnt
  | 0x08 => d.ras.sysLate
  | 0x0C => d.ras.sysMaxLag
  | 0x10 => d.ras.ckptCe
  | _ => 0

def Dev.epoBlockReadEff (d : Dev) (o : Nat) : Dev :=
  match o with
  | 0x08 => { d with ras := { d.ras with sysLate := 0 } }
  | 0x0C => { d with ras := { d.ras with sysMaxLag := 0 } }
  | 0x10 => { d with ras := { d.ras with ckptCe := 0 } }
  | _ => d

/-- The 128 bytes of a record (Table 16.7). -/
def Incident.bytes (r : Incident) : List Byte :=
  leBytes 8 r.time ++ leBytes 4 r.seq ++ leBytes 1 r.cls ++ leBytes 1 r.kind ++ leBytes 1 r.pkg ++ leBytes 1 (b2n r.fromJournal) ++
    leBytes 8 r.rooms.toNat ++ leBytes 4 r.loc ++ leBytes 4 r.buildTag ++ leBytes 8 r.epoch ++ leBytes 8 r.addr ++
    leBytes 8 r.detail.toNat ++ leBytes 8 r.name ++ leBytes 8 r.rbkNs ++ List.replicate 56 0

def IncLog.at_ (l : IncLog) (i : Nat) : Incident := (Sparse.get (Incident.zero, false) l.ring i).1

def Dev.rasRead (d : Dev) (o : Nat) : Nat :=
  let s := d.ras
  if decide (0x1000 ≤ o) && decide (o < 0x1080) then leAt (d.inc.at_ d.inc.rd).bytes (o - 0x1000) 4
  else match o with
    | 0x00 => s.devLimit * 2 ^ 24 + b2n s.pprEn * 2 ^ 16 + s.patrolH * 2 ^ 8 + s.subLimit
    | 0x04 =>
      s.mirrorDeg.toNat * 2 ^ 28 + orAll (((List.range 8).filter (fun r => (d.region r).chanLost)).map (2 ^ ·)) * 2 ^ 16 +
        (d.slots.filter (fun k => (d.room k).phase == .held)).length * 2 ^ 8 +
        ((List.range 32).filter (fun c => (d.cluster c).spare == 7)).length
    | 0x08 => d.inc.wr
    | 0x0C => d.inc.rd
    | 0x10 => d.inc.lost
    | 0x14 => d.inc.last
    | 0x18 => d.inc.jnlLost * 2 ^ 16 + d.inc.journal.length
    | _ => 0

def Dev.rasReadEff (d : Dev) (o : Nat) : Dev :=
  if o == 0x10 then { d with inc := { d.inc with lost := 0 } } else d

def Dev.rasWrite (d : Dev) (o v : Nat) : Dev :=
  match o with
  | 0x00 => { d with ras := { d.ras with
      devLimit := max 1 (field v 31 24), pprEn := v.testBit 16, patrolH := clamp 1 48 (field v 13 8), subLimit := max 1 (v % 16) } }
  | 0x0C => { d with inc := { d.inc with rd := v % 8192 } }
  | _ => d

/-- IRQ_ROUTE and IRQ_ROUTE_TGT of a source (R388). -/
def Dev.irqBlockRead (d : Dev) (o : Nat) : Nat :=
  let s := o / 16
  if 1024 ≤ s then 0
  else
    let pend := b2n (d.pendSrc s)
    match o % 16, d.route s with
    | 0, some r => r.roomId * 2 ^ 24 + r.prio * 2 ^ 16 + r.bank % 4 * 2 ^ 14 + b2n r.keeper * 2 ^ 13 + 2 ^ 12 + pend
    | 0, none => pend
    | 4, some r => r.target
    | _, _ => 0

def OwnState.code : OwnState → Nat
  | .unowned => 0
  | .owned => 1
  | .surrendering => 2
  | .returned => 3

def Dev.keyState (d : Dev) : Nat :=
  d.keys.own.code * 2 ^ 30 + b2n d.inc.expRing * 2 ^ 29 + b2n d.inc.expJnl * 2 ^ 28 + (d.inc.journal.filter (fun p => !p.2)).length

/-- The KEY block: KEY_STATE, and at the offsets that the part gives them the public key and the key hashes (R81,
notes/assumptions/49.md). -/
def Dev.keyRead (d : Dev) (o : Nat) : Nat :=
  if o == 0 then d.keyState
  else match Config.keyOffset o with
    | some i => leAt (Config.devicePublicKey ++ Config.vendorKeyHash ++ d.keys.ownerHash) i 4
    | none => 0

/-! ### Region and cluster sub-blocks (Tables 1.7, 11.5, 11.6, 12.8, 14.7, 16.9) -/

def Dev.l3Read (d : Dev) (r o : Nat) : Nat :=
  let g := d.region r
  let owner := fun (w : Nat) => (d.plan.caches.find? (fun x => x.form == 2 && x.loc == d.sysRegion r && x.ways.testBit w)).map CacheRec.roomId
  match o with
  | 0x00 => orAll (((List.range 16).filter (fun w => (owner w).isSome)).map (2 ^ ·)) * 2 ^ 16 + g.l3Retired.toNat
  | 0x08 => g.l3CeLimit
  | _ =>
    if decide (0x10 ≤ o) && decide (o < 0x20) then pack4 (Sparse.get 0 g.l3Ce) ((o - 0x10) / 4)
    else if decide (0x20 ≤ o) && decide (o < 0x30) then pack4 (fun w => (owner w).getD 0) ((o - 0x20) / 4)
    else 0

/-- Counters of four ways written at once. -/
def putWays (m : Sparse Nat) (k v : Nat) : Sparse Nat :=
  (List.range 4).foldl (fun m j => Sparse.set 0 m (4 * k + j) (v / 256 ^ j % 256)) m

def Dev.l3Write (d : Dev) (r o v : Nat) : Dev :=
  if o == 0x08 then d.modRegion r (fun g => { g with l3CeLimit := max 1 (v % 64) })
  else if decide (0x10 ≤ o) && decide (o < 0x20) then d.modRegion r (fun g => { g with l3Ce := putWays g.l3Ce ((o - 0x10) / 4) v })
  else d

def Dev.sfRead (d : Dev) (r o : Nat) : Nat :=
  let g := d.region r
  match o with
  | 0x00 => pack4 (fun k => (d.cluster (4 * r + k)).pendList.length) 0
  | 0x04 => g.sfSnpIn
  | 0x08 => g.sfSnpFwd
  | 0x0C => g.sfStale
  | 0x10 => g.sfXwake
  | _ => 0

def Dev.sfReadEff (d : Dev) (r o : Nat) : Dev :=
  d.modRegion r (fun g =>
    match o with
    | 0x04 => { g with sfSnpIn := 0 }
    | 0x08 => { g with sfSnpFwd := 0 }
    | 0x0C => { g with sfStale := 0 }
    | 0x10 => { g with sfXwake := 0 }
    | _ => g)

def Dev.clRead (d : Dev) (c o : Nat) : Nat :=
  let x := d.cluster c
  let ways := fun (id : Option Nat) => (id.map (d.l2Ways c)).getD 0
  let lock := fun (id : Option Nat) => (id.map (d.l2Lock c)).getD 0
  let a := d.plan.roomA d.pkg c
  let b := d.plan.roomB d.pkg c
  match o with
  | 0x00 => (lock a ||| lock b) * 2 ^ 16 + x.l2Retired.toNat
  | 0x04 => ways b * 2 ^ 16 + ways a
  | 0x08 => x.l2CeLimit
  | 0x10100 =>
    x.failed.toNat * 2 ^ 24 + x.spare * 2 ^ 16 + ((List.range 4).map (fun k => x.slotMap.getD k 7 % 8 * 16 ^ k)).sum
  | 0x10104 => pack4 (fun p => min 255 (d.located c p)) 0
  | 0x10108 => min 255 (d.located c 4)
  | 0x1010C => x.coreRbk
  | _ => if decide (0x10 ≤ o) && decide (o < 0x20) then pack4 (Sparse.get 0 x.l2Ce) ((o - 0x10) / 4) else d.trSysRead c o

def Dev.clReadEff (d : Dev) (c o : Nat) : Dev := if o == 0x1010C then d.modCluster c (fun x => { x with coreRbk := 0 }) else d

def Dev.clWrite (d : Dev) (c o v : Nat) : Dev :=
  if o == 0x08 then d.modCluster c (fun x => { x with l2CeLimit := max 1 (v % 64) })
  else if decide (0x10 ≤ o) && decide (o < 0x20) then d.modCluster c (fun x => { x with l2Ce := putWays x.l2Ce ((o - 0x10) / 4) v })
  else d.trSysWrite c o v

/-- A sub-block of a region: the cluster's number and offset, or none and the offset in the region. -/
def clusterAt (r o : Nat) : Option (Nat × Nat) :=
  if 0x80000 ≤ o then some (4 * r + (o - 0x80000) / 0x20000, o % 0x20000) else none

def Dev.regionRead (d : Dev) (r o : Nat) : Nat :=
  match clusterAt r o with
  | some (c, p) => d.clRead c p
  | none =>
    if o < 0x10000 then d.l3Read r o
    else if o < 0x20000 then d.homeRead r (o - 0x10000)
    else if o < 0x30000 then d.sfRead r (o - 0x20000)
    else if o < 0x50000 then d.mcRead r (o - 0x30000)
    else 0

def Dev.regionReadEff (d : Dev) (r o : Nat) : Dev :=
  match clusterAt r o with
  | some (c, p) => d.clReadEff c p
  | none =>
    if o < 0x10000 then d
    else if o < 0x20000 then d.homeReadEff r (o - 0x10000)
    else if o < 0x30000 then d.sfReadEff r (o - 0x20000)
    else if o < 0x50000 then d.mcReadEff r (o - 0x30000)
    else d

def Dev.regionWrite (d : Dev) (r o v : Nat) : Dev :=
  match clusterAt r o with
  | some (c, p) => d.clWrite c p v
  | none => if o < 0x10000 then d.l3Write r o v else d

/-! ### The register space of the package (Table 1.6) -/

/-- PCIE_CFGD: what it reads and writes is the bus's. -/
def cfgdOfs : Nat := 0x108004

/-- A register of the package as an accessor of a room reads it, without side effects. -/
def Dev.regRead (d : Dev) (a : Acc) (o : Nat) : Nat :=
  if 0xF000000 ≤ o then (if (o - 0xF000000) / 0x10000 == a.slot then d.viewRead a (o % 0x10000) else 0)
  else if decide (0x1000000 ≤ o) then (if o < 0x1800000 then d.regionRead ((o - 0x1000000) / 0x100000) (o % 0x100000) else 0)
  else if o < 0x10000 then d.pkgRead o
  else if o < 0x20000 then d.flpRead (o - 0x10000)
  else if o < 0x30000 then d.epoBlockRead (o - 0x20000)
  else if o < 0x40000 then d.rasRead (o - 0x30000)
  else if o < 0x50000 then d.pwrSysRead (o - 0x40000)
  else if o < 0x60000 then d.clkRead (o - 0x50000)
  else if o < 0x80000 then d.irqBlockRead (o - 0x60000)
  else if o < 0x100000 then d.frcSysRead (o - 0x80000)
  else if o < 0x110000 then d.pcieRegRead (o - 0x100000)
  else if o < 0x130000 then
    (match blockPeriph o with
     | some (b, p) => if d.blockCopy b then d.periphRead b p else 0
     | none =>
       if o == 0x122000 || o == 0x122004 then d.lobbyIp ((o - 0x122000) / 4)
       else if decide (0x124000 ≤ o) && decide (o < 0x12400C) then (Sparse.get (0 : W32) d.porch.tel ((o - 0x124000) / 4)).toNat
       else 0)
  else if o < 0x140000 then (if o < 0x130300 then d.elvRead ((o - 0x130000) / 256) (o % 256) else 0)
  else if o < 0x150000 then 0
  else if o < 0x160000 then d.bistRead (o - 0x150000)
  else if o < 0x170000 then d.keyRead (o - 0x160000)
  else 0

/-- What reading a register does: RC fields clear, FIFOs pop (R4). -/
def Dev.regReadEff (d : Dev) (a : Acc) (o : Nat) : Dev :=
  if 0xF000000 ≤ o then (if (o - 0xF000000) / 0x10000 == a.slot then d.viewReadEff a (o % 0x10000) else d)
  else if decide (0x1000000 ≤ o) then (if o < 0x1800000 then d.regionReadEff ((o - 0x1000000) / 0x100000) (o % 0x100000) else d)
  else if o < 0x20000 then d
  else if o < 0x30000 then d.epoBlockReadEff (o - 0x20000)
  else if o < 0x40000 then d.rasReadEff (o - 0x30000)
  else if o < 0x50000 then d.pwrSysReadEff (o - 0x40000)
  else if o < 0x80000 then d
  else if o < 0x100000 then d.frcSysReadEff (o - 0x80000)
  else if o < 0x110000 then d.pcieRegReadEff (o - 0x100000)
  else if o < 0x130000 then
    (match blockPeriph o with
     | some (b, p) => if d.blockCopy b then d.periphReadEff b p else d
     | none => d)
  else if o < 0x140000 then (if o < 0x130300 then d.elvReadEff ((o - 0x130000) / 256) (o % 256) else d)
  else if o < 0x150000 then d
  else if o < 0x160000 then d.bistReadEff (o - 0x150000)
  else d

/-- A 32-bit write to a register of the package. -/
def Dev.regWrite (d : Dev) (a : Acc) (o v : Nat) : Dev :=
  if 0xF000000 ≤ o then (if (o - 0xF000000) / 0x10000 == a.slot then d.viewWrite a (o % 0x10000) v else d)
  else if decide (0x1000000 ≤ o) then (if o < 0x1800000 then d.regionWrite ((o - 0x1000000) / 0x100000) (o % 0x100000) v else d)
  else if o < 0x10000 then d.pkgWrite a o v
  else if o < 0x20000 then d.flpWrite a (o - 0x10000) v
  else if o < 0x30000 then d
  else if o < 0x40000 then d.rasWrite (o - 0x30000) v
  else if o < 0x50000 then d.pwrSysWrite a (o - 0x40000) v
  else if o < 0x80000 then d
  else if o < 0x100000 then d.frcSysWrite (o - 0x80000) v
  else if o == cfgdOfs then (d.pcieConfig (some (BitVec.ofNat 32 v)) none).1
  else if o < 0x110000 then d.pcieRegWrite (o - 0x100000) v
  else if o < 0x130000 then
    (match blockPeriph o with
     | some (b, p) => if d.blockCopy b then d.periphWrite a b p v else d
     | none => d)
  else if o < 0x140000 then (if o < 0x130300 then d.elvWrite ((o - 0x130000) / 256) (o % 256) v else d)
  else if o < 0x150000 then d
  else if o < 0x160000 then d.bistWrite (o - 0x150000) v
  else d

/-! ### Accesses -/

/-- The clock domain that serves a register (Table 20.2, by the blocks' names: notes/assumptions/42.md). -/
def regDomain (a : Acc) (o : Nat) : Nat :=
  if 0xF000000 ≤ o then
    let p := o % 0x10000
    if p < 0x180 then 90 else if p < 0x200 then 126 else if p < 0x300 then a.core / 4 else if p < 0x400 then 32 + a.core / 4
    else if p < 0x1000 then 126 else if p < 0x2000 then 124 else if p < 0x3000 then 117 else if p < 0x4000 then 125
    else if p < 0x6000 then 124 else if p < 0x8000 then 99
    else match periphAt p with
      | some (b, _) => 105 + b
      | none => 116
  else if decide (0x1000000 ≤ o) && decide (o < 0x1800000) then
    let r := (o - 0x1000000) / 0x100000
    match clusterAt r (o % 0x100000) with
    | some (c, p) => if decide (0x10000 ≤ p) && decide (p < 0x10100) then 32 + c else c
    | none => 64 + r
  else
    match blockPeriph o with
    | some (b, _) => 105 + b
    | none =>
      let n := o / 0x10000
      if n == 1 then 118 else if n == 2 then 124 else if n == 4 then 126 else if n == 5 then 117 else if n == 6 || n == 7 then 125
      else if decide (8 ≤ n) && decide (n < 16) then 99 else if n == 16 then 100 else if n == 19 then 102 + min 2 ((o - 0x130000) / 256)
      else if n == 20 then 116 else if n == 21 then 121 else if n == 22 then 123 else 90

/-- A register access reaches its domain (R444). -/
def Dev.regWake (d : Dev) (a : Acc) (o : Nat) : Dev := d.wake (regDomain a o)

/-- A register of package `p`, not this one: PKG_IDENT holds the part, the stepping and that package's grade (R2), PKG_LOC its number,
its own presence and the package count (Table 1.9); the rest is that package's, which this model does not hold, but what reads zero on every
package reads zero (R4, R7). -/
def Dev.remoteWord (d : Dev) (p o free : Nat) : Nat :=
  if o == 0 then pkgIdent (if Config.oneGrade then Config.gradeAE else Config.gradeAEOf p)
  else if o == 4 then
    (free % 2 ^ 11 / 256 * 256) + ((field free 7 4) ||| 2 ^ p) * 16 + (d.plan.pkgs.length - 1) % 4 * 4 + p
  else free &&& regMask o

/-- What a load of `n` bytes at a PA in another package's register space brings. -/
def Dev.remoteReg (d : Dev) (pa n : Nat) : Nat × Dev :=
  let k := d.clk.draws
  let o := paOfs pa - regBase
  let w := o / 4 * 4
  let word := fun (j : Nat) =>
    d.remoteWord (paPkg pa) (w + 4 * j) (leNat ((List.range 4).map (fun i => Config.lostByte (k + 4 * j + i))))
  ((word 0 + word 1 * 2 ^ 32) / 256 ^ (o % 4) % 256 ^ n, { d with clk := { d.clk with draws := k + 8 } })

/-- A register access by a PA: a word with its side effects (R5); of a narrower read the addressed bytes, of a 64-bit read two words, the
lower first (R6). -/
def Dev.regLoad (d : Dev) (a : Acc) (pa n : Nat) : Nat × Dev :=
  if paPkg pa != d.pkg then d.remoteReg pa n
  else
    let o := paOfs pa - regBase
    let w := o / 4 * 4
    let d := d.regWake a w
    let v := d.regRead a w
    let d := d.regReadEff a w
    if n == 8 then
      let d := d.regWake a (w + 4)
      (v + d.regRead a (w + 4) * 2 ^ 32, d.regReadEff a (w + 4))
    else (v / 256 ^ (o % 4) % 256 ^ n, d)

/-- A register write by a PA: a narrower write than 32 bits has no effect (R5). -/
def Dev.regStore (d : Dev) (a : Acc) (pa n v : Nat) : Dev :=
  if n < 4 then d
  else if paPkg pa != d.pkg then
    if d.inViewPage a.id pa then
      let put := fun (d : Dev) (o x : Nat) => (d.tlbiFar a (paPkg pa) o x).wmFar a (paPkg pa) o x
      let d := put d (paOfs pa % 0x10000) (v % 2 ^ 32)
      if n == 8 then put d (paOfs pa % 0x10000 + 4) (v / 2 ^ 32) else d
    else d
  else
    let o := paOfs pa - regBase
    let d := (d.regWake a o).regWrite a o (v % 2 ^ 32)
    if n == 8 then (d.regWake a (o + 4)).regWrite a (o + 4) (v / 2 ^ 32) else d

end Sys2Proof.Machine
end

