-- ==== Sys2Proof/Machine/TrapEntry.lean ====
section
/-!
DEFINITION. Taking an exception, an interrupt, a window trap or a double fault (06_windows_and_contexts.md, R380 to R385), each as one shared
operation, with the automatic spill of R178.
-/
namespace Sys2Proof.Machine

/-- The context a trap entry leaves: the values it writes into H4 to H7 cancel pending writes to them. -/
def Dev.enterTrap (d : Dev) (core : Nat) (y : Ctx) : Dev :=
  let cx := d.curCtx core
  let ps := [4, 5, 6, 7].map (fun k => y.phys (rH k))
  (d.setCtx cx (ps.foldl Ctx.cancelReg y)).tagCancel ((d.coreSlot core).getD 0) cx ps

/-- Vector base sign-extended from bit 47 (Table 17.4). -/
def vecBase (b : Word) : Word := ((b.truncate 48).signExtend 64) &&& (0xFFFFFFFFFFFFF000 : Word)

/-- Window trap status (Table 6.3). -/
def trapStatus (block rd sc kind origin cause : Nat) : Word :=
  BitVec.ofNat 64 (block % 16 + rd * 16 + sc * 256 + kind * 2 ^ 28 + origin * 2 ^ 30 + cause * 2 ^ 32)

/-- Write the four values a trap window receives (R173): H4 to H7, after the PSW selects the window. -/
def Ctx.trapRegs (x : Ctx) (h4 h5 h6 h7 : Word) : Ctx :=
  (((x.set (rH 4) h4).set (rH 5) h5).set (rH 6) h6).set (rH 7) h7

/-- PSW on entry to a trap window: TW = 1, IE = 0, BLK = 0, the level and world given (R173). -/
def Ctx.enterTw (x : Ctx) (pl : Nat) (secure : Bool) : Ctx :=
  (((((x.setPsw 12 12 1).setPsw 5 4 pl).setPsw 6 6 (b2n secure)).setPsw 7 7 0).setPsw 21 16 0)

def Ctx.psw64 (x : Ctx) : Word := x.psw.setWidth 64

/-- The flags that an operation beside the pipe still owes are written before a trap entry saves the PSW (R194). -/
def Dev.settleFlags (d : Dev) (core : Nat) : Dev := d.modCtx (d.curCtx core) (fun x => x.settle [] true)

/-- A fault while the PL2 trap window is busy resets the room and writes a record (Table 6.4, kind 0x16). -/
def Dev.pl2Fault (d : Dev) (core : Nat) : Dev :=
  match d.coreSlot core with
  | none => d
  | some slot => (d.incident 0x16 (d.pkg * 128 + core) 0 0 [slot] 0).requestReset slot 2

/-- Double fault (Table 6.4): into the PL2 trap window in the secure world, unless that window is busy. IE is cleared as at a window trap
(R173), and IPL, CWP and the flags stay (DESIGN CHOICE, notes/assumptions/60.md). -/
def Dev.doubleFault (d : Dev) (core cause origin block : Nat) (va : Word) : Dev :=
  let d := d.settleFlags core
  let x := d.ctx (d.curCtx core)
  if x.tw && x.pl == 2 then d.pl2Fault core
  else
    let h5 := trapStatus block x.rd (x.sc x.secure) 3 origin cause
    let y := (x.enterTw 2 true).trapRegs va h5 x.pc x.psw64
    d.enterTrap core { y with rec2 := .doubleFault, resv := none, pc := vecBase x.kvbase + 0x2C0 }

/-- Spill trap (`fill` = false) or fill trap (R173): the current instruction executes again after its ERET. -/
def Dev.windowTrap (d : Dev) (core block origin : Nat) (fill : Bool) : Dev :=
  let d := d.settleFlags core
  let x := d.ctx (d.curCtx core)
  let h5 := trapStatus block x.rd (x.sc x.secure) (if fill then 2 else 1) origin 0
  let y := (x.enterTw (if x.secure then 2 else 1) x.secure).trapRegs (x.wsp x.secure) h5 x.pc x.psw64
  let base := if x.secure then x.kvbase else x.vbase
  let y := { y with resv := none, pc := vecBase base + (if fill then 0x280 else 0x240) }
  d.enterTrap core (if x.secure then { y with rec2 := .windowTrap } else { y with rec1 := .windowTrap })

/-- Syndrome (Table 17.5). -/
def syndrome (e : Exc) (pl prio : Nat) : Word :=
  BitVec.ofNat 64 (e.cls + e.code * 16 + e.level * 256 + b2n e.wr * 2 ^ 11 + e.kind * 2 ^ 12 + e.number * 2 ^ 16 +
    prio * 2 ^ 32 + pl * 2 ^ 38)

/-- Where a ring trap goes (Table 17.2, Table 17.3). -/
structure Entry where
  pl : Nat
  secure : Bool
  base : Word
  vec : Nat
  /-- New IPL, for an interrupt. -/
  ipl : Option Nat
  deriving DecidableEq, Repr

/-- Entry of an exception or a SYSCALL from a level and world. -/
def Ctx.excEntry (x : Ctx) (vec : Nat) : Entry :=
  if x.pl == 2 then { pl := 2, secure := true, base := x.kvbase, vec := vec, ipl := none }
  else { pl := 1, secure := x.secure, base := x.vbase, vec := vec, ipl := none }

/-- The fetch check of bytes at the PC of a core: the F exception, if any. -/
def Dev.fetchCheck (d : Dev) (core n : Nat) : Option Exc :=
  match d.checkAccess (d.who core) (d.ctx (d.curCtx core)).pc n .fetch .any with
  | .error e => some e
  | .ok _ => none

/-- The context that a handler in the ring finds after the rotation (R380). -/
def Ctx.ringEntry (rotated : Ctx) (ent : Entry) (syn va retPc oldPsw : Word) : Ctx :=
  let y := rotated.trapRegs va syn retPc oldPsw
  let y := ((((y.setPsw 5 4 ent.pl).setPsw 6 6 (b2n ent.secure)).setPsw 12 12 0).setPsw 21 16 0)
  let y := match ent.ipl with
    | some p => y.setPsw 29 24 p
    | none => y
  { y with resv := none, pc := vecBase ent.base + BitVec.ofNat 64 ent.vec }

/-- Enter a handler in the ring: a vector that cannot be fetched is a double fault, or resets the room (R381). -/
def Dev.enterRing (d : Dev) (core : Nat) (ent : Entry) (syn va retPc : Word) (rotated : Ctx) (old : Ctx) : Dev :=
  let d := d.enterTrap core (rotated.ringEntry ent syn va retPc old.psw64)
  match d.fetchCheck core 1 with
  | none => d
  | some e => if ent.pl == 2 then d.pl2Fault core else d.doubleFault core 0 0 0 e.va

/-- Rotate a context forward (R102, R172). -/
def Ctx.rotate (x : Ctx) : Ctx := { x.setPsw 11 8 ((x.cwp + 1) % 16) with rd := min 15 (x.rd + 1) }

/-- The fetch at the vector of a context that enters the ring would be held by a watermark move (R247): the entry waits for it. -/
def Dev.vectorHeld (d : Dev) (core : Nat) (x : Ctx) : Bool :=
  let t := d.setCtx (d.curCtx core) x
  let w := t.who core
  (t.walkPlan w x.pc .fetch).1.any (fun a => t.heldSpan w.slot [(a, 8)]) || t.heldSpan w.slot (t.pasOf w x.pc 1 .fetch)

/-! ### Automatic stores (R160, R178, R240) -/

/-- Store the bytes of an access that passed its checks, without a trap of its own: into DRAM at once, to PCIe memory and device registers
eight bytes after eight (R6, R425). -/
def Dev.spillAt (d : Dev) (w : Who) : List Piece → List Byte → Dev
  | [], _ => d
  | (pa, n) :: t, bs =>
    let each8 := fun (f : Dev → Nat → List Byte → Dev) (d : Dev) =>
      each (List.range (n / 8)) (fun d k => f d (pa + 8 * k) ((bs.drop (8 * k)).take 8)) d
    let d := match paKind pa with
      | .dram => d.storeNow w [(pa, n)] (bs.take n) false none
      | .pcie => each8 (fun d a l => (d.wake 100).pcieOut a l) (d.drain w.core)
      | .reg => each8 (fun d a l => d.regStore (d.acc w.core) a 8 (leNat l)) (d.drain w.core)
      | _ => d.drain w.core
    d.spillAt w t (bs.drop n)

/-- The bytes of a store that need undo entries. -/
def dramBytes (ps : List Piece) (bs : List Byte) : List (Nat × Byte) := (scatter ps bs).filter (fun p => paKind p.1 == .dram)

/-- How a ring trap came out: taken; a spill trap or a double fault stands in its place; or it waits, for undo entries, a line, a watermark
move, or a result owed to the block it spills. -/
inductive TrapRes where
  | taken (d : Dev)
  | instead (d : Dev)
  | wait (d : Dev)

/-- Take a ring trap (Table 6.2, R380): rotate, with the automatic spill of R178 at RD = 15. -/
def Dev.ringTrap (d : Dev) (core : Nat) (ent : Entry) (syn va retPc : Word) : TrapRes :=
  let d := d.settleFlags core
  let cx := d.curCtx core
  let x := d.ctx cx
  let blk := (x.cwp + 1) % 16
  if d.vectorHeld core (x.rotate.ringEntry ent 0 0 0 0) then .wait d
  else if x.rd ≤ 14 then .taken (d.enterRing core ent syn va retPc x.rotate x)
  else if x.sc x.secure == 0xFFFFF then .instead (d.doubleFault core 0x9 3 blk 0)
  else if x.wsp x.secure == 0 then .instead (d.windowTrap core blk 3 false)
  else
    let w := { d.who core with pl := ent.pl }
    match d.tagWait core w.slot cx (blockRegs blk) with
    | none => .wait d
    | some d =>
      let d := d.modCtx cx Ctx.finishAll
      match d.access w (x.wsp x.secure) 128 .write .any .data with
      | .exc e => .instead ((d.walkTouch w (x.wsp x.secure) .write).doubleFault core e.cls 3 blk e.va)
      | .wait d => .wait d
      | .ok d' ps =>
        let bs := wordsBytes ((d'.ctx cx).blockWords blk)
        if !d'.undoReady w.slot (core / 4) (dramBytes ps bs) then .wait d
        else if !d'.drainReady core then .wait (d.askDrain core)
        else
          let d' := d'.spillAt w ps bs
          let x := d'.ctx cx
          let y := (x.setWsp x.secure (x.wsp x.secure + 128)).setSc x.secure (x.sc x.secure + 1)
          .taken (d'.enterRing core ent syn va retPc y.rotate x)

/-- What ends an instruction follows an entry; while the entry waits, the context stands where it was. -/
def TrapRes.ends (r : TrapRes) (core : Nat) : Dev :=
  match r with
  | .taken d => d.afterIssue core none
  | .instead d => d.afterIssue core none
  | .wait d => d

/-- Take an exception or a SYSCALL at the current instruction (R135, R153, R176, Table 17.2): `retPc` is what H6 takes. In a trap window it is
a double fault, whose ORIGIN is 0b00 (DESIGN CHOICE, notes/assumptions/60.md). -/
def Dev.takeExc (d : Dev) (core : Nat) (e : Exc) (retPc : Word) : TrapRes :=
  let x := d.ctx (d.curCtx core)
  if x.tw then .instead (d.doubleFault core e.cls 0 e.block e.va)
  else
    let vec := if e.cls == 8 then 0x1C0 else 0x40 * e.cls
    d.ringTrap core (x.excEntry vec) (syndrome e x.pl 0) e.va retPc

/-! ### Interrupts (R377 to R382) -/

/-- Trace packet of an interrupt entry (R495): needs a debug level on the world entered. -/
def Dev.traceIrq (d : Dev) (core slot s prio : Nat) (pc : Word) (secure : Bool) : Dev :=
  let g := (d.room slot).dbg
  if (if secure then g.sec else g.norm) != 0 then d.traceEvt core slot 0 2 (s + prio * 65536) pc else d

/-- Take an interrupt at the sample point of a core (R380, R382). An interrupt whose automatic spill traps or faults is not consumed: its
pending bit stays, and no delivery is recorded (DESIGN CHOICE, notes/assumptions/58.md). -/
def Dev.takeIrq (d : Dev) (core s : Nat) (retPc : Word) : TrapRes :=
  match d.coreSlot core, d.route s with
  | some slot, some r =>
    let d := d.settleFlags core
    let x := d.ctx (d.curCtx core)
    let prio := d.irqPrioOf s
    let cls := if r.keeper && !x.secure then 0xD else 0xC
    let syn := syndrome { cls := cls, number := s } x.pl prio
    if r.keeper && !x.secure then
      let old := x.psw64
      let y := ((((x.setPsw 12 12 1).setPsw 5 4 2).setPsw 6 6 1).setPsw 21 16 0).setPsw 29 24 prio
      let y := y.trapRegs 0 syn retPc old
      let d := d.enterTrap core { y with rec2 := .keeperInterrupt, resv := none, pc := vecBase x.kvbase + 0x300 }
      .taken ((d.delivered slot s).traceIrq core slot s prio x.pc true)
    else
      let ent : Entry := if r.keeper then { pl := 2, secure := true, base := x.kvbase, vec := 0x200, ipl := some prio }
        else { pl := 1, secure := false, base := x.vbase, vec := 0x200, ipl := some prio }
      match d.ringTrap core ent syn 0 retPc with
      | .taken d => .taken ((d.delivered slot s).traceIrq core slot s prio x.pc ent.secure)
      | r => r
  | _, _ => .wait d

end Sys2Proof.Machine
end

