-- ==== Sys2Proof/Machine/Issue.lean ====
section
/-!
DEFINITION. Issuing an instruction on a core: what every instruction of chapters 04 and 05 shares. The fetch of its bytes (R129), the
first illegal cause (R128), the privilege check (R135), comparators and steps (R486, R488), PSW.BLK (R184), and the exception taken
in place of the instruction (R136).
-/
namespace Sys2Proof.Machine

/-- What an instruction works with: the device after its fetch, the core, room slot, context index, and the context with the
pending results it waits for written. -/
structure Env where
  d : Dev
  core : Nat
  slot : Nat
  cx : Nat
  x : Ctx
  f : Form
  w : Who
  next : Word

/-- How an instruction comes out. -/
inductive IRes where
  /-- Completes: the device with everything but the PC, where issue goes on, whether BLK is kept, and the data accesses that
  comparators see. -/
  | done (d : Dev) (pc : Word) (keepBlk : Bool) (acc : List (Word × Nat × AccKind))
  /-- A window trap, a double fault or a service entry stands in its place. -/
  | trap (d : Dev)
  /-- An exception; nothing has changed (R136). -/
  | exc (e : Exc)
  /-- An exception after completed elements (R183). -/
  | excAt (d : Dev) (e : Exc)
  /-- Completes with the PC and BLK in place, ahead of an access that may stop the context. -/
  | placed (d : Dev) (acc : List (Word × Nat × AccKind))
  /-- Goes on later from where the context stands: between two elements, when a PCIe completion or a line comes, or when a held access may go
  on. -/
  | pause (d : Dev)
  /-- The instruction waits: undo entries or a station are not free yet. -/
  | wait

/-- A context goes past an instruction: the next PC, and BLK 0. -/
def Ctx.past (x : Ctx) (next : Word) : Ctx := { x.setPsw 21 16 0 with pc := next }

/-- The instruction completes with the next PC and BLK cleared. -/
def Env.finish (e : Env) (d : Dev) : IRes := .done d e.next false []
/-- An instruction that has every buffered store written first waits until all of them have their lines (R196, R198). -/
def Env.drained (e : Env) (r : IRes) : IRes := if e.d.drainReady e.core then r else .pause (e.d.askDrain e.core)

/-- A register-only instruction completes with its context changed. -/
def Env.put (e : Env) (x : Ctx) : IRes := e.finish (e.d.setCtx e.cx x)

/-- The slot of the room in which a core stands at an instruction boundary; none while it is stopped, halted, idle, waits for a
PCIe completion, or trails its pair, or while a boundary of the room has fallen (R330). -/
def Dev.canRun (d : Dev) (core : Nat) : Option Nat :=
  match d.coreSlot core with
  | none => none
  | some slot =>
    let c := d.core core
    if (d.room slot).phase == .running && c.run == .running && d.leads core && !d.boundaryDue slot &&
        (c.halted.isNone || c.stepping.isSome) && c.wait.isNone then some slot else none

/-- A debug step of one instruction takes an interrupt only with its IRQ flag (R486). -/
def Dev.takesIrq (d : Dev) (core : Nat) : Bool :=
  match (d.core core).stepping with
  | some (.one irq) => irq
  | _ => true

/-- The interrupt that a core takes at its instruction boundary, ahead of the next instruction (R379). -/
def Dev.irqFirst (d : Dev) (core : Nat) : Option Nat := if d.takesIrq core && !d.holdsX2 core then d.nextIrq core false else none

/-- The slot of the room in which a core can issue its next instruction: it stands at an instruction boundary, and no interrupt comes first. -/
def Dev.canIssue (d : Dev) (core : Nat) : Option Nat := if (d.irqFirst core).isSome then none else d.canRun core

/-- The lines of a fetch enter the L1U. The chunk that was read beyond a transfer guessed right leaves the replacement state of a line that is there
(R190, R210), until an instruction reaches past it. -/
def Dev.fetchTouch (d : Dev) (core n : Nat) (ps : List Piece) : Dev :=
  let pc := (d.ctx (d.curCtx core)).pc.toNat
  if (d.core core).beyond == some (pc / 32) then
    let there := fun (n : Nat) => (d.core core).l1.any (fun e => e.line == n)
    let stays := (pc + n - 1) / 32 == pc / 32
    each ((dramLines ps).filter (fun n => !there n)) (fun d n => d.touchLine core n false false)
      (if stays then d else d.modCore core (fun c => { c with beyond := none }))
  else (d.modCore core (fun c => { c with beyond := none })).touch core ps false false

/-- Fetch `n` bytes at the PC: translation, room check, lines into the L1U. -/
def Dev.fetch (d : Dev) (core n : Nat) : Chk :=
  match d.access (d.who core) (d.ctx (d.curCtx core)).pc n .fetch .any .fetch with
  | .ok d ps => .ok (d.fetchTouch core n ps) ps
  | r => r

/-- Take the exception of the current instruction. -/
def Dev.raiseExc (d : Dev) (core : Nat) (e : Exc) : Dev := (d.takeExc core e (d.ctx (d.curCtx core)).pc).ends core

/-- The entry reads of an access that faults go through the L2: of the page it starts in, and of the page that fails (R224). -/
def Dev.faultWalk (d : Dev) (core : Nat) (e : Exc) : Dev :=
  let k := if e.cls == 0 then AccKind.fetch else if e.wr then .write else .read
  match e.start with
  | none => d
  | some va => each [va, e.va].eraseDups (fun d a => d.walkTouch (d.who core) a k) d

/-- First comparator that one of the data accesses matches. -/
def Dev.dataHit (d : Dev) (core : Nat) (x : Ctx) (acc : List (Word × Nat × AccKind)) : Option Bp :=
  acc.findSome? (fun (va, n, k) => d.bpData core x va n k)

/-- Physical registers that an instruction writes, whose pending tagged results it cancels (R314). -/
def dstPhys (m : OpMap) (op : Nat) (f : Form) (x : Ctx) : List Nat :=
  match m with
  | .prim =>
    if op == 0x41 then [x.phys (rH 0)]
    else if op == 0x42 then [if x.tw then x.phys (rH 0) else ringReg (x.cwp + 1) 0]
    else if op == 0x51 then (bitsOf f.raw 32).map x.phys
    else if [0x06, 0x07, 0x22, 0x25, 0x26, 0x27, 0x4E].contains op || (decide (0x30 ≤ op) && op ≤ 0x46) ||
        (decide (0x50 ≤ op) && op ≤ 0x5F) then []
    else [x.phys f.rdn]
  | .escF0 => if op == 0 || op == 2 then [x.phys f.rdn] else []
  | .escF1 => [x.phys f.rdn]
  | _ => []

/-- Where issue begins: the instruction reaches its body, with what it works with; or the device is left without it: the core
cannot issue, a comparator stops it, an exception stands in its place, or its bytes or a tagged source are not there yet.
`room` is the room's own illegal cause (OP_MASK, CTX_MASK), `srcs` the source registers, `flags` whether it reads flags,
`priv` whether level and world permit it. -/
def Dev.enter (d : Dev) (core : Nat) (m : OpMap) (op : Nat) (f : Form) (room : Option Nat) (srcs : List Nat) (flags : Bool)
    (priv : Ctx → Bool) : Except Dev Env :=
  match d.canIssue core with
  | none => .error d
  | some slot =>
    let d := d.wake (core / 4)
    match d.bpHit core with
    | some b => .error (d.haltCore core b.sid (1 + b.index))
    | none =>
      match firstCause m op f room with
      | some (i, code) =>
        match d.fetch core (i + 1) with
        | .exc e => .error ((d.faultWalk core e).raiseExc core e)
        | .ok d1 _ => .error (d1.raiseExc core { cls := 1, code := code })
        | .wait d => .error d
      | none =>
        let bare := ((opRule m op).map OpRule.bare).getD false
        let len := if bare then m.bytes else f.length m.bytes
        match d.fetch core len with
        | .exc e => .error ((d.faultWalk core e).raiseExc core e)
        | .wait d => .error d
        | .ok d1 _ =>
          let cx := d.curCtx core
          if !priv (d.ctx cx) then .error (d1.raiseExc core { cls := 2 })
          else match d1.tagWait core slot cx (srcs.map (d.ctx cx).phys) with
          | none => .error d
          | some d1 =>
            let x := ((d1.ctx cx).settle srcs flags).phantom (btKindOf m op f)
            let d1 := d1.setCtx cx x
            .ok { d := d1, core := core, slot := slot, cx := cx, x := x, f := f, w := d1.who core,
                  next := x.pc + BitVec.ofNat 64 len }

/-- How issue ends, by what the body answers; `d` is the device before the instruction. An exception leaves what the fetch and the results waited
for have done. -/
def Dev.leave (d : Dev) (m : OpMap) (op : Nat) (e : Env) (r : IRes) : Dev :=
  match r with
  | .done d2 pc keep acc =>
    let d2 := d2.modCtx e.cx (fun y =>
      let y := { y with pc := pc }
      if keep then y else y.setPsw 21 16 0)
    let d2 := d2.tagCancel e.slot e.cx (dstPhys m op e.f e.x)
    d2.afterIssue e.core (d2.dataHit e.core e.x acc)
  | .trap d2 => d2.afterIssue e.core none
  | .placed d2 acc => d2.afterIssue e.core (d2.dataHit e.core e.x acc)
  | .pause d2 => d2
  | .exc x => (e.d.faultWalk e.core x).raiseExc e.core x
  | .excAt d2 x => d2.raiseExc e.core x
  | .wait => d

/-- Issue an instruction. -/
def Dev.issue (d : Dev) (core : Nat) (m : OpMap) (op : Nat) (f : Form) (room : Option Nat) (srcs : List Nat) (flags : Bool)
    (priv : Ctx → Bool) (body : Env → IRes) : Dev :=
  match d.enter core m op f room srcs flags priv with
  | .error d => d
  | .ok e => (d.wake (core / 4)).leave m op e (body e)

/-- Instructions that any level and world may run. -/
def anyLevel (_ : Ctx) : Bool := true

end Sys2Proof.Machine
end

