-- ==== Sys2Proof/Machine/BitOps.lean ====
section
/-!
DEFINITION. Bit operations, conditional move and select (R140, R141).
-/
namespace Sys2Proof.Machine

/-- A one-source operation on W bits that answers a count or a permutation of RS. -/
def Dev.bitOp (d : Dev) (core op : Nat) (f : Form) (z : Bool) (g : Nat → Nat → Nat) : Dev :=
  d.issue core .prim op f none [f.rsn] false anyLevel (fun e =>
    let v := g f.width.bits (f.width.cut (e.x.get f.rsn))
    e.put (e.x.wrRes f.rdn { val := v, z := if z then some (v == 0) else none }))

def execBins (core : Nat) (f : Form) (s : State) : Ans :=
  onDev (fun d => d.issue core .prim 0x18 f none [f.rdn, f.rsn] false anyLevel (fun e =>
    e.put (e.x.wr f.rdn (BitVec.ofNat 64 (opBins f.raw (e.x.get f.rdn).toNat (e.x.get f.rsn).toNat))))) s

def execBext (core : Nat) (f : Form) (s : State) : Ans :=
  onDev (fun d => d.issue core .prim 0x19 f none [f.rsn] false anyLevel (fun e =>
    let v := opBext f.raw (e.x.get f.rsn).toNat
    e.put (e.x.wrRes f.rdn { val := v, z := some (v == 0) }))) s

def execBexts (core : Nat) (f : Form) (s : State) : Ans :=
  onDev (fun d => d.issue core .prim 0x1A f none [f.rsn] false anyLevel (fun e =>
    let v := opBexts f.raw (e.x.get f.rsn).toNat
    e.put (e.x.wrRes f.rdn { val := v, n := some (v.testBit 63), z := some (v == 0) }))) s

def execClz (core : Nat) (f : Form) (s : State) : Ans := onDev (fun d => d.bitOp core 0x1B f true clz) s

def execCtz (core : Nat) (f : Form) (s : State) : Ans := onDev (fun d => d.bitOp core 0x1C f true ctz) s

def execPopc (core : Nat) (f : Form) (s : State) : Ans :=
  onDev (fun d => d.bitOp core 0x1D f true (fun w x => popCount x w)) s

def execBperm (core : Nat) (f : Form) (s : State) : Ans :=
  onDev (fun d => d.issue core .prim 0x1E f none [f.rdn, f.rsn, f.rt] false anyLevel (fun e =>
    e.put (e.x.wr f.rdn (bperm (e.x.get f.rdn) (e.x.get f.rsn) (e.x.get f.rt))))) s

def execBswap (core : Nat) (f : Form) (s : State) : Ans := onDev (fun d => d.bitOp core 0x1F f false bswap) s

/-- CMOVcc: RD keeps its value when the condition fails. -/
def execCmovcc (core : Nat) (cc : BitVec 4) (f : Form) (s : State) : Ans :=
  onDev (fun d => d.issue core .escF1 cc.toNat f none [f.rdn, f.rsn] true anyLevel (fun e =>
    e.put (if e.x.cond cc.toNat then e.x.wr f.rdn (e.x.get f.rsn) else e.x))) s

def execSelcc (core : Nat) (cc : BitVec 4) (f : Form) (s : State) : Ans :=
  onDev (fun d => d.issue core .escF1 (0x10 + cc.toNat) f none [f.rsn, f.rt] true anyLevel (fun e =>
    e.put (e.x.wr f.rdn (if e.x.cond cc.toNat then e.x.get f.rsn else e.x.get f.rt)))) s

end Sys2Proof.Machine
end

