-- ==== Sys2Proof/Machine/RegRows.lean ====
section
/-!
DEFINITION. The rows that are a register access by the context current on a core: a write of one register (R4) named by its offset, or by the
row.
-/
namespace Sys2Proof.Machine

/-- Offset of a register of the view page of the room that a core serves. -/
def Dev.viewOfs (d : Dev) (core o : Nat) : Nat := 0xF000000 + (d.coreSlot core).getD 0 * 0x10000 + o

/-- Offset of a peripheral controller's register for the room that a core serves: in its view page when it owns the controller, else the
block copy (R416). -/
def Dev.periphOfs (d : Dev) (core b o : Nat) : Nat :=
  if d.ownsPeriph ((d.coreSlot core).getD 0) b then d.viewOfs core (0x8000 + b * 0x800 + o)
  else if b < 4 then 0x110000 + b * 0x800 + o
  else if b < 6 then 0x120000 + (b - 4) * 0x800 + o
  else 0x121000 + (b - 6) * 0x800 + o

/-- PA of a register offset in this package. -/
def Dev.regPa (d : Dev) (o : Nat) : Nat := d.pkg * 2 ^ 50 + regBase + o

/-- A register access by the context current on a core: the core can issue, its older stores are visible first (R288), and the room check
passes (R228). -/
def Dev.mayReach (d : Dev) (core o : Nat) (k : AccKind) : Option Dev :=
  match d.canIssue core with
  | none => none
  | some _ =>
    let w := d.who core
    if o % 4 == 0 && o < 0x10000000 && d.drainReady core && d.checkRange w.slot w.id w.secure w.nxf k (d.regPa o) 4 == 0 then
      some ((d.wake (core / 4)).drain core)
    else none

/-- The exception of a register access that `mayReach` turns away: alignment (R6), else the row of the room check that fails (R11, R229).
The row names no VA: the exception reports the one that reaches the register without translation (notes/assumptions/54.md). -/
def Dev.regExc (d : Dev) (core o : Nat) (k : AccKind) : Exc :=
  let va : Word := BitVec.ofNat 64 (regBase + o)
  let w := d.who core
  if o % 4 != 0 then { cls := 3, kind := 0, wr := k.writes, va := va }
  else rowExc (if o < 0x10000000 then d.checkRange w.slot w.id w.secure w.nxf k (d.regPa o) 4 else 9) 0 k va

/-- A register access that is turned away: the exception is taken when the core issues at all, and nothing else happens; one whose older stores still
wait for their lines waits with them. -/
def Dev.regRefused (d : Dev) (core o : Nat) (k : AccKind) : Dev :=
  if (d.canIssue core).isNone then d
  else if !d.drainReady core then d.askDrain core
  else (d.wake (core / 4)).raiseExc core (d.regExc core o k)

/-- The context current on a core writes a register. -/
def Dev.writeReg (d : Dev) (core o v : Nat) : Dev :=
  match d.mayReach core o .write with
  | none => d.regRefused core o .write
  | some d => d.regStore (d.acc core) (d.regPa o) 4 v

/-- The context current on a core reads a register: its side effects. -/
def Dev.readReg (d : Dev) (core o : Nat) : Dev :=
  match d.mayReach core o .read with
  | none => d.regRefused core o .read
  | some d => (d.regLoad (d.acc core) (d.regPa o) 4).2

/-- LKFILL as it stands, for the rows that set one of its bits. -/
def Dev.lkNow (d : Dev) (core : Nat) : Nat := d.lkRead (d.acc core)

def bothBit (both : Bool) : Nat := if both then 8 else 0

/-! ### Rows -/

def execRegisterWrite (core offset : Nat) (val : W32) (s : State) : Ans := onDev (fun d => d.writeReg core offset val.toNat) s

def execIrqSwgen (core : Nat) (val : W32) (s : State) : Ans := onDev (fun d => d.writeReg core (d.viewOfs core 0x300C) val.toNat) s
def execWdgKick (core : Nat) (val : W32) (s : State) : Ans := onDev (fun d => d.writeReg core (d.viewOfs core 0x2014) val.toNat) s
def execEpoCtlForce (core : Nat) (val : W32) (s : State) : Ans := onDev (fun d => d.writeReg core (d.viewOfs core 0x1004) val.toNat) s
def execMbxSend (core mbox : Nat) (val : W32) (s : State) : Ans :=
  onDev (fun d => if mbox < 128 then d.writeReg core (d.viewOfs core (0x4004 + mbox * 64)) val.toNat else d) s

def execLkfillWrite (core : Nat) (val : W32) (s : State) : Ans := onDev (fun d => d.writeReg core (d.viewOfs core 0x200) val.toNat) s
def execClrL1 (core : Nat) (s : State) : Ans := onDev (fun d => d.writeReg core (d.viewOfs core 0x200) (d.lkNow core ||| 8)) s
def execClrL2 (core : Nat) (s : State) : Ans := onDev (fun d => d.writeReg core (d.viewOfs core 0x200) (d.lkNow core ||| 4)) s

/-- TLBI_CTL written by a core, or an invalidation that another package tells of. -/
def Dev.tlbiRow (d : Dev) (core op : Nat) (asid : BitVec 16) : TlbiFrom → Dev
  | .here both => d.writeReg core (d.viewOfs core 0x108) (op + bothBit both + asid.toNat * 16)
  | .far room secure both va => d.tlbiTold room op both secure asid va.toNat

def execTlbiAll (core : Nat) (bothw : TlbiFrom) (s : State) : Ans := onDev (fun d => d.tlbiRow core 1 0 bothw) s
def execTlbiAsid (core : Nat) (asid : BitVec 16) (bothw : TlbiFrom) (s : State) : Ans := onDev (fun d => d.tlbiRow core 2 asid bothw) s
def execTlbiVaAsid (core : Nat) (asid : BitVec 16) (bothw : TlbiFrom) (s : State) : Ans := onDev (fun d => d.tlbiRow core 3 asid bothw) s
def execTlbiVa (core : Nat) (bothw : TlbiFrom) (s : State) : Ans := onDev (fun d => d.tlbiRow core 4 0 bothw) s

/-- WM_CTL written by a core, or a move that another package tells of. -/
def execWatermarkMove (core : Nat) (val : MoveFrom) (s : State) : Ans :=
  onDev (fun d => match val with
    | .here v => d.writeReg core (d.viewOfs core 0x148) v.toNat
    | .far room win ofs => d.wmTold room win ofs.toNat) s
def execTrLswmWrite (core : Nat) (val : W32) (s : State) : Ans := onDev (fun d => d.writeReg core (d.viewOfs core 0x304) val.toNat) s

def execBadCommand (core : Nat) (val : W32) (s : State) : Ans := onDev (fun d => d.writeReg core 0x10000 val.toNat) s

def execFrcPortCtlEn (core port : Nat) (val : W32) (s : State) : Ans :=
  onDev (fun d => if port < 8 then d.writeReg core (0x80000 + port * 256) val.toNat else d) s
def execFrcNctlDrop (core : Nat) (val : W32) (s : State) : Ans := onDev (fun d => d.writeReg core (d.viewOfs core 0x6010) val.toNat) s

def execPwrPreq (core : Nat) (val : W32) (s : State) : Ans := onDev (fun d => d.writeReg core (d.viewOfs core 0x400) val.toNat) s
def execPwrDreq (core : Nat) (block : Bool) (val : W32) (s : State) : Ans :=
  onDev (fun d => d.writeReg core (if block then 0x40000 else d.viewOfs core 0x404) val.toNat) s
def execDRetain (core : Nat) (s : State) : Ans := onDev (fun d => d.writeReg core 0x40010 1) s
def execDOff (core : Nat) (s : State) : Ans := onDev (fun d => d.writeReg core 0x40010 2) s

def execPkgRstWarm (core : Nat) (val : W32) (s : State) : Ans := onDev (fun d => d.writeReg core 0x20 val.toNat) s
def execRoomGo (core : Nat) (val : W32) (s : State) : Ans := onDev (fun d => d.writeReg core 0x20 val.toNat) s
def execSelf (core : Nat) (val : W32) (s : State) : Ans := onDev (fun d => d.writeReg core (d.viewOfs core 0x8) val.toNat) s
def execCoreGo (core : Nat) (val : W32) (s : State) : Ans := onDev (fun d => d.writeReg core (d.viewOfs core 0x8) val.toNat) s
def execPeriph (core : Nat) (val : W32) (s : State) : Ans := onDev (fun d => d.writeReg core (d.viewOfs core 0x8) val.toNat) s

def execTxreq (core can : Nat) (val : W32) (s : State) : Ans :=
  onDev (fun d => if can < 4 then d.writeReg core (d.periphOfs core can 0) val.toNat else d) s
def execPop (core can : Nat) (s : State) : Ans :=
  onDev (fun d => if can < 4 then d.writeReg core (d.periphOfs core can 0) ((d.can can).ctl ||| 2 ^ 16) else d) s
def execTxtail (core mac : Nat) (val : W32) (s : State) : Ans :=
  onDev (fun d => if mac < 2 then d.writeReg core (d.periphOfs core (4 + mac) 0x18) val.toNat else d) s
def execUartTx (core uart : Nat) (val : W32) (s : State) : Ans :=
  onDev (fun d => if uart < 2 then d.writeReg core (d.periphOfs core (6 + uart) 0x08) val.toNat else d) s
def execUartRx (core uart : Nat) (s : State) : Ans :=
  onDev (fun d => if uart < 2 then d.readReg core (d.periphOfs core (6 + uart) 0x0C) else d) s

/-- A configuration access through PCIE_CFGD (R426). -/
def execPcieCfgd (core : Nat) (write bus : Option W32) (s : State) : Ans :=
  onDev (fun d =>
    match d.mayReach core cfgdOfs (if write.isSome then .write else .read) with
    | none => d.regRefused core cfgdOfs (if write.isSome then .write else .read)
    | some d => ((d.regWake (d.acc core) cfgdOfs).pcieConfig write bus).1) s

end Sys2Proof.Machine
end

