-- ==== Sys2Proof/Machine/Control.lean ====
section
/-!
DEFINITION. Control transfers (R150 to R153), their rotations (Table 6.2), SYSCALL, and ERET with chaining (R175, R385).
-/
namespace Sys2Proof.Machine

/-! ### Transfers without a rotation -/

/-- Target of a transfer (R150): next + disp in mode MP, RS + disp in mode M; no memory access. -/
def Env.target (e : Env) : Word := if e.f.mode == amMP then e.next + e.f.imm else e.x.get e.f.rsn + e.f.imm

/-- Where the guess proves right, the next fetch was read beyond the transfer (R210). -/
def Env.guessed (e : Env) (d : Dev) (pc : Word) : Dev :=
  if e.x.guessedRight e.next pc then d.modCore e.core (fun c => { c with beyond := some (pc.toNat / 32) }) else d

/-- A resolved transfer: the predictor learns the outcome (R207) and issue goes on at `pc`. -/
def Env.jump (e : Env) (x : Ctx) (kind : BtKind) (pc : Word) : IRes :=
  .done (e.guessed (e.d.setCtx e.cx (x.resolve kind true pc)) pc) pc false []

/-- Sources of a transfer: RS in mode M. -/
def Form.xferSrc (f : Form) : List Nat := if f.mode == amM then [f.rsn] else []

/-- KIND of J, CALL and CALLW by their mode (Table 8.1). -/
def xferKind (f : Form) : BtKind := if f.mode == amMP then .direct else .indirect

def Env.bcc (e : Env) (cc : Nat) : IRes :=
  if cc == 14 then e.jump e.x .direct e.target
  else if e.x.cond cc then e.jump e.x .conditional e.target
  else e.finish (e.guessed (e.d.setCtx e.cx (e.x.resolve .conditional false e.target)) e.next)

/-- CALL: H0 of the current window takes the return address. -/
def Env.call (e : Env) : IRes :=
  e.jump ((e.x.wr (rH 0) e.next).pushRet e.next) (xferKind e.f) e.target

/-- RET: PC takes H0 of the current window. -/
def Env.ret (e : Env) : IRes := e.jump e.x.popRet .ret (e.x.get (rH 0))

/-! ### Rotations (Table 6.2) -/

/-- Trestle results of the context aimed at an A register now land in the window current at completion (KL-01, R518). -/
def Dev.markRotated (d : Dev) (ctx : Nat) : Dev :=
  if d.trPending ctx (fun s => s.aReg.isSome) then
    d.modCluster (ctx / 16) (fun c => { c with trestle := { c.trestle with
      queue := c.trestle.queue.map (fun s => if s.ctx == ctx then { s with rotated := true } else s) } })
  else d

/-- Rotate back (Table 6.2): CWP − 1, RD to max(RD − 1, 0). -/
def Ctx.rotateBack (x : Ctx) : Ctx := { x.setPsw 11 8 ((x.cwp + 15) % 16) with rd := x.rd - 1 }

/-- A rotation back needs a fill first. -/
def Ctx.needsFill (x : Ctx) : Bool := decide (x.rd ≤ 1) && decide (0 < x.sc x.secure)

/-- Block that a fill trap names. -/
def Ctx.fillBlock (x : Ctx) : Nat := (x.cwp + 31 - x.rd) % 16

/-- CALLW: rotate forward and write H0 of the new window; in a trap window it acts as CALL; at RD = 15 it takes a spill
trap, or a double fault at the spill count's limit. -/
def Env.callw (e : Env) : IRes :=
  let x := e.x
  let blk := (x.cwp + 1) % 16
  if x.tw then e.call
  else if x.rd == 15 then
    .trap (if x.sc x.secure == 0xFFFFF then e.d.doubleFault e.core 0x9 0 blk 0 else e.d.windowTrap e.core blk 0 false)
  else
    let y := (x.rotate.wr (rH 0) e.next).pushRet e.next
    .done (e.guessed ((e.d.setCtx e.cx (y.resolve (xferKind e.f) true e.target)).markRotated e.cx) e.target) e.target false []

/-- RETW: PC takes H0, then rotate back; a fill trap comes first where Table 6.2 asks. -/
def Env.retw (e : Env) : IRes :=
  let x := e.x
  if x.tw then e.ret
  else if x.needsFill then .trap (e.d.windowTrap e.core x.fillBlock 1 true)
  else
    let pc := x.get (rH 0)
    .done (e.guessed ((e.d.setCtx e.cx (x.popRet.resolve .ret true pc).rotateBack).markRotated e.cx) pc) pc false []

/-! ### SYSCALL (R153, R380) -/

/-- SYSCALL: a ring trap with class 0x8 whose H6 takes the next address; in a trap window a double fault (R176). -/
def Env.syscall (e : Env) : IRes :=
  let x := e.x
  let exc : Exc := { cls := 8, number := e.f.raw }
  if x.tw then .trap (e.d.doubleFault e.core 8 0 0 0)
  else
    let d := e.d.setCtx e.cx (x.setPsw 21 16 0)
    match d.ringTrap e.core (x.excEntry 0x1C0) (syndrome exc x.pl 0) 0 e.next with
    | .taken d => .trap d
    | _ => match e.d.ringTrap e.core (x.excEntry 0x1C0) (syndrome exc x.pl 0) 0 e.next with
      | .taken d => .trap d
      | .instead d => .trap d
      | .wait d => .pause d

/-! ### ERET (R105, R153, R175, R385, R530) -/

/-- PSW fields that ERET takes from H7, under the limits of R153; TW and CWP are not among them. -/
def Ctx.eretPsw (x : Ctx) (h7 : Nat) : Ctx :=
  let secure := if x.pl == 2 then bit h7 6 else x.secure
  let pl := min (field h7 5 4) x.pl
  let pl := if x.pl == 2 && !secure then min pl 1 else pl
  let y := (((x.setPsw 3 0 (field h7 3 0)).setPsw 7 7 (b2n (bit h7 7))).setPsw 29 24 (field h7 29 24))
  ((y.setPsw 21 16 (min 32 (field h7 21 16))).setPsw 5 4 pl).setPsw 6 6 (b2n secure)

/-- The window-state copies of an ERET after a window trap (R175): the PL1 trap window serves the normal world, the PL2 trap
window the secure one. -/
def Ctx.eretCopies (y : Ctx) (secure : Bool) (h4 h5 : Word) : Ctx :=
  { (y.setWsp secure (h4 &&& 0xFFFFFFFFFFFFFFC0)).setSc secure (field h5.toNat 27 8) with rd := field h5.toNat 7 4 }

/-- The context that an ERET which does not chain leaves, but its PC. -/
def Ctx.eretTo (x : Ctx) : Ctx :=
  let h7 := (x.get (rH 7)).toNat
  let y := { x.eretPsw h7 with resv := none }
  if !x.tw then y.rotateBack
  else
    let two := x.pl == 2
    let rec_ := if two then x.rec2 else x.rec1
    let stay := two && rec_ == EntryRec.doubleFault && bit h7 12 && y.pl == 1
    let y := y.setPsw 12 12 (b2n stay)
    let y := if rec_ == EntryRec.windowTrap then y.eretCopies two (x.get (rH 4)) (x.get (rH 5)) else y
    if two then { y with rec2 := .none } else { y with rec1 := .none }

/-- The source that a chaining ERET serves (R385): deliverable under the restored PSW, entering with the class of the ending
handler at the current level and world. -/
def Env.chains (e : Env) : Option Nat :=
  let x := e.x
  let cls := field (x.get (rH 5)).toNat 3 0
  let y := x.eretTo
  let ok := (cls == 0xC && !x.tw) || (cls == 0xD && x.tw && x.pl == 2)
  if !ok then none
  else match (e.d.setCtx e.cx y).nextIrq e.core false with
    | none => none
    | some s =>
      match e.d.route s with
      | none => none
      | some r =>
        let enters := if r.keeper then (if y.secure then 0xC else 0xD) else 0xC
        let here := if r.keeper then x.secure && x.pl == 2 else !x.secure && x.pl == 1
        if enters == cls && here then some s else none

/-- A chaining ERET restores nothing: the new syndrome, the new IPL, and the vector. It leaves BLK as it is (DESIGN CHOICE,
notes/assumptions/57.md), and an entry record that says double fault stays so (DESIGN CHOICE, notes/assumptions/83.md). A vector of the
ring that cannot be fetched is a double fault, or resets the room (R381). -/
def Env.chain (e : Env) (s : Nat) : IRes :=
  let x := e.x
  let cls := field (x.get (rH 5)).toNat 3 0
  let prio := e.d.irqPrioOf s
  let y := (x.wr (rH 5) (syndrome { cls := cls, number := s } x.eretTo.pl prio)).setPsw 29 24 prio
  let y := { y with resv := none }
  let base := if x.secure then x.kvbase else x.vbase
  let d := (e.d.setCtx e.cx y).delivered e.slot s
  let d := d.traceIrq e.core e.slot s prio (x.get (rH 6)) x.secure
  let pc := vecBase base + (if cls == 0xD then 0x300 else 0x200)
  let at_ := d.modCtx e.cx (fun y => { y with pc := pc })
  match if x.tw then none else at_.fetchCheck e.core 1 with
  | none => .done d pc true []
  | some f => .trap (if x.pl == 2 then at_.pl2Fault e.core else at_.doubleFault e.core 0 0 0 f.va)

def Env.eret (e : Env) : IRes :=
  let x := e.x
  match e.chains with
  | some s => e.chain s
  | none =>
    if !x.tw && x.needsFill then .trap (e.d.windowTrap e.core x.fillBlock 2 true)
    else .done (e.d.setCtx e.cx x.eretTo) (x.get (rH 6)) true []

/-- PL1 or PL2 (R135: P below). -/
def notUser (x : Ctx) : Bool := x.pl != 0

/-! ### Rows -/

def execBcc (core : Nat) (cc : BitVec 4) (f : Form) (s : State) : Ans :=
  onDev (fun d => d.issue core .prim (0x30 + cc.toNat) f none [] (cc.toNat != 14) anyLevel (fun e => e.bcc cc.toNat)) s

def execJ (core : Nat) (f : Form) (s : State) : Ans :=
  onDev (fun d => d.issue core .prim 0x40 f none (Form.xferSrc f) false anyLevel (fun e => e.jump e.x (xferKind f) e.target)) s

def execCall (core : Nat) (f : Form) (s : State) : Ans :=
  onDev (fun d => d.issue core .prim 0x41 f none (Form.xferSrc f) false anyLevel (fun e => e.call)) s

def execCallw (core : Nat) (f : Form) (s : State) : Ans :=
  onDev (fun d => d.issue core .prim 0x42 f none (Form.xferSrc f) false anyLevel (fun e => e.callw)) s

def execRet (core : Nat) (s : State) : Ans :=
  onDev (fun d => d.issue core .prim 0x43 {} none [rH 0] false anyLevel (fun e => e.ret)) s

def execRetw (core : Nat) (s : State) : Ans :=
  onDev (fun d => d.issue core .prim 0x44 {} none [rH 0] false anyLevel (fun e => e.retw)) s

def execSyscall (core : Nat) (f : Form) (s : State) : Ans :=
  onDev (fun d => d.issue core .prim 0x45 f none [] true anyLevel (fun e => e.syscall)) s

def execEret (core : Nat) (s : State) : Ans :=
  onDev (fun d => d.issue core .prim 0x46 {} none [rH 4, rH 5, rH 6, rH 7] true notUser (fun e => e.eret)) s

/-- At a sample point the deliverable source is taken (R377 to R382); STEP 1 takes one only with its IRQ flag (R486). -/
def execInterruptEntry (core : Nat) (s : State) : Ans :=
  onDev (fun d =>
    match d.canRun core, d.irqFirst core with
    | some _, some src => (d.takeIrq core src (d.ctx (d.curCtx core)).pc).ends core
    | _, _ => d) s

end Sys2Proof.Machine
end

