-- ==== Sys2Proof/Machine/System.lean ====
section
/-!
DEFINITION. System instructions (R161 to R167, R181, R211, R212).
-/
namespace Sys2Proof.Machine

/-! ### Control registers (Tables 4.3, 4.4, 4.5) -/

/-- The level that a control register asks (Table 4.5). -/
def crLevel (n : Nat) : Nat := if n < 8 then 0 else if n < 0x10 then 1 else 2

/-- CTXID of a context (Table 4.4). -/
def Dev.ctxId (d : Dev) (slot cx : Nat) : Nat :=
  slot * 2 ^ 24 + d.idOf slot * 2 ^ 16 + (d.pkg * 128 + cx / 4) * 4 + cx % 4

def Dev.crRead (d : Dev) (slot cx n : Nat) : Word :=
  let x := d.ctx cx
  match n with
  | 0x00 => x.psw64
  | 0x01 => BitVec.ofNat 64 (d.ctxId slot cx)
  | 0x02 => BitVec.ofNat 64 d.clk.tb
  | 0x08 => x.vbase
  | 0x09 => x.ptbase x.secure
  | 0x0A => (x.asid x.secure).setWidth 64
  | 0x10 => x.kvbase
  | _ => x.wctl

/-- A write of PSW: the flags at every level, and IE, BLK and IPL above PL0 (R105, Table 4.3). -/
def Ctx.pswWrite (x : Ctx) (v : Nat) : Ctx :=
  let y := x.wrFlags { val := 0, n := some (bit v 3), z := some (bit v 2), c := some (bit v 1), v := some (bit v 0) }
  if x.pl == 0 then y
  else ((y.setPsw 7 7 (b2n (bit v 7))).setPsw 21 16 (min 32 (field v 21 16))).setPsw 29 24 (field v 29 24)

/-- PTBASE keeps TABLE and EN (Table 9.2); ASID its low 16 bits. -/
def Ctx.setPtbase (x : Ctx) (v : Word) : Ctx :=
  let v := v &&& 0x000FFFFFFFFFF001
  if x.secure then { x with ptbaseS := v } else { x with ptbaseN := v }

def Ctx.setAsid (x : Ctx) (v : Word) : Ctx :=
  if x.secure then { x with asidS := v.truncate 16 } else { x with asidN := v.truncate 16 }

/-- A write of a control register; a read-only one ignores it (R107). -/
def Ctx.crWrite (x : Ctx) (n : Nat) (v : Word) : Ctx :=
  match n with
  | 0x00 => x.pswWrite v.toNat
  | 0x08 => { x with vbase := vecBase v }
  | 0x09 => x.setPtbase v
  | 0x0A => x.setAsid v
  | 0x10 => { x with kvbase := vecBase v }
  | 0x11 => { x with wctl := v &&& 0x0000FFFFFFFFFFFF }
  | _ => x

/-! ### Context switch, barriers, idle -/

/-- CTXSW (R161, R181): the bank named becomes current at its saved PC and PSW; buffered stores go first (R286). -/
def Env.ctxsw (e : Env) : IRes :=
  let bank := e.f.raw % 4
  let into := e.core * 4 + bank
  if !e.x.secure && (e.d.ctx into).secure then .exc { cls := 2 }
  else
    let d := e.d.setCtx e.cx { (e.x.setPsw 21 16 0) with pc := e.next, resv := none }
    e.drained (.placed ((d.drain e.core).modCore e.core (fun c => { c with cur := bank })) [])

/-- BPFLUSH (R211); the keeper also draws a new secret (R205). -/
def Env.bpflush (e : Env) : IRes :=
  let x := { e.x with btable := [], rstack := .empty }
  if x.keeper then
    let (sec, d) := e.d.draw
    e.finish (d.setCtx e.cx { x with secret := sec })
  else e.put x

/-- TWAIT (R167): the context's Trestle operations complete; a forwarded command in flight makes it wait. -/
def Env.twait (e : Env) : IRes :=
  let d := e.d.trDrain (e.core / 4) e.slot (fun s => s.ctx == e.cx)
  if d.trPending e.cx (fun _ => true) || (d.room e.slot).fwd.out.any (fun c => c.ctx == e.cx && c.tagOn) then .pause d else e.finish d

/-- IDLE stops issue (R165). -/
def Env.idle (e : Env) : IRes :=
  .pause (each (e.d.haltSet e.core) (fun d c => d.modCore c (fun k => { k with run := .idle })) e.d)

/-- The wait of IDLE ends (R165): a source is pending that IE = 1 and TW = 0 would make deliverable. Issue goes on after the IDLE, at which
the PC stood meanwhile (R485); the source is taken when it is deliverable as things stand. -/
def Dev.idleEnd (d : Dev) (core : Nat) : Dev :=
  match d.coreSlot core with
  | none => d
  | some slot =>
    let c := d.core core
    let steps := match c.stepping with
      | none => c.halted.isNone
      | some _ => true
    let irq := match c.stepping with
      | some (.one irq) => irq
      | _ => true
    if (d.room slot).phase == .running && c.run == .idle && steps && d.leads core && !d.boundaryDue slot &&
        (d.nextIrq core true).isSome then
      let d := each (d.haltSet core) (fun d c => d.modCore c (fun k => { k with run := .running })) (d.wake (core / 4))
      let d := d.modCtx (d.curCtx core) (fun y => y.past (y.pc + 1))
      match if irq then d.nextIrq core false else none with
      | some s => (d.takeIrq core s (d.ctx (d.curCtx core)).pc).ends core
      | none => d.afterIssue core none
    else d

/-! ### Rows -/

/-- CTX_MASK's cause for CTXSW (R127): code 0x0A for a bank it disables. -/
def Dev.bankCause (d : Dev) (core : Nat) (f : Form) : Option Nat :=
  if (d.banks core).contains f.raw then none else some 0x0A

def execCtxsw (core : Nat) (f : Form) (s : State) : Ans :=
  onDev (fun d => d.issue core .prim 0x54 f (d.bankCause core f) [] false notUser (fun e => e.ctxsw)) s

def execFence (core : Nat) (s : State) : Ans :=
  onDev (fun d => d.issue core .prim 0x58 {} none [] false anyLevel (fun e => e.drained (e.finish (e.d.drain core)))) s

/-- IFENCE also discards the fetch buffer, which the model, fetching each instruction as it issues, never holds. -/
def execIfence (core : Nat) (s : State) : Ans :=
  onDev (fun d => d.issue core .prim 0x59 {} none [] false anyLevel (fun e => e.drained (e.finish (e.d.drain core)))) s

def execBpflush (core : Nat) (s : State) : Ans :=
  onDev (fun d => d.issue core .prim 0x5A {} none [] false anyLevel (fun e => e.bpflush)) s

def execBpbar (core : Nat) (s : State) : Ans :=
  onDev (fun d => d.issue core .prim 0x5B {} none [] false anyLevel (fun e => e.put { e.x with bar := !e.x.bar })) s

def execIdle (core : Nat) (s : State) : Ans :=
  onDev (fun d => d.issue core .prim 0x5E {} none [] false notUser (fun e => e.idle)) s

def execIdleEnd (core : Nat) (s : State) : Ans := onDev (fun d => d.idleEnd core) s

def execNop (core : Nat) (s : State) : Ans :=
  onDev (fun d => d.issue core .prim 0x5F {} none [] false anyLevel (fun e => e.finish e.d)) s

def execRdcr (core : Nat) (f : Form) (s : State) : Ans :=
  onDev (fun d => d.issue core .escF0 0 f none [] (f.raw == 0) (fun x => decide (crLevel f.raw ≤ x.pl)) (fun e =>
    e.put (e.x.wr f.rdn (e.d.crRead e.slot e.cx f.raw)))) s

def execWrcr (core : Nat) (f : Form) (s : State) : Ans :=
  onDev (fun d => d.issue core .escF0 1 f none [f.rsn] false (fun x => decide (crLevel f.raw ≤ x.pl)) (fun e =>
    .done (e.d.setCtx e.cx (e.x.crWrite f.raw (e.x.get f.rsn))) e.next (f.raw == 0) [])) s

def execRdbk (core : Nat) (f : Form) (s : State) : Ans :=
  onDev (fun d => d.issue core .escF0 2 f none [] false anyLevel (fun e => e.put (e.x.wr f.rdn (e.x.bk f.raw)))) s

def execWrbk (core : Nat) (f : Form) (s : State) : Ans :=
  onDev (fun d => d.issue core .escF0 3 f none [f.rsn] false anyLevel (fun e => e.put (e.x.setBk f.raw (e.x.get f.rsn)))) s

def execTwait (core : Nat) (s : State) : Ans :=
  onDev (fun d => d.issue core .escF0 4 {} none [] false anyLevel (fun e => e.twait)) s

end Sys2Proof.Machine
end

