-- ==== Sys2Proof/Machine/TrestleIssue.lean ====
section
/-!
DEFINITION. Issuing Trestle and forwarded operations (R308 to R310, R323): operand ranges, the exceptions of R310, and the entry into
a station or onto the board. What an operation does when it finishes stands in TrestleExec.lean.
-/
namespace Sys2Proof.Machine

/-- An operand of a Trestle operation: its descriptor, in memory or not, its length in bytes, and the kind of its accesses. -/
structure TrRange where
  desc : Word
  mem : Bool
  len : Nat
  kind : AccKind
  deriving DecidableEq, Repr

/-- Size of the page that holds a VA, as a TLB or a walk down to its leaf gives it, whether or not the leaf permits the access; none when
translation is off, where no page ends. -/
def Dev.pageOf (d : Dev) (w : Who) (va : Word) : Option Nat :=
  let x := d.ctx w.ctx
  let v := va.toNat % 2 ^ 48
  if !(x.ptbase w.secure).getLsbD 0 then none
  else match (d.core w.core).tlbFind w.id w.secure (x.asid w.secure) v with
    | some e => some (2 ^ e.size.bits)
    | none => match d.walk w v [1, 2, 3, 4] (d.walkRoot w) [] with
      | .ok l => some (2 ^ (pageSizeOf l.level (l.entry.testBit 9)).bits)
      | .error _ => none

/-- A range crosses a page (R310). -/
def Dev.pageCross (d : Dev) (w : Who) (va : Word) (n : Nat) : Bool :=
  match d.pageOf w va with
  | some p => decide (p < va.toNat % p + n)
  | none => false

/-- Check a memory range (R310): one page, which comes first (Table 5.2), one translation, one room check. An untranslated range ends below
0x4000_0000_0000 (R218). -/
def Dev.trMemCheck (d : Dev) (w : Who) (va : Word) (n : Nat) (k : AccKind) : Except Exc (Dev × Nat) :=
  if canonical va && d.pageCross w va n then .error { cls := 3, kind := 2, wr := k.writes, va := va }
  else
    match d.translate w va k with
    | .error (row, level) => .error (rowExc row level k va)
    | .ok (d, pa, level) =>
      if !((d.ctx w.ctx).ptbase w.secure).getLsbD 0 && decide (0x400000000000 < va.toNat + n) then .error (rowExc 2 0 k va)
      else
        let row := d.checkRange w.slot w.id w.secure w.nxf k pa n
        if row != 0 then .error (rowExc row level k va) else .ok (d, pa)

/-- Check an operand: its PA when it lies in memory, its offset in the share otherwise. -/
def Dev.trCheck (d : Dev) (w : Who) (o : TrRange) : Except Exc (Dev × Nat) :=
  if o.len == 0 then .ok (d, 0)
  else if o.mem then d.trMemCheck w (descVa o.desc) o.len o.kind
  else
    let c := w.core / 4
    let ofs := descOfs o.desc
    if d.lsSize c w.slot < ofs + o.len then .error { cls := 5, kind := 1, code := 1, wr := o.kind.writes }
    else if !w.secure && ofs < Sparse.get 0 (d.cluster c).trestle.lswm w.slot * 1024 then
      .error { cls := 6, code := 1, wr := o.kind.writes }
    else .ok (d, ofs)

/-- Length of the table that an interpolation's RS names: its header, then its values (R312). -/
def Dev.tableLen (d : Dev) (w : Who) (dim : Nat) (desc : Word) : Nat :=
  match d.trCheck w { desc := desc, mem := descMem desc, len := 64, kind := .read } with
  | .ok (d, a) => 64 + 8 * (tiHeader dim (d.trRead (w.core / 4) w.slot (descMem desc) a 64)).size
  | .error _ => 64

/-- The result goes to register RD. A TLD or TST has no such result: its lines go to the RD descriptor whatever DR is (DESIGN CHOICE,
notes/assumptions/65.md). -/
def TrOp.toReg (op : TrOp) (imm : W32) : Bool := immDr imm && op != .tld && op != .tst

/-- The operands RS, RT and RD of an operation (Table 14.4). -/
def Dev.trOperands (d : Dev) (w : Who) (op : TrOp) (imm : W32) (rs rt rd : Word) : TrRange × TrRange × TrRange :=
  let n := immN imm
  let src := fun (v : Word) (len : Nat) => ({ desc := v, mem := descMem v, len := len, kind := .read } : TrRange)
  let dst := fun (len : Nat) =>
    ({ desc := rd, mem := op.rdMem rd, len := if op.toReg imm then 0 else len, kind := .write } : TrRange)
  let nil := src 0 0
  match op with
  | .tmma => (src rs (128 * n), src rt (128 * n), { dst 128 with kind := if immF imm then .rmw else .write })
  | .trsum | .trmax | .trmin => (src rs (8 * n), nil, dst 8)
  | .trdot => (src rs (8 * n), src rt (8 * n), dst 8)
  | .tband => (src rs (8 * n * (2 * bandOf rs + 1)), { src rt (8 * n) with kind := .rmw }, nil)
  | .tld => ({ src rs (64 * n) with mem := true }, nil, dst (64 * n))
  | .tst => ({ src rs (64 * n) with mem := false }, nil, dst (64 * n))
  | .tget => ({ src rs 8 with mem := false }, nil, nil)
  | .tput => (nil, nil, dst 8)
  | .ti1 | .ti2 | .ti3 => (src rs (d.tableLen w op.dim rs), src rt (tiQueryLen op.dim n (immF imm)), dst (8 * n))

/-- Where an operand lies, as far as it is known: its offset in the share, or its PA once translated. -/
def trPlace (o : TrRange) (r : Except Exc (Dev × Nat)) : Option Nat :=
  if o.mem then (match r with | .ok (_, a) => some a | .error _ => none) else some (descOfs o.desc)

/-- A destination overlaps a source of the same operation (R310). -/
def trOverlap (a b : TrRange) (ra rb : Except Exc (Dev × Nat)) : Bool :=
  match trPlace a ra, trPlace b rb with
  | some pa, some pb => decide (0 < a.len) && decide (0 < b.len) && a.mem == b.mem && overlap pa a.len pb b.len
  | _, _ => false

/-- The exception of lowest priority number, the first among equals (R310). -/
def firstExc : List Exc → Option Exc
  | [] => none
  | e :: t =>
    match firstExc t with
    | some f => if f.cls < e.cls then some f else some e
    | none => some e

def excOf : Except Exc (Dev × Nat) → List Exc
  | .error e => [e]
  | .ok _ => []

def paOf : Except Exc (Dev × Nat) → Nat
  | .error _ => 0
  | .ok (_, a) => a

def devOf (d : Dev) : Except Exc (Dev × Nat) → Dev
  | .error _ => d
  | .ok (d, _) => d

/-- A tag of a context is pending on a Trestle or forwarded operation. -/
def Dev.tagPending (d : Dev) (slot cx : Nat) (tag : BitVec 3) : Bool :=
  d.trPending cx (fun s => s.tag == tag) || (d.room slot).fwd.out.any (fun c => c.ctx == cx && c.tagOn && c.tag == tag)

/-- Wait for a tag (R314): the context's operations run until it clears. -/
def Dev.tagReady (d : Dev) (core slot cx : Nat) (tag : BitVec 3) : Option Dev :=
  let d := d.trDrain (core / 4) slot (fun s => s.ctx == cx && s.tag == tag)
  if d.tagPending slot cx tag then none else some d

/-- The immediate of a coprocessor form. -/
def Form.imm32 (f : Form) : W32 := BitVec.ofNat 32 f.raw

/-- A memory operand is held: its walk waits, or a watermark move covers it (R247). -/
def Dev.trHolds (d : Dev) (w : Who) (o : TrRange) : Bool :=
  o.mem && decide (0 < o.len) && (d.walkWaits w (descVa o.desc) o.kind ||
    (match d.translate w (descVa o.desc) o.kind with
     | .ok (_, pa, _) => d.heldSpan w.slot [(pa, o.len)]
     | .error _ => false))

/-- An operation enters a station; an idle datapath begins it when the wheel serves its room. -/
def Dev.addStation (d : Dev) (c : Nat) (s : Station) : Dev :=
  let d := (d.wake (32 + c)).modCluster c (fun k => { k with trestle := { k.trestle with queue := k.trestle.queue ++ [s] } })
  match d.trUnit c with
  | some u => d.trBegin u
  | none => d

/-- Issue a Trestle operation: the checks of R310, then a station. -/
def Env.trIssue (e : Env) (op : TrOp) : IRes :=
  let imm := Form.imm32 e.f
  let rs := e.x.get e.f.rsn
  let rt := e.x.get e.f.rt
  let rd := e.x.get e.f.rdn
  if op == TrOp.tband && (descMem rs || descMem rt) then .exc { cls := 1, code := 0x0A }
  else
    let (a, b, c) := e.d.trOperands e.w op imm rs rt rd
    let held := [a, b, c].filter (e.d.trHolds e.w)
    if !held.isEmpty then .pause (each held (fun (d : Dev) o => d.askWalk e.w (descVa o.desc) o.kind) e.d) else
    let ra := e.d.trCheck e.w a
    let d1 := devOf e.d ra
    let rb := d1.trCheck e.w b
    let d2 := devOf d1 rb
    let rc := d2.trCheck e.w c
    let d3 := devOf d2 rc
    let clash : List Exc :=
      if trOverlap c a rc ra || trOverlap c b rc rb then
        [{ cls := 3, kind := 3, wr := true, va := if c.mem then descVa c.desc else 0 }]
      else []
    match firstExc (excOf ra ++ excOf rb ++ excOf rc ++ clash) with
    | some x => .exc x
    | none =>
      match d3.tagReady e.core e.slot e.cx (immTag imm) with
      | none => .wait
      | some d =>
        let p := e.x.phys e.f.rdn
        let dr := op.toReg imm
        let st : Station :=
          { ctx := e.cx, op := op, tag := immTag imm, imm := imm, rdVal := rd, rsVal := rs, rtVal := rt,
            dst := if dr then some p else none
            aReg := if dr && decide (24 ≤ e.f.rdn) then some e.f.rd else none
            rotated := false, early := false, rsPa := paOf ra, rsLen := a.len, rtPa := paOf rb, rdPa := paOf rc }
        let d := if dr then (d.modCtx e.cx (fun x => x.cancelReg p)).tagCancel e.slot e.cx [p] else d
        e.finish (d.addStation (e.core / 4) st)

/-- Source registers of a Trestle operation. -/
def trSrcs (op : TrOp) (f : Form) : List Nat :=
  let rd := if op.toReg (Form.imm32 f) then [] else [f.rdn]
  match op with
  | .tmma | .ti1 | .ti2 | .ti3 | .trdot => f.rsn :: f.rt :: rd
  | .tband => [f.rsn, f.rt]
  | .tget => [f.rsn]
  | _ => f.rsn :: rd

def Dev.trestle (d : Dev) (core : Nat) (op : TrOp) (f : Form) : Dev :=
  d.issue core .trestle op.code f none (trSrcs op f) false anyLevel (fun e => e.trIssue op)

/-! ### Forwarded operations (R323) -/

/-- The room may issue the opcode: it has a record whose OP_MASK names it (R77, R127). -/
def Dev.fwdCause (d : Dev) (core : Nat) (op : Byte) : Option Nat :=
  match (d.coreRoom core).bind d.plan.fwd with
  | some r => if r.opMask.testBit op.toNat then none else some 8
  | none => some 8

/-- Issue a forwarded operation: a command packet goes to the board; while the 64th command before it is outstanding it waits for that one. -/
def Env.fwdIssue (e : Env) (op : Byte) : IRes :=
  let imm := Form.imm32 e.f
  let f := (e.d.room e.slot).fwd
  match e.d.tagReady e.core e.slot e.cx (immTag imm) with
  | none => .wait
  | some d =>
    if f.out.any (fun c => decide (64 ≤ (f.seq + 2 ^ 64 - c.seq) % 2 ^ 64)) then .pause d
    else
      let p := e.x.phys e.f.rdn
      let d := if immDr imm then (d.modCtx e.cx (fun x => x.cancelReg p)).tagCancel e.slot e.cx [p] else d
      let f := (d.room e.slot).fwd
      let c : FwdCmd :=
        { seq := f.seq, rgen := (d.room e.slot).epo.rgen, ctx := e.cx, tag := immTag imm, tagOn := true, op := op, dr := immDr imm,
          dst := if immDr imm then some p else none, rdv := e.x.get e.f.rdn, rsv := e.x.get e.f.rsn,
          rtv := e.x.get e.f.rt, user := imm.toNat / 512, epoch := (d.room e.slot).epo.cnt,
          due := d.clk.tb + ((d.plan.fwd e.w.id).map FwdRec.tmoUs).getD 0 * 1000 }
      let d := d.modRoom e.slot (fun r => { r with fwd := { r.fwd with seq := (f.seq + 1) % 2 ^ 64, out := f.out ++ [c] } })
      e.finish (d.fwdPost e.slot c)

/-! ### Rows -/

def execTmma (core : Nat) (f : Form) (s : State) : Ans := onDev (fun d => d.trestle core .tmma f) s
def execTi1 (core : Nat) (f : Form) (s : State) : Ans := onDev (fun d => d.trestle core .ti1 f) s
def execTi2 (core : Nat) (f : Form) (s : State) : Ans := onDev (fun d => d.trestle core .ti2 f) s
def execTi3 (core : Nat) (f : Form) (s : State) : Ans := onDev (fun d => d.trestle core .ti3 f) s
def execTrsum (core : Nat) (f : Form) (s : State) : Ans := onDev (fun d => d.trestle core .trsum f) s
def execTrdot (core : Nat) (f : Form) (s : State) : Ans := onDev (fun d => d.trestle core .trdot f) s
def execTrmax (core : Nat) (f : Form) (s : State) : Ans := onDev (fun d => d.trestle core .trmax f) s
def execTrmin (core : Nat) (f : Form) (s : State) : Ans := onDev (fun d => d.trestle core .trmin f) s
def execTband (core : Nat) (f : Form) (s : State) : Ans := onDev (fun d => d.trestle core .tband f) s
def execTld (core : Nat) (f : Form) (s : State) : Ans := onDev (fun d => d.trestle core .tld f) s
def execTrestleTst (core : Nat) (f : Form) (s : State) : Ans := onDev (fun d => d.trestle core .tst f) s
def execTget (core : Nat) (f : Form) (s : State) : Ans := onDev (fun d => d.trestle core .tget f) s
def execTput (core : Nat) (f : Form) (s : State) : Ans := onDev (fun d => d.trestle core .tput f) s

def execForwardedOperation (core : Nat) (op : Byte) (f : Form) (s : State) : Ans :=
  onDev (fun d => d.issue core .fwd op.toNat f (d.fwdCause core op) [f.rsn, f.rt, f.rdn] false anyLevel
    (fun e => e.fwdIssue op)) s

end Sys2Proof.Machine
end

