-- ==== Sys2Proof/Machine/LoadStore.lean ====
section
/-!
DEFINITION. Loads, stores, atomics, hints and stimulus (R142 to R149, R197): one load and one store of an item for DRAM, PCIe memory, the
Hamper and device registers, which the block transfers share.
-/
namespace Sys2Proof.Machine

/-! ### Items -/

/-- How an item access comes out. -/
inductive ItemRes where
  /-- A load's item, or a store that is done. -/
  | ok (d : Dev) (v : Nat)
  /-- A read that waits for a completion of `n` bytes from a PA (R425): the item is `item` bytes of `pre` and those, from `skip` on. -/
  | bus (d : Dev) (pa n : Nat) (pre : List Byte) (skip item : Nat)
  | exc (e : Exc)
  /-- The access waits (R247, R259, R334): its misses are on their way. -/
  | miss (d : Dev)

/-- A core's view of DRAM bytes, after the forced drain of a partial overlap (R197). -/
def Dev.loadDram (d : Dev) (core : Nat) (ps : List Piece) (nt : Bool) : Dev × Nat :=
  let d := (if d.partialHit core ps then d.drain core else d).touch core ps false nt
  (d, leNat (d.seenBytes core ps))

/-- Timebase at which a read of a port times out. -/
def Dev.ctoAt (d : Dev) (pa : Nat) : Nat := d.clk.tb + (d.pcie (d.portAt pa)).ctoUs * 1000

/-- PA that stands for a configuration read in the counters: the first port's range. -/
def Dev.cfgPa (d : Dev) : Nat := d.pkg * 2 ^ 50 + 0x100000000000

/-- Read PCIe memory: all ones at once while the link is down; otherwise the bus is asked (R425). -/
def Dev.pcieRead (d : Dev) (pa n : Nat) : ItemRes :=
  let d := d.wake 100
  if d.portUp (d.portAt pa) then .bus (d.emit (.pcieRead pa n)) pa n [] 0 n else .ok d (2 ^ (8 * n) - 1)

/-- A register read takes in PCIE_CFGD of this package: the word, bytes of it (R5), or the pair with PCIE_CFGA (R6). -/
def Dev.readsCfgd (d : Dev) (pa n : Nat) : Bool :=
  paPkg pa == d.pkg && ((paOfs pa - regBase) / 4 * 4 == cfgdOfs || (n == 8 && paOfs pa - regBase + 4 == cfgdOfs))

/-- Read PCIE_CFGD: the configuration read goes out, and the item waits for its completion (R425, R426). The lower word of a pair, PCIE_CFGA,
is read first. -/
def Env.loadCfgd (e : Env) (d : Dev) (pa n : Nat) : ItemRes :=
  let pair := paOfs pa - regBase + 4 == cfgdOfs
  let (v, d) := if pair then d.regLoad (d.acc e.core) pa 4 else (0, d)
  let d := ((d.regWake (d.acc e.core) cfgdOfs).pcieConfig none none).1
  .bus d d.cfgPa 4 (if pair then leBytes 4 v else []) (paOfs pa % 4) n

/-- Load the bytes of an access that passed its checks. -/
def Env.loadAt (e : Env) (d : Dev) (ps : List Piece) (n : Nat) (nt : Bool) : ItemRes :=
  match ps with
  | [] => .miss d
  | (pa, _) :: _ =>
    match paKind pa with
    | .dram =>
      let (d, v) := d.loadDram e.core ps nt
      .ok d v
    | .pcie => d.pcieRead pa n
    | .reg =>
      if d.readsCfgd pa n then e.loadCfgd d pa n
      else
        let (v, d) := d.regLoad (d.acc e.core) pa n
        .ok d v
    | _ => .ok d (leNat (d.bytes pa n))

/-- Load an item of `n` bytes at a VA for the context of an instruction. -/
def Env.loadItem (e : Env) (d : Dev) (va : Word) (n : Nat) (nt : Bool) (t : Target) : ItemRes :=
  match d.access e.w va n .read t .data with
  | .exc x => .exc x
  | .wait d => .miss d
  | .ok d ps => e.loadAt d ps n nt

/-- The undo entries of a store are free (R334). -/
def Env.undoFits (e : Env) (d : Dev) (ps : List Piece) (bs : List Byte) : Bool := d.undoReady e.slot (e.core / 4) (dramBytes ps bs)

/-- Store the bytes of an access that passed its checks; `keep` is the context whose reservation stays (Table 5.8). -/
def Env.storeAt (e : Env) (d : Dev) (ps : List Piece) (bs : List Byte) (nt : Bool) (keep : Option Nat) : Dev :=
  match ps with
  | [] => d
  | (pa, _) :: _ =>
    match paKind pa with
    | .dram => d.bufStore e.w ps bs nt keep
    | .pcie => ((d.drain e.core).wake 100).pcieOut pa bs
    | .reg => (d.drain e.core).regStore (d.acc e.core) pa bs.length (leNat bs)
    | _ => d.drain e.core

/-- Store bytes at a VA for the context of an instruction, which `place` puts, PC and all, where it is to stand afterwards: a register write
may reset it. -/
def Env.storeItem (e : Env) (d : Dev) (va : Word) (bs : List Byte) (nt : Bool) (keep : Option Nat) (place : Ctx → Ctx) : ItemRes :=
  match d.access e.w va bs.length .write .item .data with
  | .exc x => .exc x
  | .wait d => .miss d
  | .ok d' ps => if e.undoFits d' ps bs then .ok (e.storeAt (d'.modCtx e.cx place) ps bs nt keep) 0 else .miss d

/-- The result of a load in a register: zero- or sign-extended. -/
def extend (signed : Bool) (n v : Nat) : Word := if signed then sext64 (8 * n) v else BitVec.ofNat 64 v

/-- Comparators of a data access in the context of an instruction. -/
def Env.hits (e : Env) (va : Word) (n : Nat) (k : AccKind) : Option Bp := e.d.bpData e.core e.x va n k

/-- A core waits for a completion. -/
def Dev.startWait (d : Dev) (core : Nat) (w : PcieWait) : Dev := d.modCore core (fun c => { c with wait := some w })

/-! ### LD, LDX, ST, LEA (R142, R143) -/

def Env.load (e : Env) (signed : Bool) : IRes :=
  let n := e.f.width.bytes
  let va := e.x.ea e.f e.next
  match e.loadItem e.d va n e.f.hint .item with
  | .exc x => .exc x
  | .miss d => .pause d
  | .ok d v => .done (d.modCtx e.cx (fun y => y.wr e.f.rdn (extend signed n v))) e.next false [(va, n, .read)]
  | .bus d pa m pre skip item =>
    let p := e.x.phys e.f.rdn
    let d := (d.modCtx e.cx (fun y => y.cancelReg p)).tagCancel e.slot e.cx [p]
    .pause (d.startWait e.core
      { pa := pa, len := m, pre := pre, skip := skip, item := item, dst := p, signed := signed, due := d.ctoAt pa, next := e.next, blk := 0,
        more := false, block := none,
        hit := e.hits va n .read })

def Env.store (e : Env) : IRes :=
  let n := e.f.width.bytes
  let va := e.x.ea e.f e.next
  match e.storeItem e.d va (leBytes n (e.x.get e.f.rdn).toNat) e.f.hint (some e.cx) (fun y => y.past e.next) with
  | .ok d _ => .placed d [(va, n, .write)]
  | .exc x => .exc x
  | .miss d => .pause d
  | .bus _ _ _ _ _ _ => .wait

/-- Source registers of an effective address. -/
def Form.eaSrc (f : Form) : List Nat := if f.mode == amMP then [] else [f.rsn]

/-! ### Reservations (R148) -/

/-- The item is naturally aligned; a misaligned atomic raises A before translation (R144). -/
def misaligned (va : Word) (n : Nat) (wr : Bool) : Option Exc :=
  if va.toNat % n == 0 then none else some { cls := 3, kind := 0, wr := wr, va := va }

def Env.llk (e : Env) : IRes :=
  let n := e.f.width.bytes
  let va := e.x.ea e.f e.next
  match misaligned va n false with
  | some x => .exc x
  | none =>
    match e.d.access e.w va n .link .atomic .data with
    | .exc x => .exc x
    | .wait d => .pause d
    | .ok d ps =>
      let (d, v) := d.loadDram e.core ps false
      let line := (ps.headD (0, 0)).1 / 64
      .done (d.modCtx e.cx (fun y => { y.wr e.f.rdn (BitVec.ofNat 64 v) with resv := some line })) e.next false [(va, n, .read)]

/-- STC: what other cores have buffered for the line is written first, so that the reservation is still held only when no other write came. -/
def Env.stc (e : Env) : IRes :=
  let n := e.f.width.bytes
  let va := e.x.ea e.f e.next
  match misaligned va n true with
  | some x => .exc x
  | none =>
    match e.d.access e.w va n .write .atomic .data with
    | .exc x => .exc x
    | .wait d => .pause d
    | .ok d ps =>
      let line := (ps.headD (0, 0)).1 / 64
      let d := d.yieldStores e.core [line]
      let ok := (d.ctx e.cx).resv == some line
      let bs := leBytes n (e.x.get e.f.rdn).toNat
      if ok && !e.undoFits d ps bs then .pause e.d
      else
        let d := if ok then d.bufStore e.w ps bs false (some e.cx) else d.touchOwn e.core line false
        let d := d.modCtx e.cx (fun y => { y.wrFlags { val := 0, z := some ok } with resv := none })
        .done d e.next false (if ok then [(va, n, .write)] else [])

/-! ### Read-modify-write (R145) -/

/-- AADD, AAND, AOR, AXOR and XCHG: the item's new value from its old one and RD. -/
def rmwOp (op : Nat) (w : Nat) (t r : Nat) : Nat :=
  match op with
  | 0x28 => (t + r) % 2 ^ w
  | 0x29 => t &&& r
  | 0x2A => t ||| r
  | 0x2B => t ^^^ r
  | _ => r

/-- The item that a read-modify-write reads, and the device after what has to be written before: what other cores have buffered for its line, and
this core's own stores under the lock prefix or where one covers only part of the item. -/
def Env.rmwRead (e : Env) (d : Dev) (ps : List Piece) : Dev × Nat :=
  let d := d.yieldStores e.core (dramLines ps)
  let d := if e.f.lock || d.partialHit e.core ps then d.drain e.core else d
  (d, leNat (d.seenBytes e.core ps))

/-- A read-modify-write takes its undo entry before it has any effect (R334). -/
def Env.rmw (e : Env) (op : Nat) : IRes :=
  let n := e.f.width.bytes
  let va := e.x.ea e.f e.next
  match misaligned va n true with
  | some x => .exc x
  | none =>
    match e.d.access e.w va n .rmw .atomic .data with
    | .exc x => .exc x
    | .wait d => .pause d
    | .ok d ps =>
      if !e.undoFits d ps (List.replicate n 0) then .pause e.d
      else if e.f.lock && !d.drainReady e.core then .pause (d.askDrain e.core)
      else
        let (d, t) := e.rmwRead d ps
        let bs := leBytes n (rmwOp op e.f.width.bits t (e.f.width.cut (e.x.get e.f.rdn)))
        let d := if e.f.lock then d.storeNow e.w ps bs e.f.hint (some e.cx) else d.bufStore e.w ps bs e.f.hint (some e.cx)
        .done (d.modCtx e.cx (fun y => y.wr e.f.rdn (BitVec.ofNat 64 t))) e.next false [(va, n, .rmw)]

/-! ### Hints and stimulus (R146, R147) -/

/-- A hint for a line of DRAM: carried out where the line is there or comes at once, else the request leaves in a miss register; none where no
register is free. -/
def Dev.hint (d : Dev) (core kind line : Nat) (nt : Bool) : Option Dev :=
  let wr := kind == 1 || kind == 3
  let use := MissUse.hint kind nt
  if kind == 4 || d.lineReady core line wr use then some (d.hintLine core kind line nt)
  else if (d.missOf (core / 4) line).isNone && (d.freeMiss core ((d.coreRoom core).getD 0) use).isNone then none
  else some (d.askLine core line wr use)

/-- PFH: a hint that does not translate, is not permitted, names no DRAM, finds no miss register, or would have to wait for its walk or a
watermark move is dropped without a trace. -/
def Env.pfh (e : Env) : IRes :=
  let va := e.x.ea e.f e.next
  let went :=
    if e.d.walkWaits e.w va .read then none
    else match e.d.checkAccess e.w va 1 .read .any with
      | .ok (d, [(pa, n)]) =>
        if paKind pa == .dram && !d.heldSpan e.slot [(pa, n)] then d.hint e.core e.f.rdn (pa / 64) e.f.hint else none
      | _ => none
  e.finish (went.getD e.d)

/-- A stimulus port writes: it is enabled, and DBG_EN of the current world is not none (R495). -/
def Dev.stimOn (d : Dev) (slot port : Nat) (secure : Bool) : Bool :=
  let g := (d.room slot).dbg
  g.trcEn && (Sparse.get (0 : W32) g.stimEn (port / 32)).getLsbD (port % 32) && (if secure then g.sec else g.norm) != 0

def Env.stim (e : Env) : IRes :=
  let port := e.f.raw % 256
  if e.d.stimOn e.slot port e.x.secure then
    e.finish (e.d.traceCore e.core e.slot { e.d.tracePkt e.core e.slot 1 0 (e.x.get e.f.rsn) with port := port })
  else e.finish e.d

/-! ### Rows -/

def execLd (core : Nat) (f : Form) (s : State) : Ans :=
  onDev (fun d => d.issue core .prim 0x20 f none (Form.eaSrc f) false anyLevel (fun e => e.load false)) s

def execLdx (core : Nat) (f : Form) (s : State) : Ans :=
  onDev (fun d => d.issue core .prim 0x21 f none (Form.eaSrc f) false anyLevel (fun e => e.load true)) s

def execSt (core : Nat) (f : Form) (s : State) : Ans :=
  onDev (fun d => d.issue core .prim 0x22 f none (f.rdn :: Form.eaSrc f) false anyLevel (fun e => e.store)) s

def execLea (core : Nat) (f : Form) (s : State) : Ans :=
  onDev (fun d => d.issue core .prim 0x23 f none (Form.eaSrc f) false anyLevel (fun e => e.put (e.x.wr f.rdn (e.x.ea f e.next)))) s

def execLlk (core : Nat) (f : Form) (s : State) : Ans :=
  onDev (fun d => d.issue core .prim 0x24 f none (Form.eaSrc f) false anyLevel (fun e => e.llk)) s

def execStc (core : Nat) (f : Form) (s : State) : Ans :=
  onDev (fun d => d.issue core .prim 0x25 f none (f.rdn :: Form.eaSrc f) false anyLevel (fun e => e.stc)) s

def execPfh (core : Nat) (f : Form) (s : State) : Ans :=
  onDev (fun d => d.issue core .prim 0x26 f none (Form.eaSrc f) false anyLevel (fun e => e.pfh)) s

def execStim (core : Nat) (f : Form) (s : State) : Ans :=
  onDev (fun d => d.issue core .prim 0x27 f none [f.rsn] false anyLevel (fun e => e.stim)) s

/-- A read-modify-write instruction by its opcode. -/
def Dev.rmw (d : Dev) (core op : Nat) (f : Form) : Dev :=
  d.issue core .prim op f none (f.rdn :: Form.eaSrc f) false anyLevel (fun e => e.rmw op)

def execAadd (core : Nat) (f : Form) (s : State) : Ans := onDev (fun d => d.rmw core 0x28 f) s
def execAand (core : Nat) (f : Form) (s : State) : Ans := onDev (fun d => d.rmw core 0x29 f) s
def execAor (core : Nat) (f : Form) (s : State) : Ans := onDev (fun d => d.rmw core 0x2A f) s
def execAxor (core : Nat) (f : Form) (s : State) : Ans := onDev (fun d => d.rmw core 0x2B f) s
def execXchg (core : Nat) (f : Form) (s : State) : Ans := onDev (fun d => d.rmw core 0x2C f) s

/-- The oldest buffered store of a core is written (R196); while a line that a snoop has taken since is not back, it is asked for (R270). -/
def Dev.naturalWrite (d : Dev) (core : Nat) : Dev :=
  match (d.core core).sbuf with
  | [] => d
  | e :: _ =>
    if (linesOf e.bytes).all (fun n => d.lineReady core n true .data) then d.drainOne core
    else d.askLines core (linesOf e.bytes) true .data

def execStoreBufferWrite (core : Nat) (s : State) : Ans := onDev (fun d => if core < 128 then d.naturalWrite core else d) s

/-! ### Illegal instructions and fetch faults (R128, R129) -/

/-- The first illegal cause of raw bytes: byte index and code; none when they spell a legal instruction, or end before a cause. A second
prefix of a class stands before every other cause. -/
def Dev.rawCause (d : Dev) (core : Nat) (bytes : List Byte) : Option (Nat × Nat) :=
  match decodeRaw bytes with
  | none => none
  | some r =>
    let room := match r.map with
      | .fwd => d.fwdCause core (BitVec.ofNat 8 r.op)
      | .prim => if r.op == 0x54 then d.bankCause core r.form else none
      | _ => none
    r.pre <|> (firstCause r.map r.op r.form room).filter (fun p => decide (p.1 < bytes.length))

/-- A core decodes bytes with an illegal cause: I, or F when the bytes up to the cause cannot be fetched (R129). -/
def Dev.illegal (d : Dev) (core : Nat) (bytes : List Byte) : Dev :=
  match d.canIssue core, d.rawCause core bytes with
  | some _, some (i, code) =>
    let d := d.wake (core / 4)
    match d.bpHit core with
    | some b => d.haltCore core b.sid (1 + b.index)
    | none =>
      match d.fetch core (i + 1) with
      | .exc e => (d.faultWalk core e).raiseExc core e
      | .wait d => d
      | .ok d _ => d.raiseExc core { cls := 1, code := code }
  | _, _ => d

/-- A byte of the instruction at the PC cannot be fetched: F. -/
def Dev.fetchFault (d : Dev) (core len : Nat) : Dev :=
  match d.canIssue core with
  | none => d
  | some _ =>
    let d := d.wake (core / 4)
    match d.bpHit core with
    | some b => d.haltCore core b.sid (1 + b.index)
    | none =>
      match d.fetch core len with
      | .exc e => (d.faultWalk core e).raiseExc core e
      | .wait d => d
      | .ok _ _ => d

def execIllegalInstruction (core : Nat) (bytes : List Byte) (s : State) : Ans := onDev (fun d => d.illegal core bytes) s
def execFetchFault (core len : Nat) (s : State) : Ans := onDev (fun d => d.fetchFault core (min len 16)) s

end Sys2Proof.Machine
end

