-- ==== Sys2Proof/Machine/Block.lean ====
section
/-!
DEFINITION. Block transfers: STM and LDM, restartable through PSW.BLK (R157 to R159, R183, R184), and SPILLW and FILLW (R160, R174).
-/
namespace Sys2Proof.Machine

/-! ### STM and LDM -/

/-- Registers of a mask with the VA of their slots, ascending (R157). -/
def blockElems (mask : Nat) (base : Word) : List (Nat × Word) :=
  let rs := bitsOf mask 32
  rs.zip ((List.range rs.length).map (fun k => base + BitVec.ofNat 64 (8 * k)))

/-- Elements of an LDM in transfer order: the base after every other one (R158). -/
def ldmElems (mask : Nat) (base : Word) (rs : Nat) : List (Nat × Word) :=
  let l := blockElems mask base
  l.filter (fun p => p.1 != rs) ++ l.filter (fun p => p.1 == rs)

/-- An interrupt, a boundary or a halt meets this element: the transfer stops after it. A STEP 1 runs every element (R486). -/
def Dev.breaksAt (d : Dev) (core k : Nat) (brk : Option Nat) : Bool :=
  brk == some k && (match (d.core core).stepping with | some (.one _) => false | _ => true)

/-- After an element with its progress in BLK: whether the transfer goes on. A register write may have stopped or restarted the core. -/
def Env.goesOn (e : Env) (d : Dev) (k : Nat) : Bool :=
  d.canIssue e.core == some e.slot && d.curCtx e.core == e.cx && (d.ctx e.cx).pc == e.x.pc && (d.ctx e.cx).blk == k

/-- Transfer the elements of an STM from element `k` on; the context stands with BLK = `k`. -/
def Env.stmFrom (e : Env) (brk : Option Nat) : List (Nat × Word) → Nat → Dev → IRes
  | [], _, d => .placed (d.modCtx e.cx (fun y => y.past e.next)) []
  | (r, va) :: t, k, d =>
    match e.storeItem d va (leBytes 8 (e.x.get r).toNat) e.f.hint none (fun y => y.setPsw 21 16 (k + 1)) with
    | .exc x => .excAt (d.faultWalk e.core x) x
    | .ok d' _ =>
      if !e.goesOn d' (k + 1) || d'.breaksAt e.core k brk then .pause d'
      else if (e.hits va 8 .write).isSome then .placed d' [(va, 8, .write)]
      else e.stmFrom brk t (k + 1) d'
    | .miss d' => .pause d'
    | .bus _ _ _ _ _ _ => .wait

/-- Two VAs lie in one page of the context's current translation; without translation pages are 4 KiB. -/
def Env.samePage (e : Env) (d : Dev) (a b : Word) : Bool :=
  a.toNat / 4096 == b.toNat / 4096 ||
    (match d.translate e.w a .read with
     | .error _ => false
     | .ok (d, _, _) =>
       match (d.core e.core).tlbFind e.w.id e.w.secure (e.x.asid e.w.secure) (a.toNat % 2 ^ 48) with
       | some t => (e.x.ptbase e.w.secure).getLsbD 0 && a.toNat / 2 ^ t.size.bits == b.toNat / 2 ^ t.size.bits
       | none => false)

/-- Element `k` is the first that the LDM takes from its second page (KL-09, R519). -/
def Env.opensPage (e : Env) (d : Dev) (base : Word) (l : List (Nat × Word)) (k : Nat) (va : Word) : Bool :=
  decide (0 < k) && !e.samePage d base va && (l.take k).all (fun p => e.samePage d base p.2)

/-- Transfer the elements of an LDM from element `k` on; `all` holds every element. -/
def Env.ldmFrom (e : Env) (brk : Option Nat) (base : Word) (all : List (Nat × Word)) : List (Nat × Word) → Nat → Dev → IRes
  | [], _, d => .placed (d.modCtx e.cx (fun y => y.past e.next)) []
  | (r, va) :: t, k, d =>
    let p := e.x.phys r
    match e.loadItem d va 8 e.f.hint .item with
    | .exc x =>
      let b := if e.opensPage d base all k va then k - 1 else k
      .excAt ((d.faultWalk e.core x).modCtx e.cx (fun y => y.setPsw 21 16 b)) x
    | .ok d' v =>
      let d' := (d'.modCtx e.cx (fun y => (y.wr r (BitVec.ofNat 64 v)).setPsw 21 16 (k + 1))).tagCancel e.slot e.cx [p]
      if !e.goesOn d' (k + 1) || d'.breaksAt e.core k brk then .pause d'
      else if (e.hits va 8 .read).isSome then .placed d' [(va, 8, .read)]
      else e.ldmFrom brk base all t (k + 1) d'
    | .bus d' pa n pre skip item =>
      let d' := (d'.modCtx e.cx (fun y => y.cancelReg p)).tagCancel e.slot e.cx [p]
      let last := t.isEmpty
      .pause (d'.startWait e.core
        { pa := pa, len := n, pre := pre, skip := skip, item := item, dst := p, signed := false, due := d'.ctoAt pa,
          next := if last then e.next else e.x.pc,
          blk := if last then 0 else k + 1, more := !last, block := none, hit := e.hits va 8 .read })
    | .miss d' => .pause d'

def Env.stm (e : Env) (brk : Option Nat) : IRes :=
  let base := e.x.get e.f.rsn
  let l := blockElems e.f.raw base
  if l.length ≤ e.x.blk then e.finish e.d
  else match misaligned base 8 true with
    | some x => .exc x
    | none => e.stmFrom brk (l.drop e.x.blk) e.x.blk e.d

def Env.ldm (e : Env) (brk : Option Nat) : IRes :=
  let base := e.x.get e.f.rsn
  let l := ldmElems e.f.raw base e.f.rsn
  if l.length ≤ e.x.blk then e.finish e.d
  else match misaligned base 8 false with
    | some x => .exc x
    | none => e.ldmFrom brk base l (l.drop e.x.blk) e.x.blk e.d

/-! ### SPILLW and FILLW -/

/-- PA of the byte at an offset of an access. -/
def paAt : List Piece → Nat → Nat
  | [], _ => 0
  | (pa, n) :: t, i => if i < n then pa + i else paAt t (i - n)

/-- In a trap window the block, and the fields that a transfer moves, come from H5: a result owed to H5 is waited for (R174, R194, R314). -/
def Env.blockSrc (e : Env) : Option Env :=
  if !e.x.tw then some e
  else
    let p := e.x.phys (rH 5)
    match e.d.tagWait e.core e.slot e.cx [p] with
    | none => none
    | some d =>
      let x := (d.ctx e.cx).settle [rH 5] false
      some { e with d := d.setCtx e.cx x, x := x }

/-- SPILLW: nothing is stored unless the whole transfer passes its checks (R160). -/
def Env.spillw (e : Env) : IRes :=
  match e.blockSrc with
  | none => .wait
  | some e =>
    let va := e.x.ea e.f e.next
    let b := e.x.movedBlock
    match misaligned va 64 true with
    | some x => .exc { x with block := b }
    | none =>
      match e.d.tagWait e.core e.slot e.cx (blockRegs b) with
      | none => .wait
      | some d =>
        let d := d.modCtx e.cx Ctx.finishAll
        let ws := (d.ctx e.cx).blockWords b
        match d.access e.w va 128 .write .any .data with
        | .exc x => .exc { x with block := b }
        | .wait d => .pause d
        | .ok d ps =>
          if !e.undoFits d ps (wordsBytes ws) then .pause d
          else
            let d := d.modCtx e.cx (fun y => (y.countBlock false).past e.next)
            .placed (each ((List.range 16).zip ws) (fun d (j, v) =>
              e.storeAt d [(paAt ps (8 * j), 8)] (leBytes 8 v.toNat) false none) d) [(va, 128, .write)]

/-- The eight-byte items of an access, from the offset of its first byte on. -/
def itemsOf (ps : List Piece) (ofs : Nat) : List (Nat × Nat) :=
  let n := (ps.map Prod.snd).sum
  (List.range (n / 8)).map (fun k => (ofs + 8 * k, paAt ps (8 * k)))

/-- Load the items of a block, each at its offset: what is there at once, and what a completion still owes. The reads of PCIe memory whose link
is up go out, and so does the configuration read of PCIE_CFGD, after PCIE_CFGA (R6, R425, R426). -/
def Env.fillItems (e : Env) : List (Nat × Nat) → Dev → Dev × List FillPart
  | [], d => (d, [])
  | (o, pa) :: t, d =>
    let (d, p) : Dev × FillPart := match e.loadAt d [(pa, 8)] 8 false with
      | .ok d v => (d, ⟨o, leBytes 8 v, 0, pa⟩)
      | .bus d at_ n pre _ _ => (d, ⟨o, pre, n, at_⟩)
      | _ => (d, ⟨o, leBytes 8 0, 0, pa⟩)
    let (d, l) := e.fillItems t d
    (d, p :: l)

/-- A block load is done, or the core waits for what is still owed. -/
def Env.filled (e : Env) (d : Dev) (b : Nat) (ret : Bool) (l : List FillPart) (next : Word) (done : Dev → IRes) (hit : Option Bp) : IRes :=
  match l.find? (fun p => p.owed != 0) with
  | none => done (d.modCtx e.cx (fun y => y.loadParts b l []))
  | some p =>
    .pause (d.startWait e.core
      { pa := p.pa, len := (l.map FillPart.owed).sum, pre := [], skip := 0, item := 0, dst := 0, signed := false, due := d.ctoAt p.pa,
        next := next, blk := 0, more := false, block := some { block := b, ret := ret, parts := l }, hit := hit })

/-- FILLW: the block is unchanged unless the whole transfer passes its checks (R160). -/
def Env.fillw (e : Env) : IRes :=
  match e.blockSrc with
  | none => .wait
  | some e =>
    let va := e.x.ea e.f e.next
    let b := e.x.movedBlock
    match misaligned va 64 false with
    | some x => .exc x
    | none =>
      match e.d.access e.w va 128 .read .any .data with
      | .exc x => .exc x
      | .wait d => .pause d
      | .ok d ps =>
        let d := (d.modCtx e.cx (fun y => (blockRegs b).foldl Ctx.cancelReg y)).tagCancel e.slot e.cx (blockRegs b)
        let (d, l) := e.fillItems (itemsOf ps 0) d
        e.filled d b false l e.next
          (fun d => .placed (d.modCtx e.cx (fun y => (y.countBlock true).past e.next)) [(va, 128, .read)]) (e.hits va 128 .read)

/-! ### Rows -/

def execStm (core : Nat) (f : Form) (brk : Option Nat) (s : State) : Ans :=
  onDev (fun d => d.issue core .prim 0x50 f none (f.rsn :: bitsOf f.raw 32) false anyLevel (fun e => e.stm brk)) s

def execLdm (core : Nat) (f : Form) (brk : Option Nat) (s : State) : Ans :=
  onDev (fun d => d.issue core .prim 0x51 f none [f.rsn] false anyLevel (fun e => e.ldm brk)) s

def execSpillw (core : Nat) (f : Form) (s : State) : Ans :=
  onDev (fun d => d.issue core .prim 0x52 f none (Form.eaSrc f) false notUser (fun e => e.spillw)) s

def execFillw (core : Nat) (f : Form) (s : State) : Ans :=
  onDev (fun d => d.issue core .prim 0x53 f none (Form.eaSrc f) false notUser (fun e => e.fillw)) s

end Sys2Proof.Machine
end

