-- ==== Sys2Proof/Machine/FloatOps.lean ====
section
/-!
DEFINITION. Floating point instructions (R154 to R156).
-/
namespace Sys2Proof.Machine

/-- RD ← RD op RS; the flags stay. -/
def Dev.fpOp (d : Dev) (core op : Nat) (f : Form) (g : Word → Word → Word) : Dev :=
  d.issue core .prim op f none [f.rdn, f.rsn] false anyLevel (fun e =>
    e.put (e.x.wr f.rdn (g (e.x.get f.rdn) (e.x.get f.rsn))))

/-- An operation beside the pipe: its register is pending (R193). -/
def Dev.fpLong (d : Dev) (core op : Nat) (f : Form) (g : Word → Word → Word) : Dev :=
  d.issue core .prim op f none [f.rdn, f.rsn] false anyLevel (fun e =>
    e.put (e.x.issueLong f.rdn { val := (g (e.x.get f.rdn) (e.x.get f.rsn)).toNat }))

def execFadd (core : Nat) (f : Form) (s : State) : Ans := onDev (fun d => d.fpOp core 0x48 f fpAdd) s

def execFsub (core : Nat) (f : Form) (s : State) : Ans := onDev (fun d => d.fpOp core 0x49 f fpSub) s

def execFmul (core : Nat) (f : Form) (s : State) : Ans := onDev (fun d => d.fpOp core 0x4A f fpMul) s

/-- FMA: RS × RT + RD, rounded once. -/
def execFma (core : Nat) (f : Form) (s : State) : Ans :=
  onDev (fun d => d.issue core .prim 0x4B f none [f.rdn, f.rsn, f.rt] false anyLevel (fun e =>
    e.put (e.x.wr f.rdn (fpFma (e.x.get f.rsn) (e.x.get f.rt) (e.x.get f.rdn))))) s

def execFdiv (core : Nat) (f : Form) (s : State) : Ans := onDev (fun d => d.fpLong core 0x4C f fpDiv) s

def execFsqrt (core : Nat) (f : Form) (s : State) : Ans := onDev (fun d => d.fpLong core 0x4D f (fun _ b => fpSqrt b)) s

/-- Flags of a comparison (Table 5.11). -/
def fcmpFlags (r : FpRel) : Res :=
  { val := 0, n := some (r == .less), z := some (r == .equal), c := some false, v := some (r == .unordered) }

def execFcmp (core : Nat) (f : Form) (s : State) : Ans :=
  onDev (fun d => d.issue core .prim 0x4E f none [f.rdn, f.rsn] false anyLevel (fun e =>
    e.put (e.x.wrFlags (fcmpFlags (fpCmp (e.x.get f.rdn) (e.x.get f.rsn)))))) s

/-- FCVT: V tells a value that does not fit (R156). -/
def execFcvt (core : Nat) (f : Form) (s : State) : Ans :=
  onDev (fun d => d.issue core .prim 0x4F f none [f.rsn] false anyLevel (fun e =>
    let (v, o) := fpConvert f.raw (e.x.get f.rsn)
    e.put (e.x.wrRes f.rdn { val := v.toNat, v := some o }))) s

end Sys2Proof.Machine
end

