-- ==== Sys2Proof/Machine/HomeRows.lean ====
section
/-!
DEFINITION. The rows of the coherence protocol (Tables 12.3 to 12.5): a message reaches the agent that takes it. The operations stand in
Home.lean.
-/
namespace Sys2Proof.Machine

/-- A core's read or write needs a request of this kind: its cluster lacks the line, or the permission. -/
def Dev.needs (d : Dev) (core line : Nat) (kind : TxnKind) : Bool :=
  kind == d.missKind core line (kind != .rds) &&
    (match d.l2St (core / 4) line with
     | none => true
     | some st => kind != .rds && (st == .s || st == .o))

/-- A request of a core, numbered over the system, for a line (R278): of this package it leaves its cluster, of another it reaches the home here. -/
def Dev.coreReq (d : Dev) (a : Requester) (line : Nat) (kind : TxnKind) : Dev :=
  let core := a.number
  if core / 128 == d.pkg then
    if d.needs (core % 128) line kind then d.missRequest (core % 128) line kind .data a.age else d
  else match d.homeLocal line, d.plan.coreRoom (core / 128) (core % 128) with
    | some r, some id =>
      d.atHome r { kind := kind, line := line, requester := core / 4, room := id, stamp := d.stampOf a.age, bytes := [], tag := none }
    | _, _ => d

/-- A request of a hub engine (R278, R282). -/
def Dev.engineReq (d : Dev) (a : Requester) (line : Nat) (kind : TxnKind) (bytes : List (Nat × Byte)) : Dev :=
  d.hubReq { kind := kind, line := line, requester := a.number, room := a.room, stamp := d.stampOf a.age, bytes := bytes, tag := none }

/-- The bytes of a line that a mask names. -/
def maskedBytes (line : Nat) (mask : BitVec 64) (data : List Byte) : List (Nat × Byte) :=
  (spread (line * 64) data).filter (fun p => mask.getLsbD (p.1 % 64))

/-! ### Rows -/

def execRds (asker : Requester) (line : Nat) (s : State) : Ans := onDev (fun d => d.coreReq asker line .rds) s
def execRdx (asker : Requester) (line : Nat) (s : State) : Ans := onDev (fun d => d.coreReq asker line .rdx) s
def execUpg (asker : Requester) (line : Nat) (s : State) : Ans := onDev (fun d => d.coreReq asker line .upg) s
def execRdc (engine : Requester) (line : Nat) (s : State) : Ans := onDev (fun d => d.engineReq engine line .rdc []) s
def execWrf (engine : Requester) (line : Nat) (data : List Byte) (s : State) : Ans :=
  onDev (fun d => if data.length == 64 then d.engineReq engine line .wrf (spread (line * 64) data) else d) s
def execWrp (engine : Requester) (line : Nat) (mask : BitVec 64) (data : List Byte) (s : State) : Ans :=
  onDev (fun d => if data.length == 64 then d.engineReq engine line .wrp (maskedBytes line mask data) else d) s
def execEvd (victim : Eviction) (line : Nat) (s : State) : Ans := onDev (fun d => d.homeEvd victim.tag line victim.room victim.age victim.data) s
def execRgn (region line : Nat) (s : State) : Ans := onDev (fun d => d.homeRgn region line) s
def execSnps (cluster : SnoopTo) (line : Nat) (s : State) : Ans := onDev (fun d => d.answerSnoop cluster.cluster line cluster.room .snps) s
def execSnpx (cluster : SnoopTo) (line : Nat) (s : State) : Ans := onDev (fun d => d.answerSnoop cluster.cluster line cluster.room .snpx) s
def execSnpi (cluster : SnoopTo) (line : Nat) (s : State) : Ans := onDev (fun d => d.answerSnoop cluster.cluster line cluster.room .snpi) s
def execSnpc (cluster : SnoopTo) (line : Nat) (s : State) : Ans := onDev (fun d => d.answerSnoop cluster.cluster line cluster.room .snpc) s
def execRsp (answer : SnoopAnswer) (line : Nat) (s : State) : Ans :=
  onDev (fun d => d.homeRsp answer.region line answer.held answer.tag answer.data) s
def execData (fill : Fill) (line : Nat) (s : State) : Ans := onDev (fun d => d.installData fill.dest line fill.grant fill.data) s
def execGrant (dest line : Nat) (s : State) : Ans := onDev (fun d => d.installGrant dest line) s
def execCmpMessage (dest line : Nat) (s : State) : Ans := onDev (fun d => d.homeCmp dest line) s
def execAck (line : AckTo) (s : State) : Ans := onDev (fun d => d.homeAck line.dest line.line) s

end Sys2Proof.Machine
end

