-- ==== Sys2Proof/Machine/Integer.lean ====
section
/-!
DEFINITION. Integer operations, multiply and divide (R137 to R139), and the completion of long operations (R194).
-/
namespace Sys2Proof.Machine

/-- Operands of a two-operand instruction cut to W bits (R118): RD and RS, or RS and imm. -/
def Env.ops (e : Env) : Nat × Nat :=
  let w := e.f.width
  if e.f.mode == amR then (w.cut (e.x.get e.f.rdn), w.cut (e.x.get e.f.rsn))
  else (w.cut (e.x.get e.f.rsn), w.cut e.f.imm)

/-- An operation of one cycle: result into RD and flags. -/
def Dev.alu (d : Dev) (core op : Nat) (f : Form) (g : Nat → Nat → Nat → Res) : Dev :=
  d.issue core .prim op f none f.src2 false anyLevel (fun e =>
    e.put (e.x.wrRes f.rdn (g f.width.bits e.ops.1 e.ops.2)))

/-- A comparison: flags alone. -/
def Dev.aluFlags (d : Dev) (core op : Nat) (f : Form) (g : Nat → Nat → Nat → Res) : Dev :=
  d.issue core .prim op f none f.src2 false anyLevel (fun e =>
    e.put (e.x.wrFlags (g f.width.bits e.ops.1 e.ops.2)))

/-- A division: its result and flags are pending in a reservation station (R138, R193). -/
def Dev.aluLong (d : Dev) (core op : Nat) (f : Form) (g : Nat → Nat → Nat → Res) : Dev :=
  d.issue core .prim op f none f.src2 false anyLevel (fun e =>
    e.put (e.x.issueLong f.rdn (g f.width.bits e.ops.1 e.ops.2)))

def execAdd (core : Nat) (f : Form) (s : State) : Ans :=
  onDev (fun d => d.alu core 0x00 f aluAdd) s

def execSub (core : Nat) (f : Form) (s : State) : Ans :=
  onDev (fun d => d.alu core 0x01 f aluSub) s

def execAnd (core : Nat) (f : Form) (s : State) : Ans :=
  onDev (fun d => d.alu core 0x02 f aluAnd) s

def execOr (core : Nat) (f : Form) (s : State) : Ans :=
  onDev (fun d => d.alu core 0x03 f aluOr) s

def execXor (core : Nat) (f : Form) (s : State) : Ans :=
  onDev (fun d => d.alu core 0x04 f aluXor) s

def execAndn (core : Nat) (f : Form) (s : State) : Ans :=
  onDev (fun d => d.alu core 0x05 f aluAndn) s

def execCmp (core : Nat) (f : Form) (s : State) : Ans :=
  onDev (fun d => d.aluFlags core 0x06 f aluSub) s

def execTst (core : Nat) (f : Form) (s : State) : Ans :=
  onDev (fun d => d.aluFlags core 0x07 f aluAnd) s

def execShl (core : Nat) (f : Form) (s : State) : Ans :=
  onDev (fun d => d.alu core 0x08 f aluShl) s

def execShr (core : Nat) (f : Form) (s : State) : Ans :=
  onDev (fun d => d.alu core 0x09 f aluShr) s

def execSar (core : Nat) (f : Form) (s : State) : Ans :=
  onDev (fun d => d.alu core 0x0A f aluSar) s

def execRol (core : Nat) (f : Form) (s : State) : Ans :=
  onDev (fun d => d.alu core 0x0B f aluRol) s

def execRor (core : Nat) (f : Form) (s : State) : Ans :=
  onDev (fun d => d.alu core 0x0C f aluRor) s

def execMov (core : Nat) (f : Form) (s : State) : Ans :=
  onDev (fun d => d.alu core 0x0D f aluMov) s

def execNeg (core : Nat) (f : Form) (s : State) : Ans :=
  onDev (fun d => d.alu core 0x0E f aluNeg) s

def execNot (core : Nat) (f : Form) (s : State) : Ans :=
  onDev (fun d => d.alu core 0x0F f aluNot) s

def execMul (core : Nat) (f : Form) (s : State) : Ans :=
  onDev (fun d => d.alu core 0x10 f aluMul) s

def execMulh (core : Nat) (f : Form) (s : State) : Ans :=
  onDev (fun d => d.alu core 0x11 f aluMulh) s

def execMulhu (core : Nat) (f : Form) (s : State) : Ans :=
  onDev (fun d => d.alu core 0x12 f aluMulhu) s

def execDiv (core : Nat) (f : Form) (s : State) : Ans :=
  onDev (fun d => d.aluLong core 0x13 f aluDiv) s

def execDivu (core : Nat) (f : Form) (s : State) : Ans :=
  onDev (fun d => d.aluLong core 0x14 f aluDivu) s

def execRem (core : Nat) (f : Form) (s : State) : Ans :=
  onDev (fun d => d.aluLong core 0x15 f aluRem) s

def execRemu (core : Nat) (f : Form) (s : State) : Ans :=
  onDev (fun d => d.aluLong core 0x16 f aluRemu) s

/-- The operation at position `idx` of a context's stations finishes: what no younger write cancelled is written (R194, R195). -/
def execLongOpComplete (ctx idx : Nat) (s : State) : Ans :=
  onDev (fun d =>
    let x := d.ctx ctx
    match x.long[idx]? with
    | none => d
    | some o => d.setCtx ctx { x.finishLong o with long := x.long.eraseIdx idx }) s

end Sys2Proof.Machine
end

