-- ==== Sys2Proof/Machine/Lobby.lean ====
section
/-!
DEFINITION. The Lobby (03_sessions_and_swaps.md, 22_debug_and_trace.md, R520 to R525): ownership, sessions, the message wrapper of R85 and
R479, and the commands of Table 22.2.
-/
namespace Sys2Proof.Machine

/-! ### Reach (R430, R431, R453, R466, R524) -/

/-- A channel reaches the Lobby: each management MAC, and a UART that belongs to no room. -/
def Dev.chReach (d : Dev) : Channel → Bool
  | .mac m => decide (m < 2)
  | .uart u => decide (u < 2) && (d.plan.periphOwner d.pkg (6 + u)).isNone

def Channel.number : Channel → Nat
  | .mac m => m
  | .uart u => 2 + u

/-- The Lobby firmware runs. -/
def Dev.lobbyUp (d : Dev) : Bool := d.keys.firmwareOk && (d.devState == .run || d.devState == .noImage)

/-! ### Closing a session -/

/-- Everything a session holds goes: its levels, comparators, halts and pending halts (R482, R488). -/
def Dev.forget (d : Dev) (sid : Nat) : Dev :=
  let d := { d with
    rooms := d.rooms.map (fun p => (p.1, { p.2 with
      sess := p.2.sess.filter (fun l => l.sid != sid),
      rb := p.2.rb.map (fun b => { b with thenHalt := b.thenHalt.filter (fun h => h.2 != sid) }) }))
    cores := d.cores.map (fun p => (p.1, { p.2 with
      bps := p.2.bps.filter (fun b => b.sid != sid), pendHalt := if p.2.pendHalt == some sid then none else p.2.pendHalt })) }
  each ((List.range 128).filter (fun c => (d.core c).halted == some sid)) (fun d c =>
    if (d.core c).halted == some sid then d.resumeCore c else d) d

def State.close (s : State) (sid : Nat) : State :=
  match s.lobby.sessions.find? (fun x => x.sid == sid) with
  | none => s
  | some x =>
    let d := if x.stream == 0 then s.dev else s.dev.streamLost
    { s with dev := d.forget sid, lobby := { s.lobby with sessions := s.lobby.sessions.filter (fun x => x.sid != sid) } }

def State.putSession (s : State) (x : Session) : State :=
  { s with lobby := { s.lobby with sessions := s.lobby.sessions.map (fun y => if y.sid == x.sid then x else y) } }

/-! ### Opening a session (R84, R86, R481) -/

def openCount (l : List Session) : Nat := (l.filter Session.isOpen).length

def KeySlot.empty : KeySlot := { key := [], salt := [], role := 0, fails := 0, lockUntil := 0 }

def Dev.keySlot (d : Dev) (n : Nat) : KeySlot := Sparse.get KeySlot.empty d.keys.slots n
def Dev.setKeySlot (d : Dev) (n : Nat) (k : KeySlot) : Dev := { d with keys := { d.keys with slots := Sparse.insert d.keys.slots n k } }

/-- The session ID of a new handshake: the first of nine numbers from the next one on that no open session has, of which there are at
most eight (notes/assumptions/11.md). -/
def Lobby.freshSid (l : Lobby) : Option Nat :=
  ((List.range 9).map (fun k => (l.nextSid + k) % 2 ^ 32)).find? (fun n => l.sessions.all (fun x => !(x.isOpen && x.sid == n)))

/-- HELLO: CHALLENGE; REFUSE for a locked or empty slot, and on a Returned device; otherwise no reply. A handshake under way that had
the same session ID is given up. -/
def State.hello (s : State) (ch : Channel) (slot : Nat) (nc : List Byte) : State :=
  let d := s.dev
  if !d.lobbyUp || !d.chReach ch || nc.length != 16 || 15 < slot then s
  else match d.keys.own with
    | .returned => { s with dev := d.emit (.refuse ch) }
    | .owned =>
      let k := d.keySlot slot
      if 8 ≤ openCount s.lobby.sessions then s
      else if k.key.isEmpty || d.clk.tb < k.lockUntil then { s with dev := d.emit (.refuse ch) }
      else match s.lobby.freshSid with
      | none => s
      | some sid =>
        let (nd, d) := d.nonce
        let x : Session :=
          { sid := sid, slot := slot, ch := ch, nc := nc, nd := nd, isOpen := false, key := [], lastSeq := 0, sent := 0, discarded := 0,
            lastAt := d.clk.tb, role := k.role, stream := 0 }
        { s with dev := d.emit (.challenge ch nd sid k.salt),
                 lobby := { sessions := s.lobby.sessions.filter (fun y => y.sid != sid) ++ [x], nextSid := (sid + 1) % 2 ^ 32 } }
    | _ => s

/-- A session's own level for a room (R481): 0 none, 1 non-invasive, 2 full. -/
def ownLevel (roles role : Nat) : Nat := if !roles.testBit role then 0 else if role == 2 || role == 4 then 2 else 1

/-- ACCEPT fixes the session's own level for every room present. -/
def Dev.grantLevels (d : Dev) (sid role : Nat) : Dev :=
  each d.slots (fun d s =>
    let l := ownLevel (((d.plan.debug (d.idOf s)).map DebugRec.roles).getD 0) role
    if l == 0 then d else d.modRoom s (fun r => { r with sess := r.sess ++ [{ sid := sid, role := role, level := l }] })) d

/-- The bytes that both HMACs of Table 3.2 cover after their label. -/
def Session.proofBytes (x : Session) : List Byte := x.nc ++ x.nd ++ leBytes 4 x.sid

def State.dropSession (s : State) (sid : Nat) : State :=
  { s with lobby := { s.lobby with sessions := s.lobby.sessions.filter (fun x => x.sid != sid) } }

/-- PROOF of a handshake: ACCEPT, or REFUSE with the failure counted (R86), also while a lock that came after its HELLO runs (DESIGN CHOICE,
notes/assumptions/75.md). -/
def State.proof (s : State) (sid : Nat) (mac : List Byte) : State :=
  match s.lobby.sessions.find? (fun x => x.sid == sid && !x.isOpen) with
  | none => s
  | some x =>
    let d := s.dev
    let k := d.keySlot x.slot
    if !d.lobbyUp || !d.chReach x.ch then s
    else if 8 ≤ openCount s.lobby.sessions then { s.dropSession sid with dev := d.emit (.refuse x.ch) }
    else if mac == Config.hmac256 k.key (ascii "KSES-C" ++ x.proofBytes) then
      let d := d.setKeySlot x.slot { k with fails := 0 }
      let key := Config.hkdf256 k.key (x.nc ++ x.nd) (ascii "KSES" ++ leBytes 4 sid) 32
      let d := (d.grantLevels sid k.role).emit (.accept x.ch (Config.hmac256 k.key (ascii "KSES-D" ++ x.proofBytes)))
      { s.putSession { x with isOpen := true, key := key, role := k.role, lastAt := d.clk.tb } with dev := d }
    else
      let f := k.fails + 1
      let d := d.setKeySlot x.slot { k with fails := f, lockUntil := if f < 5 then k.lockUntil else d.clk.tb + lockNs f }
      { s.dropSession sid with dev := d.emit (.refuse x.ch) }

/-- A session that is idle for 300 s closes (R85). -/
def State.idleClose (s : State) (sid : Nat) : State :=
  match s.lobby.sessions.find? (fun x => x.sid == sid && x.isOpen) with
  | none => s
  | some x => if x.lastAt + 300000000000 ≤ s.dev.clk.tb then s.close sid else s

/-! ### Ownership and identity (R82, R525) -/

/-- The 16 slots of an OWN plaintext, 49 bytes each: role, key, salt (DESIGN CHOICE, notes/assumptions/74.md). -/
def ownSlots (l : List Byte) : List KeySlot :=
  (List.range 16).map (fun k =>
    { role := leAt l (49 * k) 1, key := slice l (49 * k + 1) 32, salt := slice l (49 * k + 33) 16, fails := 0, lockUntil := 0 })

/-- OWN on an Unowned device. The layout of its plaintext, the empty salt and info of the key and the empty additional data are the model's
(DESIGN CHOICE, notes/assumptions/74.md). -/
def Dev.own (d : Dev) (pub nonce ct tag : List Byte) : Dev :=
  if !d.lobbyUp || d.keys.own != .unowned then d
  else match Config.gcmOpen (Config.hkdf256 (Config.ecdhDevice pub) [] [] 32) nonce [] ct tag with
    | none => d
    | some p =>
      let ks := ownSlots (p.drop 96)
      if p.length != 880 || ks.any (fun k => decide (4 < k.role)) then d
      else { d with keys := { d.keys with
               own := .owned, ownerHash := Config.sha384 (p.take 96), slots := (List.range 16).zip ks, tapOff := true } }

/-- What IDENT reports: part, stepping, grade, serial, state, public key. -/
def Dev.identity (d : Dev) : List Byte :=
  leBytes 4 (d.pkgRead 0) ++ leBytes 8 Config.serial.toNat ++ leBytes 1 d.keys.own.code ++ Config.devicePublicKey

/-- IDENT is answered at most once per 100 ms on each channel. -/
def Dev.identify (d : Dev) (ch : Channel) : Dev :=
  let n := Channel.number ch
  let due := match d.keys.identAt.find? (fun p => p.1 == n) with
    | some p => decide (p.2 + 100000000 ≤ d.clk.tb)
    | none => true
  if !d.lobbyUp || !d.chReach ch || !due then d
  else ({ d with keys := { d.keys with identAt := Sparse.insert d.keys.identAt n d.clk.tb } }).emit (.ident ch d.identity)

/-! ### Messages (R85, R479, Table 22.1) -/

/-- What a command answers: the device, STATUS, the payload of the reply, and the length of the image the session streams. -/
structure Rep where
  d : Dev
  status : Nat := 0
  payload : List Byte := []
  stream : Nat

def msgHeader (sid seq cmd status len rseq : Nat) : List Byte :=
  leBytes 4 sid ++ leBytes 4 seq ++ leBytes 1 cmd ++ leBytes 1 status ++ leBytes 2 len ++ leBytes 4 rseq

/-- MAC of a message: the first 16 bytes of the HMAC over header and payload. -/
def msgMac (key : List Byte) (sid seq cmd status rseq : Nat) (payload : List Byte) : List Byte :=
  (Config.hmac256 key (msgHeader sid seq cmd status payload.length rseq ++ payload)).take 16

/-- The device acts on the message (R85). -/
def Session.accepts (x : Session) (cmd : Nat) (m : LobbyMsg) : Bool :=
  decide (x.lastSeq < m.seq) && decide (m.seq < 2 ^ 32) && decide (m.payload.length ≤ 1280) &&
    m.mac == msgMac x.key m.sid m.seq cmd 0 0 m.payload

/-- The open session that a message names, while the Lobby and its channel are there and the device is Owned. -/
def State.sessionOf (s : State) (sid : Nat) : Option Session :=
  match s.lobby.sessions.find? (fun x => x.sid == sid && x.isOpen) with
  | none => none
  | some x => if s.dev.lobbyUp && s.dev.keys.own == .owned && s.dev.chReach x.ch then some x else none

/-- A message that the device does not act on; the sixteenth closes the session. -/
def State.discard (s : State) (x : Session) : State :=
  if 16 ≤ x.discarded + 1 then s.close x.sid else s.putSession { x with discarded := x.discarded + 1 }

/-- The reply that a command's answer makes. -/
def Session.reply (x : Session) (cmd : Nat) (m : LobbyMsg) (r : Rep) : Out :=
  .lobby x.sid (x.sent + 1) cmd r.status m.seq r.payload (msgMac x.key x.sid (x.sent + 1) cmd r.status m.seq r.payload)

/-- The session after an accepted message and its reply. -/
def Session.after (x : Session) (m : LobbyMsg) (tb stream : Nat) : Session :=
  { x with lastSeq := m.seq, lastAt := tb, sent := x.sent + 1, stream := stream }

/-- A command of a session: its role is checked first (R479), then the body answers. -/
def State.lobbyCmd (s : State) (m : LobbyMsg) (cmd roles : Nat) (body : Dev → Session → Rep) : State :=
  match s.sessionOf m.sid with
  | none => s
  | some x =>
    if !x.accepts cmd m then s.discard x
    else
      let r := if roles.testBit x.role then body s.dev x else { d := s.dev, status := 1, stream := x.stream }
      { s.putSession (x.after m s.dev.clk.tb r.stream) with dev := r.d.emit (x.reply cmd m r) }

def onLobby (m : LobbyMsg) (cmd roles : Nat) (body : Dev → Session → Rep) (s : State) : Ans :=
  .next (State.settle (s.lobbyCmd m cmd roles body))

/-- Roles of Table 3.3, as bits. -/
def rolesAll : Nat := 0b11111
def rolesStart : Nat := 0b11110
def rolesDebug : Nat := 0b10100
def rolesImage : Nat := 0b11000
def rolesOwner : Nat := 0b10000

/-- An answer without a payload. -/
def Session.rep (x : Session) (r : Dev × Nat) : Rep := { d := r.1, status := r.2, stream := x.stream }

/-- An answer with a payload: the device unchanged and no payload where the command is refused. -/
def Session.repOr (x : Session) (d : Dev) : Except Nat (Dev × List Byte) → Rep
  | .error st => { d := d, status := st, stream := x.stream }
  | .ok (d, p) => { d := d, payload := p, stream := x.stream }

/-! ### The floorplan (R91, R92, R94) -/

/-- STATUS of a floorplan command by the RESULT it set. -/
def flpStatus (result : Nat) : Nat :=
  match result with
  | 0x31 => 3
  | 0x30 => 7
  | 0x33 => 6
  | 0x34 => 4
  | _ => 0

def Session.flpRep (x : Session) (d : Dev) : Rep := { d := d, status := flpStatus d.flp.result, stream := x.stream }

/-- LOAD: the next payload of the stream. -/
def Session.load (x : Session) (m : LobbyMsg) (d : Dev) : Rep :=
  if m.payload.isEmpty then { d := d, status := 7, stream := x.stream }
  else
    let (d, more) := d.loadSession x.stream m.payload
    { d := d, status := flpStatus d.flp.result, stream := more.getD 0 }

/-! ### STATUS, incidents, trace (R480, R520) -/

/-- STATUS reports the serial, KEY_STATE, the state of each room present, and each open session. -/
def State.statusBytes (s : State) : List Byte :=
  let d := s.dev
  let rooms := d.slots.flatMap (fun k =>
    let r := d.room k
    leBytes 1 k ++ leBytes 1 r.roomId ++ leBytes 8 (((d.rrec k).map RoomRec.name).getD 0) ++ leBytes 1 (if r.phase == .held then 0x80 + r.reason
      else if r.phase == .running then 1 else 0))
  let ss := s.lobby.sessions.filter Session.isOpen
  leBytes 8 Config.serial.toNat ++ leBytes 4 d.keyState ++ leBytes 1 d.slots.length ++ rooms ++ leBytes 1 ss.length ++
    ss.flatMap (fun x => leBytes 4 x.sid ++ leBytes 1 x.role)

/-- Mark what an owner session has read (R520). -/
def IncLog.ownerRead (l : IncLog) (jnl : Bool) (first count : Nat) : IncLog :=
  if jnl then
    let j := ((List.range l.journal.length).zip l.journal).map (fun p =>
      if decide (first ≤ p.1) && decide (p.1 < first + count) then (p.2.1, true) else p.2)
    { l with journal := j, expJnl := j.all Prod.snd }
  else
    let r := l.ring.map (fun p => if (p.1 + 8192 - first) % 8192 < count then (p.1, p.2.1, true) else p)
    { l with ring := r, expRing := r.all (fun p => p.2.2) }

/-- READ_INC: at most ten records of 128 bytes, from a ring index or a place in the journal on. -/
def Dev.readInc (d : Dev) (role : Nat) (jnl : Bool) (first count : Nat) : Except Nat (Dev × List Byte) :=
  if 10 < count then .error 7
  else
    let recs := if jnl then (d.inc.journal.drop first).take count |>.map Prod.fst
      else (List.range count).filterMap (fun i => (d.inc.ring.find? (fun p => p.1 == (first + i) % 8192)).map (fun p => p.2.1))
    let d := if role == 4 then { d with inc := d.inc.ownerRead jnl first count } else d
    .ok (d, recs.flatMap Incident.bytes)

/-- A packet as the session may see it: zeroed but TYPE where its world is closed to it (Table 22.2). -/
def Dev.packetFor (d : Dev) (slot sid : Nat) (p : List Byte) : List Byte :=
  if 1 ≤ d.sessLevel slot sid ((p.getD 10 0).getLsbD 4) then p
  else List.replicate 8 0 ++ slice p 8 1 ++ List.replicate 23 0

/-- READ_TRACE: at most forty packets of a room's partition, from a packet number on. -/
def Dev.readTrace (d : Dev) (sid slot first count : Nat) : Except Nat (Dev × List Byte) :=
  if (d.rrec slot).isNone then .error 6
  else if 40 < count || d.traceKib slot * 32 < first + count then .error 7
  else
    let base := d.traceBase slot + first * 32
    .ok (d, (List.range count).flatMap (fun i => d.packetFor slot sid (d.bytes (base + i * 32) 32)))

/-! ### Halt, resume, step, breakpoints (R483 to R488) -/

/-- Cores that a halt or resume names, with their room's slot. -/
def Dev.haltTargets (d : Dev) : HaltTarget → Option (Nat × List Nat)
  | .core c => (d.coreSlot c).map (fun s => (s, d.haltSet c))
  | .room s => if (d.rrec s).isSome then some (s, d.coresOf s) else none

def Dev.haltCmd (d : Dev) (sid : Nat) (t : HaltTarget) : Dev × Nat :=
  match d.haltTargets t with
  | none => (d, 6)
  | some (slot, cs) =>
    if d.sessLevel slot sid false < 2 && d.sessLevel slot sid true < 2 then (d, 2)
    else match (d.room slot).phase with
      | .running => (d.haltGroup slot sid cs, 0)
      | .rolling =>
        (d.modRoom slot (fun r => { r with rb := r.rb.map (fun b => { b with thenHalt := b.thenHalt ++ cs.map (fun c => (c, sid)) }) }), 0)
      | _ => (d, 4)

/-- A pending halt stops its core once it stands in a world that the session holds full on (R484). -/
def Dev.pendingStop (d : Dev) (core : Nat) : Dev :=
  match (d.core core).pendHalt, d.coreSlot core with
  | some sid, some slot =>
    if (d.room slot).phase == .running && (d.core core).halted.isNone && d.mayHalt slot sid core then d.haltCore core sid 0 else d
  | _, _ => d

/-- World of a core's current context. -/
def Dev.worldOf (d : Dev) (core : Nat) : Bool := (d.ctx (d.curCtx core)).secure

def Dev.resumeCmd (d : Dev) (sid : Nat) (t : HaltTarget) : Dev × Nat :=
  match d.haltTargets t with
  | none => (d, 6)
  | some (slot, cs) =>
    let mine := cs.filter (fun c => (d.core c).halted == some sid)
    if d.sessLevel slot sid false < 2 && d.sessLevel slot sid true < 2 then (d, 2)
    else if mine.isEmpty then (d, 4)
    else (each mine (fun d c => d.resumeCore c) d, 0)

/-- The PC already lies outside the range of a STEP RANGE. -/
def StepKind.ended (k : StepKind) (pc : Word) : Bool :=
  match k with
  | .one _ => false
  | .range lo hi => !(decide (lo.toNat ≤ pc.toNat) && decide (pc.toNat < hi.toNat))

def Dev.stepCmd (d : Dev) (sid core : Nat) (k : StepKind) : Dev × Nat :=
  match d.coreSlot core with
  | none => (d, 6)
  | some slot =>
    if d.sessLevel slot sid (d.worldOf core) < 2 then (d, 2)
    else if (d.core core).halted != some sid then (d, 4)
    else if StepKind.ended k (d.ctx (d.curCtx core)).pc then (d, 0)
    else (each (d.haltSet core) (fun d c => d.modCore c (fun x => { x with stepping := some k, bpSkip := true })) d, 0)

/-- The session holds full on each world that a comparator's mask names. -/
def Dev.bpLevel (d : Dev) (slot sid mask : Nat) : Bool :=
  (!mask.testBit 3 || d.sessLevel slot sid false == 2) && (!mask.testBit 4 || d.sessLevel slot sid true == 2)

def bpKindOf (n : Nat) : BpKind :=
  if n == 0 then .instruction else if n == 1 then .dataRead else if n == 2 then .dataWrite else .dataAny

/-- BP_SET with the payload of Table 22.5. -/
def Dev.bpSet (d : Dev) (sid : Nat) (p : List Byte) : Dev × Nat :=
  if p.length != 16 then (d, 7)
  else
    let l := leAt p 0 2
    let core := l % 128
    let mask := leAt p 4 1
    match if l / 128 == d.pkg then d.coreSlot core else none with
    | none => (d, 6)
    | some slot =>
      if !d.bpLevel slot sid mask then (d, 2)
      else if 7 < leAt p 2 1 || 3 < leAt p 3 1 then (d, 7)
      else
        let b : Bp :=
          { index := leAt p 2 1, kind := bpKindOf (leAt p 3 1), mask := BitVec.ofNat 8 mask, sizeLog2 := clamp 3 12 (leAt p 5 1),
            asid := BitVec.ofNat 16 (leAt p 6 2), va := BitVec.ofNat 64 (leAt p 8 8), sid := sid }
        (d.modCore core (fun c => { c with bps := c.bps.filter (fun x => x.index != b.index) ++ [b] }), 0)

def Dev.bpClr (d : Dev) (sid core index : Nat) : Dev × Nat :=
  match d.coreSlot core with
  | none => (d, 6)
  | some slot =>
    let mask := (((d.core core).bps.find? (fun b => b.index == index)).map (fun b => b.mask.toNat)).getD 0
    if !d.bpLevel slot sid mask then (d, 2)
    else if 7 < index then (d, 7)
    else (d.modCore core (fun c => { c with bps := c.bps.filter (fun x => x.index != index) }), 0)

/-! ### Registers of a halted context (R483) -/

/-- World to which a register of a context belongs; shared state belongs to the world it is halted in. -/
def RegName.world (r : RegName) (x : Ctx) : Bool :=
  match r with
  | .bk s _ => s
  | .ptbase s => s
  | .asid s => s
  | .wctl => true
  | _ => x.secure

def RegName.read (r : RegName) (x : Ctx) : Word :=
  match r with
  | .gpr n => x.get n.toNat
  | .pc => x.pc
  | .psw => x.psw64
  | .bk s n => Sparse.get 0 (if s then x.bkS else x.bkN) n.toNat
  | .ptbase s => x.ptbase s
  | .asid s => (x.asid s).setWidth 64
  | .vbase => x.vbase
  | .kvbase => x.kvbase
  | .wctl => x.wctl

/-- PSW fields that a WRCR may change above PL0: the flags, IE, BLK and IPL. -/
def Ctx.pswFields (x : Ctx) (v : Nat) : Ctx :=
  (((x.setPsw 3 0 (field v 3 0)).setPsw 7 7 (b2n (bit v 7))).setPsw 21 16 (min 32 (field v 21 16))).setPsw 29 24 (field v 29 24)

def RegName.write (r : RegName) (x : Ctx) (v : Word) : Ctx :=
  match r with
  | .gpr n => x.wr n.toNat v
  | .pc => { x with pc := v }
  | .psw => x.pswFields v.toNat
  | .bk s n =>
    let v := v &&& 0xFFFFFFFFFFFF0000
    if s then { x with bkS := Sparse.set 0 x.bkS n.toNat v } else { x with bkN := Sparse.set 0 x.bkN n.toNat v }
  | .ptbase s =>
    let v := v &&& 0x000FFFFFFFFFF001
    if s then { x with ptbaseS := v } else { x with ptbaseN := v }
  | .asid s => if s then { x with asidS := v.truncate 16 } else { x with asidN := v.truncate 16 }
  | .vbase => { x with vbase := vecBase v }
  | .kvbase => { x with kvbase := vecBase v }
  | .wctl => { x with wctl := v &&& 0x0000FFFFFFFFFFFF }

/-- The context of a halted core that a register access names, once its level is there: `need` is 1 to read, 2 to write. -/
def Dev.haltedCtx (d : Dev) (sid core bank : Nat) (r : RegName) (need : Nat) : Except Nat Nat :=
  match d.coreSlot core with
  | none => .error 6
  | some slot =>
    let cx := core * 4 + bank
    if d.sessLevel slot sid (RegName.world r (d.ctx cx)) < need then .error 2
    else if (d.core core).halted.isNone then .error 4
    else if !(d.banks core).contains bank then .error 7
    else .ok cx

def Dev.regRd (d : Dev) (sid core bank : Nat) (r : RegName) : Except Nat (Dev × List Byte) :=
  match d.haltedCtx sid core bank r 1 with
  | .error st => .error st
  | .ok cx => .ok (d, leBytes 8 (RegName.read r (d.ctx cx)).toNat)

def Dev.regWr (d : Dev) (sid core bank : Nat) (r : RegName) (v : Word) : Dev × Nat :=
  match d.haltedCtx sid core bank r 2 with
  | .error st => (d, st)
  | .ok cx => (d.modCtx cx (fun x => RegName.write r x v), 0)

/-- PC_SAMPLE of a running context. -/
def Dev.pcSample (d : Dev) (sid core : Nat) : Except Nat (Dev × List Byte) :=
  match d.coreSlot core with
  | none => .error 6
  | some slot =>
    let c := d.core core
    if d.sessLevel slot sid (d.worldOf core) < 1 then .error 2
    else if (d.room slot).phase != .running || c.halted.isSome || !(c.run == .running || c.run == .idle) then .error 4
    else .ok (d, leBytes 8 (d.ctx (d.curCtx core)).pc.toNat)

/-! ### The debug bus master (R489, R490, Table 22.6) -/

/-- PA of a VA under the current tables of a halted context: a walk that changes nothing. -/
def Dev.dbgTranslate (d : Dev) (core : Nat) (va : Word) : Option Nat :=
  let w := d.who core
  let root := (d.ctx w.ctx).ptbase w.secure
  if !canonical va then none
  else if !root.getLsbD 0 then (if va.toNat < 0x400000000000 then some (d.pkg * 2 ^ 50 + va.toNat) else none)
  else
    let v := va.toNat % 2 ^ 48
    match d.walk w v [1, 2, 3, 4] (field root.toNat 51 12 * 4096) [] with
    | .error _ => none
    | .ok l =>
      let size := pageSizeOf l.level (l.entry.testBit 9)
      some (field l.entry 51 12 * 4096 / 2 ^ size.bits * 2 ^ size.bits + v % 2 ^ size.bits)

/-- The pieces of a debug access, or its STATUS. -/
def Dev.dbgPieces (d : Dev) (slot : Nat) (a : DebugAddr) (n : Nat) : Except Nat (List Piece) :=
  match a with
  | .pa p => .ok [(p, n)]
  | .va core va =>
    if d.coreSlot core != some slot || (d.core core).halted.isNone then .error 4
    else
      let l := (pieces va n 12).map (fun p => (d.dbgTranslate core p.1).map (fun x => (x, p.2)))
      if l.all Option.isSome then .ok (l.filterMap id) else .error 5

/-- STATUS of a debug access to one byte: level 2, fault 5, or 0. -/
def Dev.dbgByte (d : Dev) (slot sid need : Nat) (wr : Bool) (pa : Nat) : Nat :=
  let id := d.idOf slot
  let lvl := fun (s : Bool) => d.sessLevel slot sid s
  if d.inViewPage id pa then (if max (lvl true) (lvl false) < need then 2 else 0)
  else match d.plan.windowAt id pa with
    | none => 5
    | some w =>
      if lvl (decide (pa - w.base < d.wmark slot w)) < need then 2
      else
        let half := match d.plan.mboxAt pa with
          | some m =>
            let recv := decide (m.bufPa + m.bufSize / 2 ≤ pa)
            if m.sender == id then !recv else if m.receiver == id then recv && !wr else false
          | none => true
        let perm := if wr then w.perm.testBit 1 else w.kind == 0 || w.perm.testBit 0
        if half && perm && paKind pa != .hamper && paKind pa != .none then 0 else 5

/-- STATUS of a whole debug access: level before target (R479). -/
def Dev.dbgCheck (d : Dev) (slot sid need : Nat) (wr : Bool) (ps : List Piece) : Nat :=
  let l := ps.flatMap (fun p => (List.range p.2).map (fun i => d.dbgByte slot sid need wr (p.1 + i)))
  if l.contains 2 then 2 else if l.contains 5 then 5 else 0

/-- As whom the debug bus master reaches registers: the keeper with full on the secure world, else the supervisor. -/
def Dev.dbgAcc (d : Dev) (slot sid : Nat) : Acc :=
  let sec := d.sessLevel slot sid true == 2
  { core := (d.coresOf slot).headD 0, slot := slot, id := d.idOf slot, pl := if sec then 2 else 1, secure := sec }

/-- Bytes whose value the spec leaves open. -/
def Dev.freeBytes (d : Dev) (n : Nat) : List Byte × Dev :=
  let k := d.clk.draws
  ((List.range n).map (fun i => Config.lostByte (k + i)), { d with clk := { d.clk with draws := k + n } })

/-- Read registers a word at a time: a peek has no side effect. Another package's registers read as `Dev.remoteReg` has them. -/
def Dev.dbgRegs (d : Dev) (a : Acc) (pa n : Nat) (consume : Bool) : List Byte × Dev :=
  let w0 := pa / 4
  let ws := List.range ((pa + n - 1) / 4 + 1 - w0)
  let r := ws.foldl (fun (r : List Byte × Dev) i =>
    let o := (w0 + i) * 4
    if consume || paPkg o != d.pkg then
      let (v, d) := r.2.regLoad a o 4
      (r.1 ++ leBytes 4 v, d)
    else
      let d := r.2.regWake a (paOfs o - regBase)
      (r.1 ++ leBytes 4 (d.regRead a (paOfs o - regBase)), d)) ([], d)
  (slice r.1 (pa % 4) n, r.2)

/-- Read one piece (Table 22.6). -/
def Dev.dbgRead1 (d : Dev) (slot sid : Nat) (consume : Bool) (p : Piece) : List Byte × Dev :=
  match paKind p.1 with
  | .reg => d.dbgRegs (d.dbgAcc slot sid) p.1 p.2 consume
  | .pcie =>
    let d := d.wake 100
    if d.portUp (d.portAt p.1) then (d.emit (.pcieRead p.1 p.2)).freeBytes p.2 else (List.replicate p.2 0xFF, d)
  | _ => (d.bytes p.1 p.2, d)

/-- A debug read of registers is aligned: whole words, or a byte or half word at its place (R5, R6). -/
def regAligned (p : Piece) : Bool := (p.1 % 4 == 0 && p.2 % 4 == 0) || p.2 == 1 || (p.2 == 2 && p.1 % 2 == 0)

def Dev.memRd (d : Dev) (sid slot : Nat) (a : DebugAddr) (len : Nat) (consume : Bool) : Except Nat (Dev × List Byte) :=
  if (d.rrec slot).isNone then .error 6
  else if len == 0 || 1280 < len then .error 7
  else match d.dbgPieces slot a len with
    | .error st => .error st
    | .ok ps =>
      let st := d.dbgCheck slot sid (if consume then 2 else 1) false ps
      if st != 0 then .error st
      else if ps.any (fun p => paKind p.1 == .reg && !regAligned p) then .error 5
      else if !consume && ps.any (fun p => paKind p.1 == .pcie) then .error 4
      else
        let r := ps.foldl (fun (r : List Byte × Dev) p =>
          let (bs, d) := r.2.dbgRead1 slot sid consume p
          (r.1 ++ bs, d)) ([], d)
        .ok (r.2, r.1)

/-- MGT_LOBBY_IP of a MAC by its PA: only an owner session sets it (R430). -/
def Dev.lobbyIpAt (d : Dev) (pa : Nat) : Option Nat :=
  if pa == d.regPa 0x122000 then some 0 else if pa == d.regPa 0x122004 then some 1 else none

/-- A PA in the FLP block, which takes writes from room 0's keeper alone (R90). -/
def flpBlock (pa : Nat) : Bool := decide (regBase + 0x10000 ≤ paOfs pa) && decide (paOfs pa < regBase + 0x20000)

/-- Write one word of registers. -/
def Dev.dbgWriteReg (d : Dev) (slot sid role : Nat) (pa v : Nat) : Dev :=
  match d.lobbyIpAt pa with
  | some m =>
    if role == 4 then { d with per := { d.per with lobbyIps := Sparse.insert d.per.lobbyIps m (BitVec.ofNat 32 v) } } else d
  | none => if flpBlock pa then d else d.regStore (d.dbgAcc slot sid) pa 4 v

/-- Write one piece: unlogged, and reservations on its lines are cleared. -/
def Dev.dbgWrite1 (d : Dev) (slot sid role : Nat) (pa : Nat) (bs : List Byte) : Dev :=
  match paKind pa with
  | .reg => each (List.range (bs.length / 4)) (fun d i => d.dbgWriteReg slot sid role (pa + 4 * i) (leAt bs (4 * i) 4)) d
  | .pcie => (d.wake 100).pcieOut pa bs
  | _ => d.engineWrite (d.idOf slot) pa bs

def Dev.memWr (d : Dev) (sid slot role : Nat) (a : DebugAddr) (data : List Byte) : Dev × Nat :=
  let n := data.length
  if (d.rrec slot).isNone then (d, 6)
  else if n == 0 || 1280 < n then (d, 7)
  else match d.dbgPieces slot a n with
    | .error st => (d, st)
    | .ok ps =>
      let st := d.dbgCheck slot sid 2 true ps
      if st != 0 then (d, st)
      else if ps.any (fun p => paKind p.1 == .reg && (p.1 % 4 != 0 || p.2 % 4 != 0)) then (d, 5)
      else ((ps.foldl (fun (r : Dev × List Byte) p => (r.1.dbgWrite1 slot sid role p.1 (r.2.take p.2), r.2.drop p.2)) (d, data)).1, 0)

/-! ### Keys, power, resets (R81, R448, R453, R461, R521) -/

def Dev.nodeKeyCmd (d : Dev) (node : Nat) (key : List Byte) : Dev × Nat :=
  if 4096 ≤ node || key.length != 32 then (d, 7)
  else ({ d with keys := { d.keys with nodeKeys := Sparse.insert d.keys.nodeKeys node key } }, 0)

def Dev.keySlotCmd (d : Dev) (slot role : Nat) (key salt : List Byte) : Dev × Nat :=
  if 15 < slot || 4 < role || key.length != 32 || salt.length != 16 then (d, 7)
  else (d.setKeySlot slot { d.keySlot slot with role := role, key := key, salt := salt }, 0)

/-- STATUS of SURRENDER (R521). -/
def Dev.surrenderStatus (d : Dev) (serial : Word) : Nat :=
  if serial != Config.serial then 7
  else if !d.inc.expRing || !d.inc.expJnl then 4
  else if d.flp.st != .idle || (List.range 64).any (fun s => (d.room s).rb.isSome) || d.bist.shutdown then 3
  else 0

/-- SURRENDER: the reply goes first, then every other session closes and the steps of Table 24.3 run. -/
def State.surrender (s : State) (m : LobbyMsg) (serial : Word) : State :=
  let t := s.lobbyCmd m 0x41 rolesOwner (fun d x => x.rep (d, d.surrenderStatus serial))
  match s.sessionOf m.sid with
  | some x =>
    if x.accepts 0x41 m && rolesOwner.testBit x.role && s.dev.surrenderStatus serial == 0 then
      { t with dev := t.dev.surrendered, lobby := { t.lobby with sessions := t.lobby.sessions.filter (fun y => y.sid == m.sid) } }
    else t
  | none => t

def Dev.powerCmd (d : Dev) (n : Nat) (st : DomSt) : Dev × Nat :=
  let q : Asker := { slot := none, secure := false, reply := none }
  if 127 ≤ n then (d, 7)
  else (d.request q n st, if st != .on && (d.refuser q n st false).isSome then 4 else 0)

def Dev.devStateCmd (d : Dev) (cmd : Nat) : Dev × Nat :=
  if cmd != 1 && cmd != 2 then (d, 7)
  else (d.devCommand cmd, if d.devState != .run || d.devRefuser != 0 then 4 else 0)

def Dev.resetCmd (d : Dev) (t : ResetTarget) : Dev × Nat :=
  match t with
  | .warm => (d.warmReset 3, 0)
  | .room id =>
    match d.slotOf id with
    | none => (d, 6)
    | some s => (d.requestReset s 4, 0)

/-! ### Rows -/

def execHello (ch : Channel) (slot : Nat) (nc : List Byte) (s : State) : Ans := .next (s.hello ch slot nc)
def execProof (sid : Nat) (mac : List Byte) (s : State) : Ans := .next (s.proof sid mac)
def execSessionIdleTimeout (sid : Nat) (s : State) : Ans := .next (s.idleClose sid)
def execOwn (pub nonce ct tag : List Byte) (s : State) : Ans := onDev (fun d => d.own pub nonce ct tag) s
def execIdent (ch : Channel) (s : State) : Ans := onDev (fun d => d.identify ch) s

/-- A floorplan command by the context current on a core: a write of FLP_CMD. -/
def Dev.flpCore (d : Dev) (core v : Nat) : Dev := d.writeReg core 0x10000 v

def execLoad (who : FlpReq) (s : State) : Ans :=
  match who with
  | .core c => onDev (fun d => d.flpCore c 1) s
  | .session m => onLobby m 0x30 rolesImage (fun d x => x.load m d) s
  | .link b image => onDev (fun d => d.flpReceive b image false) s

def execSwap (who : FlpReq) (s : State) : Ans :=
  match who with
  | .core c => onDev (fun d => d.flpCore c 2) s
  | .session m => onLobby m 0x31 rolesImage (fun d x => x.flpRep (d.flpOwn (fun d => d.swap 1))) s
  | .link b _ => onDev (fun d => d.flpRelayed (fun d => d.swap (b2n b))) s

def execCancel (who : FlpReq) (s : State) : Ans :=
  match who with
  | .core c => onDev (fun d => d.flpCore c 3) s
  | .session m => onLobby m 0x32 rolesImage (fun d x => x.rep (d.cancel 1, 0)) s
  | .link b _ => onDev (fun d => d.flpRelayed (fun d => d.cancel (b2n b))) s

def execRevert (who : FlpReq) (s : State) : Ans :=
  match who with
  | .core c => onDev (fun d => d.flpCore c 4) s
  | .session m => onLobby m 0x33 rolesImage (fun d x => x.flpRep (d.revert 1)) s
  | .link b image => onDev (fun d => d.flpReceive b image true) s

def execStartRoom (who : FlpReq) (roomId : Nat) (s : State) : Ans :=
  match who with
  | .core c => onDev (fun d => d.flpCore c (5 + roomId % 256 * 2 ^ 24)) s
  | .session m => onLobby m 0x04 rolesStart (fun d x => x.flpRep (d.startRoomCmd roomId 1)) s
  | .link b _ => onDev (fun d => d.flpRelayed (fun d => d.startRoomCmd roomId (b2n b))) s

def execStatus (m : LobbyMsg) (s : State) : Ans := onLobby m 0x01 rolesAll (fun d x => x.repOr d (.ok (d, s.statusBytes))) s
def execReadInc (m : LobbyMsg) (fromJournal : Bool) (first count : Nat) (s : State) : Ans :=
  onLobby m 0x02 rolesAll (fun d x => x.repOr d (d.readInc x.role fromJournal first count)) s
def execReadTrace (m : LobbyMsg) (slot first count : Nat) (s : State) : Ans :=
  onLobby m 0x03 rolesAll (fun d x => x.repOr d (d.readTrace x.sid slot first count)) s

def execHalt (m : LobbyMsg) (t : HaltTarget) (s : State) : Ans := onLobby m 0x10 rolesDebug (fun d x => x.rep (d.haltCmd x.sid t)) s
def execPendingHaltStop (core : Nat) (s : State) : Ans := onDev (fun d => d.pendingStop core) s
def execResume (m : LobbyMsg) (t : HaltTarget) (s : State) : Ans := onLobby m 0x11 rolesDebug (fun d x => x.rep (d.resumeCmd x.sid t)) s
def execStep (m : LobbyMsg) (core : Nat) (k : StepKind) (s : State) : Ans :=
  onLobby m 0x12 rolesDebug (fun d x => x.rep (d.stepCmd x.sid core k)) s
def execBpSet (m : LobbyMsg) (s : State) : Ans := onLobby m 0x13 rolesDebug (fun d x => x.rep (d.bpSet x.sid m.payload)) s
def execBpClr (m : LobbyMsg) (core index : Nat) (s : State) : Ans :=
  onLobby m 0x14 rolesDebug (fun d x => x.rep (d.bpClr x.sid core index)) s
def execRegRd (m : LobbyMsg) (core bank : Nat) (r : RegName) (s : State) : Ans :=
  onLobby m 0x15 rolesDebug (fun d x => x.repOr d (d.regRd x.sid core bank r)) s
def execRegWr (m : LobbyMsg) (core bank : Nat) (r : RegName) (val : Word) (s : State) : Ans :=
  onLobby m 0x16 rolesDebug (fun d x => x.rep (d.regWr x.sid core bank r val)) s
def execMemRd (m : LobbyMsg) (slot : Nat) (a : DebugAddr) (len : Nat) (consume : Bool) (s : State) : Ans :=
  onLobby m 0x17 rolesDebug (fun d x => x.repOr d (d.memRd x.sid slot a len consume)) s
def execMemWr (m : LobbyMsg) (slot : Nat) (a : DebugAddr) (data : List Byte) (s : State) : Ans :=
  onLobby m 0x18 rolesDebug (fun d x => x.rep (d.memWr x.sid slot x.role a data)) s
def execPcSample (m : LobbyMsg) (core : Nat) (s : State) : Ans := onLobby m 0x19 rolesDebug (fun d x => x.repOr d (d.pcSample x.sid core)) s

def execNodeKey (m : LobbyMsg) (node : Nat) (key : List Byte) (s : State) : Ans :=
  onLobby m 0x20 rolesDebug (fun d x => x.rep (d.nodeKeyCmd node key)) s
def execKeyslot (m : LobbyMsg) (slot role : Nat) (key salt : List Byte) (s : State) : Ans :=
  onLobby m 0x40 rolesOwner (fun d x => x.rep (d.keySlotCmd slot role key salt)) s
def execSurrender (m : LobbyMsg) (serial : Word) (s : State) : Ans := .next (State.settle (s.surrender m serial))
def execPower (m : LobbyMsg) (domain : Nat) (state : BitVec 2) (s : State) : Ans :=
  onLobby m 0x50 rolesDebug (fun d x => x.rep (d.powerCmd domain (domStOf state.toNat))) s
def execDevState (m : LobbyMsg) (cmd : BitVec 2) (s : State) : Ans :=
  onLobby m 0x51 rolesOwner (fun d x => x.rep (d.devStateCmd cmd.toNat)) s
def execReset (m : LobbyMsg) (t : ResetTarget) (s : State) : Ans := onLobby m 0x52 rolesOwner (fun d x => x.rep (d.resetCmd t)) s

end Sys2Proof.Machine
end

