-- ==== Sys2Proof/Machine/World.lean ====
section
/-!
DEFINITION. The world calls SWCALL and SWRET (R240 to R243).
-/
namespace Sys2Proof.Machine

/-! ### SWCALL (R240, R241) -/

/-- SWCALL may run: PL1, normal world, a ring window, SCE = 1 (Table 10.3). -/
def mayCall (x : Ctx) : Bool := x.pl == 1 && !x.secure && !x.tw && x.wctl.getLsbD 0

/-- Ring blocks that SWCALL stores, in order. -/
def Ctx.callBlocks (x : Ctx) : List Nat := (List.range (x.rd + 1)).map (fun k => (x.cwp + 16 - x.rd + k) % 16)

/-- Block that the spill area's byte at `va` belongs to, counting from the first block stored. -/
def Ctx.callBlock (x : Ctx) (va : Word) : Nat := (x.cwp + 16 - x.rd + (va - x.wspN).toNat / 128) % 16

/-- The context the keeper finds (R240 steps 1 to 4). -/
def Ctx.called (x : Ctx) (next : Word) : Ctx :=
  let y := ((x.wr (rH 6) next).wr (rH 7) x.psw64)
  let y := { y with wspN := x.wspN + BitVec.ofNat 64 (128 * (x.rd + 1)), scN := x.scN + x.rd + 1, ncwp := x.cwp,
                    nrd := x.rd, fill := x.rd + 1, rd := 0, resv := none }
  (((y.setPsw 6 6 1).setPsw 5 4 2).setPsw 7 7 0).setPsw 12 12 0

/-- VA of the keeper's entry (Table 10.2). -/
def Ctx.sentry (x : Ctx) : Word := ((x.wctl &&& 0xFFFFFFFFFFFFFFFC).truncate 48).signExtend 64

/-- SWCALL: it waits for what is owed to the blocks that it stores, and checks the whole range before it stores anything. A count that would not fit
leaves what the check installed or set undone, as every outcome but the first does (Table 10.3). -/
def Env.swcall (e : Env) : IRes :=
  let x := e.x
  let first := x.callBlock x.wspN
  if x.wspN == 0 then .trap (e.d.windowTrap e.core first 3 false)
  else match e.d.tagWait e.core e.slot e.cx (x.callBlocks.flatMap blockRegs) with
  | none => .wait
  | some d =>
    let d := d.modCtx e.cx Ctx.finishAll
    match d.access e.w x.wspN (128 * (x.rd + 1)) .write .any .data with
    | .exc exc => .trap ((d.faultWalk e.core exc).doubleFault e.core exc.cls 3 (x.callBlock exc.va) exc.va)
    | .wait d => .pause d
    | .ok d' ps =>
      if 0xFFFFF < x.scN + x.rd + 1 then .trap (d.doubleFault e.core 0x9 3 first 0)
      else
        let bs := wordsBytes (x.callBlocks.flatMap (d'.ctx e.cx).blockWords)
        if !e.undoFits d' ps bs then .pause d'
        else if !d'.drainReady e.core then .pause (d'.askDrain e.core)
        else
          let d := d'.spillAt e.w ps bs
          .done (d.modCtx e.cx (fun y => y.called e.next)) x.sentry false []

/-! ### SWRET (R242, R243) -/

/-- SWRET may run: the keeper in a ring window. -/
def mayReturn (x : Ctx) : Bool := x.keeper && !x.tw

/-- What a running operation has written when it stops (Table 14.5): the words up to a step that the spec leaves open. -/
def Dev.stopOp (d : Dev) (slot : Nat) (s : Station) : Dev :=
  let c := s.ctx / 16
  let n := d.clk.draws
  let st := d.trStore c slot s
  let cut := fun (bs : List Byte) => bs.take (8 * (Config.stepsDone n % (bs.length / 8 + 1)))
  if !d.trBegun s || !d.trReady slot c st then d
  else
    let d := { d with clk := { d.clk with draws := n + 1 } }
    match st with
    | some (true, a, bs) => d.trMemWrite slot (coreOf s.ctx) a (cut bs)
    | some (false, a, bs) => d.lsWrite slot c (d.lsBase c slot + a) (cut bs)
    | none => d

/-- Cancel the Trestle and forwarded work of a context (Table 14.5): pending tags clear and write nothing. -/
def Dev.cancelTags (d : Dev) (slot cx : Nat) : Dev :=
  let mine := (d.cluster (cx / 16)).trestle.queue.filter (fun s => s.ctx == cx)
  let d := if mine.isEmpty then d else (each mine (fun d s => d.stopOp slot s) d).dropOps (fun s => s.ctx == cx)
  if (d.room slot).fwd.out.any (fun c => c.ctx == cx) then
    d.modRoom slot (fun r => { r with fwd := { r.fwd with
      out := r.fwd.out.map (fun (c : FwdCmd) => if c.ctx == cx then { c with dst := none, tagOn := false } else c) } })
  else d

/-- SWRET: the load range is checked as a normal-world access at PL1. The blocks are read from the normal WSP downward, the last that SWCALL stored
first, and the context returns when all of them are there: a read of PCIe memory or of PCIE_CFGD comes with its completion. -/
def Env.swret (e : Env) : IRes :=
  let x := e.x
  let pc := x.get (rH 6)
  let w := { e.w with secure := false, pl := 1 }
  let go := fun (d : Dev) (ps : List Piece) =>
    let d := (d.drain e.core).cancelTags e.slot e.cx
    let all := itemsOf ps 0
    let (d, l) := e.fillItems ((List.range x.fill).reverse.flatMap (fun k => (all.drop (16 * k)).take 16)) d
    if l.all (fun p => p.owed == 0) then .done (d.modCtx e.cx (fun y => y.backHome l [])) pc true []
    else e.filled d x.backBlock true l pc (fun d => .done d pc true []) none
  if x.fill == 0 then e.drained (go e.d [])
  else
    match e.d.access w x.backWsp (128 * x.fill) .read .any .data with
    | .exc exc => .excAt (e.d.walkTouch w exc.va .read) exc
    | .wait d => .pause d
    | .ok d ps => e.drained (go d ps)

/-! ### Rows -/

def execSwcall (core : Nat) (s : State) : Ans :=
  onDev (fun d => d.issue core .prim 0x5C {} none [] true mayCall (fun e => e.swcall)) s

def execSwret (core : Nat) (s : State) : Ans :=
  onDev (fun d => d.issue core .prim 0x5D {} none [rH 6, rH 7] false mayReturn (fun e => e.swret)) s

end Sys2Proof.Machine
end

