-- ==== Sys2Proof/Machine/Dispatch.lean ====
section
/-!
DEFINITION. The effect of a command on everything but the queue: one arm per constructor, each a direct call of its meaning.
-/
namespace Sys2Proof.Machine

def exec (i : Instr) (s : State) : Host.Outcome State Fault Refusal :=
  match i with
  | .add core f => Sys2Proof.Machine.execAdd core f s
  | .sub core f => Sys2Proof.Machine.execSub core f s
  | .and core f => Sys2Proof.Machine.execAnd core f s
  | .or core f => Sys2Proof.Machine.execOr core f s
  | .xor core f => Sys2Proof.Machine.execXor core f s
  | .andn core f => Sys2Proof.Machine.execAndn core f s
  | .cmp core f => Sys2Proof.Machine.execCmp core f s
  | .tst core f => Sys2Proof.Machine.execTst core f s
  | .shl core f => Sys2Proof.Machine.execShl core f s
  | .shr core f => Sys2Proof.Machine.execShr core f s
  | .sar core f => Sys2Proof.Machine.execSar core f s
  | .rol core f => Sys2Proof.Machine.execRol core f s
  | .ror core f => Sys2Proof.Machine.execRor core f s
  | .mov core f => Sys2Proof.Machine.execMov core f s
  | .neg core f => Sys2Proof.Machine.execNeg core f s
  | .not core f => Sys2Proof.Machine.execNot core f s
  | .mul core f => Sys2Proof.Machine.execMul core f s
  | .mulh core f => Sys2Proof.Machine.execMulh core f s
  | .mulhu core f => Sys2Proof.Machine.execMulhu core f s
  | .div core f => Sys2Proof.Machine.execDiv core f s
  | .divu core f => Sys2Proof.Machine.execDivu core f s
  | .rem core f => Sys2Proof.Machine.execRem core f s
  | .remu core f => Sys2Proof.Machine.execRemu core f s
  | .longOpComplete ctx idx => Sys2Proof.Machine.execLongOpComplete ctx idx s
  | .bins core f => Sys2Proof.Machine.execBins core f s
  | .bext core f => Sys2Proof.Machine.execBext core f s
  | .bexts core f => Sys2Proof.Machine.execBexts core f s
  | .clz core f => Sys2Proof.Machine.execClz core f s
  | .ctz core f => Sys2Proof.Machine.execCtz core f s
  | .popc core f => Sys2Proof.Machine.execPopc core f s
  | .bperm core f => Sys2Proof.Machine.execBperm core f s
  | .bswap core f => Sys2Proof.Machine.execBswap core f s
  | .cmovcc core cc f => Sys2Proof.Machine.execCmovcc core cc f s
  | .selcc core cc f => Sys2Proof.Machine.execSelcc core cc f s
  | .ld core f => Sys2Proof.Machine.execLd core f s
  | .ldx core f => Sys2Proof.Machine.execLdx core f s
  | .st core f => Sys2Proof.Machine.execSt core f s
  | .lea core f => Sys2Proof.Machine.execLea core f s
  | .llk core f => Sys2Proof.Machine.execLlk core f s
  | .stc core f => Sys2Proof.Machine.execStc core f s
  | .pfh core f => Sys2Proof.Machine.execPfh core f s
  | .stim core f => Sys2Proof.Machine.execStim core f s
  | .aadd core f => Sys2Proof.Machine.execAadd core f s
  | .aand core f => Sys2Proof.Machine.execAand core f s
  | .aor core f => Sys2Proof.Machine.execAor core f s
  | .axor core f => Sys2Proof.Machine.execAxor core f s
  | .xchg core f => Sys2Proof.Machine.execXchg core f s
  | .storeBufferWrite core => Sys2Proof.Machine.execStoreBufferWrite core s
  | .bcc core cc f => Sys2Proof.Machine.execBcc core cc f s
  | .j core f => Sys2Proof.Machine.execJ core f s
  | .call core f => Sys2Proof.Machine.execCall core f s
  | .callw core f => Sys2Proof.Machine.execCallw core f s
  | .ret core => Sys2Proof.Machine.execRet core s
  | .retw core => Sys2Proof.Machine.execRetw core s
  | .syscall core f => Sys2Proof.Machine.execSyscall core f s
  | .eret core => Sys2Proof.Machine.execEret core s
  | .fadd core f => Sys2Proof.Machine.execFadd core f s
  | .fsub core f => Sys2Proof.Machine.execFsub core f s
  | .fmul core f => Sys2Proof.Machine.execFmul core f s
  | .fma core f => Sys2Proof.Machine.execFma core f s
  | .fdiv core f => Sys2Proof.Machine.execFdiv core f s
  | .fsqrt core f => Sys2Proof.Machine.execFsqrt core f s
  | .fcmp core f => Sys2Proof.Machine.execFcmp core f s
  | .fcvt core f => Sys2Proof.Machine.execFcvt core f s
  | .stm core f brk => Sys2Proof.Machine.execStm core f brk s
  | .ldm core f brk => Sys2Proof.Machine.execLdm core f brk s
  | .spillw core f => Sys2Proof.Machine.execSpillw core f s
  | .fillw core f => Sys2Proof.Machine.execFillw core f s
  | .ctxsw core f => Sys2Proof.Machine.execCtxsw core f s
  | .fence core => Sys2Proof.Machine.execFence core s
  | .ifence core => Sys2Proof.Machine.execIfence core s
  | .bpflush core => Sys2Proof.Machine.execBpflush core s
  | .bpbar core => Sys2Proof.Machine.execBpbar core s
  | .swcall core => Sys2Proof.Machine.execSwcall core s
  | .swret core => Sys2Proof.Machine.execSwret core s
  | .idle core => Sys2Proof.Machine.execIdle core s
  | .idleEnd core => Sys2Proof.Machine.execIdleEnd core s
  | .nop core => Sys2Proof.Machine.execNop core s
  | .rdcr core f => Sys2Proof.Machine.execRdcr core f s
  | .wrcr core f => Sys2Proof.Machine.execWrcr core f s
  | .rdbk core f => Sys2Proof.Machine.execRdbk core f s
  | .wrbk core f => Sys2Proof.Machine.execWrbk core f s
  | .twait core => Sys2Proof.Machine.execTwait core s
  | .tmma core f => Sys2Proof.Machine.execTmma core f s
  | .ti1 core f => Sys2Proof.Machine.execTi1 core f s
  | .ti2 core f => Sys2Proof.Machine.execTi2 core f s
  | .ti3 core f => Sys2Proof.Machine.execTi3 core f s
  | .trsum core f => Sys2Proof.Machine.execTrsum core f s
  | .trdot core f => Sys2Proof.Machine.execTrdot core f s
  | .trmax core f => Sys2Proof.Machine.execTrmax core f s
  | .trmin core f => Sys2Proof.Machine.execTrmin core f s
  | .tband core f => Sys2Proof.Machine.execTband core f s
  | .tld core f => Sys2Proof.Machine.execTld core f s
  | .trestleTst core f => Sys2Proof.Machine.execTrestleTst core f s
  | .tget core f => Sys2Proof.Machine.execTget core f s
  | .tput core f => Sys2Proof.Machine.execTput core f s
  | .trestleOpComplete cluster slot => Sys2Proof.Machine.execTrestleOpComplete cluster slot s
  | .trestleSlotSwitch cluster => Sys2Proof.Machine.execTrestleSlotSwitch cluster s
  | .trestleQuickTestDone cluster pass => Sys2Proof.Machine.execTrestleQuickTestDone cluster pass s
  | .forwardedOperation core op f => Sys2Proof.Machine.execForwardedOperation core op f s
  | .forwardedCompletion pa data => Sys2Proof.Machine.execForwardedCompletion pa data s
  | .forwardedTimeout slot seq => Sys2Proof.Machine.execForwardedTimeout slot seq s
  | .interruptSourceEvent src => Sys2Proof.Machine.execInterruptSourceEvent src s
  | .interruptEntry core => Sys2Proof.Machine.execInterruptEntry core s
  | .irqSwgen core val => Sys2Proof.Machine.execIrqSwgen core val s
  | .tick slot => Sys2Proof.Machine.execTick slot s
  | .wdgKick core val => Sys2Proof.Machine.execWdgKick core val s
  | .watchdogWarning slot => Sys2Proof.Machine.execWatchdogWarning slot s
  | .watchdogBite slot => Sys2Proof.Machine.execWatchdogBite slot s
  | .epochBoundary slot => Sys2Proof.Machine.execEpochBoundary slot s
  | .forcedBoundary slot => Sys2Proof.Machine.execForcedBoundary slot s
  | .epoCtlForce core val => Sys2Proof.Machine.execEpoCtlForce core val s
  | .checkpointStreamed cluster slot => Sys2Proof.Machine.execCheckpointStreamed cluster slot s
  | .epochConfirmation slot => Sys2Proof.Machine.execEpochConfirmation slot s
  | .outputSnapshot slot => Sys2Proof.Machine.execOutputSnapshot slot s
  | .systemEpochBoundary lateNs => Sys2Proof.Machine.execSystemEpochBoundary lateNs s
  | .mbxSend core mbox val => Sys2Proof.Machine.execMbxSend core mbox val s
  | .mailboxDelivery mbox => Sys2Proof.Machine.execMailboxDelivery mbox s
  | .detectedError e => Sys2Proof.Machine.execDetectedError e s
  | .quickTestComplete core own pair spare => Sys2Proof.Machine.execQuickTestComplete core own pair spare s
  | .rollbackResume slot => Sys2Proof.Machine.execRollbackResume slot s
  | .wayRetirement level unit way uncorrectable => Sys2Proof.Machine.execWayRetirement level unit way uncorrectable s
  | .patrolScrub region pass => Sys2Proof.Machine.execPatrolScrub region pass s
  | .channelLoss region => Sys2Proof.Machine.execChannelLoss region s
  | .mirrorResyncDone pair => Sys2Proof.Machine.execMirrorResyncDone pair s
  | .dieFault die => Sys2Proof.Machine.execDieFault die s
  | .flitRetransmit region second => Sys2Proof.Machine.execFlitRetransmit region second s
  | .snoopFilterRebuild region set => Sys2Proof.Machine.execSnoopFilterRebuild region set s
  | .rds asker line => Sys2Proof.Machine.execRds asker line s
  | .rdx asker line => Sys2Proof.Machine.execRdx asker line s
  | .upg asker line => Sys2Proof.Machine.execUpg asker line s
  | .rdc engine line => Sys2Proof.Machine.execRdc engine line s
  | .wrf engine line data => Sys2Proof.Machine.execWrf engine line data s
  | .wrp engine line mask data => Sys2Proof.Machine.execWrp engine line mask data s
  | .evd victim line => Sys2Proof.Machine.execEvd victim line s
  | .rgn region line => Sys2Proof.Machine.execRgn region line s
  | .snps cluster line => Sys2Proof.Machine.execSnps cluster line s
  | .snpx cluster line => Sys2Proof.Machine.execSnpx cluster line s
  | .snpi cluster line => Sys2Proof.Machine.execSnpi cluster line s
  | .snpc cluster line => Sys2Proof.Machine.execSnpc cluster line s
  | .rsp answer line => Sys2Proof.Machine.execRsp answer line s
  | .data fill line => Sys2Proof.Machine.execData fill line s
  | .grant dest line => Sys2Proof.Machine.execGrant dest line s
  | .cmpMessage dest line => Sys2Proof.Machine.execCmpMessage dest line s
  | .ack line => Sys2Proof.Machine.execAck line s
  | .lkfillWrite core val => Sys2Proof.Machine.execLkfillWrite core val s
  | .clrL1 core => Sys2Proof.Machine.execClrL1 core s
  | .clrL2 core => Sys2Proof.Machine.execClrL2 core s
  | .tlbiAll core bothw => Sys2Proof.Machine.execTlbiAll core bothw s
  | .tlbiAsid core asid bothw => Sys2Proof.Machine.execTlbiAsid core asid bothw s
  | .tlbiVaAsid core asid bothw => Sys2Proof.Machine.execTlbiVaAsid core asid bothw s
  | .tlbiVa core bothw => Sys2Proof.Machine.execTlbiVa core bothw s
  | .tlbiComplete slot => Sys2Proof.Machine.execTlbiComplete slot s
  | .watermarkMove core val => Sys2Proof.Machine.execWatermarkMove core val s
  | .watermarkMoveDone slot => Sys2Proof.Machine.execWatermarkMoveDone slot s
  | .trLswmWrite core val => Sys2Proof.Machine.execTrLswmWrite core val s
  | .trLswmDone cluster slot => Sys2Proof.Machine.execTrLswmDone cluster slot s
  | .load who => Sys2Proof.Machine.execLoad who s
  | .validationDone peers => Sys2Proof.Machine.execValidationDone peers s
  | .swap who => Sys2Proof.Machine.execSwap who s
  | .swapPoint => Sys2Proof.Machine.execSwapPoint s
  | .cancel who => Sys2Proof.Machine.execCancel who s
  | .revert who => Sys2Proof.Machine.execRevert who s
  | .startRoom who roomId => Sys2Proof.Machine.execStartRoom who roomId s
  | .badCommand core val => Sys2Proof.Machine.execBadCommand core val s
  | .zeroFillDone slot => Sys2Proof.Machine.execZeroFillDone slot s
  | .hello ch slot nc => Sys2Proof.Machine.execHello ch slot nc s
  | .proof sid mac => Sys2Proof.Machine.execProof sid mac s
  | .sessionIdleTimeout sid => Sys2Proof.Machine.execSessionIdleTimeout sid s
  | .own pub nonce ct tag => Sys2Proof.Machine.execOwn pub nonce ct tag s
  | .ident ch => Sys2Proof.Machine.execIdent ch s
  | .status m => Sys2Proof.Machine.execStatus m s
  | .readInc m fromJournal first count => Sys2Proof.Machine.execReadInc m fromJournal first count s
  | .readTrace m slot first count => Sys2Proof.Machine.execReadTrace m slot first count s
  | .halt m t => Sys2Proof.Machine.execHalt m t s
  | .pendingHaltStop core => Sys2Proof.Machine.execPendingHaltStop core s
  | .resume m t => Sys2Proof.Machine.execResume m t s
  | .step m core k => Sys2Proof.Machine.execStep m core k s
  | .bpSet m => Sys2Proof.Machine.execBpSet m s
  | .bpClr m core index => Sys2Proof.Machine.execBpClr m core index s
  | .regRd m core bank r => Sys2Proof.Machine.execRegRd m core bank r s
  | .regWr m core bank r val => Sys2Proof.Machine.execRegWr m core bank r val s
  | .memRd m slot a len consume => Sys2Proof.Machine.execMemRd m slot a len consume s
  | .memWr m slot a data => Sys2Proof.Machine.execMemWr m slot a data s
  | .pcSample m core => Sys2Proof.Machine.execPcSample m core s
  | .nodeKey m node key => Sys2Proof.Machine.execNodeKey m node key s
  | .keyslot m slot role key salt => Sys2Proof.Machine.execKeyslot m slot role key salt s
  | .surrender m serial => Sys2Proof.Machine.execSurrender m serial s
  | .surrenderComplete => Sys2Proof.Machine.execSurrenderComplete s
  | .power m domain state => Sys2Proof.Machine.execPower m domain state s
  | .devState m cmd => Sys2Proof.Machine.execDevState m cmd s
  | .reset m t => Sys2Proof.Machine.execReset m t s
  | .baseCycle => Sys2Proof.Machine.execBaseCycle s
  | .takePoint => Sys2Proof.Machine.execTakePoint s
  | .nodeCycleEnd node => Sys2Proof.Machine.execNodeCycleEnd node s
  | .inputFrame port fr => Sys2Proof.Machine.execInputFrame port fr s
  | .inputImageWrite node => Sys2Proof.Machine.execInputImageWrite node s
  | .join port node nn => Sys2Proof.Machine.execJoin port node nn s
  | .nodeProof port node mac => Sys2Proof.Machine.execNodeProof port node mac s
  | .doorbell port node code => Sys2Proof.Machine.execDoorbell port node code s
  | .doorbellReply slot => Sys2Proof.Machine.execDoorbellReply slot s
  | .hostRingFrame port bytes => Sys2Proof.Machine.execHostRingFrame port bytes s
  | .hsrSupervision ring backA backB => Sys2Proof.Machine.execHsrSupervision ring backA backB s
  | .gptpSync port offsetNs => Sys2Proof.Machine.execGptpSync port offsetNs s
  | .frcPortCtlEn core port val => Sys2Proof.Machine.execFrcPortCtlEn core port val s
  | .frcNctlDrop core val => Sys2Proof.Machine.execFrcNctlDrop core val s
  | .pwrPreq core val => Sys2Proof.Machine.execPwrPreq core val s
  | .pLevelSwitch cluster => Sys2Proof.Machine.execPLevelSwitch cluster s
  | .thermalSample sn celsius => Sys2Proof.Machine.execThermalSample sn celsius s
  | .supplyFault rail read failed => Sys2Proof.Machine.execSupplyFault rail read failed s
  | .pwrDreq core block val => Sys2Proof.Machine.execPwrDreq core block val s
  | .automaticEntry domain => Sys2Proof.Machine.execAutomaticEntry domain s
  | .domainEntryDone domain slice => Sys2Proof.Machine.execDomainEntryDone domain slice s
  | .domainWake domain => Sys2Proof.Machine.execDomainWake domain s
  | .domainReady domain => Sys2Proof.Machine.execDomainReady domain s
  | .dRetain core => Sys2Proof.Machine.execDRetain core s
  | .dOff core => Sys2Proof.Machine.execDOff core s
  | .shutdownTest slice => Sys2Proof.Machine.execShutdownTest slice s
  | .deviceWake src => Sys2Proof.Machine.execDeviceWake src s
  | .mainOkFall => Sys2Proof.Machine.execMainOkFall s
  | .mainOkRise => Sys2Proof.Machine.execMainOkRise s
  | .timebaseAlign offsetNs => Sys2Proof.Machine.execTimebaseAlign offsetNs s
  | .pwronRstN straps board => Sys2Proof.Machine.execPwronRstN straps board s
  | .warmRstN => Sys2Proof.Machine.execWarmRstN s
  | .pkgRstWarm core val => Sys2Proof.Machine.execPkgRstWarm core val s
  | .roomGo core val => Sys2Proof.Machine.execRoomGo core val s
  | .self core val => Sys2Proof.Machine.execSelf core val s
  | .coreGo core val => Sys2Proof.Machine.execCoreGo core val s
  | .periph core val => Sys2Proof.Machine.execPeriph core val s
  | .supplyExcursion groupA => Sys2Proof.Machine.execSupplyExcursion groupA s
  | .txreq core can val => Sys2Proof.Machine.execTxreq core can val s
  | .pop core can => Sys2Proof.Machine.execPop core can s
  | .canFrameReceived can frame => Sys2Proof.Machine.execCanFrameReceived can frame s
  | .canWakePattern can => Sys2Proof.Machine.execCanWakePattern can s
  | .txtail core mac val => Sys2Proof.Machine.execTxtail core mac val s
  | .macFrameReceived mac fr => Sys2Proof.Machine.execMacFrameReceived mac fr s
  | .uartTx core uart val => Sys2Proof.Machine.execUartTx core uart val s
  | .uartRx core uart => Sys2Proof.Machine.execUartRx core uart s
  | .uartByteReceived uart b err => Sys2Proof.Machine.execUartByteReceived uart b err s
  | .pcieInboundRequest port r => Sys2Proof.Machine.execPcieInboundRequest port r s
  | .pcieMsi port data => Sys2Proof.Machine.execPcieMsi port data s
  | .completionTimeout core => Sys2Proof.Machine.execCompletionTimeout core s
  | .pcieCfgd core write bus => Sys2Proof.Machine.execPcieCfgd core write bus s
  | .linkTraining link p => Sys2Proof.Machine.execLinkTraining link p s
  | .retrain link lanes ns => Sys2Proof.Machine.execRetrain link lanes ns s
  | .flitReplay link => Sys2Proof.Machine.execFlitReplay link s
  | .registerWrite core offset val => Sys2Proof.Machine.execRegisterWrite core offset val s
  | .illegalInstruction core bytes => Sys2Proof.Machine.execIllegalInstruction core bytes s
  | .fetchFault core len => Sys2Proof.Machine.execFetchFault core len s
  | .wheelSlot region => Sys2Proof.Machine.execWheelSlot region s
  | .pcieLinkChange port up speed width => Sys2Proof.Machine.execPcieLinkChange port up speed width s
  | .pcieReadCompletion core data => Sys2Proof.Machine.execPcieReadCompletion core data s
  | .fieldPortLinkChange port up => Sys2Proof.Machine.execFieldPortLinkChange port up s
  | .macLinkChange mac up speed => Sys2Proof.Machine.execMacLinkChange mac up speed s
  | .canFrameSent can buf => Sys2Proof.Machine.execCanFrameSent can buf s
  | .canBusError can tec rec => Sys2Proof.Machine.execCanBusError can tec rec s
  | .macFrameSent mac ptpEvent => Sys2Proof.Machine.execMacFrameSent mac ptpEvent s
  | .uartByteSent uart => Sys2Proof.Machine.execUartByteSent uart s

end Sys2Proof.Machine
end

