-- ==== Sys2Proof/Machine/Tick.lean ====
section
/-!
DEFINITION. One nanosecond of the package (R456, R390, R496, R328): what the block does while no command waits. The rows that fall
at a due time have their own commands; this moves the clocks and counts that make them due (DESIGN CHOICE, notes/assumptions/4.md).
-/
namespace Sys2Proof.Machine

/-- The real-time clock after one ns: 32,768 counts a second; it never stops. -/
def Clock.rtcNs (c : Clock) : Clock :=
  if c.rtcAcc + 32768 < 1000000000 then { c with rtcAcc := c.rtcAcc + 32768 }
  else { c with rtcAcc := c.rtcAcc + 32768 - 1000000000, rtc := (c.rtc + 1) % 2 ^ 48 }

/-- The room's watchdog counts (R390): not during a rollback (Table 16.5), nor in a debug halt with FREEZE bit 0 (R492). -/
def Dev.wdgRuns (d : Dev) (slot : Nat) : Bool :=
  let r := d.room slot
  let frz := ((d.plan.debug r.roomId).map DebugRec.freezeWdg).getD true
  r.wdg.en && r.phase == .running && r.rb.isNone && !(frz && d.roomHalted slot)

/-- One ns of a watchdog's count in µs. -/
def WdgRegs.countNs (w : WdgRegs) : WdgRegs :=
  if w.acc + 1 < 1000 then { w with acc := w.acc + 1 } else { w with acc := 0, count := w.count - 1 }

def Dev.wdgNs (d : Dev) (slot : Nat) : Dev :=
  if d.wdgRuns slot then d.modRoom slot (fun r => { r with wdg := r.wdg.countNs }) else d

/-- A cluster writes the oldest packet of the first of its cores that has one (R496). -/
def Dev.traceCluster (d : Dev) (c : Nat) : Dev :=
  match (clusterCores c).find? (fun k => !(d.core k).traceQ.isEmpty) with
  | some k => d.traceDrainOne k
  | none => d

/-- Rooms whose start or resumption falls at a package epoch boundary; a spanning room's falls at a system boundary (R328, R347). -/
def Dev.startDue (d : Dev) (slot : Nat) : Dev := if d.spans slot then d else d.startsNow slot

/-- Domain whose hours a BIST unit counts (R469). -/
def bistDomain (u : Nat) : Nat :=
  if u < 256 then u / 8 else if u < 288 then 64 + (u - 256) / 4 else if u < 290 then u - 200 else hubDomain u

/-- One more on-hour of every unit whose domain runs (R469). -/
def Dev.countHour (d : Dev) : Dev :=
  each (List.range 297) (fun d u =>
    if d.runs (bistDomain u) then
      let e := d.ledger u
      { d with bist := { d.bist with ledger := Sparse.insert d.bist.ledger u { e with onh := satInc 0xFFFF e.onh } } }
    else d) d

/-- Armed becomes Draining once no substitution holds the swap back (Table 3.9, KL-03). -/
def Dev.armDue (d : Dev) : Dev :=
  if d.flp.st == .armed && !d.swapHeld then { d with flp := { d.flp with st := .draining } } else d

/-- A CAN controller that woke hears its bus again (KL-02). -/
def Dev.canReady (d : Dev) (k : Nat) : Dev :=
  let c := d.can k
  if c.en && !c.ready && d.awake (105 + k) && decide (c.deafUntil ≤ d.clk.tb) then
    d.setCan k { c with ready := true, readyEvt := c.readyEvt || c.deafUntil != 0, deafUntil := 0 }
  else d

/-- One ns of the package timebase. -/
def Dev.tickNs (d : Dev) : Dev :=
  let d := { d with clk := d.clk.rtcNs }
  if d.clk.stopped then d
  else
    let d := { d with clk := { d.clk with tb := (d.clk.tb + 1) % 2 ^ 64 } }
    let d := each d.slots (fun d s => ((d.wdgNs s).wanted s).heldAtWake s) d.armDue
    let d := each [0, 1, 2, 3] (fun d k => d.canReady k) d
    let d := if d.clk.tb % 4 == 0 then each (List.range 32) (fun d c => d.traceCluster c) d else d
    let d := if d.clk.tb % 3600000000000 == 0 then d.countHour else d
    if d.clk.tb % 5000 == 0 then each d.slots (fun d s => d.startDue s) d else d

/-- What a step does while no command waits. -/
def State.idle (s : State) : State := { s with dev := s.dev.tickNs }

end Sys2Proof.Machine
end

