-- ==== Sys2Proof/Machine/Pins.lean ====
section
/-!
DEFINITION. The levels of the output balls that follow from the state (R504, R510, R512; Table 23.10). What a ball carries over time
(frames, bytes, packets) is in the outbox; the straps and the supply's pin are fields of the state.
-/
namespace Sys2Proof.Machine

/-- Level of an output ball. -/
inductive PinLevel where
  | low | high | highZ
  deriving DecidableEq, Repr

/-- Outputs are at high impedance: in D-Off, and while PWRON_RST_N is low (Table 23.10). -/
def Dev.outputsZ (d : Dev) : Bool := d.devState == .off || d.devState == .inReset

/-- PWR_EN: high in every state but D-Off, where it falls after the shutdown test (R504). -/
def Dev.pwrEn (d : Dev) : PinLevel := if d.devState == .off && !d.bist.shutdown then .low else .high

/-- PERST_N of a root port: low while the port is disabled or its link is down. -/
def Dev.perstN (d : Dev) (p : Nat) : PinLevel :=
  if d.outputsZ then .highZ else if (d.pcie p).en && (d.pcie p).link then .high else .low

/-- TXD of a controller by the bit order of ROOM_RST.PERIPH (CAN 0 to 3, MAC 4 and 5, UART 6 and 7), while nothing is sent: high impedance
when its domain is Off, the idle level otherwise. The outputs of a MAC whose domain is Off are low. -/
def Dev.txdIdle (d : Dev) (b : Nat) : PinLevel :=
  if d.outputsZ then .highZ
  else if (d.domain (105 + b)).st == .off then (if b == 4 || b == 5 then .low else .highZ)
  else if b == 4 || b == 5 then .low else .high

/-- TDO: at high impedance for good from OWN on (R512). -/
def Dev.tdoOff (d : Dev) : Bool := d.keys.tapOff || d.outputsZ

/-- The IDCODE of the test access port (R512). -/
def idcode : BitVec 32 := 0x19128A3D

end Sys2Proof.Machine
end

