-- ==== Sys2Proof/Safety.lean ====
section
/-!
DEFINITION. What counts as a safe run: no step stops, and every state on the way satisfies an invariant.
-/
namespace Sys2Proof.Safety
open Sys2Proof.Machine

/-- The state that a step answers, if it answers one. -/
def nextOf (s : State) : Option State :=
  match step s with
  | .next t => some t
  | _ => none

/-- `n` steps, stopping at the first that answers no next state. -/
def after : Nat → State → Option State
  | 0, s => some s
  | n + 1, s => (nextOf s).bind (after n)

/-- A step from a state does not stop. -/
def Steps (s : State) : Prop := ∃ t, step s = .next t

/-- Every state within `n` steps satisfies `P`, and no step on the way stops. -/
def SafeFor (P : State → Prop) (n : Nat) (s : State) : Prop := ∀ k ≤ n, ∃ t, after k s = some t ∧ P t

/-! ### What statements about commands say -/

/-- A command answers a next state, whose device is `D` (sessions close where a reset has ended them, R461); the rest of
the queue stays. -/
def Answers (a : Ans) (s : State) (D : Dev) : Prop := a = .next (State.settle { s with dev := D })

/-- From `D` to `X` only context `cx` changed, to `y`, besides the tagged operations that a younger write may have cancelled (R314):
memory, caches, every other context, every core and every other part of the device are as they were. -/
structure WritesOnly (D : Dev) (cx : Nat) (y : Ctx) (X : Dev) : Prop where
  ctx : X.ctx cx = y
  others : ∀ j, j ≠ cx → X.ctx j = D.ctx j
  clusters : ∀ c, X.cluster c =
    { D.cluster c with trestle := { (D.cluster c).trestle with queue := (X.cluster c).trestle.queue } }
  rooms : ∀ r, X.room r = { D.room r with fwd := { (D.room r).fwd with out := (X.room r).fwd.out } }
  rest : X = { D with ctxs := X.ctxs, clusters := X.clusters, rooms := X.rooms }

/-- Every power domain is On, but for those of clusters that the floorplan does not use, which are Off (R63). -/
def AllOn (d : Dev) : Prop :=
  ∀ n, (d.domain n).entering = none ∧
    ((d.domain n).st = .on ∨ (n < 64 ∧ (d.domain n).st = .off ∧ d.plan.cluster d.pkg (n % 32) = none))

/-- A device engine's bytes for a room land at once: no earlier write of it is under way, nor anything on their lines, in a home, an eviction slot or a
store buffer. -/
def Unhindered (d : Dev) (room : Nat) (l : List (Nat × Byte)) : Prop :=
  d.engineBusy 128 = false ∧ (∀ n ∈ linesOf l, d.engineFree room n = true) ∧ (∀ n ∈ linesOf (d.mirrored l), d.slotHolders n = []) ∧
    d.bufferers 128 (linesOf (d.mirrored l)) = []

/-- An STM stores element `k`, register `r` at `va`: `d` before it, `d'` after it, from where the transfer may go on. -/
def StoresElem (e : Env) (k r : Nat) (va : Word) (d d' : Dev) : Prop :=
  ∃ d1 ps, d.access e.w va 8 .write .item .data = .ok d1 ps ∧ e.undoFits d1 ps (leBytes 8 (e.x.get r).toNat) = true ∧
    d' = e.storeAt (d1.modCtx e.cx (fun y => y.setPsw 21 16 (k + 1))) ps (leBytes 8 (e.x.get r).toNat) e.f.hint none ∧
    e.goesOn d' (k + 1) = true

/-- An LDM loads element `k` into register `r`, likewise. -/
def LoadsElem (e : Env) (k r : Nat) (va : Word) (d d' : Dev) : Prop :=
  ∃ d1 ps d2 v, d.access e.w va 8 .read .item .data = .ok d1 ps ∧ e.loadAt d1 ps 8 e.f.hint = .ok d2 v ∧
    d' = (d2.modCtx e.cx (fun y => (y.wr r (BitVec.ofNat 64 v)).setPsw 21 16 (k + 1))).tagCancel e.slot e.cx [e.x.phys r] ∧
    e.goesOn d' (k + 1) = true

/-- The context current on a core reaches the register at an offset: it may issue, its room may access it, and `D` is the device
with the older stores visible (R288) and the register's clock domain awake; who accesses is as before. -/
def Reaches (d : Dev) (core o : Nat) (k : AccKind) (D : Dev) : Prop :=
  ∃ D0, d.mayReach core o k = some D0 ∧ D0.acc core = d.acc core ∧ D = D0.regWake (D0.acc core) o

/-- The message of a command of Table 22.2, its code, and the roles (Table 3.3, by number as a bit) that may send it. -/
def lobbyRow : Instr → Option (LobbyMsg × Nat × Nat)
  | .status m => some (m, 0x01, 0b11111)
  | .readInc m _ _ _ => some (m, 0x02, 0b11111)
  | .readTrace m _ _ _ => some (m, 0x03, 0b11111)
  | .startRoom (.session m) _ => some (m, 0x04, 0b11110)
  | .halt m _ => some (m, 0x10, 0b10100)
  | .resume m _ => some (m, 0x11, 0b10100)
  | .step m _ _ => some (m, 0x12, 0b10100)
  | .bpSet m => some (m, 0x13, 0b10100)
  | .bpClr m _ _ => some (m, 0x14, 0b10100)
  | .regRd m _ _ _ => some (m, 0x15, 0b10100)
  | .regWr m _ _ _ _ => some (m, 0x16, 0b10100)
  | .memRd m _ _ _ _ => some (m, 0x17, 0b10100)
  | .memWr m _ _ _ => some (m, 0x18, 0b10100)
  | .pcSample m _ => some (m, 0x19, 0b10100)
  | .nodeKey m _ _ => some (m, 0x20, 0b10100)
  | .load (.session m) => some (m, 0x30, 0b11000)
  | .swap (.session m) => some (m, 0x31, 0b11000)
  | .cancel (.session m) => some (m, 0x32, 0b11000)
  | .revert (.session m) => some (m, 0x33, 0b11000)
  | .keyslot m _ _ _ _ => some (m, 0x40, 0b10000)
  | .surrender m _ => some (m, 0x41, 0b10000)
  | .power m _ _ => some (m, 0x50, 0b10100)
  | .devState m _ => some (m, 0x51, 0b10000)
  | .reset m _ => some (m, 0x52, 0b10000)
  | _ => none

/-- The device acts on a Lobby command: its session `x` is open and reaches the Lobby, the message is valid and the role permits it. -/
def Admits (s : State) (i : Instr) (x : Session) (m : LobbyMsg) : Prop :=
  ∃ cmd roles, lobbyRow i = some (m, cmd, roles) ∧ s.sessionOf m.sid = some x ∧ x.accepts cmd m = true ∧ roles.testBit x.role = true

/-- A Lobby command answers its session: `r` holds the device, STATUS and the payload of the reply; the session has seen the message. -/
def Replies (i : Instr) (s : State) (x : Session) (m : LobbyMsg) (r : Rep) : Prop :=
  ∃ cmd roles, lobbyRow i = some (m, cmd, roles) ∧
    exec i s = .next (State.settle { s.putSession (x.after m s.dev.clk.tb r.stream) with dev := r.d.emit (x.reply cmd m r) })

/-- What holds of the Lobby's sessions in every run: IDs differ, at most eight sessions are open (R84), none has discarded sixteen
messages, and sequence numbers have 32 bits (R85). -/
structure LobbyInv (s : State) : Prop where
  ids : (s.lobby.sessions.map Session.sid).Nodup
  open8 : (s.lobby.sessions.filter Session.isOpen).length ≤ 8
  discarded : ∀ x ∈ s.lobby.sessions, x.discarded < 16
  seq : ∀ x ∈ s.lobby.sessions, x.lastSeq < 2 ^ 32

end Sys2Proof.Safety
end

