-- ==== Sys2Proof/Certificates/Slice0/Obligations.lean ====
section
/-!
DEFINITION. The statements about the model. A statement about an instruction takes the environment `e` in which its body runs
(`Dev.enter`, whose conditions `IssueConditions` states) and says which device the command leaves: what its own effect is, and, by
`WritesOnly` or clause by clause, what stays. `Dev.afterIssue`, at the end of each, is the debug unit's part (`AfterIssue`).
-/
open Sys2Proof Sys2Proof.Machine Sys2Proof.Safety

/-! ### The block -/

/-- The command at the front of the queue takes effect with the queue's rest behind it. -/
def Obligations.StepRunsTheFrontCommand : Prop :=
  ∀ (s : State) (c : Instr), step { s with pending := c :: s.pending } = exec c s

/-- On an empty queue one nanosecond passes (the model's choice, notes/assumptions/4.md): the timebase counts unless it is stopped, the
real-time clock gathers one ns, and sessions and queue stay. -/
def Obligations.StepOnAnEmptyQueueIsOneNanosecond : Prop :=
  ∀ s : State, s.pending = [] →
    ∃ t, step s = .next t ∧ t.lobby = s.lobby ∧ t.pending = [] ∧
      (s.dev.clk.stopped = true → t.dev.clk.tb = s.dev.clk.tb) ∧
      (s.dev.clk.stopped = false → t.dev.clk.tb = (s.dev.clk.tb + 1) % 2 ^ 64) ∧
      (s.dev.clk.rtcAcc + 32768 < 1000000000 → t.dev.clk.rtc = s.dev.clk.rtc ∧ t.dev.clk.rtcAcc = s.dev.clk.rtcAcc + 32768) ∧
      (1000000000 ≤ s.dev.clk.rtcAcc + 32768 → t.dev.clk.rtc = (s.dev.clk.rtc + 1) % 2 ^ 48)

/-! ### Issue -/

/-- When an instruction reaches its body: the core can issue, no comparator stops it, its form has no illegal cause, its bytes are fetched,
level and world permit it, and its tagged sources are there; the body then works with the context whose pending sources are written
(R128, R133, R135, R488). An instruction whose level or world does not permit it raises P and has no effect of its own; an illegal form
raises I with its code; bytes that cannot be fetched raise F, after the entry reads of their walk (R128, R129, R135, R224, Table 5.2).
Each takes the exception of its class. After an instruction, without a comparator hit and outside a debug step, only the skip of the
next comparator test is cleared; a hit halts the core for the session that set the comparator (R486, R488). -/
def Obligations.IssuingAnInstruction : Prop :=
  (∀ (d : Dev) (core : Nat) (m : OpMap) (op : Nat) (f : Form) (room : Option Nat) (srcs : List Nat) (flags : Bool)
     (priv : Ctx → Bool) (e : Env),
     d.enter core m op f room srcs flags priv = .ok e ↔
       ∃ slot d1 ps d2,
         let w := d.wake (core / 4)
         let len := if ((opRule m op).map OpRule.bare).getD false then m.bytes else f.length m.bytes
         let cx := w.curCtx core
         d.canIssue core = some slot ∧ w.bpHit core = none ∧ firstCause m op f room = none ∧ w.fetch core len = .ok d1 ps ∧
         priv (w.ctx cx) = true ∧ d1.tagWait core slot cx (srcs.map (w.ctx cx).phys) = some d2 ∧
         (let x := ((d2.ctx cx).settle srcs flags).phantom (btKindOf m op f)
          e = { d := d2.setCtx cx x, core := core, slot := slot, cx := cx, x := x, f := f, w := (d2.setCtx cx x).who core,
                next := x.pc + BitVec.ofNat 64 len })) ∧
  (∀ (d : Dev) (core : Nat) (m : OpMap) (op : Nat) (f : Form) (room : Option Nat) (srcs : List Nat) (flags : Bool)
     (priv : Ctx → Bool) (body : Env → IRes) (slot : Nat),
     let w := d.wake (core / 4)
     let len := if ((opRule m op).map OpRule.bare).getD false then m.bytes else f.length m.bytes
     d.canIssue core = some slot → w.bpHit core = none →
       (∀ i code d1 ps, firstCause m op f room = some (i, code) → w.fetch core (i + 1) = .ok d1 ps →
         d.issue core m op f room srcs flags priv body = d1.raiseExc core { cls := 1, code := code }) ∧
       (∀ i code x, firstCause m op f room = some (i, code) → w.fetch core (i + 1) = .exc x →
         d.issue core m op f room srcs flags priv body = (w.faultWalk core x).raiseExc core x) ∧
       (∀ x, firstCause m op f room = none → w.fetch core len = .exc x →
         d.issue core m op f room srcs flags priv body = (w.faultWalk core x).raiseExc core x) ∧
       (∀ d1 ps, firstCause m op f room = none → w.fetch core len = .ok d1 ps → priv (w.ctx (w.curCtx core)) = false →
         d.issue core m op f room srcs flags priv body = d1.raiseExc core { cls := 2 })) ∧
  (∀ (d : Dev) (core : Nat),
     ((d.core core).stepping = none →
       d.afterIssue core none = d.setCore core { d.core core with bpSkip := false }) ∧
     (∀ b : Bp, d.afterIssue core (some b) =
       (d.setCore core { d.core core with bpSkip := false }).haltCore core b.sid (1 + b.index)))

/-! ### Integer instructions -/

/-- R137, R138: each writes its result into RD and its flags, and goes on at the next instruction; nothing else changes. R137: CMP writes
the flags of SUB and TST those of AND, and no register changes. R138, R193: a division, FDIV and FSQRT enter a station; register and
flags are pending there, and older pending writes to them are cancelled. R194, R195: the operation at a position of a context's
stations completes: its register takes the result unless a younger write cancelled it, each flag it still owes is written, and it
leaves the station; nothing else changes. -/
def Obligations.IntegerInstructionsComplete : Prop :=
  (∀ r ∈ ([(.add, 0x00, aluAdd), (.sub, 0x01, aluSub), (.and, 0x02, aluAnd), (.or, 0x03, aluOr), (.xor, 0x04, aluXor),
       (.andn, 0x05, aluAndn), (.shl, 0x08, aluShl), (.shr, 0x09, aluShr), (.sar, 0x0A, aluSar), (.rol, 0x0B, aluRol),
       (.ror, 0x0C, aluRor), (.mov, 0x0D, aluMov), (.neg, 0x0E, aluNeg), (.not, 0x0F, aluNot), (.mul, 0x10, aluMul),
       (.mulh, 0x11, aluMulh), (.mulhu, 0x12, aluMulhu)] : List ((Nat → Form → Instr) × Nat × (Nat → Nat → Nat → Res))),
     ∀ (s : State) (core : Nat) (f : Form) (e : Env),
       s.dev.enter core .prim r.2.1 f none (Form.src2 f) false anyLevel = .ok e →
       ∃ X : Dev, Answers (exec (r.1 core f) s) s (X.afterIssue core none) ∧
         WritesOnly e.d e.cx ((e.x.wrRes f.rdn (r.2.2 f.width.bits e.ops.1 e.ops.2)).past e.next) X) ∧
  (∀ r ∈ ([(.cmp, 0x06, aluSub), (.tst, 0x07, aluAnd)] : List ((Nat → Form → Instr) × Nat × (Nat → Nat → Nat → Res))),
     ∀ (s : State) (core : Nat) (f : Form) (e : Env),
       s.dev.enter core .prim r.2.1 f none (Form.src2 f) false anyLevel = .ok e →
       ∃ X : Dev, Answers (exec (r.1 core f) s) s (X.afterIssue core none) ∧
         WritesOnly e.d e.cx ((e.x.wrFlags (r.2.2 f.width.bits e.ops.1 e.ops.2)).past e.next) X ∧
         ∀ p, (X.ctx e.cx).getP p = e.x.getP p) ∧
  (∀ r ∈ ([(.div, 0x13, aluDiv), (.divu, 0x14, aluDivu), (.rem, 0x15, aluRem), (.remu, 0x16, aluRemu)] :
      List ((Nat → Form → Instr) × Nat × (Nat → Nat → Nat → Res))),
    ∀ (s : State) (core : Nat) (f : Form) (e : Env),
      s.dev.enter core .prim r.2.1 f none (Form.src2 f) false anyLevel = .ok e →
      ∃ X : Dev, Answers (exec (r.1 core f) s) s (X.afterIssue core none) ∧
        WritesOnly e.d e.cx ((e.x.issueLong f.rdn (r.2.2 f.width.bits e.ops.1 e.ops.2)).past e.next) X) ∧
  (∀ r ∈ ([(.fdiv, 0x4C, fpDiv), (.fsqrt, 0x4D, fun _ b => fpSqrt b)] :
      List ((Nat → Form → Instr) × Nat × (Word → Word → Word))),
    ∀ (s : State) (core : Nat) (f : Form) (e : Env),
      s.dev.enter core .prim r.2.1 f none [f.rdn, f.rsn] false anyLevel = .ok e →
      ∃ X : Dev, Answers (exec (r.1 core f) s) s (X.afterIssue core none) ∧
        WritesOnly e.d e.cx ((e.x.issueLong f.rdn { val := (r.2.2 (e.x.get f.rdn) (e.x.get f.rsn)).toNat }).past e.next) X) ∧
  (∀ (s : State) (ctx idx : Nat) (o : LongOp), (s.dev.ctx ctx).long[idx]? = some o →
     let y := (s.dev.ctx ctx).finishLong o
     Answers (exec (.longOpComplete ctx idx) s) s
         (s.dev.setCtx ctx { y with long := (s.dev.ctx ctx).long.eraseIdx idx }) ∧
       (∀ p, y.getP p = if o.wr = true ∧ p = o.dst ∧ p ≠ 0 then o.val else (s.dev.ctx ctx).getP p) ∧
       y.n = o.n.getD (s.dev.ctx ctx).n ∧ y.z = o.z.getD (s.dev.ctx ctx).z ∧ y.c = o.c.getD (s.dev.ctx ctx).c ∧
       y.v = o.v.getD (s.dev.ctx ctx).v)

/-- R137: the integer operations agree with two's complement arithmetic at every width: results, N, Z, carry or borrow, overflow. R137:
shifts and rotates take the amount modulo W, and C is the last bit shifted or rotated out, 0 for an amount of 0. R138, R139: products,
and quotients and remainders with their corners: division by zero gives all ones and the dividend and sets V; the most negative value
by −1 gives itself and 0 and sets V; V is 0 for every other division. R140, R141: fields run from bit p up to bit min(p + w, 64) − 1;
counts, byte order, and the table of BPERM. -/
def Obligations.IntegerResults : Prop :=
  (∀ w ∈ [8, 16, 32, 64], ∀ a b : BitVec w,
     (let r := a + b
      aluAdd w a.toNat b.toNat = { val := r.toNat, n := some r.msb, z := some (r == 0), c := some (BitVec.uaddOverflow a b),
                                   v := some (BitVec.saddOverflow a b) }) ∧
     (let r := a - b
      aluSub w a.toNat b.toNat = { val := r.toNat, n := some r.msb, z := some (r == 0), c := some (a.ult b),
                                   v := some (BitVec.ssubOverflow a b) }) ∧
     (let r := a &&& b
      aluAnd w a.toNat b.toNat = { val := r.toNat, n := some r.msb, z := some (r == 0), c := some false, v := some false }) ∧
     (let r := a ||| b
      aluOr w a.toNat b.toNat = { val := r.toNat, n := some r.msb, z := some (r == 0), c := some false, v := some false }) ∧
     (let r := a ^^^ b
      aluXor w a.toNat b.toNat = { val := r.toNat, n := some r.msb, z := some (r == 0), c := some false, v := some false }) ∧
     (let r := a &&& ~~~b
      aluAndn w a.toNat b.toNat = { val := r.toNat, n := some r.msb, z := some (r == 0), c := some false, v := some false }) ∧
     (let r := ~~~b
      aluNot w a.toNat b.toNat = { val := r.toNat, n := some r.msb, z := some (r == 0), c := some false, v := some false })) ∧
  (∀ w ∈ [8, 16, 32, 64], ∀ (a : BitVec w) (b : Nat),
     let k := b % w
     (aluShl w a.toNat b).val = (a <<< k).toNat ∧ (aluShr w a.toNat b).val = (a >>> k).toNat ∧
     (aluSar w a.toNat b).val = (a.sshiftRight k).toNat ∧ (aluRol w a.toNat b).val = (a.rotateLeft k).toNat ∧
     (aluRor w a.toNat b).val = (a.rotateRight k).toNat ∧
     (∀ g ∈ [aluShl, aluRol], (g w a.toNat b).c = some (k != 0 && a.getLsbD (w - k))) ∧
     (∀ g ∈ [aluShr, aluSar, aluRor], (g w a.toNat b).c = some (k != 0 && a.getLsbD (k - 1))) ∧
     (∀ g ∈ [aluShl, aluShr, aluSar, aluRol, aluRor], (g w a.toNat b).v = some false ∧
       (g w a.toNat b).z = some ((g w a.toNat b).val == 0) ∧ (g w a.toNat b).n = some ((g w a.toNat b).val.testBit (w - 1)))) ∧
  (∀ w ∈ [8, 16, 32, 64], ∀ a b : BitVec w,
     let A := a.toNat
     let B := b.toNat
     (aluMul w A B).val = (a * b).toNat ∧ (aluMul w A B).v = some (BitVec.smulOverflow a b) ∧
     (aluMulhu w A B).val = a.toNat * b.toNat / 2 ^ w ∧
     (aluMulh w A B).val = (BitVec.ofInt w (a.toInt * b.toInt / 2 ^ w)).toNat ∧
     (b = 0 → (aluDiv w A B).val = 2 ^ w - 1 ∧ (aluDivu w A B).val = 2 ^ w - 1 ∧ (aluRem w A B).val = A ∧
       (aluRemu w A B).val = A ∧ ∀ g ∈ [aluDiv, aluDivu, aluRem, aluRemu], (g w A B).v = some true) ∧
     (b ≠ 0 → (aluDivu w A B).val = (a / b).toNat ∧ (aluRemu w A B).val = (a % b).toNat ∧
       ∀ g ∈ [aluDivu, aluRemu], (g w A B).v = some false) ∧
     (b ≠ 0 → (aluDiv w A B).val = (a.sdiv b).toNat ∧ (aluRem w A B).val = (a.srem b).toNat ∧
       ∀ g ∈ [aluDiv, aluRem], (g w A B).v = some (decide (a = BitVec.intMin w ∧ b = BitVec.allOnes w))) ∧
     (∀ g ∈ [aluDiv, aluDivu, aluRem, aluRemu], (g w A B).c = some false)) ∧
  (∀ (imm rd rs i : Nat), rd < 2 ^ 64 → rs < 2 ^ 64 →
    let p := imm % 64
    let w := imm / 256 % 64 + 1
    (opBins imm rd rs).testBit i = (if p ≤ i ∧ i < min (p + w) 64 then rs.testBit (i - p) else rd.testBit i)) ∧
  (∀ (imm rs i : Nat),
    let p := imm % 64
    let w := imm / 256 % 64 + 1
    (opBext imm rs).testBit i = (decide (i < min (p + w) 64 - p) && rs.testBit (p + i))) ∧
  (∀ (imm rs i : Nat), i < 64 →
    let p := imm % 64
    let n := min (p + (imm / 256 % 64 + 1)) 64 - p
    (opBexts imm rs).testBit i = rs.testBit (p + min i (n - 1))) ∧
  (∀ w ∈ [8, 16, 32, 64], ∀ x, x < 2 ^ w →
    (x = 0 → clz w x = w ∧ ctz w x = w ∧ popCount x w = 0) ∧
    (x ≠ 0 → 2 ^ (w - 1 - clz w x) ≤ x ∧ x < 2 ^ (w - clz w x) ∧ x % 2 ^ ctz w x = 0 ∧ x.testBit (ctz w x) = true)) ∧
  (∀ (rd rs rt : Word), ∀ i < 8,
    let c := (rd >>> (8 * i)).toNat % 256
    let k := c % 16
    ((bperm rd rs rt) >>> (8 * i)).toNat % 256 =
      if c.testBit 7 then 0 else if k < 8 then (rs >>> (8 * k)).toNat % 256 else (rt >>> (8 * (k - 8))).toNat % 256)

/-- R140, R141: each writes RD and the flags of Table 5.5, and nothing else. Table 5.5, Table 5.6: CMOVcc writes RD only when its condition
holds, SELcc chooses RS or RT, LEA writes the effective address; flags stay. -/
def Obligations.BitOperationsAndMovesComplete : Prop :=
  (∀ r ∈ ([(.clz, 0x1B, clz, true), (.ctz, 0x1C, ctz, true), (.popc, 0x1D, fun w x => popCount x w, true),
      (.bswap, 0x1F, bswap, false)] : List ((Nat → Form → Instr) × Nat × (Nat → Nat → Nat) × Bool)),
    ∀ (s : State) (core : Nat) (f : Form) (e : Env),
      s.dev.enter core .prim r.2.1 f none [f.rsn] false anyLevel = .ok e →
      let v := r.2.2.1 f.width.bits (f.width.cut (e.x.get f.rsn))
      ∃ X : Dev, Answers (exec (r.1 core f) s) s (X.afterIssue core none) ∧
        WritesOnly e.d e.cx ((e.x.wrRes f.rdn { val := v, z := if r.2.2.2 then some (v == 0) else none }).past e.next) X) ∧
  (∀ (s : State) (core : Nat) (f : Form) (e : Env),
    s.dev.enter core .prim 0x18 f none [f.rdn, f.rsn] false anyLevel = .ok e →
    ∃ X : Dev, Answers (exec (.bins core f) s) s (X.afterIssue core none) ∧
      WritesOnly e.d e.cx ((e.x.wr f.rdn (BitVec.ofNat 64 (opBins f.raw (e.x.get f.rdn).toNat (e.x.get f.rsn).toNat))).past e.next) X) ∧
  (∀ (s : State) (core : Nat) (f : Form) (e : Env),
    s.dev.enter core .prim 0x19 f none [f.rsn] false anyLevel = .ok e →
    let v := opBext f.raw (e.x.get f.rsn).toNat
    ∃ X : Dev, Answers (exec (.bext core f) s) s (X.afterIssue core none) ∧
      WritesOnly e.d e.cx ((e.x.wrRes f.rdn { val := v, z := some (v == 0) }).past e.next) X) ∧
  (∀ (s : State) (core : Nat) (f : Form) (e : Env),
    s.dev.enter core .prim 0x1A f none [f.rsn] false anyLevel = .ok e →
    let v := opBexts f.raw (e.x.get f.rsn).toNat
    ∃ X : Dev, Answers (exec (.bexts core f) s) s (X.afterIssue core none) ∧
      WritesOnly e.d e.cx ((e.x.wrRes f.rdn { val := v, n := some (v.testBit 63), z := some (v == 0) }).past e.next) X) ∧
  (∀ (s : State) (core : Nat) (f : Form) (e : Env),
    s.dev.enter core .prim 0x1E f none [f.rdn, f.rsn, f.rt] false anyLevel = .ok e →
    ∃ X : Dev, Answers (exec (.bperm core f) s) s (X.afterIssue core none) ∧
      WritesOnly e.d e.cx ((e.x.wr f.rdn (bperm (e.x.get f.rdn) (e.x.get f.rsn) (e.x.get f.rt))).past e.next) X) ∧
  (∀ (s : State) (core : Nat) (cc : BitVec 4) (f : Form) (e : Env),
    s.dev.enter core .escF1 cc.toNat f none [f.rdn, f.rsn] true anyLevel = .ok e →
    ∃ X : Dev, Answers (exec (.cmovcc core cc f) s) s (X.afterIssue core none) ∧
      WritesOnly e.d e.cx ((if e.x.cond cc.toNat then e.x.wr f.rdn (e.x.get f.rsn) else e.x).past e.next) X) ∧
  (∀ (s : State) (core : Nat) (cc : BitVec 4) (f : Form) (e : Env),
    s.dev.enter core .escF1 (0x10 + cc.toNat) f none [f.rsn, f.rt] true anyLevel = .ok e →
    ∃ X : Dev, Answers (exec (.selcc core cc f) s) s (X.afterIssue core none) ∧
      WritesOnly e.d e.cx ((e.x.wr f.rdn (if e.x.cond cc.toNat then e.x.get f.rsn else e.x.get f.rt)).past e.next) X) ∧
  (∀ (s : State) (core : Nat) (f : Form) (e : Env),
    s.dev.enter core .prim 0x23 f none (Form.eaSrc f) false anyLevel = .ok e →
    ∃ X : Dev, Answers (exec (.lea core f) s) s (X.afterIssue core none) ∧
      WritesOnly e.d e.cx ((e.x.wr f.rdn (e.x.ea f e.next)).past e.next) X)

/-! ### Floating point -/

/-- R154 to R156: FADD, FSUB, FMUL and FMA write RD and no flag; FCMP writes the flags of Table 5.11; FCVT writes RD and V. R155: every NaN
result is the default NaN, an operation with a NaN operand gives it, and so do ∞ − ∞, 0 × ∞, 0 / 0, ∞ / ∞ and the root of a negative
number; addition and multiplication do not depend on the order of their operands; a comparison with a NaN is unordered. -/
def Obligations.FloatInstructionsComplete : Prop :=
  (∀ r ∈ ([(.fadd, 0x48, fpAdd), (.fsub, 0x49, fpSub), (.fmul, 0x4A, fpMul)] :
      List ((Nat → Form → Instr) × Nat × (Word → Word → Word))),
    ∀ (s : State) (core : Nat) (f : Form) (e : Env),
      s.dev.enter core .prim r.2.1 f none [f.rdn, f.rsn] false anyLevel = .ok e →
      ∃ X : Dev, Answers (exec (r.1 core f) s) s (X.afterIssue core none) ∧
        WritesOnly e.d e.cx ((e.x.wr f.rdn (r.2.2 (e.x.get f.rdn) (e.x.get f.rsn))).past e.next) X) ∧
  (∀ (s : State) (core : Nat) (f : Form) (e : Env),
    s.dev.enter core .prim 0x4B f none [f.rdn, f.rsn, f.rt] false anyLevel = .ok e →
    ∃ X : Dev, Answers (exec (.fma core f) s) s (X.afterIssue core none) ∧
      WritesOnly e.d e.cx ((e.x.wr f.rdn (fpFma (e.x.get f.rsn) (e.x.get f.rt) (e.x.get f.rdn))).past e.next) X) ∧
  (∀ (s : State) (core : Nat) (f : Form) (e : Env),
    s.dev.enter core .prim 0x4E f none [f.rdn, f.rsn] false anyLevel = .ok e →
    ∃ X : Dev, Answers (exec (.fcmp core f) s) s (X.afterIssue core none) ∧
      WritesOnly e.d e.cx ((e.x.wrFlags (fcmpFlags (fpCmp (e.x.get f.rdn) (e.x.get f.rsn)))).past e.next) X) ∧
  (∀ (s : State) (core : Nat) (f : Form) (e : Env),
    s.dev.enter core .prim 0x4F f none [f.rsn] false anyLevel = .ok e →
    ∃ X : Dev, Answers (exec (.fcvt core f) s) s (X.afterIssue core none) ∧
      let r : Res := { val := (fpConvert f.raw (e.x.get f.rsn)).1.toNat, v := some (fpConvert f.raw (e.x.get f.rsn)).2 }
      WritesOnly e.d e.cx ((e.x.wrRes f.rdn r).past e.next) X) ∧
  ((∀ a b c : Word, fpIsNan a = true ∨ fpIsNan b = true →
     fpAdd a b = 0x7FF8000000000000 ∧ fpSub a b = 0x7FF8000000000000 ∧ fpMul a b = 0x7FF8000000000000 ∧
     fpDiv a b = 0x7FF8000000000000 ∧ fpFma a b c = 0x7FF8000000000000 ∧ fpFma a c b = 0x7FF8000000000000 ∧
     fpCmp a b = .unordered) ∧
   (∀ a : Word, fpIsNan a = true → fpSqrt a = 0x7FF8000000000000) ∧
   (∀ a b : Word, fpAdd a b = fpAdd b a ∧ fpMul a b = fpMul b a) ∧
   fpSub 0x7FF0000000000000 0x7FF0000000000000 = 0x7FF8000000000000 ∧
   fpMul 0 0x7FF0000000000000 = 0x7FF8000000000000 ∧ fpDiv 0 0 = 0x7FF8000000000000 ∧
   fpDiv 0x7FF0000000000000 0xFFF0000000000000 = 0x7FF8000000000000 ∧ fpSqrt 0xBFF0000000000000 = 0x7FF8000000000000)

/-! ### Memory -/

/-- R101: C0 reads zero whatever was written to it, and a write to another register is read back and leaves the rest. R102: a rotation
forward makes the caller's A registers the callee's E registers; rotating back returns to the caller's window; the common registers are
the same in every window. R101, R195: writing a result changes the register named and no other, discards a write to C0, and writes
exactly the flags the result names; level, world, window, priority and block progress stay. -/
def Obligations.RegistersAndWindows : Prop :=
  (∀ (x : Ctx) (p q : Nat) (v : Word),
     x.getP 0 = 0 ∧ (p ≠ 0 → (x.setP p v).getP p = v) ∧ (q ≠ p → (x.setP p v).getP q = x.getP q) ∧ x.setP 0 v = x) ∧
  (∀ x : Ctx, x.tw = false →
     (∀ k < 8, x.rotate.get (8 + k) = x.get (24 + k)) ∧ (∀ k < 8, x.rotate.get k = x.get k) ∧
     x.rotate.cwp = (x.cwp + 1) % 16 ∧ x.rotate.rd = min 15 (x.rd + 1) ∧
     (∀ n < 32, x.rotate.rotateBack.get n = x.get n) ∧ (x.rd ≤ 14 → x.rotate.rotateBack.rd = x.rd)) ∧
  (∀ (x : Ctx) (n : Nat) (r : Res),
     let y := x.wrRes n r
     (∀ p, y.getP p = if p = x.phys n ∧ p ≠ 0 then BitVec.ofNat 64 r.val else x.getP p) ∧
     y.n = r.n.getD x.n ∧ y.z = r.z.getD x.z ∧ y.c = r.c.getD x.c ∧ y.v = r.v.getD x.v ∧
     (∀ i, 4 ≤ i → y.psn.testBit i = x.psn.testBit i) ∧
     y = { x with regs := y.regs, psw := y.psw, long := y.long })

/-- R218, R220 (rows 1, 2 and 6 of Table 9.6): without translation a canonical VA below 0x4000_0000_0000 is an offset in the core's own
package, other canonical VAs and all accesses at PL0 fail, and a VA that is not canonical fails first. R228: a byte passes the room
check when a window of the room covers it, grants the access, and, in the normal world, it does not lie below the watermark; otherwise
the row of Table 9.6 that it fails is reported. The view page of the room, and mailbox buffers, whose halves R340 divides, are left to
their own rules. -/
def Obligations.AddressesAndRoomCheck : Prop :=
  (∀ (d : Dev) (w : Who) (va : Word) (k : AccKind), ((d.ctx w.ctx).ptbase w.secure).getLsbD 0 = false →
     (canonical va = false → d.translate w va k = .error (1, 0)) ∧
     (canonical va = true → 0x400000000000 ≤ va.toNat → d.translate w va k = .error (2, 0)) ∧
     (canonical va = true → va.toNat < 0x400000000000 → w.pl = 0 → d.translate w va k = .error (6, 0)) ∧
     (canonical va = true → va.toNat < 0x400000000000 → w.pl ≠ 0 →
       d.translate w va k = .ok (d, d.straps.pkgId.toNat * 0x4000000000000 + va.toNat, 0))) ∧
  (∀ (d : Dev) (slot id pa : Nat) (secure nxf : Bool) (k : AccKind),
     d.inViewPage id pa = false → d.plan.mboxAt pa = none →
     (d.plan.windowAt id pa = none → d.checkByte slot id secure nxf k pa = 9) ∧
     (∀ w, d.plan.windowAt id pa = some w →
       let granted := match k with
         | .read => w.perm.testBit 0
         | .link => w.perm.testBit 0
         | .write => w.perm.testBit 1
         | .rmw => w.perm.testBit 0 && w.perm.testBit 1
         | .fetch => w.perm.testBit 2
       (granted = false → d.checkByte slot id secure nxf k pa = 10) ∧
       (granted = true → secure = false → pa - w.base < d.wmark slot w → d.checkByte slot id secure nxf k pa = 11) ∧
       (granted = true → secure = true → k = .fetch → nxf = true → d.wmark slot w ≤ pa - w.base →
         d.checkByte slot id secure nxf k pa = 12) ∧
       (granted = true → secure = false → d.wmark slot w ≤ pa - w.base → d.checkByte slot id secure nxf k pa = 0) ∧
       (granted = true → secure = true → (k ≠ .fetch ∨ nxf = false) → d.checkByte slot id secure nxf k pa = 0)))

/-- R196, R197: with every domain On, a load of DRAM reads the core's own buffered bytes and otherwise the newest memory; memory, rooms,
registers and store buffers stay. R142, R143, R425, R426: LD and LDX bring an item into RD, zero- or sign-extended. DRAM is read as the
core sees it, a device register as its block answers, a PCIe read on a link that is down gives all ones; a read of PCIe memory on a
link that is up, and one of PCIE_CFGD, goes out and the core waits. -/
def Obligations.LoadsComplete : Prop :=
  (∀ (d : Dev) (core : Nat) (ps : List Piece) (nt : Bool), AllOn d → d.partialHit core ps = false →
     let r := d.loadDram core ps nt
     r.2 = leNat (d.seenBytes core ps) ∧ r.1.mem = d.mem ∧ r.1.rooms = d.rooms ∧ r.1.plan = d.plan ∧ AllOn r.1 ∧
     (∀ j p, (r.1.ctx j).getP p = (d.ctx j).getP p ∧ (r.1.ctx j).psw = (d.ctx j).psw ∧ (r.1.ctx j).pc = (d.ctx j).pc) ∧
     ∀ k, (r.1.core k).sbuf = (d.core k).sbuf) ∧
  (∀ r ∈ ([(.ld, 0x20, false), (.ldx, 0x21, true)] : List ((Nat → Form → Instr) × Nat × Bool)),
     ∀ (s : State) (core : Nat) (f : Form) (e : Env) (d1 : Dev) (pa m : Nat) (t : List Piece),
       s.dev.enter core .prim r.2.1 f none (Form.eaSrc f) false anyLevel = .ok e →
       let n := f.width.bytes
       let va := e.x.ea f e.next
       let lands := fun (D : Dev) (v : Nat) =>
         ∃ X : Dev, Answers (exec (r.1 core f) s) s (X.afterIssue core (X.dataHit core e.x [(va, n, .read)])) ∧
           WritesOnly D e.cx (((D.ctx e.cx).wr f.rdn (extend r.2.2 n v)).past e.next) X
       let waits := fun (o : Out) (at_ len : Nat) =>
         ∃ X : Dev, Answers (exec (r.1 core f) s) s X ∧ X.outbox.head? = some o ∧
           ∃ w, (X.core core).wait = some w ∧ w.pa = at_ ∧ w.len = len ∧ w.item = n ∧ w.dst = e.x.phys f.rdn ∧ w.signed = r.2.2 ∧
             w.next = e.next
       e.d.access e.w va n .read .item .data = .ok d1 ((pa, m) :: t) →
       (paKind pa = .dram → lands (d1.loadDram core ((pa, m) :: t) f.hint).1 (d1.loadDram core ((pa, m) :: t) f.hint).2) ∧
       (paKind pa = .hamper ∨ paKind pa = .none → lands d1 (leNat (d1.bytes pa n))) ∧
       (paKind pa = .reg → d1.readsCfgd pa n = false → lands (d1.regLoad (d1.acc core) pa n).2 (d1.regLoad (d1.acc core) pa n).1) ∧
       (paKind pa = .reg → d1.readsCfgd pa n = true →
         ∃ g : W32, waits (.pcieConfig g none 0xFFFFFFFF) d1.cfgPa 4) ∧
       (paKind pa = .pcie → (d1.wake 100).portUp ((d1.wake 100).portAt pa) = false → lands (d1.wake 100) (2 ^ (8 * n) - 1)) ∧
       (paKind pa = .pcie → (d1.wake 100).portUp ((d1.wake 100).portAt pa) = true → waits (.pcieRead pa n) pa n))

/-- R143, R196: ST hands the low bytes of RD to the store buffer for DRAM, to the bus for PCIe memory, and to the register block for a
device register, in program order behind the buffered stores; the PC already stands at the next instruction. Without the undo entries
that it needs it waits (R334). R196: with every domain On, a store to DRAM waits in its core's buffer of four behind the others; with
four waiting the oldest is first written, with its secondary copies. What other cores have buffered for its lines is written before
(`Y`; nothing where there is none). Registers, rooms and every other byte of memory stay. R196, R287: STORE_BUFFER_WRITE makes the
oldest buffered store of a core visible: its bytes and their secondary copies are in memory, every other byte reads as before, and the
store leaves the buffer; registers stay. A line of it that a snoop has taken since is first asked for (R270). -/
def Obligations.StoresComplete : Prop :=
  (∀ (s : State) (core : Nat) (f : Form) (e : Env) (d1 : Dev) (pa m : Nat) (t : List Piece),
     s.dev.enter core .prim 0x22 f none (f.rdn :: Form.eaSrc f) false anyLevel = .ok e →
     let n := f.width.bytes
     let va := e.x.ea f e.next
     let ps := (pa, m) :: t
     let bs := leBytes n (e.x.get f.rdn).toNat
     let D := d1.setCtx e.cx ((d1.ctx e.cx).past e.next)
     let lands := fun (X : Dev) => Answers (exec (.st core f) s) s (X.afterIssue core (X.dataHit core e.x [(va, n, .write)]))
     e.d.access e.w va n .write .item .data = .ok d1 ps →
     (e.undoFits d1 ps bs = true →
       (paKind pa = .dram → lands (D.bufStore e.w ps bs f.hint (some e.cx))) ∧
       (paKind pa = .hamper ∨ paKind pa = .none → lands (D.drain core)) ∧
       (paKind pa = .pcie → lands (((D.drain core).wake 100).pcieOut pa bs)) ∧
       (paKind pa = .reg → lands ((D.drain core).regStore (D.acc core) pa n (leNat bs)))) ∧
     (e.undoFits d1 ps bs = false → Answers (exec (.st core f) s) s e.d)) ∧
  (∀ (d : Dev) (w : Who) (ps : List Piece) (bs : List Byte) (nt : Bool) (keep : Option Nat), AllOn d →
     let Y := d.yieldStores w.core (linesOf (scatter ps bs))
     let X := d.bufStore w ps bs nt keep
     let q := (d.core w.core).sbuf
     let new : StoreEntry := { keep := keep, nt := nt, bytes := scatter ps bs }
     (d.bufferers w.core (linesOf (scatter ps bs)) = [] → Y = d) ∧ X.rooms = d.rooms ∧ X.plan = d.plan ∧ AllOn X ∧
     (∀ j p, (X.ctx j).getP p = (d.ctx j).getP p ∧ (X.ctx j).psw = (d.ctx j).psw ∧ (X.ctx j).pc = (d.ctx j).pc) ∧
     (q.length < 4 → X.mem = Y.mem ∧ (X.core w.core).sbuf = q ++ [new]) ∧
     (∀ b rest, q = b :: rest → 3 ≤ rest.length →
       X.mem = Y.mem.putAll (d.mirrored b.bytes) ∧ (X.core w.core).sbuf = rest ++ [new] ∧
       ∀ a, (∀ x ∈ d.mirrored b.bytes, x.1 ≠ a) → X.byte a = Y.byte a)) ∧
  (∀ (s : State) (core : Nat) (b : StoreEntry) (rest : List StoreEntry), core < 128 → AllOn s.dev →
     (s.dev.core core).sbuf = b :: rest →
     let here := (linesOf b.bytes).all (fun n => s.dev.lineReady core n true .data)
     (here = false → Answers (exec (.storeBufferWrite core) s) s (s.dev.askLines core (linesOf b.bytes) true .data)) ∧
     (here = true → ∃ X : Dev, Answers (exec (.storeBufferWrite core) s) s X ∧ X.mem = s.dev.mem.putAll (s.dev.mirrored b.bytes) ∧
       (∀ a, (∀ x ∈ s.dev.mirrored b.bytes, x.1 ≠ a) → X.byte a = s.dev.byte a) ∧ (X.core core).sbuf = rest ∧
       (∀ k, k ≠ core → (X.core k).sbuf = (s.dev.core k).sbuf) ∧ ∀ j p, (X.ctx j).getP p = (s.dev.ctx j).getP p))

/-- R144, R148, R149: LLK loads an aligned item and reserves its line; STC stores it when the reservation on the line still stands, once
what other cores have buffered for the line is written (`D0`), and sets Z; otherwise it stores nothing and clears Z. Either way the
reservation is gone. R144, R145: AADD, AAND, AOR, AXOR and XCHG return the old item in RD and write its new value, after what other
cores have buffered for its line, and after the core's own stores under the lock prefix or where one covers only part of the item; with
the lock prefix the write is visible at once, without it it waits in the store buffer. A misaligned LLK, STC or read-modify-write
raises A before translation (R144), and one that translates to a PA outside DRAM raises A after it; the syndrome tells a read from a
write. -/
def Obligations.AtomicsComplete : Prop :=
  (∀ (s : State) (core : Nat) (f : Form) (e : Env) (d1 : Dev) (ps : List Piece),
    s.dev.enter core .prim 0x24 f none (Form.eaSrc f) false anyLevel = .ok e →
    let n := f.width.bytes
    let va := e.x.ea f e.next
    let p := d1.loadDram core ps false
    va.toNat % n = 0 → e.d.access e.w va n .link .atomic .data = .ok d1 ps →
    ∃ X : Dev, Answers (exec (.llk core f) s) s (X.afterIssue core (X.dataHit core e.x [(va, n, .read)])) ∧
      (let y := { (p.1.ctx e.cx).wr f.rdn (BitVec.ofNat 64 p.2) with resv := some ((ps.headD (0, 0)).1 / 64) }
       WritesOnly p.1 e.cx (y.past e.next) X)) ∧
  (∀ (s : State) (core : Nat) (f : Form) (e : Env) (d1 : Dev) (ps : List Piece),
    s.dev.enter core .prim 0x25 f none (f.rdn :: Form.eaSrc f) false anyLevel = .ok e →
    let n := f.width.bytes
    let va := e.x.ea f e.next
    let line := (ps.headD (0, 0)).1 / 64
    let bs := leBytes n (e.x.get f.rdn).toNat
    let D0 := d1.yieldStores core [line]
    va.toNat % n = 0 → e.d.access e.w va n .write .atomic .data = .ok d1 ps →
    (d1.bufferers core [line] = [] → D0 = d1) ∧
    ((D0.ctx e.cx).resv = some line → e.undoFits D0 ps bs = true →
      let D := D0.bufStore e.w ps bs false (some e.cx)
      ∃ X : Dev, Answers (exec (.stc core f) s) s (X.afterIssue core (X.dataHit core e.x [(va, n, .write)])) ∧
        (let y := { (D.ctx e.cx).wrFlags { val := 0, z := some true } with resv := none }
         WritesOnly D e.cx (y.past e.next) X)) ∧
    ((D0.ctx e.cx).resv ≠ some line →
      let D := D0.touchOwn core line false
      ∃ X : Dev, Answers (exec (.stc core f) s) s (X.afterIssue core none) ∧
        (let y := { (D.ctx e.cx).wrFlags { val := 0, z := some false } with resv := none }
         WritesOnly D e.cx (y.past e.next) X) ∧
        (AllOn d1 → ∀ a, X.byte a = D0.byte a))) ∧
  (∀ r ∈ ([(.aadd, 0x28, fun w t r => (t + r) % 2 ^ w), (.aand, 0x29, fun _ t r => t &&& r), (.aor, 0x2A, fun _ t r => t ||| r),
       (.axor, 0x2B, fun _ t r => t ^^^ r), (.xchg, 0x2C, fun _ _ r => r)] :
       List ((Nat → Form → Instr) × Nat × (Nat → Nat → Nat → Nat))),
     ∀ (s : State) (core : Nat) (f : Form) (e : Env) (d1 : Dev) (ps : List Piece),
       s.dev.enter core .prim r.2.1 f none (f.rdn :: Form.eaSrc f) false anyLevel = .ok e →
       let n := f.width.bytes
       let va := e.x.ea f e.next
       let Y := d1.yieldStores core (dramLines ps)
       let Z := if f.lock = true ∨ Y.partialHit core ps = true then Y.drain core else Y
       let old := leNat (Z.seenBytes core ps)
       let bs := leBytes n (r.2.2 f.width.bits old (f.width.cut (e.x.get f.rdn)))
       va.toNat % n = 0 → e.d.access e.w va n .rmw .atomic .data = .ok d1 ps → e.undoFits d1 ps (List.replicate n 0) = true →
       (f.lock = true → d1.drainReady core = true) →
       let D := if f.lock then Z.storeNow e.w ps bs f.hint (some e.cx) else Z.bufStore e.w ps bs f.hint (some e.cx)
       ∃ X : Dev, Answers (exec (r.1 core f) s) s (X.afterIssue core (X.dataHit core e.x [(va, n, .rmw)])) ∧
         WritesOnly D e.cx (((D.ctx e.cx).wr f.rdn (BitVec.ofNat 64 old)).past e.next) X) ∧
  (∀ r ∈ ([(.llk, 0x24, .link), (.stc, 0x25, .write), (.aadd, 0x28, .rmw), (.aand, 0x29, .rmw), (.aor, 0x2A, .rmw), (.axor, 0x2B, .rmw),
       (.xchg, 0x2C, .rmw)] : List ((Nat → Form → Instr) × Nat × AccKind)),
     ∀ (s : State) (core : Nat) (f : Form) (e : Env),
       s.dev.enter core .prim r.2.1 f none (if r.2.1 = 0x24 then Form.eaSrc f else f.rdn :: Form.eaSrc f) false anyLevel = .ok e →
       let n := f.width.bytes
       let va := e.x.ea f e.next
       let wr := decide (r.2.1 ≠ 0x24)
       (va.toNat % n ≠ 0 → Answers (exec (r.1 core f) s) s (e.d.raiseExc core { cls := 3, kind := 0, wr := wr, va := va })) ∧
       (∀ D pa level, va.toNat % n = 0 → va.toNat % 4096 + n ≤ 4096 → e.d.walkWaits e.w va r.2.2 = false →
         e.d.heldSpan e.slot (e.d.pasOf e.w va n r.2.2) = false → e.d.translate e.w va r.2.2 = .ok (D, pa, level) → paKind pa ≠ .dram →
         let x : Exc := { cls := 3, kind := 1, wr := wr, va := va, start := some va }
         Answers (exec (r.1 core f) s) s ((e.d.faultWalk core x).raiseExc core x)))

/-- R146, R147: PFH and STIM complete whatever their operands. A hint is dropped without a trace where its walk would wait or faults, where it
does not reach DRAM or reaches the span of a watermark move, or where no miss register is free; otherwise it acts on its line, or its
request leaves; acting on a line it changes, with every domain On, no register and no byte of memory. STIM writes a packet only where its port and world are enabled. -/
def Obligations.HintsAndStimulusComplete : Prop :=
  (∀ (s : State) (core : Nat) (f : Form) (e : Env),
    s.dev.enter core .prim 0x26 f none (Form.eaSrc f) false anyLevel = .ok e →
    let va := e.x.ea f e.next
    let chk := e.d.checkAccess e.w va 1 .read .any
    (e.d.walkWaits e.w va .read = true ∨ (∃ x, chk = .error x) ∨
        (∃ d1 pa m, chk = .ok (d1, [(pa, m)]) ∧
          (paKind pa ≠ .dram ∨ d1.heldSpan e.slot [(pa, m)] = true ∨ d1.hint core f.rdn (pa / 64) f.hint = none)) →
      ∃ X : Dev, Answers (exec (.pfh core f) s) s (X.afterIssue core none) ∧ WritesOnly e.d e.cx (e.x.past e.next) X) ∧
    (∀ d1 pa m D, e.d.walkWaits e.w va .read = false → chk = .ok (d1, [(pa, m)]) → paKind pa = .dram →
      d1.heldSpan e.slot [(pa, m)] = false → d1.hint core f.rdn (pa / 64) f.hint = some D →
      ∃ X : Dev, Answers (exec (.pfh core f) s) s (X.afterIssue core none) ∧ WritesOnly D e.cx ((D.ctx e.cx).past e.next) X ∧
        (AllOn d1 → D = d1.hintLine core f.rdn (pa / 64) f.hint → (∀ a, X.byte a = d1.byte a) ∧ ∀ j p, (X.ctx j).getP p = (d1.ctx j).getP p))) ∧
  (∀ (s : State) (core : Nat) (f : Form) (e : Env),
    s.dev.enter core .prim 0x27 f none [f.rsn] false anyLevel = .ok e →
    let port := f.raw % 256
    (e.d.stimOn e.slot port e.x.secure = false →
      ∃ X : Dev, Answers (exec (.stim core f) s) s (X.afterIssue core none) ∧ WritesOnly e.d e.cx (e.x.past e.next) X) ∧
    (e.d.stimOn e.slot port e.x.secure = true →
      let D := e.d.traceCore core e.slot { e.d.tracePkt core e.slot 1 0 (e.x.get f.rsn) with port := port }
      ∃ X : Dev, Answers (exec (.stim core f) s) s (X.afterIssue core none) ∧ WritesOnly D e.cx ((D.ctx e.cx).past e.next) X))

/-! ### Control transfers and traps -/

/-- R150, R151, Table 5.9: Bcc, J, CALL and RET go to their target, or on to the next instruction; CALL writes the return address into H0
of the current window; no other register and no flag changes (`guessed` marks the fetch that follows a right guess, R210). R151, Table
6.2: CALLW in a ring window with room rotates and writes H0 of the new window; RETW returns through H0 and rotates back; where a spill
or fill comes first, the window trap stands in their place, or a double fault at the limit of the spill count; in a trap window they
act as CALL and RET. -/
def Obligations.TransfersComplete : Prop :=
  (∀ (s : State) (core : Nat) (cc : BitVec 4) (f : Form) (e : Env),
    s.dev.enter core .prim (0x30 + cc.toNat) f none [] (cc.toNat != 14) anyLevel = .ok e →
    let pc := if cc.toNat = 14 ∨ e.x.cond cc.toNat = true then e.target else e.next
    ∃ (X : Dev) (y : Ctx), Answers (exec (.bcc core cc f) s) s (X.afterIssue core none) ∧
      WritesOnly (e.guessed e.d pc) e.cx (y.past pc) X ∧
      y = { e.x with btable := y.btable }) ∧
  (∀ (s : State) (core : Nat) (f : Form) (e : Env),
    s.dev.enter core .prim 0x40 f none (Form.xferSrc f) false anyLevel = .ok e →
    ∃ (X : Dev) (y : Ctx), Answers (exec (.j core f) s) s (X.afterIssue core none) ∧
      WritesOnly (e.guessed e.d e.target) e.cx (y.past e.target) X ∧
      y = { e.x with btable := y.btable }) ∧
  (∀ (s : State) (core : Nat) (f : Form) (e : Env),
    s.dev.enter core .prim 0x41 f none (Form.xferSrc f) false anyLevel = .ok e →
    ∃ (X : Dev) (y : Ctx), Answers (exec (.call core f) s) s (X.afterIssue core none) ∧
      WritesOnly (e.guessed e.d e.target) e.cx (y.past e.target) X ∧
      y = { e.x.wr (rH 0) e.next with btable := y.btable, rstack := y.rstack }) ∧
  (∀ (s : State) (core : Nat) (e : Env),
    s.dev.enter core .prim 0x43 {} none [rH 0] false anyLevel = .ok e →
    ∃ (X : Dev) (y : Ctx), Answers (exec (.ret core) s) s (X.afterIssue core none) ∧
      WritesOnly (e.guessed e.d (e.x.get (rH 0))) e.cx (y.past (e.x.get (rH 0))) X ∧
      y = { e.x with btable := y.btable, rstack := y.rstack }) ∧
  (∀ (s : State) (core : Nat) (m : OpMap) (op : Nat) (f : Form) (room : Option Nat) (srcs : List Nat) (flags : Bool)
    (priv : Ctx → Bool) (e : Env), s.dev.enter core m op f room srcs flags priv = .ok e →
    e.target = (if f.am = 6 then e.next + f.imm else e.x.get f.rsn + f.imm)) ∧
  (∀ (s : State) (core : Nat) (f : Form) (e : Env),
    s.dev.enter core .prim 0x42 f none (Form.xferSrc f) false anyLevel = .ok e →
    (e.x.tw = false → e.x.rd ≠ 15 →
      ∃ (X : Dev) (y : Ctx), Answers (exec (.callw core f) s) s (X.afterIssue core none) ∧
        WritesOnly (e.guessed e.d e.target) e.cx (y.past e.target) X ∧
        y = { e.x.rotate.wr (rH 0) e.next with btable := y.btable, rstack := y.rstack }) ∧
    (e.x.tw = false → e.x.rd = 15 → e.x.sc e.x.secure ≠ 0xFFFFF →
      Answers (exec (.callw core f) s) s ((e.d.windowTrap core ((e.x.cwp + 1) % 16) 0 false).afterIssue core none)) ∧
    (e.x.tw = false → e.x.rd = 15 → e.x.sc e.x.secure = 0xFFFFF →
      Answers (exec (.callw core f) s) s ((e.d.doubleFault core 9 0 ((e.x.cwp + 1) % 16) 0).afterIssue core none)) ∧
    (e.x.tw = true →
      ∃ (X : Dev) (y : Ctx), Answers (exec (.callw core f) s) s (X.afterIssue core none) ∧
        WritesOnly (e.guessed e.d e.target) e.cx (y.past e.target) X ∧
        y = { e.x.wr (rH 0) e.next with btable := y.btable, rstack := y.rstack })) ∧
  (∀ (s : State) (core : Nat) (e : Env),
    s.dev.enter core .prim 0x44 {} none [rH 0] false anyLevel = .ok e →
    (e.x.tw = false → (2 ≤ e.x.rd ∨ e.x.sc e.x.secure = 0) →
      ∃ (X : Dev) (y : Ctx), Answers (exec (.retw core) s) s (X.afterIssue core none) ∧
        WritesOnly (e.guessed e.d (e.x.get (rH 0))) e.cx (y.rotateBack.past (e.x.get (rH 0))) X ∧
        y = { e.x with btable := y.btable, rstack := y.rstack }) ∧
    (e.x.tw = false → e.x.rd ≤ 1 → 0 < e.x.sc e.x.secure →
      Answers (exec (.retw core) s) s ((e.d.windowTrap core e.x.fillBlock 1 true).afterIssue core none)) ∧
    (e.x.tw = true →
      ∃ (X : Dev) (y : Ctx), Answers (exec (.retw core) s) s (X.afterIssue core none) ∧
        WritesOnly (e.guessed e.d (e.x.get (rH 0))) e.cx (y.past (e.x.get (rH 0))) X ∧
        y = { e.x with btable := y.btable, rstack := y.rstack }))

/-- R380: a ring trap that needs no spill rotates, saves the return PC and the old PSW in H6 and H7, the syndrome and the faulting VA in H5
and H4 of the new window, takes level and world from Table 17.2, clears TW and BLK, sets IPL only for an interrupt, leaves IE and the
flags, those of operations still running written first (R194), and goes to the vector, which no watermark move holds (R247). R173: a
window trap enters the trap window of its world: H4 takes the spill pointer, H5 the status of Table 6.3, H6 the PC and H7 the PSW of
the trapping code, with the flags of operations still running (R194); TW is 1, IE and BLK are 0; CWP, IPL and flags stay; the PC goes
to the spill or fill vector. -/
def Obligations.TrapEntry : Prop :=
  (∀ (d : Dev) (core : Nat) (ent : Entry) (syn va ret : Word),
     let cx := d.curCtx core
     let D := d.settleFlags core
     let x := D.ctx cx
     let X := D.enterTrap core (x.rotate.ringEntry ent syn va ret x.psw64)
     let z := X.ctx cx
     x.tw = false → x.rd ≤ 14 → ent.pl < 4 → ent.ipl.getD 0 < 64 → D.vectorHeld core (x.rotate.ringEntry ent 0 0 0 0) = false →
     X.fetchCheck core 1 = none →
     d.ringTrap core ent syn va ret = .taken X ∧
     z.get (rH 4) = va ∧ z.get (rH 5) = syn ∧ z.get (rH 6) = ret ∧ z.get (rH 7) = x.psw64 ∧
     z.pc = vecBase ent.base + BitVec.ofNat 64 ent.vec ∧ z.pl = ent.pl ∧ z.secure = ent.secure ∧ z.tw = false ∧ z.blk = 0 ∧
     z.cwp = (x.cwp + 1) % 16 ∧ z.rd = x.rd + 1 ∧ z.ie = x.ie ∧ z.n = x.n ∧ z.z = x.z ∧ z.c = x.c ∧ z.v = x.v ∧
     z.ipl = ent.ipl.getD x.ipl ∧ z.resv = none ∧
     (∀ p, p ∉ [4, 5, 6, 7].map (fun k => x.rotate.phys (rH k)) → z.getP p = x.getP p) ∧
     ∀ j, j ≠ cx → X.ctx j = d.ctx j) ∧
  (∀ (d : Dev) (core block origin : Nat) (fill : Bool),
     let cx := d.curCtx core
     let x := (d.settleFlags core).ctx cx
     let X := d.windowTrap core block origin fill
     let z := X.ctx cx
     z.get (rH 4) = x.wsp x.secure ∧
     z.get (rH 5) = trapStatus block x.rd (x.sc x.secure) (if fill then 2 else 1) origin 0 ∧
     z.get (rH 6) = x.pc ∧ z.get (rH 7) = x.psw64 ∧ z.tw = true ∧ z.pl = (if x.secure then 2 else 1) ∧ z.secure = x.secure ∧
     z.ie = false ∧ z.blk = 0 ∧ z.cwp = x.cwp ∧ z.ipl = x.ipl ∧ z.n = x.n ∧ z.z = x.z ∧ z.c = x.c ∧ z.v = x.v ∧
     z.pc = vecBase (if x.secure then x.kvbase else x.vbase) + (if fill then 0x280 else 0x240) ∧
     (if x.secure then z.rec2 else z.rec1) = .windowTrap ∧ z.resv = none)

/-- R153, R176, R380: SYSCALL in a ring window with room enters the service vector of its level, H6 taking the next address; in a trap
window it is a double fault. R153, R175: an ERET that neither chains nor needs a fill returns to H6 with the context of `eretTo`: in a
ring window it rotates back. R105, R153, R175: what ERET takes from H7: flags, IE and IPL as they stand there, BLK at most 32, a level
no higher than the current one, the saved world only at PL2; in a ring window it rotates back, in a trap window the trap window is
left. -/
def Obligations.SyscallAndEret : Prop :=
  (∀ (s : State) (core : Nat) (f : Form) (e : Env),
     s.dev.enter core .prim 0x45 f none [] true anyLevel = .ok e → e.d.curCtx core = e.cx →
     let D := (e.d.setCtx e.cx (e.x.setPsw 21 16 0)).settleFlags core
     let x := D.ctx e.cx
     let X := D.enterTrap core (x.rotate.ringEntry (e.x.excEntry 0x1C0) (syndrome { cls := 8, number := f.raw } e.x.pl 0) 0 e.next
       x.psw64)
     (e.x.tw = false → e.x.rd ≤ 14 → D.vectorHeld core (x.rotate.ringEntry (e.x.excEntry 0x1C0) 0 0 0 0) = false →
       X.fetchCheck core 1 = none →
       Answers (exec (.syscall core f) s) s (X.afterIssue core none)) ∧
     (e.x.tw = true → Answers (exec (.syscall core f) s) s ((e.d.doubleFault core 8 0 0 0).afterIssue core none))) ∧
  (∀ (s : State) (core : Nat) (e : Env),
     s.dev.enter core .prim 0x46 {} none [rH 4, rH 5, rH 6, rH 7] true notUser = .ok e → e.chains = none →
     (e.x.tw = true ∨ 2 ≤ e.x.rd ∨ e.x.sc e.x.secure = 0 →
       ∃ X : Dev, Answers (exec (.eret core) s) s (X.afterIssue core none) ∧
         WritesOnly e.d e.cx { e.x.eretTo with pc := e.x.get (rH 6) } X) ∧
     (e.x.tw = false → e.x.rd ≤ 1 → 0 < e.x.sc e.x.secure →
       Answers (exec (.eret core) s) s ((e.d.windowTrap core e.x.fillBlock 2 true).afterIssue core none))) ∧
  (∀ x : Ctx, x.pl = 1 ∨ x.pl = 2 →
     let h7 := (x.get (rH 7)).toNat
     let y := x.eretTo
     y.n = h7.testBit 3 ∧ y.z = h7.testBit 2 ∧ y.c = h7.testBit 1 ∧ y.v = h7.testBit 0 ∧ y.ie = h7.testBit 7 ∧
     y.ipl = h7 / 2 ^ 24 % 64 ∧ y.blk = min 32 (h7 / 2 ^ 16 % 64) ∧
     y.secure = (if x.pl = 2 then h7.testBit 6 else x.secure) ∧
     y.pl = min (h7 / 16 % 4) (if x.pl = 2 ∧ h7.testBit 6 = false then 1 else x.pl) ∧
     (x.tw = false → y.cwp = (x.cwp + 15) % 16 ∧ y.rd = x.rd - 1 ∧ y.tw = false) ∧
     (x.tw = true → y.cwp = x.cwp ∧ (x.pl = 1 → y.tw = false ∧ y.rec1 = .none) ∧ (x.pl = 2 → y.rec2 = .none)) ∧
     (∀ p, y.getP p = x.getP p) ∧ y.resv = none)

/-! ### Block transfers and system instructions -/

/-- R157, R158: the registers of a block transfer are those of the mask, ascending, in slots of 8 bytes from the base; LDM transfers its
base register last, in the slot of its position. -/
def Obligations.BlockTransferOrder : Prop :=
  (∀ (mask : Nat) (base : Word) (r : Nat) (va : Word), (r, va) ∈ blockElems mask base →
    r < 32 ∧ mask.testBit r = true ∧ va = base + BitVec.ofNat 64 (8 * ((List.range r).filter (fun k => mask.testBit k)).length)) ∧
  (∀ (mask : Nat) (base : Word) (r : Nat), r < 32 → mask.testBit r = true → ∃ va, (r, va) ∈ blockElems mask base) ∧
  (∀ (mask : Nat) (base : Word), ((blockElems mask base).map Prod.fst).Pairwise (· < ·)) ∧
  (∀ (mask : Nat) (base : Word) (rs : Nat), (ldmElems mask base rs).Perm (blockElems mask base) ∧
    ((ldmElems mask base rs).map Prod.fst).Pairwise (fun a b => (a < b ∨ b = rs) ∧ a ≠ rs))

/-- R157 to R159, R183: from element BLK on, an STM stores its elements and an LDM loads them into their registers, one after the other
(`ds`: the device before each element); where an interrupt, a boundary or a halt meets an element it stops there, with BLK one higher
and the PC at the instruction, and a matched comparator halts it there; after its last element it goes on at the next instruction with
BLK 0. With no element left it changes nothing else. An LDM whose element lies in PCIe memory behind a link that is up waits for its
completion. R160, R174: SPILLW stores the sixteen registers of the block, once nothing is owed to them, to an aligned run of 128 bytes;
FILLW loads them, waiting for what lies in PCIe memory behind a link that is up and for a read of PCIE_CFGD; in a window trap of their
kind they move RD and SC of H5 by one, once H5 is there (`E`). -/
def Obligations.BlockTransfersComplete : Prop :=
  (∀ (s : State) (core : Nat) (f : Form) (brk : Option Nat) (e : Env),
    s.dev.enter core .prim 0x50 f none (f.rsn :: bitsOf f.raw 32) false anyLevel = .ok e →
    let base := e.x.get f.rsn
    let k := e.x.blk
    let l := blockElems f.raw base
    let ends := fun (X : Dev) => Answers (exec (.stm core f brk) s) s X
    (l.length ≤ k →
      ∃ X : Dev, Answers (exec (.stm core f brk) s) s (X.afterIssue core none) ∧ WritesOnly e.d e.cx (e.x.past e.next) X) ∧
    (∀ (ds : Nat → Dev) (j r : Nat) (va : Word), base.toNat % 8 = 0 → k ≤ j → l[j]? = some (r, va) → ds k = e.d →
      (∀ i q a, k ≤ i → i ≤ j → l[i]? = some (q, a) → StoresElem e i q a (ds i) (ds (i + 1))) →
      (∀ i q a, k ≤ i → i < j → l[i]? = some (q, a) → (ds (i + 1)).breaksAt core i brk = false ∧ e.hits a 8 .write = none) →
      let D := ds (j + 1)
      (D.ctx e.cx).blk = j + 1 ∧ (D.ctx e.cx).pc = e.x.pc ∧
      (D.breaksAt core j brk = true → ends D) ∧
      (D.breaksAt core j brk = false → e.hits va 8 .write ≠ none →
        ends (D.afterIssue core (D.dataHit core e.x [(va, 8, .write)]))) ∧
      (D.breaksAt core j brk = false → e.hits va 8 .write = none → l.length = j + 1 →
        ends ((D.modCtx e.cx (fun y => y.past e.next)).afterIssue core none)))) ∧
  (∀ (s : State) (core : Nat) (f : Form) (brk : Option Nat) (e : Env),
    s.dev.enter core .prim 0x51 f none [f.rsn] false anyLevel = .ok e →
    let base := e.x.get f.rsn
    let k := e.x.blk
    let l := ldmElems f.raw base f.rsn
    let ends := fun (X : Dev) => Answers (exec (.ldm core f brk) s) s X
    (l.length ≤ k →
      ∃ X : Dev, Answers (exec (.ldm core f brk) s) s (X.afterIssue core none) ∧ WritesOnly e.d e.cx (e.x.past e.next) X) ∧
    (∀ (ds : Nat → Dev) (j r : Nat) (va : Word), base.toNat % 8 = 0 → k ≤ j → l[j]? = some (r, va) → ds k = e.d →
      (∀ i q a, k ≤ i → i < j → l[i]? = some (q, a) →
        LoadsElem e i q a (ds i) (ds (i + 1)) ∧ (ds (i + 1)).breaksAt core i brk = false ∧ e.hits a 8 .read = none) →
      (LoadsElem e j r va (ds j) (ds (j + 1)) →
        let D := ds (j + 1)
        (D.ctx e.cx).blk = j + 1 ∧ (D.ctx e.cx).pc = e.x.pc ∧
        (D.breaksAt core j brk = true → ends D) ∧
        (D.breaksAt core j brk = false → e.hits va 8 .read ≠ none →
          ends (D.afterIssue core (D.dataHit core e.x [(va, 8, .read)]))) ∧
        (D.breaksAt core j brk = false → e.hits va 8 .read = none → l.length = j + 1 →
          ends ((D.modCtx e.cx (fun y => y.past e.next)).afterIssue core none))) ∧
      (∀ d1 pa m t, (ds j).access e.w va 8 .read .item .data = .ok d1 ((pa, m) :: t) → paKind pa = .pcie →
        (d1.wake 100).portUp ((d1.wake 100).portAt pa) = true →
        ∃ X : Dev, ends X ∧ ∃ w, (X.core core).wait = some w ∧ w.pa = pa ∧ w.len = 8 ∧ w.dst = e.x.phys r ∧
          w.next = (if l.length = j + 1 then e.next else e.x.pc) ∧ w.blk = (if l.length = j + 1 then 0 else j + 1)))) ∧
  (∀ (s : State) (core : Nat) (f : Form) (e E : Env) (d1 d2 : Dev) (ps : List Piece),
    s.dev.enter core .prim 0x52 f none (Form.eaSrc f) false notUser = .ok e → e.blockSrc = some E →
    let va := E.x.ea f e.next
    let b := E.x.movedBlock
    let d3 := d1.modCtx e.cx Ctx.finishAll
    let ws := (d3.ctx e.cx).blockWords b
    va.toNat % 64 = 0 → E.d.tagWait core e.slot e.cx (blockRegs b) = some d1 →
    d3.access E.w va 128 .write .any .data = .ok d2 ps → E.undoFits d2 ps (wordsBytes ws) = true →
    let d4 := d2.modCtx e.cx (fun y => (y.countBlock false).past e.next)
    let X := each ((List.range 16).zip ws) (fun d p => E.storeAt d [(paAt ps (8 * p.1), 8)] (leBytes 8 p.2.toNat) false none) d4
    Answers (exec (.spillw core f) s) s (X.afterIssue core (X.dataHit core e.x [(va, 128, .write)]))) ∧
  (∀ (s : State) (core : Nat) (f : Form) (e E : Env) (d1 : Dev) (ps : List Piece),
    s.dev.enter core .prim 0x53 f none (Form.eaSrc f) false notUser = .ok e → e.blockSrc = some E →
    let va := E.x.ea f e.next
    let b := E.x.movedBlock
    va.toNat % 64 = 0 → E.d.access E.w va 128 .read .any .data = .ok d1 ps →
    let d2 := (d1.modCtx e.cx (fun y => (blockRegs b).foldl Ctx.cancelReg y)).tagCancel e.slot e.cx (blockRegs b)
    let p := E.fillItems (itemsOf ps 0) d2
    ((∀ q ∈ p.2, q.owed = 0) →
      let X := (p.1.modCtx e.cx (fun y => y.loadParts b p.2 [])).modCtx e.cx (fun y => (y.countBlock true).past e.next)
      Answers (exec (.fillw core f) s) s (X.afterIssue core (X.dataHit core e.x [(va, 128, .read)]))) ∧
    ((∃ q ∈ p.2, q.owed ≠ 0) → ∃ X : Dev, Answers (exec (.fillw core f) s) s X ∧ ∃ w, (X.core core).wait = some w ∧ w.next = e.next ∧
      w.block = some { block := b, ret := false, parts := p.2 })) ∧
  (∀ e : Env, (e.x.tw = false → e.blockSrc = some e) ∧
    (e.x.tw = true → ∀ d, e.d.tagWait e.core e.slot e.cx [e.x.phys (rH 5)] = some d →
      ∃ E, e.blockSrc = some E ∧ E.x = (d.ctx e.cx).settle [rH 5] false ∧ E.d = d.setCtx e.cx E.x)) ∧
  (∀ (x : Ctx) (fill : Bool), x.inWindowTrap = true → (x.get (rH 5)).toNat / 2 ^ 28 % 4 = (if fill then 2 else 1) →
    let h5 := (x.get (rH 5)).toNat
    let n := ((x.countBlock fill).get (rH 5)).toNat
    n / 16 % 16 = (h5 / 16 % 16 + (if fill then 1 else 15)) % 16 ∧
    n / 256 % 2 ^ 20 = (h5 / 256 % 2 ^ 20 + (if fill then 2 ^ 20 - 1 else 1)) % 2 ^ 20 ∧
    n % 16 = h5 % 16 ∧ n / 2 ^ 28 = h5 / 2 ^ 28)

/-- R161, R181, R286: CTXSW saves where the context goes on, drops its reservation, writes the buffered stores, and makes the bank it names
current; until the buffered stores have their lines it waits. From the normal world a bank that runs secure raises P. R162, R165, R167,
R211, R212: FENCE and IFENCE write every buffered store, once all have their lines; BPFLUSH empties the predictor of its context, BPBAR
turns its use off and on; IDLE stops issue with the PC at the IDLE; TWAIT goes on when nothing is in flight; NOP does nothing. R165:
the wait of an IDLE ends when a source is pending that IE = 1 and TW = 0 would make deliverable: the core runs again and its PC goes
past the IDLE; a source that is deliverable as things stand is taken there; without such a source the core stays idle. A boundary that
has fallen comes first (R391). -/
def Obligations.SystemInstructionsComplete : Prop :=
  (∀ (s : State) (core : Nat) (f : Form) (e : Env),
     s.dev.enter core .prim 0x54 f (s.dev.bankCause core f) [] false notUser = .ok e →
     let into := core * 4 + f.raw % 4
     let D := ((e.d.setCtx e.cx { e.x.setPsw 21 16 0 with pc := e.next, resv := none }).drain core).modCore core
       (fun c => { c with cur := f.raw % 4 })
     (e.x.secure = true ∨ (e.d.ctx into).secure = false →
       (e.d.drainReady core = true → Answers (exec (.ctxsw core f) s) s (D.afterIssue core none) ∧ D.curCtx core = into) ∧
       (e.d.drainReady core = false → Answers (exec (.ctxsw core f) s) s (e.d.askDrain core))) ∧
     (e.x.secure = false → (e.d.ctx into).secure = true →
       Answers (exec (.ctxsw core f) s) s (e.d.raiseExc core { cls := 2 }))) ∧
  (∀ r ∈ ([(.fence, 0x58), (.ifence, 0x59)] : List ((Nat → Instr) × Nat)), ∀ (s : State) (core : Nat) (e : Env),
    s.dev.enter core .prim r.2 {} none [] false anyLevel = .ok e →
    let D := e.d.drain core
    (e.d.drainReady core = false → Answers (exec (r.1 core) s) s (e.d.askDrain core)) ∧
    (e.d.drainReady core = true →
      ∃ X : Dev, Answers (exec (r.1 core) s) s (X.afterIssue core none) ∧ WritesOnly D e.cx ((D.ctx e.cx).past e.next) X ∧
        (AllOn e.d → (D.core core).sbuf = [] ∧
          D.mem = (e.d.core core).sbuf.foldl (fun m b => m.putAll (e.d.mirrored b.bytes)) e.d.mem))) ∧
  (∀ (s : State) (core : Nat) (e : Env), s.dev.enter core .prim 0x5A {} none [] false anyLevel = .ok e →
    ∃ X y, Answers (exec (.bpflush core) s) s (X.afterIssue core none) ∧
      (e.x.keeper = false → WritesOnly e.d e.cx (Ctx.past y e.next) X ∧ y = { e.x with btable := [], rstack := .empty }) ∧
      (e.x.keeper = true → WritesOnly (e.d.draw).2 e.cx (Ctx.past y e.next) X ∧
        y = { e.x with btable := [], rstack := .empty, secret := (e.d.draw).1 })) ∧
  (∀ (s : State) (core : Nat) (e : Env), s.dev.enter core .prim 0x5B {} none [] false anyLevel = .ok e →
    ∃ X : Dev, Answers (exec (.bpbar core) s) s (X.afterIssue core none) ∧
      WritesOnly e.d e.cx (Ctx.past { e.x with bar := !e.x.bar } e.next) X) ∧
  (∀ (s : State) (core : Nat) (e : Env), s.dev.enter core .prim 0x5E {} none [] false notUser = .ok e →
    ∃ X : Dev, Answers (exec (.idle core) s) s X ∧ (∀ j, X.ctx j = e.d.ctx j) ∧ X.mem = e.d.mem ∧
      ∀ k, X.core k = if k ∈ e.d.haltSet core then { e.d.core k with run := .idle } else e.d.core k) ∧
  (∀ (s : State) (core : Nat) (e : Env), s.dev.enter core .escF0 4 {} none [] false anyLevel = .ok e →
    let D := e.d.trDrain (core / 4) e.slot (fun t => t.ctx == e.cx)
    D.trPending e.cx (fun _ => true) = false → (D.room e.slot).fwd.out.any (fun c => c.ctx == e.cx && c.tagOn) = false →
    ∃ X : Dev, Answers (exec (.twait core) s) s (X.afterIssue core none) ∧ WritesOnly D e.cx ((D.ctx e.cx).past e.next) X) ∧
  (∀ (s : State) (core : Nat) (e : Env), s.dev.enter core .prim 0x5F {} none [] false anyLevel = .ok e →
    ∃ X : Dev, Answers (exec (.nop core) s) s (X.afterIssue core none) ∧ WritesOnly e.d e.cx (e.x.past e.next) X) ∧
  (∀ (s : State) (core slot : Nat), s.dev.coreSlot core = some slot →
     (s.dev.nextIrq core true = none → Answers (exec (.idleEnd core) s) s s.dev) ∧
     (s.dev.nextIrq core true ≠ none → (s.dev.room slot).phase = .running → (s.dev.core core).run = .idle →
       (s.dev.core core).stepping = none → (s.dev.core core).halted = none → s.dev.leads core = true → s.dev.boundaryDue slot = false →
       let d := each (s.dev.haltSet core) (fun d c => d.modCore c (fun k => { k with run := .running })) (s.dev.wake (core / 4))
       let D := d.modCtx (d.curCtx core) (fun y => y.past (y.pc + 1))
       (D.nextIrq core false = none → Answers (exec (.idleEnd core) s) s (D.afterIssue core none)) ∧
       (∀ i, D.nextIrq core false = some i →
         Answers (exec (.idleEnd core) s) s ((D.takeIrq core i (D.ctx (D.curCtx core)).pc).ends core))))

/-- R107, R109, R166, Table 4.4, Table 4.5: RDCR reads the register named into RD and WRCR writes it; what is written to a register that
software may write reads back with its reserved bits zero; RDBK and WRBK reach the banked bank registers of their world. R240 to R243:
SWCALL stores the windows between the oldest held one and the current one to the spill area, once nothing is owed to them, and enters
the keeper at SENTRY in secure PL2; without a spill area a spill trap stands in its place, past the limit of the spill count a double
fault. SWRET cancels its context's tagged work, scrubs every register, loads the windows back, waiting for those in PCIe memory behind
a link that is up, and returns to H6 in the normal world once all of them are there. -/
def Obligations.ControlRegistersAndWorlds : Prop :=
  (∀ (s : State) (core : Nat) (f : Form) (e : Env),
    s.dev.enter core .escF0 0 f none [] (f.raw == 0) (fun x => decide (crLevel f.raw ≤ x.pl)) = .ok e →
    ∃ X : Dev, Answers (exec (.rdcr core f) s) s (X.afterIssue core none) ∧
      WritesOnly e.d e.cx ((e.x.wr f.rdn (e.d.crRead e.slot e.cx f.raw)).past e.next) X) ∧
  (∀ (s : State) (core : Nat) (f : Form) (e : Env),
    s.dev.enter core .escF0 1 f none [f.rsn] false (fun x => decide (crLevel f.raw ≤ x.pl)) = .ok e →
    let y := e.x.crWrite f.raw (e.x.get f.rsn)
    ∃ X : Dev, Answers (exec (.wrcr core f) s) s (X.afterIssue core none) ∧
      WritesOnly e.d e.cx (if f.raw = 0 then { y with pc := e.next } else y.past e.next) X) ∧
  (∀ (s : State) (core : Nat) (f : Form) (e : Env), s.dev.enter core .escF0 2 f none [] false anyLevel = .ok e →
    ∃ X : Dev, Answers (exec (.rdbk core f) s) s (X.afterIssue core none) ∧
      WritesOnly e.d e.cx ((e.x.wr f.rdn (e.x.bk f.raw)).past e.next) X) ∧
  (∀ (s : State) (core : Nat) (f : Form) (e : Env), s.dev.enter core .escF0 3 f none [f.rsn] false anyLevel = .ok e →
    ∃ X : Dev, Answers (exec (.wrbk core f) s) s (X.afterIssue core none) ∧
      WritesOnly e.d e.cx ((e.x.setBk f.raw (e.x.get f.rsn)).past e.next) X) ∧
  (∀ (d : Dev) (slot cx : Nat) (v : Word),
    let after := fun n => (d.setCtx cx ((d.ctx cx).crWrite n v)).crRead slot cx n
    after 0x08 = (BitVec.signExtend 64 (BitVec.truncate 48 v)) &&& 0xFFFFFFFFFFFFF000 ∧ after 0x09 = v &&& 0x000FFFFFFFFFF001 ∧
    after 0x0A = v &&& 0xFFFF ∧ after 0x10 = (BitVec.signExtend 64 (BitVec.truncate 48 v)) &&& 0xFFFFFFFFFFFFF000 ∧
    after 0x11 = v &&& 0x0000FFFFFFFFFFFF ∧ after 0x01 = d.crRead slot cx 0x01 ∧ after 0x02 = d.crRead slot cx 0x02) ∧
  (∀ (s : State) (core : Nat) (e : Env),
    s.dev.enter core .prim 0x5C {} none [] true mayCall = .ok e →
    (e.x.wspN = 0 → Answers (exec (.swcall core) s) s ((e.d.windowTrap core (e.x.callBlock e.x.wspN) 3 false).afterIssue core none)) ∧
    (∀ (d0 d1 : Dev) (ps : List Piece), e.x.wspN ≠ 0 → e.d.tagWait core e.slot e.cx (e.x.callBlocks.flatMap blockRegs) = some d0 →
      (d0.modCtx e.cx Ctx.finishAll).access e.w e.x.wspN (128 * (e.x.rd + 1)) .write .any .data = .ok d1 ps →
      let bs := wordsBytes (e.x.callBlocks.flatMap (d1.ctx e.cx).blockWords)
      (0xFFFFF < e.x.scN + e.x.rd + 1 →
        Answers (exec (.swcall core) s) s
          (((d0.modCtx e.cx Ctx.finishAll).doubleFault core 9 3 (e.x.callBlock e.x.wspN) 0).afterIssue core none)) ∧
      (e.x.scN + e.x.rd + 1 ≤ 0xFFFFF → e.undoFits d1 ps bs = true → d1.drainReady core = true →
        let D := d1.spillAt e.w ps bs
        ∃ X : Dev, Answers (exec (.swcall core) s) s (X.afterIssue core none) ∧
          WritesOnly D e.cx (((D.ctx e.cx).called e.next).past e.x.sentry) X))) ∧
  (∀ (x : Ctx) (next : Word), x.tw = false →
    let y := x.called next
    y.get (rH 6) = next ∧ y.get (rH 7) = x.psw64 ∧ y.pl = 2 ∧ y.secure = true ∧ y.ie = false ∧ y.tw = false ∧
    y.cwp = x.cwp ∧ y.ncwp = x.cwp ∧ y.nrd = x.rd ∧ y.fill = x.rd + 1 ∧ y.rd = 0 ∧ y.scN = x.scN + x.rd + 1 ∧
    y.wspN = x.wspN + BitVec.ofNat 64 (128 * (x.rd + 1)) ∧ y.resv = none ∧
    ∀ p, p ≠ x.phys (rH 6) → p ≠ x.phys (rH 7) → y.getP p = x.getP p) ∧
  (∀ (s : State) (core : Nat) (e : Env), s.dev.enter core .prim 0x5D {} none [rH 6, rH 7] false mayReturn = .ok e →
    let lands := fun (D : Dev) => ∃ X : Dev, Answers (exec (.swret core) s) s (X.afterIssue core none) ∧
      WritesOnly D e.cx { D.ctx e.cx with pc := e.x.get (rH 6) } X
    e.d.drainReady core = true →
    (e.x.fill = 0 → lands (((e.d.drain core).cancelTags e.slot e.cx).modCtx e.cx Ctx.returned)) ∧
    (∀ (d1 : Dev) (ps : List Piece), e.x.fill ≠ 0 →
      e.d.access { e.w with secure := false, pl := 1 } (e.x.wspN - BitVec.ofNat 64 (128 * e.x.fill)) (128 * e.x.fill) .read .any .data
        = .ok d1 ps →
      let downward := (List.range e.x.fill).reverse.flatMap (fun k => ((itemsOf ps 0).drop (16 * k)).take 16)
      let p := e.fillItems downward ((d1.drain core).cancelTags e.slot e.cx)
      ((∀ q ∈ p.2, q.owed = 0) → lands (p.1.modCtx e.cx (fun y => y.backHome p.2 []))) ∧
      ((∃ q ∈ p.2, q.owed ≠ 0) → ∃ X : Dev, Answers (exec (.swret core) s) s X ∧ ∃ w, (X.core core).wait = some w ∧
        w.next = e.x.get (rH 6) ∧ w.block = some { block := e.x.backBlock, ret := true, parts := p.2 } ∧
        (X.ctx e.cx).secure = (p.1.ctx e.cx).secure ∧ (X.ctx e.cx).fill = (p.1.ctx e.cx).fill))) ∧
  (∀ x : Ctx,
    let h7 := (x.get (rH 7)).toNat
    let y := x.returned
    y.secure = false ∧ y.tw = false ∧ y.pl = min 1 (h7 / 16 % 4) ∧ y.cwp = x.ncwp % 16 ∧ y.rd = x.nrd ∧ y.fill = 0 ∧
    y.ie = h7.testBit 7 ∧ y.n = h7.testBit 3 ∧ y.z = h7.testBit 2 ∧ y.c = h7.testBit 1 ∧ y.v = h7.testBit 0 ∧
    y.ipl = h7 / 2 ^ 24 % 64 ∧ y.scN = x.scN - x.fill ∧ y.wspN = x.wspN - BitVec.ofNat 64 (128 * x.fill) ∧ y.resv = none ∧
    y.rstack = .empty ∧ (∀ p, p ≤ 4 → y.getP p = x.getP p) ∧ (∀ p, 4 < p → y.getP p = 0))

/-! ### Trestle and forwarded operations -/

/-- R308 to R310, R313, R314: a Trestle operation whose operands pass their checks and whose tag is free takes a station behind those of
its cluster; with DR its register is pending, and older pending writes to it are cancelled. An operand whose walk waits or that a
watermark move covers holds it before. -/
def Obligations.TrestleOperationsIssue : Prop :=
  ∀ r ∈ ([(.tmma, .tmma), (.ti1, .ti1), (.ti2, .ti2), (.ti3, .ti3), (.trsum, .trsum), (.trdot, .trdot), (.trmax, .trmax),
      (.trmin, .trmin), (.tband, .tband), (.tld, .tld), (.trestleTst, .tst), (.tget, .tget), (.tput, .tput)] :
      List ((Nat → Form → Instr) × TrOp)),
    ∀ (s : State) (core : Nat) (f : Form) (e : Env) (d1 d2 d3 d4 : Dev) (pa pb pc : Nat),
      s.dev.enter core .trestle r.2.code f none (trSrcs r.2 f) false anyLevel = .ok e →
      let imm := Form.imm32 f
      let o := e.d.trOperands e.w r.2 imm (e.x.get f.rsn) (e.x.get f.rt) (e.x.get f.rdn)
      let p := e.x.phys f.rdn
      ([o.1, o.2.1, o.2.2].filter (e.d.trHolds e.w)).isEmpty = true → (r.2 = .tband → descMem (e.x.get f.rsn) = false ∧ descMem (e.x.get f.rt) = false) →
      e.d.trCheck e.w o.1 = .ok (d1, pa) → d1.trCheck e.w o.2.1 = .ok (d2, pb) → d2.trCheck e.w o.2.2 = .ok (d3, pc) →
      trOverlap o.2.2 o.1 (.ok (d3, pc)) (.ok (d1, pa)) = false → trOverlap o.2.2 o.2.1 (.ok (d3, pc)) (.ok (d2, pb)) = false →
      d3.tagReady core e.slot e.cx (immTag imm) = some d4 →
      let dr := r.2.toReg imm
      let d5 := if dr then (d4.modCtx e.cx (fun x => x.cancelReg p)).tagCancel e.slot e.cx [p] else d4
      let st : Station :=
        { ctx := e.cx, op := r.2, tag := immTag imm, imm := imm, rdVal := e.x.get f.rdn, rsVal := e.x.get f.rsn,
          rtVal := e.x.get f.rt, dst := if dr then some p else none,
          aReg := if dr && decide (24 ≤ f.rdn) then some f.rd else none,
          rotated := false, early := false, rsPa := pa, rsLen := o.1.len, rtPa := pb, rdPa := pc }
      let D := d5.addStation (core / 4) st
      ∃ X : Dev, Answers (exec (r.1 core f) s) s (X.afterIssue core none) ∧ WritesOnly D e.cx ((D.ctx e.cx).past e.next) X ∧
        (X.cluster (core / 4)).trestle.queue.getLast? = some st

/-- R311, R313, R314, R318, R518: the oldest operation of a running room that the wheel serves finishes, its lines there and its undo
entries free: buffered stores go first where it reads memory, and before it writes memory what other cores have buffered for the lines;
its result is in its register, or (KL-01) in the register of that number in the window current now, in a Paired room in both cores, or
in its share of the local store, or in memory; it leaves its station. R311, Table 14.4: TLD and TST move 64-byte blocks unchanged, TGET
and TPUT one word; TRMAX and TRMIN ignore NaNs, answer the default NaN when nothing else is there, and otherwise a value of the list
that no other exceeds. -/
def Obligations.TrestleOperationsFinish : Prop :=
  (∀ (s : State) (c slot : Nat) (st : Station), AllOn s.dev → (s.dev.room slot).phase = .running →
     s.dev.trServes c slot = true → s.dev.trHead c slot = some st →
     ((s.dev.trSources c slot st).isEmpty = false → s.dev.drainReady (coreOf st.ctx) = true) →
     let D := if (s.dev.trSources c slot st).isEmpty then s.dev else s.dev.drain (coreOf st.ctx)
     D.trReady slot c (D.trStore c slot st) = true → D.trLinesReady c slot st (D.trStore c slot st) = true →
     ∃ X : Dev, Answers (exec (.trestleOpComplete c slot) s) s X ∧
       (X.cluster c).trestle.queue = (D.cluster c).trestle.queue.filter (fun q => !st.same q) ∧
       (D.trStore c slot st = none → X.mem = D.mem ∧
         (∀ p, st.target (D.ctx st.ctx) = some p → ∀ j q,
           (X.ctx j).getP q =
             if j ∈ D.trCtxs slot st ∧ q = p ∧ p ≠ 0 then (D.trValues c slot st).getD 0 0 else (D.ctx j).getP q) ∧
         (st.target (D.ctx st.ctx) = none → ∀ j q, (X.ctx j).getP q = (D.ctx j).getP q)) ∧
       (∀ a bs, D.trStore c slot st = some (false, a, bs) → X.mem = D.mem ∧ (∀ j q, (X.ctx j).getP q = (D.ctx j).getP q) ∧
         (∀ i < bs.length, (X.cluster c).trestle.lsGet (D.lsBase c slot + a + i) = bs.getD i 0) ∧
         (∀ o, (o < D.lsBase c slot + a ∨ D.lsBase c slot + a + bs.length ≤ o) →
           (X.cluster c).trestle.lsGet o = (D.cluster c).trestle.lsGet o)) ∧
       (∀ a bs, D.trStore c slot st = some (true, a, bs) →
         (∀ j p, (X.ctx j).getP p = (D.ctx j).getP p) ∧
         let l := (spread a bs).filter (fun q => paKind q.1 == .dram)
         X.mem = (D.yieldStores 128 (linesOf l)).mem.putAll (D.mirrored l))) ∧
  (∀ (d : Dev) (c slot : Nat) (st : Station),
    (st.op = .tld → d.trStore c slot st = some (false, st.rdAt, d.trRead c slot true st.rsAt (64 * immN st.imm))) ∧
    (st.op = .tst → d.trStore c slot st = some (true, st.rdAt, d.trRead c slot false st.rsAt (64 * immN st.imm))) ∧
    (st.op = .tget → d.trValues c slot st = d.trWords c slot false st.rsAt 1) ∧
    (st.op = .tput → d.trValues c slot st = [st.rsVal]) ∧
    (∀ v, st.op = .trsum → d.trWords c slot st.rsMem st.rsAt (immN st.imm) = [v] →
      d.trValues c slot st = [if fpIsNan v then 0x7FF8000000000000 else v])) ∧
  (∀ l : List Word,
    let hi := extreme 0x22 l (fun v b => fpLess b v)
    let lo := extreme 0x23 l (fun v b => fpLess v b)
    ((∀ v ∈ l, fpIsNan v = true) → hi = 0x7FF8000000000000 ∧ lo = 0x7FF8000000000000) ∧
    ((∃ v ∈ l, fpIsNan v = false) → ¬ (0 ∈ l ∧ 0x8000000000000000 ∈ l) →
      hi ∈ l ∧ lo ∈ l ∧ fpIsNan hi = false ∧ fpIsNan lo = false ∧ ∀ v ∈ l, fpLess hi v = false ∧ fpLess v lo = false))

/-- R317, R318, R320: at a slot boundary the datapath of a healthy unit holds the state of the room that the wheel names at this time: the
outgoing room's operation goes into its save store and the incoming room's comes back from there. The room's watermark is written by its
keeper, clamped to its share, and stays BUSY while operations of the room that issued before the write wait. -/
def Obligations.TrestleWheelAndWatermark : Prop :=
  (∀ (s : State) (c : Nat), c < 32 →
    let t := (s.dev.cluster c).trestle
    let served := if t.serves = true ∧ s.dev.clk.tb / 2048 % 2 = 1 then t.served else c
    let want := if t.health = .healthy then (s.dev.wheelOwner served s.dev.clk.tb).map (fun r => (served, r)) else none
    let key := fun (p : Nat × Nat) => p.1 * 64 + p.2
    ∃ X : Dev, Answers (exec (.trestleSlotSwitch c) s) s X ∧ (X.cluster c).trestle.loaded = want ∧
      (∀ p q st, t.loaded = some p → t.running = some st → want = some q → key p ≠ key q →
        (X.cluster c).trestle.save.find? (fun e => e.1 == key p) = some (key p, st)) ∧
      (∀ q st, want = some q → (∀ p, t.loaded = some p → key p ≠ key q) → t.save.find? (fun e => e.1 == key q) = some (key q, st) →
        (X.cluster c).trestle.running = some st) ∧
      (X.cluster c).trestle.queue = t.queue ∧ (X.cluster c).trestle.ls = t.ls ∧ X.mem = s.dev.mem ∧ ∀ j, X.ctx j = s.dev.ctx j) ∧
  (∀ (s : State) (core : Nat) (val : W32) (D : Dev), Reaches s.dev core (s.dev.viewOfs core 0x304) .write D →
    let a := s.dev.acc core
    let wm := min (val.toNat % 512) ((D.lsShare (core / 4) a.slot).2 * 16)
    (a.keeper = false → Answers (exec (.trLswmWrite core val) s) s D) ∧
    (a.keeper = true → ∃ X : Dev, Answers (exec (.trLswmWrite core val) s) s X ∧ X.lswmOf (core / 4) a.slot = wm ∧
      (∀ k, k ≠ a.slot → X.lswmOf (core / 4) k = D.lswmOf (core / 4) k) ∧
      (∀ q ∈ (X.cluster (core / 4)).trestle.queue, D.coreSlot (coreOf q.ctx) = some a.slot → q.early = true) ∧
      (D.trWaiting (core / 4) a.slot = true → a.slot ∈ (X.cluster (core / 4)).trestle.lswmBusy) ∧
      (D.trWaiting (core / 4) a.slot = false →
        (X.cluster (core / 4)).trestle.lswmBusy = (D.cluster (core / 4)).trestle.lswmBusy))) ∧
  (∀ (s : State) (c slot : Nat),
    let early := (s.dev.cluster c).trestle.queue.any (fun q => s.dev.coreSlot (coreOf q.ctx) == some slot && q.early)
    (early = true → Answers (exec (.trLswmDone c slot) s) s s.dev) ∧
    (early = false → ∃ X : Dev, Answers (exec (.trLswmDone c slot) s) s X ∧
      slot ∉ (X.cluster c).trestle.lswmBusy ∧ (X.cluster c).trestle.lswm = (s.dev.cluster c).trestle.lswm))

/-- R323 to R326: a forwarded operation that no command 64 before it holds up posts its packet to the board, dropped and counted while the
link is down, and is outstanding; its completion, matched by SEQ, RGEN and
address, writes its register and clears its tag; after TMO_US without one the register takes all ones and a fault is counted; a
completion that matches nothing is counted. -/
def Obligations.ForwardedOperationsComplete : Prop :=
  (∀ (s : State) (core : Nat) (op : Byte) (f : Form) (e : Env) (d : Dev),
    s.dev.enter core .fwd op.toNat f (s.dev.fwdCause core op) [f.rsn, f.rt, f.rdn] false anyLevel = .ok e →
    let imm := Form.imm32 f
    e.d.tagReady core e.slot e.cx (immTag imm) = some d →
    (∀ c ∈ (e.d.room e.slot).fwd.out, ((e.d.room e.slot).fwd.seq + 2 ^ 64 - c.seq) % 2 ^ 64 < 64) →
    let p := e.x.phys f.rdn
    let D := if immDr imm then (d.modCtx e.cx (fun x => x.cancelReg p)).tagCancel e.slot e.cx [p] else d
    ∀ r, D.plan.fwd (D.idOf e.slot) = some r → D.plan.fwd e.w.id = some r →
    let q := (D.room e.slot).fwd
    let c : FwdCmd :=
      { seq := q.seq, rgen := (D.room e.slot).epo.rgen, ctx := e.cx, tag := immTag imm, tagOn := true, op := op, dr := immDr imm,
        dst := if immDr imm then some p else none, rdv := e.x.get f.rdn, rsv := e.x.get f.rsn, rtv := e.x.get f.rt,
        user := imm.toNat / 512, epoch := (D.room e.slot).epo.cnt, due := D.clk.tb + r.tmoUs * 1000 }
    let R := D.modRoom e.slot (fun x => { x with fwd := { x.fwd with seq := (q.seq + 1) % 2 ^ 64, out := q.out ++ [c] } })
    let W := R.wake 100
    let pa := r.cmdPa + q.seq % 64 * 64
    let P := if W.portUp (W.portAt pa) then W.emit (.pcieWrite pa (R.fwdPacket e.slot r c))
      else W.modPciePort (W.portAt pa) (fun x => { x with drop := min (2 ^ 32 - 1) (x.drop + 1) })
    ∃ X : Dev, Answers (exec (.forwardedOperation core op f) s) s (X.afterIssue core none) ∧
      WritesOnly P e.cx ((P.ctx e.cx).past e.next) X ∧ (R.room e.slot).fwd.out = q.out ++ [c]) ∧
  (∀ (s : State) (pa slot : Nat) (bs : List Byte), s.dev.cplSlot pa = some slot →
    let q := (s.dev.room slot).fwd
    let base := ((s.dev.plan.fwd (s.dev.idOf slot)).map FwdRec.cplPa).getD 0
    let found := q.out.find? (fun c => c.seq == leAt bs 0 8 && c.rgen == leAt bs 16 1)
    ((found = none ∨ bs.length ≠ 64 ∨ pa ≠ base + leAt bs 0 8 % 64 * 64) →
      ∃ X : Dev, Answers (exec (.forwardedCompletion pa bs) s) s X ∧ (X.room slot).fwd = { q with badCnt := min (2 ^ 32 - 1) (q.badCnt + 1) } ∧
        (∀ j, X.ctx j = s.dev.ctx j) ∧ X.mem = s.dev.mem) ∧
    (∀ c, found = some c → bs.length = 64 → pa = base + leAt bs 0 8 % 64 * 64 → leAt bs 17 1 = 0 →
      Answers (exec (.forwardedCompletion pa bs) s) s
        ((s.dev.engineWrite (s.dev.idOf slot) pa bs).fwdFinish slot c (BitVec.ofNat 64 (leAt bs 8 8))))) ∧
  (∀ (s : State) (slot seq : Nat) (c : FwdCmd), (s.dev.room slot).fwd.out.find? (fun c => c.seq == seq) = some c →
    (s.dev.clk.tb < c.due → Answers (exec (.forwardedTimeout slot seq) s) s s.dev) ∧
    (c.due ≤ s.dev.clk.tb → ∃ X : Dev, Answers (exec (.forwardedTimeout slot seq) s) s X ∧
      (X.room slot).fwd.out = (s.dev.room slot).fwd.out.filter (· != c) ∧ (X.room slot).fwd.last = seq ∧
      (X.room slot).fwd.fltCnt = min (2 ^ 32 - 1) ((s.dev.room slot).fwd.fltCnt + 1) ∧
      ∀ p, c.dst = some p → p ≠ 0 → (X.ctx c.ctx).getP p = 0xFFFFFFFFFFFFFFFF)) ∧
  (∀ (d : Dev) (slot : Nat) (c : FwdCmd) (v : Word),
    let X := d.fwdFinish slot c v
    (X.room slot).fwd.out = (d.room slot).fwd.out.filter (· != c) ∧ X.mem = d.mem ∧
    ∀ j q, (X.ctx j).getP q = if j = c.ctx ∧ c.dst = some q ∧ q ≠ 0 then v else (d.ctx j).getP q)

/-! ### Interrupts, timers, epochs, mailboxes -/

/-- R376, R388: an event sets the pending bit of an event source and nothing else, a level source has no bit to set; IRQ_SWGEN does the
same for a software source routed to the writing room. R377 to R382: at a sample point the core takes the source of highest priority
that is deliverable to it, the lowest number among equals; a source of the keeper that meets the normal world enters the PL2 trap
window in the secure world at offset 0x300. -/
def Obligations.InterruptsComplete : Prop :=
  (∀ (s : State) (src : Nat),
    (src < 1024 → ¬ (768 ≤ src ∧ src < 800) →
      ∃ X : Dev, Answers (exec (.interruptSourceEvent src) s) s X ∧ X = { s.dev with irqPend := X.irqPend } ∧
        ∀ k, k ∈ X.irqPend ↔ k = src ∨ k ∈ s.dev.irqPend) ∧
    (768 ≤ src → src < 800 → Answers (exec (.interruptSourceEvent src) s) s s.dev)) ∧
  (∀ (s : State) (core : Nat) (val : W32) (D : Dev), Reaches s.dev core (s.dev.viewOfs core 0x300C) .write D →
    let a := s.dev.acc core
    let src := val.toNat % 1024
    (a.pl ≠ 0 → 928 ≤ src → D.routedTo src a.slot = true →
      ∃ X : Dev, Answers (exec (.irqSwgen core val) s) s X ∧ X = { D with irqPend := X.irqPend } ∧
        ∀ k, k ∈ X.irqPend ↔ k = src ∨ k ∈ D.irqPend) ∧
    (a.pl = 0 ∨ src < 928 ∨ D.routedTo src a.slot = false → Answers (exec (.irqSwgen core val) s) s D)) ∧
  (∀ (s : State) (core slot src : Nat), s.dev.canRun core = some slot → s.dev.takesIrq core = true → s.dev.holdsX2 core = false →
    s.dev.nextIrq core false = some src →
    s.dev.canIssue core = none ∧ Answers (exec (.interruptEntry core) s) s
      ((s.dev.takeIrq core src (s.dev.ctx (s.dev.curCtx core)).pc).ends core)) ∧
  (∀ (s : State) (core : Nat), s.dev.nextIrq core false = none ∨ s.dev.canRun core = none ∨ s.dev.takesIrq core = false ∨ s.dev.holdsX2 core = true →
    Answers (exec (.interruptEntry core) s) s s.dev) ∧
  (∀ (d : Dev) (core slot src k : Nat), d.coreSlot core = some slot → d.nextIrq core false = some src →
    d.deliverable slot (d.curCtx core) src false = true ∧ d.chosenCore slot src = some core ∧
    (k ∈ d.plan.irqs.map IrqRec.source → d.deliverable slot (d.curCtx core) k false = true → d.chosenCore slot k = some core →
      d.irqPrioOf k < d.irqPrioOf src ∨ d.irqPrioOf k = d.irqPrioOf src ∧ src ≤ k)) ∧
  (∀ (d : Dev) (core slot src : Nat) (r : IrqRec) (ret : Word), d.coreSlot core = some slot → d.route src = some r →
    let x := (d.settleFlags core).ctx (d.curCtx core)
    r.keeper = true → x.secure = false → d.irqPrioOf src < 64 →
    ∃ X : Dev, d.takeIrq core src ret = .taken X ∧
    let z := X.ctx (d.curCtx core)
    z.get (rH 4) = 0 ∧ z.get (rH 5) = syndrome { cls := 0xD, number := src } x.pl (d.irqPrioOf src) ∧ z.get (rH 6) = ret ∧
    z.get (rH 7) = x.psw64 ∧ z.tw = true ∧ z.pl = 2 ∧ z.secure = true ∧ z.blk = 0 ∧ z.ipl = d.irqPrioOf src ∧ z.ie = x.ie ∧
    z.rec2 = .keeperInterrupt ∧ z.pc = vecBase x.kvbase + 0x300 ∧ z.cwp = x.cwp ∧ z.rd = x.rd ∧ z.resv = none ∧
    (levelSrc src = false → src ∉ X.irqPend))

/-- R389, R390: the tick that falls due pends its source, or is counted when that is still pending, and the next falls a period later; the
watchdog warns once when its count reaches the warning point, resets the room at zero, and is reloaded by a kick of 0x4B49 from
its world above PL0; other kicks are counted. -/
def Obligations.TimersComplete : Prop :=
  (∀ (s : State) (slot : Nat),
    let t := (s.dev.room slot).tick
    (t.en = true → (s.dev.rrec slot).isSome = true → t.next ≤ s.dev.clk.tb →
      ∃ X : Dev, Answers (exec (.tick slot) s) s X ∧ slot ∈ X.irqPend ∧ (∀ k, k ∈ X.irqPend → k = slot ∨ k ∈ s.dev.irqPend) ∧
        X.room slot = { s.dev.room slot with tick :=
          { t with next := (t.next / (t.period * 1000) + 1) * (t.period * 1000),
                   miss := if slot ∈ s.dev.irqPend then min (2 ^ 32 - 1) (t.miss + 1) else t.miss } }) ∧
    (t.en = false ∨ s.dev.clk.tb < t.next → Answers (exec (.tick slot) s) s s.dev)) ∧
  (∀ (s : State) (core : Nat) (val : W32) (D : Dev), Reaches s.dev core (s.dev.viewOfs core 0x2014) .write D →
    let a := s.dev.acc core
    let w := (D.room a.slot).wdg
    ∃ X : Dev, Answers (exec (.wdgKick core val) s) s X ∧
      (val = 0x4B49 → a.pl ≠ 0 → a.secure = w.kworld → X.room a.slot = { D.room a.slot with wdg :=
        { w with count := w.timeout, loaded := w.timeout, acc := 0, warned := false } }) ∧
      (val ≠ 0x4B49 ∨ a.pl = 0 ∨ a.secure ≠ w.kworld →
        X.room a.slot = { D.room a.slot with wdg := { w with badKick := min 0xFFFF (w.badKick + 1) } })) ∧
  (∀ (s : State) (slot : Nat),
    let w := (s.dev.room slot).wdg
    (w.en = true → w.warned = false → w.count ≤ w.loaded * w.warn / 16 →
      ∃ X : Dev, Answers (exec (.watchdogWarning slot) s) s X ∧ 64 + slot ∈ X.irqPend ∧
        X.room slot = { s.dev.room slot with wdg := { w with warned := true } }) ∧
    (w.en = false ∨ w.warned = true ∨ w.loaded * w.warn / 16 < w.count →
      Answers (exec (.watchdogWarning slot) s) s s.dev)) ∧
  (∀ (s : State) (slot : Nat),
    let w := (s.dev.room slot).wdg
    (w.en = true → w.count = 0 → (s.dev.rrec slot).isSome = true →
      Answers (exec (.watchdogBite slot) s) s ((s.dev.modRoom slot (fun r => { r with
        wdg := { w with bites := min 255 (w.bites + 1) },
        sess := if s.dev.roomHalted slot then [] else r.sess })).requestReset slot 1)) ∧
    (w.en = false ∨ 0 < w.count → Answers (exec (.watchdogBite slot) s) s s.dev))

/-- R328 to R331, with every domain On: a boundary writes the buffered stores of the room's cores, takes the next number, latches each
enabled context of the room, and makes the output snapshot due. R329, R334, R335, R338, R347: a scheduled boundary falls at its time, a
forced one when 64 undo entries or fewer are free, a requested one when the keeper writes FORCE, or later where it cannot be taken then
(the model's choice, log entry 78); a cluster's stream fills the slot of its boundary, once that slot is free; a confirmation retires
the oldest epoch two boundaries later; the snapshot stages each written node's image once; a system boundary, on package 0 at a
multiple of SYS_EPOCH_US (`sysDue`), counts, bounds every room that spans packages, and starts or resumes those that wait for one. -/
def Obligations.EpochsComplete : Prop :=
  (∀ (d : Dev) (slot : Nat), AllOn d →
     let X := d.boundary slot
     (X.room slot).epo.cnt = (d.room slot).epo.cnt + 1 ∧ (X.room slot).epo.conf = (d.room slot).epo.conf ∧
     (X.room slot).epo.snapDue = true ∧ (X.room slot).epo.lastAt = d.clk.tb ∧
     (∀ c ∈ d.coresOf slot, (X.core c).sbuf = []) ∧
     (∀ x ∈ d.ctxsOf slot, Sparse.get Ctx.init X.ckpts (x * 3 + 2) = (X.ctx x).record ∧ (X.ctx x).long = []) ∧
     ∀ j, (X.ctx j).pc = (d.ctx j).pc) ∧
  (∀ (s : State) (slot : Nat),
    let e := (s.dev.room slot).epo
    s.dev.canBound slot = true → s.dev.spans slot = false → e.frozen = false → e.next ≤ s.dev.clk.tb →
      Answers (exec (.epochBoundary slot) s) s ((s.dev.takeBoundary slot (s.dev.clk.tb - e.next)).modRoom slot (fun r =>
        { r with epo := { r.epo with
            next := e.next + (s.dev.takeBoundary slot (s.dev.clk.tb - e.next)).epochUs slot * 1000 } }))) ∧
  (∀ (s : State) (slot c : Nat), c ∈ s.dev.clustersOf slot → s.dev.undoFree slot c ≤ 64 →
    let counted (d : Dev) := d.modRoom slot (fun r => { r with epo := { r.epo with forced := min (2 ^ 32 - 1) (r.epo.forced + 1) } })
    (s.dev.canBound slot = true → Answers (exec (.forcedBoundary slot) s) s (counted (s.dev.takeBoundary slot 0))) ∧
    (s.dev.canBound slot = false → (s.dev.room slot).phase = .running → (s.dev.room slot).epo.want = 0 →
      Answers (exec (.forcedBoundary slot) s) s (counted (s.dev.wantBoundary slot 0)))) ∧
  (∀ (s : State) (core : Nat) (val : W32) (D : Dev), Reaches s.dev core (s.dev.viewOfs core 0x1004) .write D →
    let a := s.dev.acc core
    (a.keeper = true → val.getLsbD 0 = true → D.canBound a.slot = true →
      Answers (exec (.epoCtlForce core val) s) s (D.takeBoundary a.slot 0)) ∧
    (a.keeper = true → val.getLsbD 0 = true → D.canBound a.slot = false →
      Answers (exec (.epoCtlForce core val) s) s (D.wantBoundary a.slot 0)) ∧
    (a.keeper = false ∨ val.getLsbD 0 = false → Answers (exec (.epoCtlForce core val) s) s D)) ∧
  (∀ (d : Dev) (slot late : Nat), d.wantBoundary slot late = d.modRoom slot (fun r => { r with epo := { r.epo with
    want := r.epo.want + 1, wantAt := if r.epo.want = 0 then d.clk.tb - late else r.epo.wantAt } })) ∧
  (∀ (s : State) (c slot : Nat), s.dev.ckptFree slot = false → Answers (exec (.checkpointStreamed c slot) s) s s.dev) ∧
  (∀ (s : State) (c slot : Nat), c ∈ (s.dev.room slot).epo.streaming → s.dev.ckptFree slot = true →
    let k := (s.dev.room slot).epo.cnt
    ∃ X : Dev, Answers (exec (.checkpointStreamed c slot) s) s X ∧ c ∉ (X.room slot).epo.streaming ∧
      (∀ x ∈ s.dev.ctxsOf slot, x / 16 = c →
        Sparse.get Ctx.init X.ckpts (x * 3 + k % 2) = Sparse.get Ctx.init s.dev.ckpts (x * 3 + 2)) ∧
      X.mem = s.dev.mem ∧ ∀ j, X.ctx j = s.dev.ctx j) ∧
  (∀ (s : State) (slot : Nat),
    let r := s.dev.room slot
    AllOn s.dev → (r.phase = .running ∨ r.phase = .suspended) → r.rb = none → r.epo.conf + 2 ≤ r.epo.cnt → r.epo.readBad = false →
      ∃ X : Dev, Answers (exec (.epochConfirmation slot) s) s X ∧ (X.room slot).epo.conf = r.epo.conf + 1 ∧
        (X.room slot).epo.cnt = r.epo.cnt ∧
        ∀ c ∈ s.dev.clustersOf slot, ∀ u ∈ (X.cluster c).undo, ¬ (u.slot = slot ∧ u.epoch = r.epo.conf)) ∧
  (∀ (s : State) (slot : Nat),
    ((s.dev.room slot).epo.snapDue = false → Answers (exec (.outputSnapshot slot) s) s s.dev) ∧
    ((s.dev.room slot).epo.snapDue = true → ∃ X : Dev, Answers (exec (.outputSnapshot slot) s) s X ∧
      (X.room slot).epo.snapDue = false ∧ X.mem = s.dev.mem ∧
      ∀ n ∈ s.dev.writtenNodes slot ((s.dev.room slot).epo.cnt - 1),
        let even := (s.dev.room slot).epo.cnt % 2 = 0
        (if even then (X.node n).staged0 else (X.node n).staged1) =
          some ((if even then (s.dev.node n).staged0 else (s.dev.node n).staged1).getD (s.dev.outImage n)))) ∧
  (∀ (s : State) (late : Nat),
    (popCount s.dev.per.present.toNat 4 < 2 ∨ s.dev.sysDue late = false → Answers (exec (.systemEpochBoundary late) s) s s.dev) ∧
    (2 ≤ popCount s.dev.per.present.toNat 4 → s.dev.sysDue late = true →
      let k := (s.dev.ras.sysCnt + 1) % 2 ^ 64
      let D : Dev := { s.dev with
        ras := { s.dev.ras with
          sysCnt := k, sysLate := if late = 0 then s.dev.ras.sysLate else min (2 ^ 32 - 1) (s.dev.ras.sysLate + 1),
          sysMaxLag := max s.dev.ras.sysMaxLag (min late (2 ^ 32 - 1)), sysAt := s.dev.clk.tb },
        outbox := if s.dev.pkg = 0 then .systemBoundary k :: s.dev.outbox else s.dev.outbox }
      Answers (exec (.systemEpochBoundary late) s) s (each (s.dev.slots.filter s.dev.spans) (fun d n =>
        if (d.room n).phase ≠ .running then d.startsNow n
        else if (d.room n).epo.frozen then d
        else if d.canBound n then d.takeBoundary n late else d.wantBoundary n late) D)))

/-- R341, R342: MBX_SEND queues a message of the sender's current epoch, its length a multiple of 8 between 8 and 4096 within the half; with
16 queued or undelivered it is ignored and OVF is set. A delivery writes header and bytes behind the last one, wrapping where they do not fit,
counts, and pends source 128 + n; without room the message waits. -/
def Obligations.MailboxesComplete : Prop :=
  (∀ (s : State) (core n : Nat) (val : W32) (D : Dev) (m : MboxRec), n < 128 →
    Reaches s.dev core (s.dev.viewOfs core (0x4004 + n * 64)) .write D →
    let a := s.dev.acc core
    let b := D.mbox n
    D.plan.mbox n = some m → m.sender = a.id →
    let len := min (max 8 (min 4096 (val.toNat % 2 ^ 13)) / 8 * 8) (m.bufSize / 2 - b.sofs)
    ∃ X : Dev, Answers (exec (.mbxSend core n val) s) s X ∧
      (b.queue.length + b.waiting.length < 16 →
        X.mbox n = { b with queue := b.queue ++ [{ epoch := (D.room a.slot).epo.cnt, ofs := b.sofs, len := len }] }) ∧
      (16 ≤ b.queue.length + b.waiting.length → X.mbox n = { b with ovf := true }) ∧ X.mem = D.mem) ∧
  (∀ (s : State) (n : Nat) (m : MboxRec) (w : List Byte) (rest : List (List Byte)),
    s.dev.plan.mbox n = some m → (s.dev.mbox n).waiting = w :: rest →
    let b := s.dev.mbox n
    let half := m.bufSize / 2
    let need := 8 + (w.length + 7) / 8 * 8
    let wrap := half < b.wr + need + 8
    let total := if wrap then (half - b.wr) + need + 8 else need + 8
    let at_ := if wrap then 0 else b.wr
    let num := (b.released + 1) % 65536
    let msg := leBytes 8 (w.length + num * 65536) ++ w ++ List.replicate (need - 8 - w.length) (0 : Byte)
    let D := if wrap then s.dev.engineWrite m.sender (m.bufPa + half + b.wr) (leBytes 8 0) else s.dev
    (mboxFree half b.wr b.rdConf < total → Answers (exec (.mailboxDelivery n) s) s s.dev) ∧
    (total ≤ mboxFree half b.wr b.rdConf → AllOn s.dev → (wrap = true → Unhindered s.dev m.sender (spread (m.bufPa + half + b.wr) (List.replicate 8 0))) →
      Unhindered D m.sender (spread (m.bufPa + half + at_) msg) →
      ∃ X : Dev, Answers (exec (.mailboxDelivery n) s) s X ∧
        X.mbox n = { b with waiting := rest, released := num, wr := (at_ + need) % half, delivered := (b.delivered + 1) % 65536 } ∧
        128 + n ∈ X.irqPend ∧
        X.mem = (if wrap then s.dev.mem.putAll (s.dev.mirrored (spread (m.bufPa + half + b.wr) (List.replicate 8 0))) else s.dev.mem).putAll
          (s.dev.mirrored (spread (m.bufPa + half + at_) msg))))

/-! ### Failure containment -/

/-- R336, R337, R357: a rollback of a running room stops its cores with their buffered stores discarded, waits for the cores to be tested,
counts in EPO_RBK, raises RGEN, and drops what the unconfirmed epochs staged or queued; a second error in it adds cores and its record,
once for each structure (R359, R363). R351, R357, R359, R360, Table 16.1: a detector that names a core counts a located error of its
physical slot and rolls the room back with that core to be tested; a lockstep miscompare names both cores of a pair of which no
detector of one core has named either, and is not located; a Trestle error also starts the quick test of the datapath that did the
work, the cluster's own or its helper's; a bad read-back marks the epoch; corrected errors move their counters; a lost checkpoint holds
the room; an error that another package reports rolls back a room that spans packages, and its room reset and its hold do so here; a
snoop filter set that fails forwards to all its clusters; a dirty L2 line that the codes cannot correct rolls its room back where its
pre-image is logged, else holds it, and a clean one is dropped. -/
def Obligations.ErrorsComplete : Prop :=
  (∀ (d : Dev) (slot : Nat) (testing : List Nat) (kind loc addr detail : Nat),
     let X := d.rollback slot testing kind loc addr detail
     let r := d.room slot
     (r.rb = none →
       (X.room slot).phase = .rolling ∧
       (X.room slot).rb = some
         { back := r.epo.conf, started := d.clk.tb, testing := testing.eraseDups,
           recs := if kind = 0 then [] else [{ kind := kind, loc := loc, addr := addr, detail := detail }],
           thenReset := none, thenCore := none, subst := [], thenHalt := [] } ∧
       (X.room slot).epo.rgen = (r.epo.rgen + 1) % 256 ∧ (X.room slot).epo.rbk = min 0xFFFFFF (r.epo.rbk + 1) ∧
       (X.room slot).epo.cnt = r.epo.cnt ∧ (X.room slot).epo.conf = r.epo.conf ∧
       (∀ c ∈ d.coresOf slot, (X.core c).run = .stopped ∧ (X.core c).sbuf = []) ∧
       (∀ n ∈ d.nodesOf (d.idOf slot), (X.node n).staged0 = none ∧ (X.node n).staged1 = none) ∧
       (∀ n ∈ d.sends (d.idOf slot), (X.mbox n).queue = []) ∧
       (∀ c ∈ d.clustersOf slot, ∀ u ∈ (X.cluster c).undo, u.slot ≠ slot)) ∧
     (∀ b, r.rb = some b →
       let new : RbRec := { kind := kind, loc := loc, addr := addr, detail := detail }
       let old := b.recs.filter (fun x => !(x.kind == 1 && kind == 2 && x.loc / 2 == loc / 2))
       let b' : Rollback := { b with
         testing := (b.testing ++ testing).eraseDups, started := d.clk.tb
         recs := if kind = 0 ∨ (∃ x ∈ b.recs, x.kind = kind ∧ x.loc = loc ∧ x.addr = addr) then b.recs else old ++ [new] }
       X = d.setRoom slot { r with rb := some b' })) ∧
  (∀ (s : State) (det : CoreDetector) (core slot : Nat), s.dev.coreSlot core = some slot →
    let p := s.dev.physSlot core
    Answers (exec (.detectedError (.core det core)) s) s ((s.dev.countLocated (core / 4) p).detect slot (some (core / 4)) [core] 0x02
      (s.dev.sysCore core) 0 ((match det with | .residue => 2 | .parity => 3 | .controlFlow => 4) + p % 256 * 256 + 0xFF0000FF0000))) ∧
  (∀ (s : State) (core slot : Nat), s.dev.coreSlot core = some slot → s.dev.plan.paired (s.dev.idOf slot) = true → core % 2 = 0 →
    let named := ∃ b x, (s.dev.room slot).rb = some b ∧ x ∈ b.recs ∧ x.kind = 2 ∧ x.loc / 2 = s.dev.sysCore core / 2
    (¬ named → Answers (exec (.detectedError (.lockstep core)) s) s (s.dev.detect slot (some (core / 4)) [core, core + 1] 0x01
      (s.dev.sysCore core) 0 (1 + s.dev.physSlot core % 256 * 256 + 0xFF0000 + s.dev.physSlot (core + 1) % 256 * 2 ^ 40))) ∧
    (named → Answers (exec (.detectedError (.lockstep core)) s) s (s.dev.detect slot (some (core / 4)) [] 0 0 0 0))) ∧
  (∀ (s : State) (c slot : Nat),
    let k := if (s.dev.cluster c).trestle.health = .forwarded then (s.dev.cluster c).trestle.helper else c
    (c ∈ s.dev.clustersOf slot → (s.dev.cluster k).trestle.health ≠ .lost → Answers (exec (.detectedError (.trestle c slot)) s) s
      ((s.dev.detect slot (some k) [] 0 0 0 6).modCluster k (fun x => { x with trestle := { x.trestle with testing := true } }))) ∧
    (c ∉ s.dev.clustersOf slot ∨ (s.dev.cluster k).trestle.health = .lost → Answers (exec (.detectedError (.trestle c slot)) s) s s.dev)) ∧
  (∀ (d : Dev) (slot : Nat) (c : Option Nat) (testing : List Nat) (kind loc addr detail : Nat),
    (d.room slot).phase = .running → (d.room slot).rb = none → d.spans slot = false →
    d.detect slot c testing kind loc addr detail = (match c with
      | some k => d.modCluster k (fun x => { x with coreRbk := min (2 ^ 32 - 1) (x.coreRbk + 1) })
      | none => d).rollback slot testing kind loc addr detail) ∧
  (∀ (s : State) (ctx slot : Nat), s.dev.coreSlot (coreOf ctx) = some slot → (s.dev.room slot).phase = .running →
    (s.dev.room slot).rb = none →
    ∃ X : Dev, Answers (exec (.detectedError (.readBack ctx)) s) s X ∧ (X.room slot).phase = .rolling ∧
      (X.room slot).epo.readBad = true) ∧
  (∀ (s : State) (ctx : Nat), ∃ X : Dev, Answers (exec (.detectedError (.readBackCorrected ctx)) s) s X ∧
    X = { s.dev with ras := { s.dev.ras with ckptCe := min (2 ^ 32 - 1) (s.dev.ras.ckptCe + 1) } }) ∧
  (∀ (s : State) (u w : Nat), ∃ X : Dev, Answers (exec (.detectedError (.arrayCorrected .l2 u w)) s) s X ∧
    X.cluster u = { s.dev.cluster u with l2Ce := (X.cluster u).l2Ce } ∧
    ∀ k, Sparse.get 0 (X.cluster u).l2Ce k =
      if k = w then min 255 (Sparse.get 0 (s.dev.cluster u).l2Ce w + 1) else Sparse.get 0 (s.dev.cluster u).l2Ce k) ∧
  (∀ (s : State) (u w : Nat), ∃ X : Dev, Answers (exec (.detectedError (.arrayCorrected .l3 u w)) s) s X ∧
    X.region u = { s.dev.region u with l3Ce := (X.region u).l3Ce } ∧
    ∀ k, Sparse.get 0 (X.region u).l3Ce k =
      if k = w then min 255 (Sparse.get 0 (s.dev.region u).l3Ce w + 1) else Sparse.get 0 (s.dev.region u).l3Ce k) ∧
  (∀ (s : State) (slot : Nat), (s.dev.room slot).phase = .rolling →
    ∃ X : Dev, Answers (exec (.detectedError (.restoreLost slot)) s) s X ∧ (X.room slot).phase = .held ∧ (X.room slot).reason = 4 ∧
      800 ∈ X.irqPend ∧ 801 ∈ X.irqPend) ∧
  (∀ (s : State) (slot : Nat),
    let a := exec (.detectedError (.remote slot none)) s
    let p := (s.dev.room slot).phase
    (s.dev.spans slot = true → p = .running ∨ p = .rolling → Answers a s (s.dev.rollback slot [] 0 0 0 0)) ∧
    (s.dev.spans slot = false ∨ (p ≠ .running ∧ p ≠ .rolling) → Answers a s s.dev) ∧
    (∀ cause, s.dev.spans slot = true → (s.dev.room slot).rb = none →
      Answers (exec (.detectedError (.remote slot (some cause))) s) s (s.dev.resetRoom slot cause)) ∧
    (∀ reason, s.dev.spans slot = true → ∃ X : Dev, Answers (exec (.detectedError (.remoteHeld slot reason)) s) s X ∧
      (X.room slot).phase = .held ∧ (X.room slot).reason = reason ∧ (X.room slot).rb = none)) ∧
  (∀ (s : State) (r n : Nat), r < 8 → n < 2048 → ∃ X : Dev, Answers (exec (.detectedError (.snoopFilter r n)) s) s X ∧
    X.region r = { s.dev.region r with sfBad := (X.region r).sfBad } ∧ ∀ k, k ∈ (X.region r).sfBad ↔ k = n ∨ k ∈ (s.dev.region r).sfBad) ∧
  (∀ (s : State) (r : Nat) (h : PatrolHit), Answers (exec (.detectedError (.dramCorrected r h)) s) s (s.dev.patrolHit r h)) ∧
  (∀ (s : State) (line r : Nat), s.dev.homeOf (line * 64) = some r → s.dev.mirrorServes line = true →
    Answers (exec (.detectedError (.dram line)) s) s (s.dev.incident 0x09 r (line * 64) 8 (s.dev.slotsOver line) 0)) ∧
  (∀ (s : State) (level : CacheLevel) (unit way line : Nat) (words : List Nat) (tag : Nat),
    let a := exec (.detectedError (.array level unit way line words tag)) s
    (words.all (· == 0) = true → tag = 0 → Answers a s s.dev) ∧
    ((words.all (· == 0) && tag == 0) = false → corrects level words tag = true → a = exec (.detectedError (.arrayCorrected level unit way)) s)) ∧
  (∀ (s : State) (unit way line : Nat) (words : List Nat) (tag : Nat) (e : L2Line), corrects .l2 words tag = false →
    (s.dev.cluster unit).l2.find? (fun x => x.line == line) = some e →
    let a := exec (.detectedError (.array .l2 unit way line words tag)) s
    (e.st.dirty = false → ∃ X : Dev, Answers a s X ∧ ((X.cluster unit).l2.all (fun x => x.line != line)) = true) ∧
    (∀ k, e.st.dirty = true → s.dev.slotOf e.room = some k → (s.dev.room k).phase = .running → (s.dev.room k).rb = none →
      (s.dev.ew k line = true → ∃ X : Dev, Answers a s X ∧ (X.room k).phase = .rolling) ∧
      (s.dev.ew k line = false → ∃ X : Dev, Answers a s X ∧ (X.room k).phase = .held ∧ (X.room k).reason = 4 ∧ 801 ∈ X.irqPend))) ∧
  (∀ (s : State) (c u : Nat), u < 16 → Sparse.get 0 (s.dev.cluster c).trestle.ce u + 1 < (s.dev.cluster c).trestle.ceLimit →
    Sparse.get 0 (s.dev.cluster c).trestle.ce u < 255 →
    ∃ X : Dev, Answers (exec (.detectedError (.localStoreCorrected c u)) s) s X ∧
      Sparse.get 0 (X.cluster c).trestle.ce u = Sparse.get 0 (s.dev.cluster c).trestle.ce u + 1) ∧
  (∀ (s : State) (c u b : Nat) (words : List Nat), u < 16 → b < 256 →
    let a := exec (.detectedError (.localStore c u b words)) s
    (words.all (· == 0) = true → Answers a s s.dev) ∧
    (words.all (· == 0) = false → corrects .l2 words 0 = true → a = exec (.detectedError (.localStoreCorrected c u)) s) ∧
    (corrects .l2 words 0 = false → ∃ X : Dev, Answers a s X ∧
      ∃ p, (X.cluster c).trestle.lsRetired.getLsbD p = true ∧ (p = u ∨ p = 16)))

/-- R357, R359 to R363: the result of a quick test ends the wait for its core; a core that failed is replaced by a spare that passed, and
source 802 pends; without one the room is held with REASON 2, and the cluster has no spare; each core keeps its own record (R372). The rollback then resumes with the next boundary number, at a package epoch
boundary and not before. -/
def Obligations.QuickTestsAndResumeComplete : Prop :=
  (∀ (s : State) (core slot : Nat) (own spare : TestResult) (b : Rollback) (r : RbRec),
    s.dev.coreSlot core = some slot → (s.dev.room slot).phase = .rolling → (s.dev.room slot).rb = some b → core ∈ b.testing →
    b.recs.find? (fun x => (x.kind == 2 && x.loc == s.dev.sysCore core) || (x.kind == 1 && x.loc / 2 == s.dev.sysCore core / 2)) = some r →
    r.kind = 2 → core < 128 → s.dev.clk.stopped = false →
    let c := core / 4
    let p := s.dev.physSlot core
    let sp := (s.dev.cluster c).spare
    let code (x : TestResult) := match x with | .notRun => 0 | .passed => 1 | .failed => 2
    let others := b.recs.filter (fun x => !((x.kind == 2 && x.loc == s.dev.sysCore core) || (x.kind == 1 && x.loc / 2 == s.dev.sysCore core / 2)))
    let written (kind after : Nat) : RbRec :=
      { kind := kind, loc := s.dev.sysCore core, addr := r.addr, detail := detailOf [r.detail % 256, p, after, code own, code spare, 0xFF] }
    let still := b.testing.filter (· != core)
    (own = .failed → spare = .passed → sp ≠ 7 → (s.dev.cluster c).slotMap.length = 4 →
      ∃ X : Dev, Answers (exec (.quickTestComplete core own .notRun spare) s) s X ∧
        X.physSlot core = sp ∧ (X.cluster c).spare = 7 ∧ 802 ∈ X.irqPend ∧
        (X.room slot).subst = min 255 ((s.dev.room slot).subst + 1) ∧
        (X.room slot).rb = some { b with testing := still, recs := others ++ [written 0x03 sp], subst := insertAsc b.subst c }) ∧
    (own = .failed → spare ≠ .passed →
      ∃ X : Dev, Answers (exec (.quickTestComplete core own .notRun spare) s) s X ∧
        (X.room slot).phase = .held ∧ (X.room slot).reason = 2 ∧ (X.cluster c).spare = 7 ∧ 801 ∈ X.irqPend) ∧
    (own = .passed → spare ≠ .failed → s.dev.located c p < s.dev.ras.subLimit →
      ∃ X : Dev, Answers (exec (.quickTestComplete core own .notRun spare) s) s X ∧
        (X.room slot).rb = some { b with testing := still, recs := others ++ [written 0x02 0xFF] })) ∧
  (∀ (s : State) (slot : Nat) (b : Rollback),
    let r := s.dev.room slot
    r.rb = some b → b.testing = [] → r.phase = .rolling → b.thenReset = none → b.thenCore = none → b.thenHalt = [] →
    s.dev.clk.tb % 5000 = 0 → s.dev.clk.stopped = false → r.pwr.susp = false →
    let k := r.epo.cnt + 1
    let D := (s.dev.resumeFrom slot b.back k).modRoom slot (fun r =>
      { r with epo := { r.epo with substAt := if b.subst = [] then none else some k } })
    Answers (exec (.rollbackResume slot) s) s
      (each b.recs (fun d x => d.incident x.kind x.loc x.addr x.detail [slot] (s.dev.clk.tb - b.started)) D)) ∧
  (∀ (s : State) (slot : Nat) (b : Rollback), (s.dev.room slot).rb = some b →
    b.testing ≠ [] ∨ s.dev.clk.tb % 5000 ≠ 0 ∨ s.dev.clk.stopped = true ∨ (s.dev.room slot).pwr.susp = true →
    Answers (exec (.rollbackResume slot) s) s s.dev)

/-- R372, R529: an incident record takes the next sequence number and INC_WR; a full ring loses the record at INC_RD; source 800 pends, and
801 for a Visible one. R33, R267, R320, R364 to R367, R370: what the failure of a way, a channel, a mirror pair, a die, a flit, a snoop
filter set or a Trestle leaves. -/
def Obligations.LostUnitsComplete : Prop :=
  (∀ (d : Dev) (kind loc addr detail : Nat) (rooms : List Nat) (ns : Nat),
     let X := d.incident kind loc addr detail rooms ns
     let r := X.inc.at_ d.inc.wr
     let full := (d.inc.wr + 8192 - d.inc.rd) % 8192 = 8191
     r.seq = (d.inc.seq + 1) % 2 ^ 32 ∧ r.kind = kind ∧ r.time = d.clk.tb ∧ r.loc = loc ∧ r.addr = addr ∧ r.rbkNs = ns ∧
     r.cls = incClass kind ∧ X.inc.seq = r.seq ∧ X.inc.last = r.seq ∧ X.inc.wr = (d.inc.wr + 1) % 8192 ∧
     (full → X.inc.rd = (d.inc.rd + 1) % 8192 ∧ X.inc.lost = min (2 ^ 32 - 1) (d.inc.lost + 1)) ∧
     (¬ full → X.inc.rd = d.inc.rd ∧ X.inc.lost = d.inc.lost) ∧
     800 ∈ X.irqPend ∧ (incClass kind = 2 → 801 ∈ X.irqPend) ∧ X.mem = d.mem ∧ X.inc.journal.length ≤ max 256 d.inc.journal.length) ∧
  (∀ (s : State) (u w : Nat) (unc : Bool), u < 8 → w < 16 → (s.dev.region u).l3Retired.getLsbD w = false →
    (unc = true ∨ (s.dev.region u).l3CeLimit ≤ Sparse.get 0 (s.dev.region u).l3Ce w) →
    ∃ X : Dev, Answers (exec (.wayRetirement .l3 u w unc) s) s X ∧ (X.region u).l3Retired.getLsbD w = true ∧
      (∀ e ∈ (X.region u).l3, e.way ≠ w) ∧ X.mem = s.dev.mem ∧ 800 ∈ X.irqPend) ∧
  (∀ (s : State) (u w : Nat) (unc : Bool), u < 32 → w < 16 → AllOn s.dev → (s.dev.cluster u).l2Retired.getLsbD w = false →
    (unc = true ∨ (s.dev.cluster u).l2CeLimit ≤ Sparse.get 0 (s.dev.cluster u).l2Ce w) →
    ∃ X : Dev, Answers (exec (.wayRetirement .l2 u w unc) s) s X ∧ (X.cluster u).l2Retired.getLsbD w = true ∧
      800 ∈ X.irqPend ∧ (∀ k ∈ s.dev.slotsOn u, (s.dev.l2Ways u (s.dev.idOf k)).testBit w = true → (X.room k).degraded = true) ∧
      ((∀ k ∈ s.dev.slotsOn u, ∃ v, v < 16 ∧ v ≠ w ∧ (s.dev.l2Ways u (s.dev.idOf k)).testBit v = true ∧
          (s.dev.l2Lock u (s.dev.idOf k)).testBit v = false ∧ (s.dev.cluster u).l2Retired.getLsbD v = false) →
        X.mem = s.dev.mem ∧ ∀ e ∈ (X.cluster u).l2, e.way ≠ w)) ∧
  (∀ (s : State) (r : Nat) (h : PatrolHit),
    let g := s.dev.region r
    let dev := h.rank * 64 + h.device
    g.spent h = false → (recent s.dev.clk.tb (Sparse.get [] g.devErr dev)).length + 1 < s.dev.ras.devLimit →
    (recent s.dev.clk.tb (Sparse.get [] g.rowErr (rowKey h))).length < 3 →
    ∀ p : PatrolPass, p.hits = [h] → ∃ X : Dev, Answers (exec (.patrolScrub r p) s) s X ∧
      (X.region r).ecsCnt = min (2 ^ 32 - 1) (g.ecsCnt + p.ecs) ∧ (X.region r).ref2x = p.hot ∧
      Sparse.get [] (X.region r).devErr dev = s.dev.clk.tb :: recent s.dev.clk.tb (Sparse.get [] g.devErr dev) ∧
      Sparse.get [] (X.region r).rowErr (rowKey h) = s.dev.clk.tb :: recent s.dev.clk.tb (Sparse.get [] g.rowErr (rowKey h)) ∧
      (X.region r).devMarked = g.devMarked ∧ (X.region r).mc = g.mc ∧ X.irqPend = s.dev.irqPend) ∧
  (∀ (s : State) (r : Nat), r < 8 → (s.dev.region r).chanLost = false →
    ∃ X : Dev, Answers (exec (.channelLoss r) s) s X ∧ (X.region r).chanLost = true ∧
      (s.dev.mirrorPair r = none → 801 ∈ X.irqPend ∧ ∀ k ∈ s.dev.slotsHomed r, (X.room k).phase = .held ∧ (X.room k).reason = 4) ∧
      (∀ k, s.dev.mirrorPair r = some k → k < 4 → (s.dev.region (if r % 2 = 0 then r + 1 else r - 1)).chanLost = false →
        X.ras.mirrorDeg.getLsbD k = true ∧ 803 ∈ X.irqPend ∧ (∀ n ∈ s.dev.slotsHomed r, (X.room n).degraded = true) ∧
        ∀ n ∈ s.dev.slotsAlone r, (X.room n).phase = .held ∧ (X.room n).reason = 4)) ∧
  (∀ (s : State) (k : Nat),
    (s.dev.ras.mirrorDeg.getLsbD k = true → (s.dev.region (2 * k)).chanLost = false → (s.dev.region (2 * k + 1)).chanLost = false →
      ∃ X : Dev, Answers (exec (.mirrorResyncDone k) s) s X ∧ X.ras.mirrorDeg.getLsbD k = false) ∧
    (s.dev.ras.mirrorDeg.getLsbD k = false → Answers (exec (.mirrorResyncDone k) s) s s.dev)) ∧
  (∀ (s : State) (die : Nat), die < 2 →
    (die ∈ s.dev.diesLost → Answers (exec (.dieFault die) s) s s.dev) ∧
    (die ∉ s.dev.diesLost → ∃ X : Dev, Answers (exec (.dieFault die) s) s X ∧ X.diesLost = die :: s.dev.diesLost ∧
      801 ∈ X.irqPend ∧ ∀ k ∈ s.dev.slotsOnDie die, (X.room k).phase = .held ∧ (X.room k).reason = 1)) ∧
  (∀ (s : State) (r : Nat),
    Answers (exec (.flitRetransmit (some r) false) s) s (s.dev.incident 0x19 (s.dev.pkg * 8 + r) 0 0x0A [] 0) ∧
    Answers (exec (.flitRetransmit (some r) true) s) s (s.dev.loseDie (r / 4) 0x0A) ∧
    Answers (exec (.flitRetransmit none false) s) s (s.dev.incident 0x19 0xFFFFFFFF 0 0x0A [] 0) ∧
    ∃ X : Dev, Answers (exec (.flitRetransmit none true) s) s X ∧ 801 ∈ X.irqPend ∧
      ∀ k ∈ s.dev.slots, (X.room k).phase = .held ∧ (X.room k).reason = 6) ∧
  (∀ (s : State) (r n : Nat), r < 8 → n < 2048 →
    Answers (exec (.snoopFilterRebuild r n) s) s
      ((s.dev.modRegion r (fun g => { g with sfBad := g.sfBad.filter (· != n) })).incident 0x19 (s.dev.pkg * 8 + r) 0 5 [] 0)) ∧
  (∀ (s : State) (c : Nat),
    ((s.dev.cluster c).trestle.testing = false → ∀ b, Answers (exec (.trestleQuickTestDone c b) s) s s.dev) ∧
    ((s.dev.cluster c).trestle.testing = true → ∃ X : Dev, Answers (exec (.trestleQuickTestDone c true) s) s X ∧
      X.cluster c = { s.dev.cluster c with trestle := { (s.dev.cluster c).trestle with testing := false } } ∧ X.rooms = s.dev.rooms ∧
      X.inc.seq = (s.dev.inc.seq + 1) % 2 ^ 32 ∧ 800 ∈ X.irqPend) ∧
    ((s.dev.cluster c).trestle.testing = true → ∃ X : Dev, Answers (exec (.trestleQuickTestDone c false) s) s X ∧
      (X.cluster c).trestle.health ≠ .healthy ∧ (X.cluster c).trestle.testing = false))

/-! ### Coherence and arbitration -/

/-- R259, R260, R262, R277, R278, R281, R282, R299, Table 12.4: a core's miss takes a miss register, whose slot a dirty victim enters, and
opens its transaction at the home with the snoops of its row when the home is On, nothing is under way on the line and an entry is
free; so does a request from another package, and a hub engine's. A request for a line with a transaction open waits at the home; a
further miss of the cluster for the line merges; without a register the core waits; an engine's write waits in the hub for the engine's
earlier one. R280, R281, R284, Table 12.5: a cluster that is On answers a snoop of the open transaction: SnpX and SnpI take its copy,
SnpS makes M owned and E shared, SnpC leaves it; dirty data comes with the answer but for SnpI; an eviction slot that loses the line
goes stale, and its tag goes to the home. A snoop of a home in another package is answered likewise, with a message to it. -/
def Obligations.CoherenceRequestsComplete : Prop :=
  (∀ (s : State) (line r : Nat), AllOn s.dev → s.dev.homeLocal line = some r → (s.dev.region r).waitQ = [] →
     let d := s.dev
     let snoops := fun (who : Nat) (excl : Bool) (k : Nat → SnoopKind) =>
       ((d.forwarded line).filter (fun c => (d.targets line excl).contains (d.sysRegion (c / 4)) && who != d.sysCluster c)).map (fun c => (c, k c))
     let opened := fun (X : Dev) (kind : TxnKind) (excl : Bool) (who room stamp : Nat) (k : Nat → SnoopKind) (bytes : List (Nat × Byte)) =>
       (X.region r).txn line = some
         { line := line, kind := kind, requester := who, room := room, stamp := stamp, toSnoop := snoops who excl k,
           awaiting := d.targets line excl, gotData := false, ownerDirty := false, heldBy := [], slotTag := none, cmp := false, sent := false,
           installed := false, bytes := bytes } ∧
         (X.region r).waitQ = [] ∧ X.mem = d.mem
     let waits := fun (X : Dev) (kind : TxnKind) (who room stamp : Nat) (bytes : List (Nat × Byte)) =>
       (X.region r).waitQ = [{ kind := kind, line := line, requester := who, room := room, stamp := stamp, bytes := bytes, tag := none }] ∧
         (X.region r).txns = (d.region r).txns ∧ X.mem = d.mem
     let free := fun (who room : Nat) => (d.region r).txn line = none ∧ d.entryFree r who room = true
     (∀ p ∈ ([(.rds, .rds, false, .snps), (.rdx, .rdx, true, .snpx), (.upg, .upg, true, .snpx)] :
         List ((Requester → Nat → Instr) × TxnKind × Bool × SnoopKind)),
       ∀ a : Requester,
         let a' := exec (p.1 a line) s
         let core := a.number % 128
         let c := core / 4
         let room := (d.coreRoom core).getD 0
         (a.number / 128 = d.pkg → d.needs core line p.2.1 = true → d.mayRequest core line = true →
           (d.missOf c line = none → ∀ i, d.freeMiss core room .data = some i →
             (free (d.sysCluster c) room → ∃ X : Dev, Answers a' s X ∧
               opened X p.2.1 p.2.2.1 (d.sysCluster c) room (d.stampOf a.age) (fun _ => p.2.2.2) [] ∧
               X.missOf c line = some (i, { line := line, core := core, room := room, use := .data, wr := p.2.2.1, secs := [] }) ∧
               ∀ v : L2Line, p.2.1 ≠ .upg → d.l2Victim core room line = some v → v.st.dirty = true →
                 Sparse.get none (X.cluster c).slots i = some { line := v.line, room := v.room, stale := false, granted := false, stamp := d.stampOf 0 }) ∧
             ((d.region r).txn line ≠ none → ∃ X : Dev, Answers a' s X ∧ waits X p.2.1 (d.sysCluster c) room (d.stampOf a.age) [] ∧
               (X.missOf c line).map Prod.fst = some i)) ∧
           (d.missOf c line = none → d.freeMiss core room .data = none → Answers a' s d) ∧
           (∀ i m, d.missOf c line = some (i, m) → m.core ≠ core → (core, .data) ∉ m.secs → m.secs.length < 4 → d.l1MissFree core .data = true →
             ∃ X : Dev, Answers a' s X ∧ X.missOf c line = some (i, { m with secs := m.secs ++ [(core, .data)] }) ∧ X.regions = d.regions)) ∧
         (a.number / 128 ≠ d.pkg → ∀ id, d.plan.coreRoom (a.number / 128) core = some id →
           (free (a.number / 4) id → ∃ X : Dev, Answers a' s X ∧
             opened X (if p.2.1 = .upg ∧ ∃ e, d.l3Line line = some e ∧ e.vec.getLsbD (a.number / 16) = false then .rdx else p.2.1) p.2.2.1
               (a.number / 4) id (d.stampOf a.age) (fun _ => p.2.2.2) []) ∧
           ((d.region r).txn line ≠ none → ∃ X : Dev, Answers a' s X ∧ waits X p.2.1 (a.number / 4) id (d.stampOf a.age) []))) ∧
     (∀ (a : Requester) (mask : BitVec 64) (data : List Byte),
       let owner := fun (c : Nat) => (∀ e, d.l3Line line = some e → e.st.exclusive = true ∧ e.owner = d.sysRegion (c / 4))
       ∀ q ∈ ([(.rdc a line, .rdc, false, []), (.wrf a line data, .wrf, true, spread (line * 64) data),
           (.wrp a line mask data, .wrp, true, maskedBytes line mask data)] : List (Instr × TxnKind × Bool × List (Nat × Byte))),
         128 ≤ a.number → d.hubCount < 64 → (q.2.1 ≠ .rdc → data.length = 64) →
           ((q.2.1 = .rdc ∨ d.engineBusy a.number = false) →
             (free a.number a.room → ∃ (X : Dev) (k : Nat → SnoopKind), Answers (exec q.1 s) s X ∧
               opened X q.2.1 q.2.2.1 a.number a.room (d.stampOf a.age) k q.2.2.2 ∧
               (q.2.1 = .rdc → ∀ c, k c = .snpc) ∧ (q.2.1 = .wrf → ∀ c, k c = .snpi) ∧
               (q.2.1 = .wrp → ∀ c, (owner c → k c = .snpx) ∧ (¬ owner c → k c = .snpi))) ∧
             ((d.region r).txn line ≠ none → ∃ X : Dev, Answers (exec q.1 s) s X ∧ waits X q.2.1 a.number a.room (d.stampOf a.age) q.2.2.2)) ∧
           (q.2.1 ≠ .rdc → d.engineBusy a.number = true → Answers (exec q.1 s) s { d with hubQ := d.hubQ ++
             [{ kind := q.2.1, line := line, requester := a.number, room := a.room, stamp := d.stampOf a.age, bytes := q.2.2.2, tag := none }] }))) ∧
  (∀ r ∈ ([(.snps, .snps), (.snpx, .snpx), (.snpi, .snpi), (.snpc, .snpc)] : List ((SnoopTo → Nat → Instr) × SnoopKind)),
     ∀ (s : State) (c line room : Nat), AllOn s.dev → s.dev.bufferers 128 [line] = [] →
       let st := s.dev.l2St c line
       let takes := r.2 = .snpx ∨ r.2 = .snpi
       let slot := (s.dev.slotOfLine c line).filter (fun p => !p.2.stale && !p.2.granted)
       let data := (st = some .m ∨ st = some .o ∨ slot.isSome) ∧ r.2 ≠ .snpi
       let copies := fun (X : Dev) =>
         (takes → X.l2St c line = none) ∧ (r.2 = .snpc → X.l2St c line = st) ∧
         (r.2 = .snps → X.l2St c line = st.map (fun q => match q with | .m => .o | .e => .s | q => q)) ∧
         (takes → ∀ i v, slot = some (i, v) → Sparse.get none (X.cluster c).slots i = some { v with stale := true }) ∧
         X.mem = s.dev.mem ∧ ∀ j p, (X.ctx j).getP p = (s.dev.ctx j).getP p
       (∀ h t, s.dev.homeLocal line = some h → (s.dev.region h).txn line = some t → (c, r.2) ∈ t.toSnoop →
         ∃ X : Dev, Answers (exec (r.1 { cluster := c, room := room } line) s) s X ∧ copies X ∧
           (X.region h).txn line = some { t with
             toSnoop := t.toSnoop.filter (· != (c, r.2)), gotData := decide (t.gotData = true ∨ data),
             ownerDirty := decide (t.ownerDirty = true ∨ data),
             slotTag := if takes ∧ slot ≠ none then slot.map (fun p => s.dev.slotTag c p.1) else t.slotTag }) ∧
       (∀ p, s.dev.homeLocal line = none → s.dev.homeOf (line * 64) = some p → 1 ≤ (p / 8) ^^^ s.dev.pkg → (p / 8) ^^^ s.dev.pkg < 4 →
         (s.dev.link (((p / 8) ^^^ s.dev.pkg) - 1)).busy = false →
         ∃ X : Dev, Answers (exec (r.1 { cluster := c, room := room } line) s) s X ∧ copies X ∧
           X.outbox.head? = some (.coherence (p / 8)
             { kind := .rsp, line := line, requester := s.dev.sysRegion (c / 4), room := room, age := 0, tag := slot.map (fun p => s.dev.slotTag c p.1),
               data := if data then spread (line * 64) (s.dev.bytes (line * 64) 64) else [] })))

/-- R262, R274 to R279, R281, R282: the combined answer of a region counts once its snoops are answered, one of another package with the
data that it brings; data, grant and acknowledgement end a transaction once every snoop is answered and the channel has the data, a Cmp
only when no stale EvD is outstanding; a fill waits while its miss register's slot still holds the victim, and it carries the hints of
its register out; an engine's read answers with the line. R262, R274, R276, R277, R281: the home takes the EvD of a current eviction
slot, writing the line to its channel, once the line has no transaction and an entry is free; the stale EvD that a transaction waits
for is discarded and counted, and any other EvD waits at the home. A region notice clears the region's bit. R296 to R298, R301: no slot
starts but the one that the timebase has reached; it serves the oldest request of the sealed room that owns it while it runs; otherwise
the oldest starving request, then one that a credit pays for, then the oldest; a slot whose owner has nothing is lent and counted. A
turn takes its records and credits when it starts. A channel that is not On or Clock-gated serves nothing. -/
def Obligations.CoherenceRepliesAndSlots : Prop :=
  (∀ (s : State) (a : SnoopAnswer) (line h : Nat) (t : Txn), s.dev.homeLocal line = some h → (s.dev.region h).txn line = some t →
    let own := a.region / 8 = s.dev.pkg
    let got := ¬ own ∧ a.data.length = 64
    (a.region ∈ t.awaiting → (∀ p ∈ t.toSnoop, s.dev.sysRegion (p.1 / 4) ≠ a.region) →
      ∃ X : Dev, Answers (exec (.rsp a line) s) s X ∧
        (X.region h).txn line = some { t with
          awaiting := t.awaiting.filter (· != a.region), gotData := decide (t.gotData = true ∨ got),
          ownerDirty := decide (t.ownerDirty = true ∨ got),
          heldBy := if ¬ own ∧ a.held = true ∧ t.kind = .rds then a.region :: t.heldBy else t.heldBy,
          slotTag := if ¬ own ∧ a.tag ≠ none ∧ t.kind ≠ .rds ∧ t.kind ≠ .rdc then a.tag else t.slotTag } ∧
        X.mem = if got then s.dev.mem.putAll (s.dev.mirrored (spread (line * 64) a.data)) else s.dev.mem) ∧
    (a.region ∉ t.awaiting ∨ (∃ p ∈ t.toSnoop, s.dev.sysRegion (p.1 / 4) = a.region) → Answers (exec (.rsp a line) s) s s.dev)) ∧
  (∀ (s : State) (f : Fill) (c line h i : Nat) (t : Txn) (m : MissReg), s.dev.homeLocal line = some h → (s.dev.region h).txn line = some t →
    t.ready = true → t.requester = f.dest → s.dev.ownCluster f.dest = some c → (s.dev.chanWaits line = false ∨ t.gotData = true) →
    (t.kind = .rds ∨ t.kind = .rdx) → s.dev.missOf c line = some (i, m) → Sparse.get none (s.dev.cluster c).slots i = none →
    m.use.isHint = false → (∀ q ∈ m.secs, q.2.isHint = false) →
    ((∀ p ∈ (s.dev.cluster c).miss, p.2.line = line → p.1 = i) → (∀ v, s.dev.l2Victim m.core m.room line = some v → v.st.dirty = false) →
      s.dev.l2Way m.core m.room line ≠ none →
      ∃ X : Dev, Answers (exec (.data f line) s) s X ∧
        X.l2St c line = some (if t.kind = .rdx then .m
          else if t.ownerDirty = true ∨ t.heldBy ≠ [] ∨ s.dev.listed line ≠ [] ∨ (∃ e, s.dev.l3Line line = some e ∧ s.dev.farVec e ≠ 0) then .s
          else .e) ∧
        (X.region h).txn line = some { t with sent := true, installed := true } ∧ X.missOf c line = none ∧ X.mem = s.dev.mem) ∧
    (∀ v, s.dev.l2Victim m.core m.room line = some v → v.st.dirty = true →
      ∃ X : Dev, Answers (exec (.data f line) s) s X ∧ X.missOf c line = some (i, m) ∧ (X.region h).txn line = some t ∧
        Sparse.get none (X.cluster c).slots i = some { line := v.line, room := v.room, stale := false, granted := false,
                                                               stamp := s.dev.stampOf 0 })) ∧
  (∀ (s : State) (f : Fill) (line h : Nat) (t : Txn), s.dev.homeLocal line = some h → (s.dev.region h).txn line = some t →
    t.ready = true → t.requester = f.dest → (s.dev.chanWaits line = false ∨ t.gotData = true) → t.kind = .rdc → (s.dev.region h).waitQ = [] →
    ∃ X : Dev, Answers (exec (.data f line) s) s X ∧ (X.region h).txn line = none ∧
      X.outbox = .readData f.dest line (s.dev.bytes (line * 64) 64) :: s.dev.outbox ∧ X.mem = s.dev.mem) ∧
  (∀ (s : State) (dest c line h : Nat) (t : Txn), s.dev.homeLocal line = some h → (s.dev.region h).txn line = some t →
    t.ready = true → t.requester = dest → t.kind = .upg → s.dev.ownCluster dest = some c →
    ∃ X : Dev, Answers (exec (.grant dest line) s) s X ∧ X.l2St c line = (s.dev.l2St c line).map (fun _ => .m) ∧
      (X.region h).txn line = some { t with sent := true, installed := true } ∧ X.missOf c line = none ∧ X.mem = s.dev.mem) ∧
  (∀ (s : State) (dest line h : Nat) (t : Txn), s.dev.homeLocal line = some h → (s.dev.region h).txn line = some t →
    (t.installed = true → t.requester = dest → t.kind ≠ .evd → t.cmp = false → (s.dev.region h).waitQ = [] →
      (t.slotTag = none → ∃ X : Dev, Answers (exec (.cmpMessage dest line) s) s X ∧ (X.region h).txn line = none ∧
        (X.region h).txns = (s.dev.region h).txns.filter (fun x => x.line != line)) ∧
      (t.slotTag ≠ none → ∃ X : Dev, Answers (exec (.cmpMessage dest line) s) s X ∧ (X.region h).txn line = some { t with cmp := true })) ∧
    (t.installed = false ∨ t.requester ≠ dest → Answers (exec (.cmpMessage dest line) s) s s.dev)) ∧
  (∀ (d : Dev) (line core kind : Nat) (nt : Bool) (m : MissReg) (st : Moesi), m.use = .hint kind nt → m.core = core → m.secs = [] →
    d.l2St (core / 4) line = some st → d.fillHints line m =
      if (kind = 1 ∨ kind = 3) ∧ (st = .s ∨ st = .o) then d.missRequest core line .upg m.use 0 else d.hintLine core kind line nt) ∧
  (∀ (s : State) (dest line h : Nat) (t : Txn), s.dev.homeLocal line = some h → (s.dev.region h).txn line = some t → (s.dev.region h).waitQ = [] →
    s.dev.writeWaits line = false →
    (t.ready = true → (t.kind = .wrf ∨ t.kind = .wrp) → t.cmp = false →
      (∀ q ∈ s.dev.hubQ, q.requester ≠ t.requester ∧ s.dev.engineSent q.requester = true) →
      ∃ X : Dev, Answers (exec (.ack { dest := dest, line := line }) s) s X ∧ X.mem = s.dev.mem.putAll (s.dev.mirrored t.bytes) ∧
        (t.slotTag = none → (X.region h).txn line = none) ∧
        (t.slotTag ≠ none → (X.region h).txn line = some { t with sent := true, installed := true, cmp := true })) ∧
    (t.kind = .evd → ∃ X : Dev, Answers (exec (.ack { dest := dest, line := line }) s) s X ∧ (X.region h).txn line = none ∧ X.mem = s.dev.mem ∧
      ∀ c i v, (i, some v) ∈ (X.cluster c).slots → ¬ (v.line = line ∧ v.granted = true))) ∧
  (∀ (s : State) (dest line : Nat), s.dev.txnOf line = none →
    (dest < 128 → ∃ X : Dev, Answers (exec (.ack { dest := dest, line := line }) s) s X ∧ X.mem = s.dev.mem ∧ X.regions = s.dev.regions ∧
      ∀ c i v, (i, some v) ∈ (X.cluster c).slots → v.line = line → v.granted = false ∧ s.dev.homeLocal line ≠ none) ∧
    (128 ≤ dest → s.dev.hubQ = [] → Answers (exec (.ack { dest := dest, line := line }) s) s { s.dev with
      hubOut := dropFirst (fun q => q.requester == dest && q.line == line && (q.kind == .wrf || q.kind == .wrp)) s.dev.hubOut })) ∧
  (∀ (s : State) (v : Eviction) (line h : Nat) (e : EvSlot),
    let c := v.tag.toNat / 32 % 32
    let i := v.tag.toNat / 2 % 16
    AllOn s.dev → s.dev.homeLocal line = some h → (s.dev.region h).waitQ = [] →
    v.tag.toNat / 1024 = s.dev.pkg → (s.dev.cluster c).slotGen.getLsbD i = v.tag.getLsbD 0 →
    Sparse.get none (s.dev.cluster c).slots i = some e → e.line = line → e.granted = false →
    let waits := ∃ X : Dev, Answers (exec (.evd v line) s) s X ∧ X.cluster c = s.dev.cluster c ∧ X.mem = s.dev.mem ∧ X.chan = s.dev.chan ∧
      ((X.region h).waitQ.map (fun q => (q.kind, q.line, q.tag))) = [(.evd, line, some v.tag)]
    ((s.dev.region h).txn line = none → s.dev.entryFree h (v.tag.toNat / 32) e.room = false → waits) ∧
    ((s.dev.region h).txn line = none → s.dev.entryFree h (v.tag.toNat / 32) e.room = true →
      ∃ X : Dev, Answers (exec (.evd v line) s) s X ∧ Sparse.get none (X.cluster c).slots i = some { e with granted := true } ∧
        X.mem = s.dev.mem ∧ ((X.region h).txn line).map (fun t => (t.kind, t.slotTag)) = some (.evd, some v.tag) ∧
        ((∀ j < 64, ∀ b, s.dev.mirrorOf (line * 64 + j) = some b → b / 64 ≠ line) →
          ∀ k < 64, Sparse.get Memory.unlisted X.chan (line * 64 + k) = s.dev.byte (line * 64 + k))) ∧
    (∀ t, (s.dev.region h).txn line = some t →
      (t.cmp = true → t.slotTag = some v.tag →
        ∃ X : Dev, Answers (exec (.evd v line) s) s X ∧ Sparse.get none (X.cluster c).slots i = some { e with granted := true } ∧
          X.mem = s.dev.mem ∧ X.chan = s.dev.chan ∧ (X.region h).sfStale = min (2 ^ 32 - 1) ((s.dev.region h).sfStale + 1)) ∧
      (t.cmp = false ∨ t.slotTag ≠ some v.tag → waits))) ∧
  (∀ (s : State) (region line h : Nat), s.dev.homeLocal line = some h → region < 32 →
    (region / 8 = s.dev.pkg → (∃ c ∈ s.dev.listed line, s.dev.sysRegion (c / 4) = region) → Answers (exec (.rgn region line) s) s s.dev) ∧
    (region / 8 ≠ s.dev.pkg ∨ (∀ c ∈ s.dev.listed line, s.dev.sysRegion (c / 4) ≠ region) →
      ∃ X : Dev, Answers (exec (.rgn region line) s) s X ∧ X.mem = s.dev.mem ∧ X.clusters = s.dev.clusters ∧
        ∀ e ∈ (X.region h).l3, e.line = line → e.vec.getLsbD region = false)) ∧
  ((∀ (s : State) (r : Nat), 8 ≤ r ∨ s.dev.clk.stopped = true ∨ s.dev.nextSlot r = none → Answers (exec (.wheelSlot r) s) s s.dev) ∧
   (∀ (d : Dev) (r k : Nat), d.nextSlot r = some k → k ≤ d.clk.tb * (d.region r).mts / 8000) ∧
   ∀ (s : State) (r k : Nat), r < 8 → s.dev.clk.stopped = false → s.dev.nextSlot r = some k →
     let g := s.dev.region r
     let n := k % 64
     let new := decide (k / 64 ≠ g.wheelAt / 64)
     let D := s.dev.setRegion r { g with
       wheel := (n + 1) % 64, wheelAt := k, turn := if new then s.dev.sealedBw r else g.turn,
       credit := if new then s.dev.newCredit r else g.credit,
       refresh := if n = 31 ∨ n = 63 then (g.refresh + 1) % 4 else g.refresh }
     let st := (s.dev.domain (64 + r)).st
     let owner := (D.turnOwner r n).filter D.ownerRuns
     let mine := owner.bind (fun id => D.oldest (g.chanQ.filter (fun q => q.room == id)))
     (st ≠ .on → st ≠ .gated → Answers (exec (.wheelSlot r) s) s D) ∧
     (st = .on ∨ st = .gated →
       ∃ X : Dev, Answers (exec (.wheelSlot r) s) s X ∧ (X.region r).wheel = (n + 1) % 64 ∧ X.mem = s.dev.mem ∧ X.ctxs = s.dev.ctxs ∧
         (∀ q, mine = some q → (X.region r).chanQ = dropFirst (· == q) g.chanQ ∧ (X.region r).lentCnt = g.lentCnt ∧
           (X.region r).credit = (D.region r).credit) ∧
         (mine = none →
           (X.region r).lentCnt = (if D.turnOwner r n = none then g.lentCnt else min (2 ^ 32 - 1) (g.lentCnt + 1)) ∧
           (∀ q starving paid, D.openGrant r = some (q, starving, paid) →
             (X.region r).chanQ = dropFirst (· == q) g.chanQ ∧
             (X.region r).starveCnt = (if starving then min (2 ^ 32 - 1) (g.starveCnt + 1) else g.starveCnt) ∧
             (paid = true → Sparse.get 0 (X.region r).credit q.room = Sparse.get 0 (D.region r).credit q.room - 1) ∧
             (X.region r).maxAge = max g.maxAge (s.dev.ageOf q.stamp)) ∧
           (D.openGrant r = none → (X.region r).chanQ = g.chanQ))))

/-! ### Cache control, TLB maintenance, watermarks -/

/-- R233, R257: LKFILL takes its enables and ways from the keeper's write, choosing the lowest locked way for one that is not locked, and
with CLR_L1 and CLR_L2 empties the way it names; TLBI removes the matching translations of the room's worlds and stays BUSY until it is
complete. R246 to R248: a watermark move written by the keeper with GO names its window and target and stays BUSY, the room's stores
visible; the watermark changes when no earlier access to the span is open, and only that of its window. -/
def Obligations.CacheControlCompletes : Prop :=
  (∀ r ∈ ([(fun core val _ => (.lkfillWrite core val, val.toNat)), (fun core _ k => (.clrL1 core, k ||| 8)),
      (fun core _ k => (.clrL2 core, k ||| 4))] : List (Nat → W32 → Nat → Instr × Nat)),
    ∀ (s : State) (core : Nat) (val : W32) (D : Dev), Reaches s.dev core (s.dev.viewOfs core 0x200) .write D →
      let i := (r core val (s.dev.lkNow core)).1
      let v := (r core val (s.dev.lkNow core)).2
      let a := s.dev.acc core
      let l1 := D.l1Lock core
      let l2 := D.lkLock (core / 4) a.id
      let w1 := v / 256 % 4
      let w2 := v / 1024 % 16
      let en := v.testBit 1
      v < 2 ^ 32 →
      (a.keeper = false ∨ D.timed a.slot = false → Answers (exec i s) s D) ∧
      (a.keeper = true → D.timed a.slot = true → AllOn D →
        ∃ X : Dev, Answers (exec i s) s X ∧ X.mem = D.mem ∧
          (X.core core).lk =
            { count := if en && !(D.core core).lk.enL1 then 0 else (D.core core).lk.count,
              l2Way := if l2.testBit w2 then w2 else (lowestBit l2 16).getD 0,
              l1Way := if l1.testBit w1 then w1 else (lowestBit l1 8).getD 0, enL1 := en, enL2 := en || v.testBit 0 } ∧
          (v.testBit 3 = true → ∀ e ∈ (X.core core).l1, e.way ≠ (X.core core).lk.l1Way))) ∧
  (∀ r ∈ ([(fun core _ b => .tlbiAll core b, 1), (fun core x b => .tlbiAsid core x b, 2), (fun core x b => .tlbiVaAsid core x b, 3),
      (fun core _ b => .tlbiVa core b, 4)] : List ((Nat → BitVec 16 → TlbiFrom → Instr) × Nat)),
    let kept (slot op : Nat) (worlds : List Bool) (asid : BitVec 16) (va : Nat) (D X : Dev) := X.mem = D.mem ∧
      ∀ c ∈ D.coresOf slot, ∀ e,
        (e ∈ (X.core c).tlb1 ↔ e ∈ (D.core c).tlb1 ∧ (e.room = D.idOf slot → tlbiMatch op worlds asid va e = false)) ∧
        ∀ k, (e ∈ (X.core c).tlbSetOf k ↔ e ∈ (D.core c).tlbSetOf k ∧ (e.room = D.idOf slot → tlbiMatch op worlds asid va e = false))
    (∀ (s : State) (core : Nat) (x : BitVec 16) (both : Bool) (D : Dev), Reaches s.dev core (s.dev.viewOfs core 0x108) .write D →
      let a := s.dev.acc core
      let t := (D.room a.slot).tlbi
      let worlds := if both && a.pl == 2 then [true, false] else [a.secure]
      let asid : BitVec 16 := if r.2 = 2 ∨ r.2 = 3 then x else 0
      let va := t.vaLo.toNat + t.vaHi.toNat * 2 ^ 32
      (a.pl = 0 ∨ t.busy = true → Answers (exec (r.1 core x (.here both)) s) s D) ∧
      (a.pl ≠ 0 → t.busy = false → ∃ X : Dev, Answers (exec (r.1 core x (.here both)) s) s X ∧
        (X.room a.slot).tlbi.busy = true ∧ kept a.slot r.2 worlds asid va D X ∧
        X.outbox = if D.spans a.slot then .tlbi a.id r.2 (both && a.pl == 2) a.secure asid va :: D.outbox else D.outbox)) ∧
    (∀ (s : State) (core id slot : Nat) (x : BitVec 16) (secure both : Bool) (va : Word), s.dev.slotOf id = some slot →
      (s.dev.spans slot = false → Answers (exec (r.1 core x (.far id secure both va)) s) s s.dev) ∧
      (s.dev.spans slot = true → ∃ X : Dev, Answers (exec (r.1 core x (.far id secure both va)) s) s X ∧ X.outbox = s.dev.outbox ∧
        kept slot r.2 (if both then [true, false] else [secure]) (if r.2 = 2 ∨ r.2 = 3 then x else 0) va.toNat s.dev X))) ∧
  (∀ (s : State) (slot : Nat), ∃ X : Dev, Answers (exec (.tlbiComplete slot) s) s X ∧
    X.room slot = { s.dev.room slot with tlbi := { (s.dev.room slot).tlbi with busy := false } } ∧
    ∀ k, k ≠ slot → X.room k = s.dev.room k) ∧
  (∀ (s : State) (core : Nat) (val : W32) (D : Dev), Reaches s.dev core (s.dev.viewOfs core 0x148) .write D →
    let a := s.dev.acc core
    let m := (D.room a.slot).wm
    (a.keeper = false ∨ m.busy = true → Answers (exec (.watermarkMove core (.here val)) s) s D) ∧
    (∀ w, a.keeper = true → m.busy = false → D.winOf a.slot (val.toNat % 8) = some w → val.getLsbD 3 = true → AllOn D →
      (∀ c ∈ D.clustersOf a.slot, (D.cluster c).trestle.queue = []) →
      ∃ X : Dev, Answers (exec (.watermarkMove core (.here val)) s) s X ∧
        (X.room a.slot).wm = { m with win := val.toNat % 8, moving := val.toNat % 8, busy := true,
                                      target := min w.size (m.newLo.toNat + m.newHi.toNat * 2 ^ 32) } ∧
        (X.room a.slot).wmarks = (D.room a.slot).wmarks ∧ ∀ c ∈ D.coresOf a.slot, (X.core c).sbuf = [])) ∧
  (∀ (s : State) (core id slot win : Nat) (ofs : Word), s.dev.slotOf id = some slot →
    let m := (s.dev.room slot).wm
    (s.dev.spans slot = false ∨ m.busy = true → Answers (exec (.watermarkMove core (.far id win ofs)) s) s s.dev) ∧
    (∀ w, s.dev.spans slot = true → m.busy = false → s.dev.winOf slot win = some w → AllOn s.dev →
      (∀ c ∈ s.dev.clustersOf slot, (s.dev.cluster c).trestle.queue = []) →
      ∃ X : Dev, Answers (exec (.watermarkMove core (.far id win ofs)) s) s X ∧
        (X.room slot).wm = { m with moving := win, busy := true, target := min w.size ofs.toNat } ∧
        (X.room slot).wmarks = (s.dev.room slot).wmarks)) ∧
  (∀ (s : State) (slot : Nat),
    let m := (s.dev.room slot).wm
    let span := ((s.dev.winOf slot m.moving).map (fun w => s.dev.wmSpan slot w m.target)).getD (0, 0)
    let open_ := s.dev.spanOpen slot span.1 span.2
    (m.busy = false ∨ open_ = true → Answers (exec (.watermarkMoveDone slot) s) s s.dev) ∧
    (m.busy = true → open_ = false → ∃ X : Dev, Answers (exec (.watermarkMoveDone slot) s) s X ∧ (X.room slot).wm = { m with busy := false } ∧
      ∀ (w : WindowRec), X.wmark slot w = if w.index = m.moving then m.target else s.dev.wmark slot w))

/-! ### The floorplan -/

/-- R90 to R92, R94: FLP_CMD obeys room 0's keeper alone; LOAD and REVERT need Idle, SWAP needs Ready, CANCEL acts in Ready, Armed and
Draining, START_ROOM starts a room that is held for AUTOSTART = 0; another code sets RESULT 0x33 and does nothing. That a room not there
gives 0x33 and a running room 0x00 is the model's choice (notes/assumptions/12.md), and so is 0x33 for LOAD and SWAP given to a package other than 0
(notes/assumptions/52.md). -/
def Obligations.FloorplanByTheKeeper : Prop :=
  ∀ (s : State) (core : Nat) (D : Dev), Reaches s.dev core 0x10000 .write D →
    let a := s.dev.acc core
    let f := D.flp
    let src := f.srcLo.toNat / 8 * 8 + f.srcHi.toNat % 2 ^ 20 * 2 ^ 32
    let len := max 1024 (min 0x400000 f.len)
    let own := D.pkg = 0 ∨ D.per.present.getLsbD 0 = false
    let fails (i : Instr) (result : Nat) := Answers (exec i s) s { D with flp := { f with result := result } }
    (a.keeper = false ∨ a.id ≠ 0 → ∀ i ∈ [Instr.load (.core core), .swap (.core core), .cancel (.core core), .revert (.core core)],
      Answers (exec i s) s D) ∧
    (a.keeper = false ∨ a.id ≠ 0 → ∀ id val, Answers (exec (.startRoom (.core core) id) s) s D ∧
      Answers (exec (.badCommand core val) s) s D) ∧
    (a.keeper = true → a.id = 0 →
      (¬ own → fails (.load (.core core)) 0x33 ∧ fails (.swap (.core core)) 0x33) ∧
      (f.st ≠ .idle → (own → fails (.load (.core core)) 0x31) ∧ fails (.revert (.core core)) 0x31) ∧
      (f.st ≠ .ready → own → fails (.swap (.core core)) 0x31) ∧
      (f.st ≠ .ready → f.st ≠ .armed → f.st ≠ .draining → Answers (exec (.cancel (.core core)) s) s D) ∧
      (∀ val : W32, val.toNat % 16 ∉ [1, 2, 3, 4, 5] → fails (.badCommand core val) 0x33) ∧
      (f.st = .idle → own → D.flpSource src len = true →
        ∃ X : Dev, Answers (exec (.load (.core core)) s) s X ∧ X.store = { D.store with shadow := D.bytes src len } ∧
          X.shadowPlan = none ∧ X.flp = { f with st := .validating, result := 0, origin := 0, reverting := false } ∧ X.plan = D.plan) ∧
      (f.st = .idle → own → D.flpSource src len = false →
        Answers (exec (.load (.core core)) s) s { D with flp := { f with result := 0x30, origin := 0 } }) ∧
      (f.st = .idle →
        ∃ X : Dev, Answers (exec (.revert (.core core)) s) s X ∧ X.store = { D.store with shadow := D.store.lastGood } ∧
          X.shadowPlan = none ∧ X.flp = { f with st := .validating, result := 0, origin := 0, reverting := true } ∧ X.plan = D.plan) ∧
      (∀ new, f.st = .ready → own → D.shadowPlan = some new →
        ∃ X : Dev, Answers (exec (.swap (.core core)) s) s X ∧ X.flp = { f with st := .armed, result := 0, origin := 0 } ∧
          X.plan = D.plan ∧ X.shadowPlan = some new ∧
          ∀ k < 64, ∀ cls, D.swapClassOf new k = some cls → (X.room k).swapClass = some cls) ∧
      (f.st = .ready ∨ f.st = .armed ∨ f.st = .draining →
        ∃ X : Dev, Answers (exec (.cancel (.core core)) s) s X ∧ X.flp = { f with st := .idle, result := 0, origin := 0 } ∧
          X.shadowPlan = none ∧ X.store.shadow = [] ∧ X.plan = D.plan) ∧
      (∀ id < 256, (f.st = .draining ∨ f.st = .swapping → fails (.startRoom (.core core) id) 0x31) ∧
        (f.st ≠ .draining → f.st ≠ .swapping →
          let does (result : Nat) (r : Nat → Room → Room) := ∃ X : Dev, Answers (exec (.startRoom (.core core) id) s) s X ∧
            X.flp = { f with result := result, origin := 0 } ∧ ∀ k, X.room k = r k (D.room k)
          (D.slotOf id = none → does 0x33 (fun _ r => r)) ∧
          ∀ slot, D.slotOf id = some slot →
            ((D.room slot).phase ≠ .held → does 0 (fun _ r => r)) ∧
            ((D.room slot).phase = .held → (D.room slot).reason ≠ 7 → does 0x34 (fun _ r => r)) ∧
            ((D.room slot).phase = .held → (D.room slot).reason = 7 → does 0 (fun k r =>
              if k = slot then { r with phase := .starting, readyAt := (D.clk.tb / 5000 + 1) * 5000, reason := 0 } else r)))))

/-- R80, R91, R95: validation ends in Ready with the shadow set filled, or in Idle with the shadow slot empty, the failing step as RESULT and
an incident; a package of several tells its own verdict and waits for the others' (R99); at the swap point the shadow set becomes active, the slots rotate and HIGH_GEN never falls; a room whose zero-fill is
complete starts (R97). -/
def Obligations.SwapCompletes : Prop :=
  (∀ (s : State) (peers : List PeerVerdict),
    (s.dev.flp.st ≠ .validating → Answers (exec (.validationDone peers) s) s s.dev) ∧
    (s.dev.flp.st = .validating → match s.dev.validate s.dev.store.shadow s.dev.flpMode with
      | .error (code, sec) =>
        ∃ X : Dev, Answers (exec (.validationDone peers) s) s X ∧ X.store = { s.dev.store with shadow := [] } ∧ X.shadowPlan = none ∧
          X.flp = { s.dev.flp with st := .idle, result := code, section_ := sec } ∧ X.plan = s.dev.plan ∧
          X.inc.seq = (s.dev.inc.seq + 1) % 2 ^ 32 ∧
          X.outbox = if s.dev.others = [] then s.dev.outbox else .floorplanVerdict false :: s.dev.outbox
      | .ok p =>
        let told : Dev := { s.dev with
          outbox := if s.dev.others = [] ∨ s.dev.shadowPlan ≠ none then s.dev.outbox else .floorplanVerdict true :: s.dev.outbox }
        s.dev.shadowPlan = none ∨ s.dev.shadowPlan = some p →
        ((∀ k ∈ s.dev.others, (∃ v ∈ peers, v.pkg = k) ∧ ∀ v ∈ peers, v.pkg = k → v.ready = true) →
          Answers (exec (.validationDone peers) s) s { told with shadowPlan := some p, flp := { s.dev.flp with st := .ready, result := 0 } }) ∧
        ((∀ v ∈ peers, v.pkg ∈ s.dev.others → v.ready = true) → (∃ k ∈ s.dev.others, ∀ v ∈ peers, v.pkg ≠ k) →
          Answers (exec (.validationDone peers) s) s { told with shadowPlan := some p }) ∧
        (∀ v ∈ peers, v.ready = false → v.pkg ∈ s.dev.others →
          Answers (exec (.validationDone peers) s) s
            { told with store := { s.dev.store with shadow := [] }, shadowPlan := none, flp := { s.dev.flp with st := .idle, result := 0x32 } }))) ∧
  (∀ s : State, (s.dev.shadowPlan = none ∨ s.dev.swapReady = false) → Answers (exec .swapPoint s) s s.dev) ∧
  (∀ (s : State) (new : Plan), s.dev.shadowPlan = some new → s.dev.swapReady = true → s.dev.porch.mainOk = true →
    ∃ X : Dev, Answers (exec .swapPoint s) s X ∧ X.plan = new ∧ X.shadowPlan = none ∧ X.flp = { s.dev.flp with st := .idle } ∧
      X.store = { s.dev.store with lastGood := s.dev.store.active, active := s.dev.store.shadow, shadow := [],
                                   highGen := max s.dev.store.highGen new.generation }) ∧
  (∀ (s : State) (slot : Nat),
    let r := s.dev.room slot
    (r.zeroFill = false → Answers (exec (.zeroFillDone slot) s) s s.dev) ∧
    (∀ R, r.zeroFill = true → r.phase = .held → r.reason = 8 → s.dev.rrec slot = some R → R.autostart = true → s.dev.blocked slot = none →
      ∃ X : Dev, Answers (exec (.zeroFillDone slot) s) s X ∧ X.mem = s.dev.mem ∧ ∀ k, X.room k = if k = slot then
        { r with zeroFill := false, phase := .starting, readyAt := (s.dev.clk.tb / 5000 + 1) * 5000, reason := 0 } else s.dev.room k) ∧
    (r.zeroFill = true → r.phase ≠ .held ∨ r.reason ≠ 8 →
      ∃ X : Dev, Answers (exec (.zeroFillDone slot) s) s X ∧ X.mem = s.dev.mem ∧
        ∀ k, X.room k = if k = slot then { r with zeroFill := false } else s.dev.room k))

/-! ### The Lobby -/

/-- R84, R86: HELLO to a slot that holds a key and is not locked is answered with a challenge, to a locked or empty slot with REFUSE, and
not at all while eight sessions are open; a right PROOF opens the session and clears the slot's count, a wrong one counts and from
the fifth locks the slot; an idle session closes after 300 s (R85). REFUSE for an empty slot is the model's choice
(notes/assumptions/11.md). -/
def Obligations.SessionsOpenAndClose : Prop :=
  (∀ (s : State) (ch : Channel) (slot : Nat) (nc : List Byte),
    s.dev.lobbyUp = true → s.dev.chReach ch = true → nc.length = 16 → slot < 16 → s.dev.keys.own = .owned →
    let k := s.dev.keySlot slot
    (8 ≤ (s.lobby.sessions.filter Session.isOpen).length → exec (.hello ch slot nc) s = .next s) ∧
    ((s.lobby.sessions.filter Session.isOpen).length < 8 → k.key = [] ∨ s.dev.clk.tb < k.lockUntil →
      exec (.hello ch slot nc) s = .next { s with dev := s.dev.emit (.refuse ch) }) ∧
    ((s.lobby.sessions.filter Session.isOpen).length < 8 → k.key ≠ [] → k.lockUntil ≤ s.dev.clk.tb → s.lobby.nextSid < 2 ^ 32 →
      (∀ y ∈ s.lobby.sessions, y.sid ≠ s.lobby.nextSid) → ∃ (x : Session) (D : Dev), x.sid = s.lobby.nextSid ∧ x.slot = slot ∧ x.ch = ch ∧ x.nc = nc ∧ x.nd.length = 16 ∧ x.isOpen = false ∧
        D = { s.dev with clk := D.clk } ∧ D.clk.tb = s.dev.clk.tb ∧
        exec (.hello ch slot nc) s = .next { s with
          dev := D.emit (.challenge ch x.nd x.sid k.salt),
          lobby := { sessions := s.lobby.sessions ++ [x], nextSid := (s.lobby.nextSid + 1) % 2 ^ 32 } })) ∧
  (∀ (s : State) (sid : Nat) (mac : List Byte) (x : Session),
    s.lobby.sessions.find? (fun y => y.sid == sid && !y.isOpen) = some x → s.dev.lobbyUp = true → s.dev.chReach x.ch = true →
    (s.lobby.sessions.filter Session.isOpen).length < 8 →
    let k := s.dev.keySlot x.slot
    let text := x.nc ++ x.nd ++ leBytes 4 x.sid
    (mac = Config.hmac256 k.key (ascii "KSES-C" ++ text) →
      ∃ t, exec (.proof sid mac) s = .next t ∧ t.dev.keySlot x.slot = { k with fails := 0 } ∧
        t.lobby.sessions = s.lobby.sessions.map (fun y => if y.sid = sid then
          { x with isOpen := true, key := Config.hkdf256 k.key (x.nc ++ x.nd) (ascii "KSES" ++ leBytes 4 sid) 32, role := k.role,
                   lastAt := s.dev.clk.tb } else y) ∧
        t.dev.outbox = .accept x.ch (Config.hmac256 k.key (ascii "KSES-D" ++ text)) :: s.dev.outbox) ∧
    (mac ≠ Config.hmac256 k.key (ascii "KSES-C" ++ text) →
      ∃ t, exec (.proof sid mac) s = .next t ∧ t.lobby.sessions = s.lobby.sessions.filter (fun y => y.sid != sid) ∧
        t.dev.outbox = .refuse x.ch :: s.dev.outbox ∧ t.dev.keySlot x.slot = { k with
          fails := k.fails + 1
          lockUntil := if k.fails + 1 < 5 then k.lockUntil
            else s.dev.clk.tb + min (60 * 2 ^ (k.fails + 1 - 5)) 61440 * 1000000000 })) ∧
  (∀ (s : State) (sid : Nat) (x : Session), s.lobby.sessions.find? (fun y => y.sid == sid && y.isOpen) = some x →
    (s.dev.clk.tb < x.lastAt + 300000000000 → exec (.sessionIdleTimeout sid) s = .next s) ∧
    (x.lastAt + 300000000000 ≤ s.dev.clk.tb → ∃ t, exec (.sessionIdleTimeout sid) s = .next t ∧
      t.lobby.sessions = s.lobby.sessions.filter (fun y => y.sid != sid))) ∧
  (∀ (s : State) (pub nonce ct tag : List Byte), s.dev.lobbyUp = true →
    (s.dev.keys.own ≠ .unowned → Answers (exec (.own pub nonce ct tag) s) s s.dev) ∧
    (s.dev.keys.own = .unowned → match Config.gcmOpen (Config.hkdf256 (Config.ecdhDevice pub) [] [] 32) nonce [] ct tag with
      | none => Answers (exec (.own pub nonce ct tag) s) s s.dev
      | some p =>
        (p.length ≠ 880 ∨ (∃ k < 16, 4 < leAt p (96 + 49 * k) 1) → Answers (exec (.own pub nonce ct tag) s) s s.dev) ∧
        (p.length = 880 → (∀ k < 16, leAt p (96 + 49 * k) 1 ≤ 4) →
          ∃ X : Dev, Answers (exec (.own pub nonce ct tag) s) s X ∧ X.keys.own = .owned ∧ X.keys.ownerHash = Config.sha384 (p.take 96) ∧
            X.keys.tapOff = true ∧ ∀ k < 16, X.keySlot k = { role := leAt p (96 + 49 * k) 1, key := slice p (97 + 49 * k) 32,
                                                             salt := slice p (129 + 49 * k) 16, fails := 0, lockUntil := 0 }))) ∧
  (∀ (s : State) (ch : Channel), s.dev.lobbyUp = true → s.dev.chReach ch = true →
    let last := s.dev.keys.identAt.find? (fun p => p.1 == Channel.number ch)
    (∀ p, last = some p → s.dev.clk.tb < p.2 + 100000000 → Answers (exec (.ident ch) s) s s.dev) ∧
    ((∀ p, last = some p → p.2 + 100000000 ≤ s.dev.clk.tb) →
      ∃ X : Dev, Answers (exec (.ident ch) s) s X ∧ X.outbox = .ident ch s.dev.identity :: s.dev.outbox ∧ X.mem = s.dev.mem))

/-- R85, R479: of every Lobby command, a message that is no longer than 1,280 bytes, whose MAC is right and whose number is above the last,
is acted on, its role first: a role that the command does not permit gets STATUS 1 and nothing else happens; any other message is
discarded, the sixteenth closing its session. -/
def Obligations.LobbyMessagesComplete : Prop :=
  ∀ (s : State) (i : Instr) (m : LobbyMsg) (cmd roles : Nat), lobbyRow i = some (m, cmd, roles) →
    (s.sessionOf m.sid = none → exec i s = .next (State.settle s)) ∧
    ∀ x, s.sessionOf m.sid = some x →
      let ok := x.lastSeq < m.seq ∧ m.seq < 2 ^ 32 ∧ m.payload.length ≤ 1280 ∧ m.mac = (Config.hmac256 x.key
        (leBytes 4 m.sid ++ leBytes 4 m.seq ++ leBytes 1 cmd ++ leBytes 1 0 ++ leBytes 2 m.payload.length ++ leBytes 4 0 ++ m.payload)).take 16
      (¬ ok → x.discarded < 15 → exec i s = .next (State.settle (s.putSession { x with discarded := x.discarded + 1 }))) ∧
      (¬ ok → 15 ≤ x.discarded → ∃ t, exec i s = .next (State.settle t) ∧
        t.lobby.sessions = s.lobby.sessions.filter (fun y => y.sid != x.sid)) ∧
      (ok → roles.testBit x.role = false → Replies i s x m { d := s.dev, status := 1, stream := x.stream }) ∧
      (ok → roles.testBit x.role = true → (∀ n, i ≠ .surrender m n) → ∃ r, Replies i s x m r)

/-- R92, R480, R483, R490, R520: what the Lobby commands that read answer. A register of a halted context needs level 1 on its world; a peek
of DRAM changes nothing, needs level 1 on every byte, and its payload is the newest bytes; packets of a closed world come zeroed but for
TYPE. The layout of the reply to STATUS is the model's choice (notes/assumptions/11.md). -/
def Obligations.LobbyReadsComplete : Prop :=
  (∀ (s : State) (m : LobbyMsg) (x : Session), Admits s (.status m) x m →
    Replies (.status m) s x m { d := s.dev, payload := s.statusBytes, stream := x.stream }) ∧
  (∀ (s : State) (m : LobbyMsg) (x : Session) (jnl : Bool) (first count : Nat), Admits s (.readInc m jnl first count) x m →
    (10 < count → Replies (.readInc m jnl first count) s x m { d := s.dev, status := 7, stream := x.stream }) ∧
    (count ≤ 10 → ∃ D, D = { s.dev with inc := D.inc } ∧ (x.role ≠ 4 → D = s.dev) ∧
      let recs := if jnl then ((s.dev.inc.journal.drop first).take count).map Prod.fst
        else (List.range count).filterMap (fun i => (s.dev.inc.ring.find? (fun p => p.1 == (first + i) % 8192)).map (fun p => p.2.1))
      Replies (.readInc m jnl first count) s x m { d := D, stream := x.stream, payload := recs.flatMap Incident.bytes })) ∧
  (∀ (s : State) (m : LobbyMsg) (x : Session) (slot first count : Nat), Admits s (.readTrace m slot first count) x m →
    (s.dev.rrec slot = none → Replies (.readTrace m slot first count) s x m { d := s.dev, status := 6, stream := x.stream }) ∧
    ((s.dev.rrec slot).isSome = true → 40 < count ∨ s.dev.traceKib slot * 32 < first + count →
      Replies (.readTrace m slot first count) s x m { d := s.dev, status := 7, stream := x.stream }) ∧
    ((s.dev.rrec slot).isSome = true → count ≤ 40 → first + count ≤ s.dev.traceKib slot * 32 →
      let shown (i : Nat) : List Byte :=
        let p := s.dev.bytes (s.dev.traceBase slot + first * 32 + i * 32) 32
        if 1 ≤ s.dev.sessLevel slot x.sid ((p.getD 10 0).getLsbD 4) then p else List.replicate 8 0 ++ slice p 8 1 ++ List.replicate 23 0
      Replies (.readTrace m slot first count) s x m
        { d := s.dev, stream := x.stream, payload := (List.range count).flatMap shown })) ∧
  (∀ (s : State) (m : LobbyMsg) (x : Session) (core bank : Nat) (r : RegName), Admits s (.regRd m core bank r) x m →
    let cx := core * 4 + bank
    let fails (st : Nat) := Replies (.regRd m core bank r) s x m { d := s.dev, status := st, stream := x.stream }
    (s.dev.coreSlot core = none → fails 6) ∧
    ∀ slot, s.dev.coreSlot core = some slot →
      let lvl := s.dev.sessLevel slot x.sid (RegName.world r (s.dev.ctx cx))
      (lvl = 0 → fails 2) ∧ (1 ≤ lvl → (s.dev.core core).halted = none → fails 4) ∧
      (1 ≤ lvl → (s.dev.core core).halted.isSome = true → bank ∈ s.dev.banks core →
        Replies (.regRd m core bank r) s x m
          { d := s.dev, payload := leBytes 8 (RegName.read r (s.dev.ctx cx)).toNat, stream := x.stream })) ∧
  (∀ (s : State) (m : LobbyMsg) (x : Session) (core slot : Nat), Admits s (.pcSample m core) x m → s.dev.coreSlot core = some slot →
    let lvl := s.dev.sessLevel slot x.sid (s.dev.ctx (s.dev.curCtx core)).secure
    (lvl = 0 → Replies (.pcSample m core) s x m { d := s.dev, status := 2, stream := x.stream }) ∧
    (1 ≤ lvl → (s.dev.room slot).phase = .running → (s.dev.core core).halted = none →
      (s.dev.core core).run = .running ∨ (s.dev.core core).run = .idle →
      Replies (.pcSample m core) s x m
        { d := s.dev, payload := leBytes 8 (s.dev.ctx (s.dev.curCtx core)).pc.toNat, stream := x.stream })) ∧
  (∀ (s : State) (m : LobbyMsg) (x : Session) (slot pa len : Nat), Admits s (.memRd m slot (.pa pa) len false) x m →
    (s.dev.rrec slot).isSome = true → 0 < len → len ≤ 1280 →
    ((∃ i < len, s.dev.dbgByte slot x.sid 1 false (pa + i) = 2) →
      Replies (.memRd m slot (.pa pa) len false) s x m { d := s.dev, status := 2, stream := x.stream }) ∧
    ((∀ i < len, s.dev.dbgByte slot x.sid 1 false (pa + i) = 0) → paKind pa = .dram →
      Replies (.memRd m slot (.pa pa) len false) s x m { d := s.dev, payload := s.dev.bytes pa len, stream := x.stream }) ∧
    ((∀ i < len, s.dev.dbgByte slot x.sid 1 false (pa + i) = 0) → paKind pa = .pcie →
      Replies (.memRd m slot (.pa pa) len false) s x m { d := s.dev, status := 4, stream := x.stream })) ∧
  (∀ (d : Dev) (slot sid need : Nat) (wr : Bool) (pa : Nat) (w : WindowRec), d.inViewPage (d.idOf slot) pa = false →
    d.plan.windowAt (d.idOf slot) pa = some w →
    d.sessLevel slot sid (decide (pa - w.base < d.wmark slot w)) < need → d.dbgByte slot sid need wr pa = 2)

/-- R484 to R489: HALT stops each core it names that stands in a world on which the session holds full, clearing its reservations and
freezing the room's epochs, and is pending on the others until they stand in such a world; RESUME frees the session's cores; STEP lets
a halted core run; comparators are set and cleared; registers of halted contexts are written, and
(with every domain On, and nothing under way on the lines) memory, unlogged. -/
def Obligations.LobbyDebugComplete : Prop :=
  (∀ (s : State) (m : LobbyMsg) (x : Session) (t : HaltTarget), Admits s (.halt m t) x m →
    (s.dev.haltTargets t = none → Replies (.halt m t) s x m { d := s.dev, status := 6, stream := x.stream }) ∧
    ∀ slot cs, s.dev.haltTargets t = some (slot, cs) →
      (s.dev.sessLevel slot x.sid false < 2 → s.dev.sessLevel slot x.sid true < 2 →
        Replies (.halt m t) s x m { d := s.dev, status := 2, stream := x.stream }) ∧
      (s.dev.sessLevel slot x.sid false = 2 ∨ s.dev.sessLevel slot x.sid true = 2 → (s.dev.room slot).phase = .running →
        ∃ r, Replies (.halt m t) s x m r ∧ r.status = 0 ∧
          (∀ c ∈ cs, (s.dev.core c).halted = none → (s.dev.core c).wait = none →
            s.dev.sessLevel slot x.sid (s.dev.ctx (s.dev.curCtx c)).secure = 2 →
            (r.d.core c).halted = some x.sid ∧ (r.d.room slot).epo.frozen = true ∧ ∀ b < 4, (r.d.ctx (c * 4 + b)).resv = none) ∧
          (∀ c ∈ cs, (s.dev.core c).halted = none → s.dev.sessLevel slot x.sid (s.dev.ctx (s.dev.curCtx c)).secure ≠ 2 →
            (r.d.core c).halted = none ∧ (r.d.core c).pendHalt = some x.sid))) ∧
  (∀ (s : State) (core : Nat),
    ((s.dev.core core).pendHalt = none → Answers (exec (.pendingHaltStop core) s) s s.dev) ∧
    ∀ sid slot, (s.dev.core core).pendHalt = some sid → s.dev.coreSlot core = some slot → (s.dev.room slot).phase = .running →
      (s.dev.core core).halted = none →
      (s.dev.sessLevel slot sid (s.dev.ctx (s.dev.curCtx core)).secure ≠ 2 → Answers (exec (.pendingHaltStop core) s) s s.dev) ∧
      ((s.dev.core core).wait = none → s.dev.sessLevel slot sid (s.dev.ctx (s.dev.curCtx core)).secure = 2 →
        ∃ X : Dev, Answers (exec (.pendingHaltStop core) s) s X ∧ (X.core core).halted = some sid ∧ (X.core core).pendHalt = none ∧
          (X.room slot).epo.frozen = true)) ∧
  (∀ (s : State) (m : LobbyMsg) (x : Session) (t : HaltTarget) (slot : Nat) (cs : List Nat), Admits s (.resume m t) x m →
    s.dev.haltTargets t = some (slot, cs) → s.dev.sessLevel slot x.sid false = 2 ∨ s.dev.sessLevel slot x.sid true = 2 →
    ((∀ c ∈ cs, (s.dev.core c).halted ≠ some x.sid) →
      Replies (.resume m t) s x m { d := s.dev, status := 4, stream := x.stream }) ∧
    ((∃ c ∈ cs, (s.dev.core c).halted = some x.sid) → ∃ r, Replies (.resume m t) s x m r ∧ r.status = 0 ∧
      ∀ c ∈ cs, (s.dev.core c).halted = some x.sid → s.dev.coreSlot c = some slot → (r.d.core c).halted = none)) ∧
  (∀ (s : State) (m : LobbyMsg) (x : Session) (core slot : Nat) (k : StepKind), Admits s (.step m core k) x m →
    s.dev.coreSlot core = some slot →
    let lvl := s.dev.sessLevel slot x.sid (s.dev.ctx (s.dev.curCtx core)).secure
    (lvl < 2 → Replies (.step m core k) s x m { d := s.dev, status := 2, stream := x.stream }) ∧
    (2 ≤ lvl → (s.dev.core core).halted ≠ some x.sid →
      Replies (.step m core k) s x m { d := s.dev, status := 4, stream := x.stream }) ∧
    (2 ≤ lvl → (s.dev.core core).halted = some x.sid → StepKind.ended k (s.dev.ctx (s.dev.curCtx core)).pc = false →
      ∃ r, Replies (.step m core k) s x m r ∧ r.status = 0 ∧ (r.d.core core).stepping = some k ∧ r.d.ctxs = s.dev.ctxs ∧
        r.d.mem = s.dev.mem)) ∧
  (∀ (s : State) (m : LobbyMsg) (x : Session), Admits s (.bpSet m) x m →
    let p := m.payload
    let core := leAt p 0 2 % 128
    let mask := leAt p 4 1
    let fails (st : Nat) := Replies (.bpSet m) s x m { d := s.dev, status := st, stream := x.stream }
    (p.length ≠ 16 → fails 7) ∧
    (p.length = 16 → leAt p 0 2 / 128 ≠ s.dev.pkg → fails 6) ∧
    ∀ slot, p.length = 16 → leAt p 0 2 / 128 = s.dev.pkg → s.dev.coreSlot core = some slot →
      let full := (mask.testBit 3 = true → s.dev.sessLevel slot x.sid false = 2) ∧ (mask.testBit 4 = true → s.dev.sessLevel slot x.sid true = 2)
      (¬ full → fails 2) ∧
      (full → leAt p 2 1 ≤ 7 → leAt p 3 1 ≤ 3 → ∃ r, Replies (.bpSet m) s x m r ∧ r.status = 0 ∧ r.d.mem = s.dev.mem ∧
        ∀ b, b ∈ (r.d.core core).bps ↔ (b ∈ (s.dev.core core).bps ∧ b.index ≠ leAt p 2 1) ∨
          b = { index := leAt p 2 1, kind := bpKindOf (leAt p 3 1), mask := BitVec.ofNat 8 mask,
                sizeLog2 := max 3 (min 12 (leAt p 5 1)), asid := BitVec.ofNat 16 (leAt p 6 2), va := BitVec.ofNat 64 (leAt p 8 8),
                sid := x.sid })) ∧
  (∀ (s : State) (m : LobbyMsg) (x : Session) (core index slot : Nat), Admits s (.bpClr m core index) x m →
    s.dev.coreSlot core = some slot → index ≤ 7 → s.dev.sessLevel slot x.sid false = 2 → s.dev.sessLevel slot x.sid true = 2 →
    ∃ r, Replies (.bpClr m core index) s x m r ∧ r.status = 0 ∧
      ∀ b, b ∈ (r.d.core core).bps ↔ b ∈ (s.dev.core core).bps ∧ b.index ≠ index) ∧
  (∀ (s : State) (m : LobbyMsg) (x : Session) (core bank slot : Nat) (r : RegName) (v : Word), Admits s (.regWr m core bank r v) x m →
    s.dev.coreSlot core = some slot →
    let cx := core * 4 + bank
    let lvl := s.dev.sessLevel slot x.sid (RegName.world r (s.dev.ctx cx))
    (lvl < 2 → Replies (.regWr m core bank r v) s x m { d := s.dev, status := 2, stream := x.stream }) ∧
    (2 ≤ lvl → (s.dev.core core).halted.isSome = true → bank ∈ s.dev.banks core →
      Replies (.regWr m core bank r v) s x m { d := s.dev.setCtx cx (RegName.write r (s.dev.ctx cx) v), stream := x.stream }) ∧
    (∀ n (y : Ctx), RegName.write (.gpr n) y v = y.wr n.toNat v ∧ RegName.write .pc y v = { y with pc := v })) ∧
  (∀ (s : State) (m : LobbyMsg) (x : Session) (slot pa : Nat) (data : List Byte), Admits s (.memWr m slot (.pa pa) data) x m →
    AllOn s.dev → Unhindered s.dev (s.dev.idOf slot) (spread pa data) → (s.dev.rrec slot).isSome = true → 0 < data.length → data.length ≤ 1280 →
    ((∃ i < data.length, s.dev.dbgByte slot x.sid 2 true (pa + i) = 2) →
      Replies (.memWr m slot (.pa pa) data) s x m { d := s.dev, status := 2, stream := x.stream }) ∧
    ((∀ i < data.length, s.dev.dbgByte slot x.sid 2 true (pa + i) = 0) → paKind pa = .dram →
      ∃ r, Replies (.memWr m slot (.pa pa) data) s x m r ∧ r.status = 0 ∧
        r.d.mem = s.dev.mem.putAll (s.dev.mirrored (spread pa data)) ∧
        (∀ c, (r.d.cluster c).undo = (s.dev.cluster c).undo) ∧ ∀ j p, (r.d.ctx j).getP p = (s.dev.ctx j).getP p))

/-- R81, R448, R453, R461, R521 to R523: NODE_KEY and KEYSLOT store keys; POWER reaches any domain, refused with STATUS 4; DEV_STATE stops the
device; RESET resets a room; SURRENDER leaves a device that is read out and idle with no keys, images or sessions but its own, and it is
Returned once its DRAM is zeroed. The STATUS of a refusal is the model's choice (notes/assumptions/11.md). -/
def Obligations.LobbyKeysPowerSurrenderComplete : Prop :=
  (∀ (s : State) (m : LobbyMsg) (x : Session) (node : Nat) (key : List Byte), Admits s (.nodeKey m node key) x m →
    (4096 ≤ node ∨ key.length ≠ 32 → Replies (.nodeKey m node key) s x m { d := s.dev, status := 7, stream := x.stream }) ∧
    (node < 4096 → key.length = 32 → ∃ r, Replies (.nodeKey m node key) s x m r ∧ r.status = 0 ∧
      r.d = { s.dev with keys := { s.dev.keys with nodeKeys := r.d.keys.nodeKeys } } ∧
      ∀ n, Sparse.get [] r.d.keys.nodeKeys n = if n = node then key else Sparse.get [] s.dev.keys.nodeKeys n)) ∧
  (∀ (s : State) (m : LobbyMsg) (x : Session) (slot role : Nat) (key salt : List Byte), Admits s (.keyslot m slot role key salt) x m →
    slot < 16 → role < 5 → key.length = 32 → salt.length = 16 → ∃ r, Replies (.keyslot m slot role key salt) s x m r ∧ r.status = 0 ∧
      r.d.mem = s.dev.mem ∧ ∀ n, r.d.keySlot n =
        if n = slot then { s.dev.keySlot slot with role := role, key := key, salt := salt } else s.dev.keySlot n) ∧
  (∀ (s : State) (m : LobbyMsg) (x : Session) (domain : Nat) (st : BitVec 2), Admits s (.power m domain st) x m →
    let q : Asker := { slot := none, secure := false, reply := none }
    (127 ≤ domain → Replies (.power m domain st) s x m { d := s.dev, status := 7, stream := x.stream }) ∧
    (domain < 127 → s.dev.clk.stopped = false →
      (st = 0 → Replies (.power m domain st) s x m { d := s.dev.startWake domain, stream := x.stream }) ∧
      (st ≠ 0 → ∀ code, s.dev.refuser q domain (domStOf st.toNat) false = some code →
        ∃ r, Replies (.power m domain st) s x m r ∧ r.status = 4 ∧ ∀ n, (r.d.domain n).st = (s.dev.domain n).st) ∧
      (st = 2 ∨ st = 3 → s.dev.refuser q domain (domStOf st.toNat) false = none →
        (s.dev.domain domain).st.code < (domStOf st.toNat).code →
        ∃ r, Replies (.power m domain st) s x m r ∧ r.status = 0 ∧ (r.d.domain domain).entering = some (domStOf st.toNat)))) ∧
  (∀ (s : State) (m : LobbyMsg) (x : Session) (cmd : BitVec 2), Admits s (.devState m cmd) x m →
    (cmd ≠ 1 → cmd ≠ 2 → Replies (.devState m cmd) s x m { d := s.dev, status := 7, stream := x.stream }) ∧
    (cmd = 1 ∨ cmd = 2 → s.dev.devState = .run →
      (s.dev.devRefuser ≠ 0 → Replies (.devState m cmd) s x m
        { d := { s.dev with porch := { s.dev.porch with result := s.dev.devRefuser } }, status := 4, stream := x.stream }) ∧
      (s.dev.devRefuser = 0 → ∃ r, Replies (.devState m cmd) s x m r ∧ r.status = 0 ∧
        r.d.devState = (if cmd = 1 then .retain else .off) ∧ r.d.clk.stopped = true ∧ (cmd = 2 → r.d.mem = [])))) ∧
  (∀ (s : State) (m : LobbyMsg) (x : Session) (id : Nat), Admits s (.reset m (.room id)) x m →
    (s.dev.slotOf id = none → Replies (.reset m (.room id)) s x m { d := s.dev, status := 6, stream := x.stream }) ∧
    (∀ slot, s.dev.slotOf id = some slot → (s.dev.room slot).rb = none →
      Replies (.reset m (.room id)) s x m { d := (s.dev.tellReset slot 4).resetRoom slot 4, stream := x.stream })) ∧
  (∀ (s : State) (m : LobbyMsg) (x : Session), Admits s (.reset m .warm) x m →
    Replies (.reset m .warm) s x m { d := s.dev.warmReset 3, stream := x.stream }) ∧
  (∀ (s : State) (m : LobbyMsg) (x : Session) (serial : Word), Admits s (.surrender m serial) x m →
    let busy := s.dev.flp.st ≠ .idle ∨ (∃ k < 64, (s.dev.room k).rb.isSome = true) ∨ s.dev.bist.shutdown = true
    let fails (st : Nat) := Replies (.surrender m serial) s x m { d := s.dev, status := st, stream := x.stream }
    (serial ≠ Config.serial → fails 7) ∧
    (serial = Config.serial → s.dev.inc.expRing = false ∨ s.dev.inc.expJnl = false → fails 4) ∧
    (serial = Config.serial → s.dev.inc.expRing = true → s.dev.inc.expJnl = true → busy → fails 3) ∧
    (serial = Config.serial → s.dev.inc.expRing = true → s.dev.inc.expJnl = true → ¬ busy →
      ∃ t, exec (.surrender m serial) s = .next t ∧ t.dev.keys.own = .surrendering ∧ t.dev.keys.slots = [] ∧ t.dev.keys.ownerHash = [] ∧
        t.dev.keys.nodeKeys = [] ∧ t.dev.store.active = [] ∧ t.dev.store.shadow = [] ∧ t.dev.store.lastGood = [] ∧
        t.dev.store.factory = s.dev.store.factory ∧ t.dev.store.highGen = s.dev.store.highGen ∧ t.dev.inc.journal = [] ∧
        t.dev.rooms.all (fun p => p.2.phase == .absent) = true ∧ ∀ y ∈ t.lobby.sessions, y.sid = m.sid)) ∧
  (∀ s : State, (s.dev.keys.own ≠ .surrendering → Answers (exec .surrenderComplete s) s s.dev) ∧
    (s.dev.keys.own = .surrendering → ∃ t, exec .surrenderComplete s = .next t ∧ t.dev.keys.own = .returned ∧ t.dev.devState = .noImage ∧
      t.dev.mem = [] ∧ t.dev.chan = [] ∧ t.dev.ctxs = [] ∧ t.lobby.sessions = []))

/-! ### Field rings -/

/-- R398 to R404: a base cycle starts once, with the copies taken at its take point; a node's frame carries the taken copy under the next SEQ on
each linked port of its ring, both copies under one HSR number (that it starts at 0 is the model's choice, log entry 96); a node cycle without an accepted input counts as missed, NODE_TMO_CYC of them drop the node; with
every domain On an accepted image is written between BEGIN and END. -/
def Obligations.FieldCyclesComplete : Prop :=
  (∀ s : State,
    let c := s.dev.clk.tb / 250000
    (s.dev.clk.stopped = true ∨ c < s.dev.frc.cycleNo → Answers (exec .baseCycle s) s s.dev) ∧
    (s.dev.clk.stopped = false → s.dev.frc.cycleNo ≤ c → ∃ X : Dev, Answers (exec .baseCycle s) s X ∧ X.frc.cycleNo = c + 1 ∧
      X.frc.cycleAt = c * 250000 ∧ X.frc.taken = false ∧ X.mem = s.dev.mem ∧ X.ctxs = s.dev.ctxs)) ∧
  (∀ (d : Dev) (r : NodeRec) (k : KfxSession),
    let x := d.node r.node
    x.drop = false → x.ses = some k → x.ses2 = none → k.from_ < d.frc.cycleAt → k.seqTx < 0xFFFF0000 - 1 → k.seqRx < 0xFFFF0000 →
    let X := d.sendOutput r
    let seq := k.seqTx + 1
    let hold := d.holdFlag ((d.slotOf r.roomId).getD 64)
    let hdr := kfxHeader 0x11 ((if x.live then 1 else 0) + (if hold then 2 else 0) + (if x.taken ≠ x.sent then 4 else 0)) (r.node % 1024) seq
      d.frc.cycleAt
    let sealed := Config.gcmSeal (k.key.take 32) (kfxNonce k.key 1 seq) hdr x.taken
    X.node r.node = { x with ses := some { k with seqTx := seq }, sent := x.taken, sentLive := some x.live, live := false, gotInput := false } ∧
      X.outbox = ((d.txPorts (r.node / 1024)).map (fun p => Out.kfxOutput p (d.ring (r.node / 1024)).hsrSeq (r.node % 1024) seq x.live hold
        (x.taken != x.sent) d.frc.cycleAt sealed.1 sealed.2)).reverse ++ d.outbox ∧
      (r.node < 4096 → (X.ring (r.node / 1024)).hsrSeq = ((d.ring (r.node / 1024)).hsrSeq + 1) % 65536)) ∧
  (∀ (d : Dev) (r : NodeRec), (d.node r.node).drop = false → (d.node r.node).ses = none → (d.node r.node).ses2 = none →
    d.sendOutput r = d.setNode r.node { d.node r.node with live := false }) ∧
  (∀ s : State,
    (s.dev.frc.taken = true ∨ s.dev.clk.stopped = true ∨ s.dev.clk.tb < s.dev.frc.cycleAt + 245000 →
      Answers (exec .takePoint s) s s.dev) ∧
    (s.dev.frc.taken = false → s.dev.clk.stopped = false → s.dev.frc.cycleAt + 245000 ≤ s.dev.clk.tb →
      ∃ X : Dev, Answers (exec .takePoint s) s X ∧ X.frc.taken = true ∧
        ∀ r ∈ s.dev.plan.nodesAt s.dev.pkg, (s.dev.node r.node).released ≠ [] →
          X.node r.node = { s.dev.node r.node with taken := (s.dev.node r.node).released })) ∧
  (∀ (s : State) (n : Nat) (r : NodeRec) (live : Bool), s.dev.plan.node s.dev.pkg n = some r → s.dev.frc.cycleAt + 250000 ≤ s.dev.clk.tb →
    (s.dev.node r.node).sentLive = some live →
    let x := s.dev.node r.node
    let missed := if x.gotInput = true ∧ live = true then 0 else min 255 (x.missed + 1)
    (missed = 0 ∨ missed < s.dev.plan.nodePre.nodeTmoCyc →
      Answers (exec (.nodeCycleEnd n) s) s (s.dev.setNode r.node { x with sentLive := none, gotInput := false, missed := missed })) ∧
    (missed ≠ 0 → s.dev.plan.nodePre.nodeTmoCyc ≤ missed → ∃ X : Dev, Answers (exec (.nodeCycleEnd n) s) s X ∧
      (X.node r.node).st = .none ∧ (X.node r.node).ses = none ∧ (X.node r.node).dropped = true ∧
      (X.node r.node).missed = missed ∧ X.outbox = ((s.dev.txPorts (r.node / 1024)).map (fun p =>
        Out.kfxLeave p (s.dev.ring (r.node / 1024)).hsrSeq (r.node % 1024))).reverse ++ s.dev.outbox)) ∧
  (∀ (s : State) (n : Nat) (r : NodeRec), s.dev.plan.node s.dev.pkg n = some r →
    let x := s.dev.node r.node
    (x.inbox = none → Answers (exec (.inputImageWrite n) s) s s.dev) ∧
    (∀ b, AllOn s.dev → x.inbox = some b →
      let k := x.begin_ + 1
      (∀ l ∈ [spread r.inPa (leBytes 8 k), spread (r.inPa + 8) (leBytes 8 b.time), spread (r.inPa + 16) (b.image.take r.inSize),
        spread (r.inPa + 16 + r.inSize) (leBytes 8 k)], Unhindered s.dev r.roomId l) →
      let put (m : Memory) (pa : Nat) (bs : List Byte) := m.putAll (s.dev.mirrored (spread pa bs))
      ∃ X : Dev, Answers (exec (.inputImageWrite n) s) s X ∧
        X.mem = put (put (put (put s.dev.mem r.inPa (leBytes 8 k)) (r.inPa + 8) (leBytes 8 b.time)) (r.inPa + 16) (b.image.take r.inSize))
          (r.inPa + 16 + r.inSize) (leBytes 8 k) ∧
        X.node r.node = { x with inbox := none, begin_ := k, input := true } ∧
        (X.port b.port).used = (s.dev.port b.port).used - b.granules))

/-- R394, R403, R407: an input frame goes through its checks in order: bad FCS, length, pool, duplicate, SEQ, tag; each failure counts and
leaves the session; a frame that passes inside its node cycle becomes the node's input, one that comes later counts as late. -/
def Obligations.FieldInputFrames : Prop :=
  ∀ (s : State) (p : Nat) (fr : RingFrame),
    (8 ≤ p ∨ (s.dev.port p).en = false ∨ s.dev.clk.stopped = true → Answers (exec (.inputFrame p fr) s) s s.dev) ∧
    ∀ D, s.dev.arrive p = (D, true) →
      let x := D.port p
      let need := (fr.len + D.granule p - 1) / D.granule p
      let fails (y : Port) := Answers (exec (.inputFrame p fr) s) s (D.setPort p y)
      (fr.fcsOk = false → fails { x with dFcs := min (2 ^ 32 - 1) (x.dFcs + 1) }) ∧
      (fr.fcsOk = true → x.maxFrm < fr.len → fails { x with dSize := min (2 ^ 32 - 1) (x.dSize + 1) }) ∧
      (fr.fcsOk = true → fr.len ≤ x.maxFrm → D.poolSize p < x.used + need → fails { x with dPool := min (2 ^ 32 - 1) (x.dPool + 1) }) ∧
      (fr.fcsOk = true → fr.len ≤ x.maxFrm → x.used + need ≤ D.poolSize p →
        (∀ q, fr.hsr = some q → D.isDup p fr.src q = true → fails { x with hsrDup := min (2 ^ 32 - 1) (x.hsrDup + 1) }) ∧
        ((∀ q, fr.hsr = some q → D.isDup p fr.src q = false) → fr.etherType = D.plan.nodePre.etherType →
          fr.etherType ≠ 0x88F7 → fr.etherType ≠ 0x88FB →
          ∀ r k, D.plan.node D.pkg (p / 2 * 1024 + fr.node) = some r → RingFrame.fits fr (some r) = true →
            (D.node r.node).ses = some k → (D.node r.node).st = .active →
            let n := D.node r.node
            let hdr := kfxHeader fr.vt.toNat fr.flags.toNat fr.node fr.seq fr.time
            let opened := Config.gcmOpen (k.key.take 32) (kfxNonce k.key 2 fr.seq) hdr fr.body fr.tag
            let refused := ∃ X : Dev, Answers (exec (.inputFrame p fr) s) s X ∧
              X.node r.node = { n with authFail := min 0xFFFF (n.authFail + 1), auth := true } ∧ X.mem = D.mem ∧ X.port p = x
            (fr.seq ≤ k.seqRx → refused) ∧
            (k.seqRx < fr.seq → match opened with
              | none => refused
              | some im =>
                (n.sentLive = none ∨ D.frc.cycleAt + 250000 ≤ D.clk.tb → ∃ X : Dev, Answers (exec (.inputFrame p fr) s) s X ∧
                  X.node r.node = { n with late := min 0xFFFF (n.late + 1) } ∧ X.mem = D.mem) ∧
                (n.sentLive.isSome = true → D.clk.tb < D.frc.cycleAt + 250000 → n.inbox = none → fr.seq < 0xFFFF0000 → k.seqTx < 0xFFFF0000 →
                  ∃ X : Dev, Answers (exec (.inputFrame p fr) s) s X ∧ X.mem = D.mem ∧
                    X.node r.node = { n with ses := some { k with seqRx := fr.seq }, gotInput := true,
                                             inbox := some { time := D.clk.tb, port := p, granules := need, image := im } } ∧
                    (X.port p).rx = min (2 ^ 32 - 1) (x.rx + 1) ∧ (X.port p).used = x.used + need))))

/-- R393, R402, R406, R407: a handshake frame goes through FCS, length, pool, duplicate and payload length; its replies leave on both ports of its
ring. JOIN is challenged once its room runs and the ring has fewer than four handshakes in the base cycle; a right proof opens the session
under the derived key from the second take point on, a wrong one counts and from the fifth locks the node; FRC_NCTL.DROP marks the
keeper's node (R414). -/
def Obligations.FieldJoinsComplete : Prop :=
  let out (d : Dev) (p : Nat) (f : Nat → Nat → Out) := ((d.txPorts (p / 2)).map (fun q => f q (d.ring (p / 2)).hsrSeq)).reverse ++ d.outbox
  (∀ (d D : Dev) (p n : Nat) (f : Frame), d.arrive p = (D, true) →
    let x := D.port p
    let len := 34 + f.body.length + (if f.hsr = none then 0 else 6)
    let need := (len + D.granule p - 1) / D.granule p
    let lost (y : Port) := d.kfxReceive p f n = (D.setPort p y, false)
    (f.fcsOk = false → lost { x with dFcs := min (2 ^ 32 - 1) (x.dFcs + 1) }) ∧
    (f.fcsOk = true → x.maxFrm < len → lost { x with dSize := min (2 ^ 32 - 1) (x.dSize + 1) }) ∧
    (f.fcsOk = true → len ≤ x.maxFrm → D.poolSize p < x.used + need → lost { x with dPool := min (2 ^ 32 - 1) (x.dPool + 1) }) ∧
    (f.fcsOk = true → len ≤ x.maxFrm → x.used + need ≤ D.poolSize p →
      (∀ q, f.hsr = some q → D.isDup p f.src q = true → lost { x with hsrDup := min (2 ^ 32 - 1) (x.hsrDup + 1) }) ∧
      ((∀ q, f.hsr = some q → D.isDup p f.src q = false) →
        (f.body.length ≠ n → lost { x with dOther := min (2 ^ 32 - 1) (x.dOther + 1) }) ∧
        (f.body.length = n → d.kfxReceive p f n = (D.noteHsr p f.src f.hsr, true))))) ∧
  (∀ (s : State) (p j : Nat) (nn : Frame) (D : Dev) (r : NodeRec), s.dev.kfxReceive p nn 16 = (D, true) → j < 1024 →
    D.plan.node D.pkg (p / 2 * 1024 + j) = some r →
    (D.joinable r = false ∨ 4 ≤ (D.ring (p / 2)).handshakes → Answers (exec (.join p j nn) s) s D) ∧
    (D.joinable r = true → (D.ring (p / 2)).handshakes < 4 → D.clk.tb < (D.node r.node).lockUntil →
      ∃ X : Dev, Answers (exec (.join p j nn) s) s X ∧ X.outbox = out D p (fun q n => .kfxRefuse q n j 3) ∧ ∀ n, X.node n = D.node n) ∧
    (D.joinable r = true → (D.ring (p / 2)).handshakes < 4 → (D.node r.node).lockUntil ≤ D.clk.tb →
      ∃ (X : Dev) (h : Handshake), Answers (exec (.join p j nn) s) s X ∧ h.nn = nn.body ∧ h.sid = D.frc.nextSid ∧ h.port = p ∧
        X.outbox = out D p (fun q n => .kfxChallenge q n j h.nd h.sid) ∧ X.frc.nextSid = (D.frc.nextSid + 1) % 2 ^ 32 ∧
        X.node r.node = { D.node r.node with hs := some h, st := if (D.node r.node).st = .active then .active else .joining } ∧
        (X.ring (p / 2)).handshakes = (D.ring (p / 2)).handshakes + 1)) ∧
  (∀ (s : State) (p j : Nat) (mac : Frame) (D : Dev), s.dev.kfxReceive p mac 32 = (D, true) →
    (D.plan.node D.pkg (p / 2 * 1024 + j) = none ∨ 1024 ≤ j →
      ∃ X : Dev, Answers (exec (.nodeProof p j mac) s) s X ∧ X.outbox = out D p (fun q n => .kfxRefuse q n j 1) ∧ ∀ n, X.node n = D.node n) ∧
    ∀ r h, j < 1024 → D.plan.node D.pkg (p / 2 * 1024 + j) = some r → (D.node r.node).hs = some h →
      (D.joinable r = false →
        ∃ X : Dev, Answers (exec (.nodeProof p j mac) s) s X ∧ X.outbox = out D p (fun q n => .kfxRefuse q n j 2) ∧ ∀ n, X.node n = D.node n) ∧
      (D.joinable r = true → (D.node r.node).lockUntil ≤ D.clk.tb →
        let x := D.node r.node
        let key := Sparse.get [] D.keys.nodeKeys r.node
        let text := leBytes 1 (r.node / 1024) ++ leBytes 2 (r.node % 1024) ++ h.nn ++ h.nd ++ leBytes 4 h.sid
        (mac.body = Config.hmac256 key (ascii "KFXJ-N" ++ text) →
          let skey := Config.hkdf256 key (h.nn ++ h.nd)
            (ascii "KFXS" ++ leBytes 1 (r.node / 1024) ++ leBytes 2 (r.node % 1024) ++ leBytes 4 h.sid) 36
          let k : KfxSession := { key := skey, sid := h.sid, nn := h.nn, seqTx := 0, seqRx := 0, from_ := D.clk.tb + 5000 }
          ∃ X : Dev, Answers (exec (.nodeProof p j mac) s) s X ∧ X.node r.node =
              (if x.st = .active then { x with hs := none, fails := 0, lockUntil := 0, joined := true, ses2 := some k }
               else { x with hs := none, fails := 0, lockUntil := 0, joined := true, st := .active, ses := some k, missed := 0 }) ∧
            X.outbox = out D p (fun q n =>
              .kfxAccept q n j (Config.hmac256 key (ascii "KFXJ-D" ++ text ++ D.nodeParams r)) (D.nodeParams r))) ∧
        (mac.body ≠ Config.hmac256 key (ascii "KFXJ-N" ++ text) →
          ∃ X : Dev, Answers (exec (.nodeProof p j mac) s) s X ∧ X.outbox = out D p (fun q n => .kfxRefuse q n j 4) ∧
            (X.node r.node).fails = x.fails + 1 ∧ (X.node r.node).hs = none ∧ (X.node r.node).ses = x.ses ∧
            (X.node r.node).lockUntil = (if x.fails + 1 < 5 then x.lockUntil
              else D.clk.tb + min 61440 (60 * 2 ^ (min (x.fails + 1 - 5) 10)) * 1000000000)))) ∧
  (∀ (s : State) (core : Nat) (val : W32) (D : Dev), Reaches s.dev core (s.dev.viewOfs core 0x6010) .write D →
    let a := s.dev.acc core
    (a.keeper = false ∨ val.getLsbD 0 = false → Answers (exec (.frcNctlDrop core val) s) s D) ∧
    ∀ r, a.keeper = true → a.pl ≠ 0 → val.getLsbD 0 = true → D.plan.node D.pkg (D.room a.slot).frc.nsel = some r → r.roomId = a.id →
      (D.node r.node).ses.isSome = true →
      Answers (exec (.frcNctlDrop core val) s) s (D.setNode r.node { D.node r.node with drop := true }))

/-- R393, R395, R411 to R413: a doorbell wakes what the room's power record names and is answered when that is On, a second one within 1 ms
merges; a host frame goes into the ring behind WRITE (with every domain On) or sets OVF; a supervision frame that does not come back on both ports opens the
ring, with an incident; every eighth Sync has a peer delay exchange, and eight good intervals lock the time; a port that is disabled or unlinked is silent. -/
def Obligations.FieldHostAndTimeComplete : Prop :=
  let out (d : Dev) (k : Nat) (f : Nat → Nat → Out) := ((d.txPorts k).map (fun q => f q (d.ring k).hsrSeq)).reverse ++ d.outbox
  (∀ (s : State) (p j : Nat) (code : Frame) (D : Dev), s.dev.kfxReceive p code 16 = (D, true) →
    (leNat code.body = 0 → ∃ X : Dev, Answers (exec (.doorbell p j code) s) s X ∧
      X.frc.dbBad = min (2 ^ 32 - 1) (D.frc.dbBad + 1) ∧ X.rooms = D.rooms ∧ X.domains = D.domains) ∧
    (∀ slot t, D.bellSlot code.body = some slot → (D.room slot).frc.dbLast = some t → D.clk.tb < t + 1000000 →
      ∃ X : Dev, Answers (exec (.doorbell p j code) s) s X ∧ X.domains = D.domains ∧ X.room slot = { D.room slot with frc :=
        { (D.room slot).frc with dbMerged := min 0xFFFF ((D.room slot).frc.dbMerged + 1), dbLast := some D.clk.tb } }) ∧
    (∀ slot, D.bellSlot code.body = some slot → (D.room slot).frc.dbLast = none → AllOn D →
      ∃ X : Dev, Answers (exec (.doorbell p j code) s) s X ∧ X.outbox = out D (p / 2) (fun q n => .doorbellReply q n j) ∧
        X.room slot = { D.room slot with
          frc := { (D.room slot).frc with dbRecog := min 0xFFFF ((D.room slot).frc.dbRecog + 1), dbLast := some D.clk.tb } })) ∧
  (∀ (s : State) (slot : Nat),
    ((s.dev.room slot).frc.dbReply = none → Answers (exec (.doorbellReply slot) s) s s.dev) ∧
    (∀ p j, (s.dev.room slot).frc.dbReply = some (p, j) →
      (s.dev.bellReady slot = false → Answers (exec (.doorbellReply slot) s) s s.dev) ∧
      (s.dev.bellReady slot = true → ∃ X : Dev, Answers (exec (.doorbellReply slot) s) s X ∧
        X.outbox = out s.dev (p / 2) (fun q n => .doorbellReply q n j) ∧ (X.room slot).frc.dbReply = none))) ∧
  (∀ (s : State) (p : Nat) (f : Frame) (D : Dev), s.dev.receive p f.fcsOk f.body.length f.src f.hsr = (D, true) → D.frc.host.en = true →
    let bs := f.body
    let h := D.frc.host
    let size := h.size * 4096
    let need := (16 + bs.length + 63) / 64 * 64
    let free := if h.wr < h.rd then h.rd - h.wr else size - h.wr + h.rd
    h.wr + need ≤ size →
    (free ≤ need → ∃ X : Dev, Answers (exec (.hostRingFrame p f) s) s X ∧ X.frc.host = { h with ovf := true } ∧ X.mem = D.mem) ∧
    (AllOn D → Unhindered D 0 (spread (h.base + h.wr) (leBytes 2 p ++ leBytes 2 bs.length ++ leBytes 4 0 ++ leBytes 8 D.clk.tb ++
        bs ++ List.replicate (need - 16 - bs.length) 0)) → need < free → ∃ X : Dev, Answers (exec (.hostRingFrame p f) s) s X ∧ X.frc.host = { h with wr := (h.wr + need) % size } ∧
      X.mem = D.mem.putAll (D.mirrored (spread (h.base + h.wr) (leBytes 2 p ++ leBytes 2 bs.length ++ leBytes 4 0 ++ leBytes 8 D.clk.tb ++
        bs ++ List.replicate (need - 16 - bs.length) 0))))) ∧
  (∀ (s : State) (k : Nat) (a b : Bool), k < 4 → s.dev.clk.stopped = false →
    ∃ X : Dev, Answers (exec (.hsrSupervision k a b) s) s X ∧ (X.ring k).closed = (a && b) ∧
      X.outbox = out s.dev k (fun q n => .supervision q n) ∧
      ((s.dev.ring k).closed = true → (a && b) = false → X.inc.seq = (s.dev.inc.seq + 1) % 2 ^ 32) ∧
      ((s.dev.ring k).closed = false ∨ (a && b) = true → X.inc = s.dev.inc)) ∧
  (∀ (s : State) (p : Nat) (ofs : Int), p < 8 → s.dev.clk.stopped = false → (s.dev.port p).en = true →
    let t := s.dev.frc.tsync
    let n := (s.dev.port p).syncs + 1
    let D := s.dev.setPort p { s.dev.port p with syncs := n % 8 }
    (t.mode = false → Answers (exec (.gptpSync p ofs) s) s { D with
      outbox := .gptp p :: (if n = 8 then .pdelay p :: s.dev.outbox else s.dev.outbox) }) ∧
    (t.mode = true → t.port = p → ∃ X : Dev, Answers (exec (.gptpSync p ofs) s) s X ∧ X.frc.tsync.ofs = ofs ∧
      (-100 ≤ ofs → ofs ≤ 100 → X.frc.tsync.good = min 8 (t.good + 1) ∧ (X.frc.tsync.locked = true ↔ 8 ≤ t.good + 1)) ∧
      (ofs < -100 ∨ 100 < ofs → X.frc.tsync.good = 0 ∧ X.frc.tsync.locked = false))) ∧
  (∀ (s : State) (core p : Nat) (val : W32) (D : Dev), p < 8 → Reaches s.dev core (0x80000 + p * 256) .write D →
    let x := D.port p
    let en := val.getLsbD 31 && D.plan.nodePre.portEn.testBit p
    8 ≤ D.granule p → ∃ X : Dev, Answers (exec (.frcPortCtlEn core p val) s) s X ∧ X.port p =
      { x with en := en, link := x.link && en, discard := if en = true ∧ x.en = false then [] else x.discard,
               maxFrm := max 64 (min (min 9216 (8 * D.granule p)) (val.toNat % 16384)) } ∧ X.mem = D.mem) ∧
  (∀ (s : State) (p : Nat) (up : Bool), p < 8 →
    let x := s.dev.port p
    ∃ X : Dev, Answers (exec (.fieldPortLinkChange p up) s) s X ∧ X.port p = { x with link := up && x.en } ∧
      (x.link = true → (up && x.en) = false → (X.ring (p / 2)).closed = false ∧ X.inc.seq = (s.dev.inc.seq + 1) % 2 ^ 32) ∧
      (x.link = false ∨ (up && x.en) = true → X.inc = s.dev.inc))

/-! ### Power -/

/-- R438 to R441, KL-10: a request sets the room's level and what its clusters aim at; the switch takes it, but not faster on a frozen rail,
and a late one an epoch later; a cluster at THR is throttled, a die at the grade's limit goes to P4; a read voltage too low makes
clusters slower, a failed transaction freezes the rail and raises source 838. -/
def Obligations.PLevelsComplete : Prop :=
  (∀ (s : State) (core : Nat) (val : W32) (D : Dev), Reaches s.dev core (s.dev.viewOfs core 0x400) .write D →
    let a := s.dev.acc core
    (a.pl = 0 → Answers (exec (.pwrPreq core val) s) s D) ∧
    (a.pl ≠ 0 → ∃ X : Dev, Answers (exec (.pwrPreq core val) s) s X ∧
      X.room a.slot = { D.room a.slot with pwr := { (D.room a.slot).pwr with req := min 4 (val.toNat % 8) } } ∧ X.mem = D.mem ∧
      ∀ c ∈ D.clustersOf a.slot, (D.cluster c).throttled = false →
        let aim := max (X.normalLevel c) (X.limitLevel c)
        (X.cluster c).plevelNext = (if aim = (D.cluster c).plevel then none else some aim) ∧ (X.cluster c).plevel = (D.cluster c).plevel ∧
        (aim ≠ (D.cluster c).plevel → ∀ n, D.committing c = some n → (X.cluster c).plevelLate = some (n, (D.room n).epo.cnt)) ∧
        (D.committing c = none → (X.cluster c).plevelLate = (D.cluster c).plevelLate))) ∧
  (∀ (s : State) (c : Nat),
    let x := s.dev.cluster c
    (x.plevelNext = none → Answers (exec (.pLevelSwitch c) s) s s.dev) ∧
    (∀ l, x.plevelNext = some l → s.dev.clk.stopped = false →
      (l < x.plevel → c / 16 ∈ s.dev.porch.frozen → Answers (exec (.pLevelSwitch c) s) s s.dev) ∧
      (x.plevel ≤ l ∨ c / 16 ∉ s.dev.porch.frozen →
        let waits := ∃ n k, x.plevelLate = some (n, k) ∧ (s.dev.room n).phase = .running ∧ (s.dev.room n).epo.cnt = k
        (waits → Answers (exec (.pLevelSwitch c) s) s s.dev) ∧
        (¬ waits → Answers (exec (.pLevelSwitch c) s) s (s.dev.setCluster c { x with plevel := l, plevelNext := none, plevelLate := none }))))) ∧
  (∀ (s : State) (c : Nat) (t : Int), c < 32 → c / 16 ∉ s.dev.porch.hot →
    let x := s.dev.cluster c
    let top := match s.dev.porch.tmax with | some m => max m t | none => t
    (t < (s.dev.porch.thr : Int) → t < (gradeMax : Int) → x.throttled = false →
      ∃ X : Dev, Answers (exec (.thermalSample (.cluster c) t) s) s X ∧ (∀ k, X.cluster k = s.dev.cluster k) ∧
        X.porch.tmax = some top ∧ X.irqPend = s.dev.irqPend) ∧
    ((s.dev.porch.thr : Int) ≤ t → t < (gradeMax : Int) → x.throttled = false →
      ∃ X : Dev, Answers (exec (.thermalSample (.cluster c) t) s) s X ∧ X.cluster c =
        { x with throttled := true, throtStep := s.dev.clk.tb,
                 plevelNext := if x.nextLevel < 4 then some (x.nextLevel + 1) else x.plevelNext } ∧
        ((∀ k < 32, (s.dev.cluster k).throttled = false) → 834 ∈ X.irqPend)) ∧
    ((gradeMax : Int) ≤ t → ∃ X : Dev, Answers (exec (.thermalSample (.cluster c) t) s) s X ∧ c / 16 ∈ X.porch.hot ∧
      ∀ k < 32, k / 16 = c / 16 → (X.cluster k).plevel = 4 ∧ (X.cluster k).throttled = true ∧ (X.cluster k).plevelNext = none)) ∧
  (∀ (s : State) (rail : Nat) (read : RailRead) (failed : Bool),
    let word := BitVec.ofNat 32 (read.mv % 65536 * 65536 + read.tenthsA % 65536)
    (3 ≤ rail → Answers (exec (.supplyFault rail read failed) s) s s.dev) ∧
    (rail = 2 → failed = true → Answers (exec (.supplyFault rail read failed) s) s (s.dev.raise 838)) ∧
    (rail = 2 → failed = false → Answers (exec (.supplyFault rail read failed) s) s
      { s.dev with porch := { s.dev.porch with tel := Sparse.insert s.dev.porch.tel 2 word } }) ∧
    (rail < 2 → ∃ X : Dev, Answers (exec (.supplyFault rail read failed) s) s X ∧ (rail ∈ X.porch.frozen ↔ failed = true) ∧
      (failed = true → 838 ∈ X.irqPend ∧ X.porch.tel = s.dev.porch.tel) ∧
      (failed = false → Sparse.get 0 X.porch.tel rail = word) ∧
      (∀ c < 32, (X.cluster c).plevel =
        if c / 16 = rail then max (s.dev.cluster c).plevel (levelFor read.mv) else (s.dev.cluster c).plevel) ∧
      ((∃ c < 32, c / 16 = rail ∧ (s.dev.cluster c).plevel < levelFor read.mv) → 838 ∈ X.irqPend))) ∧
  (∀ mv, levelFor mv = if 900 ≤ mv then 0 else if 800 ≤ mv then 1 else if 720 ≤ mv then 2 else if 620 ≤ mv then 3 else 4)

/-- R443 to R449, R451: a request with GO for a domain that only the room uses is refused with the first code of Table 20.6, counted and
reported, or enters: clock gating at once, a deeper state when its entry is done, in every domain of the group; an entry
that a dependent domain overtakes is aborted and counted, and so is one that a wake meets; a wake is ready at its DOMAIN_READY. -/
def Obligations.DomainsComplete : Prop :=
  (∀ (s : State) (core : Nat) (val : W32) (D : Dev), Reaches s.dev core (s.dev.viewOfs core 0x404) .write D →
    let a := s.dev.acc core
    let n := val.toNat % 128
    let st := domStOf (val.toNat / 256 % 4)
    let x := D.room a.slot
    let pwr := { x.pwr with dreqState := BitVec.ofNat 2 (val.toNat / 256), dreqDomain := n }
    let E := D.setRoom a.slot { x with pwr := pwr }
    let q : Asker := { slot := some a.slot, secure := a.secure, reply := some a.slot }
    (a.pl = 0 → Answers (exec (.pwrDreq core false val) s) s D) ∧
    (a.pl ≠ 0 → val.getLsbD 31 = false ∨ E.usersOf n ≠ [a.slot] → Answers (exec (.pwrDreq core false val) s) s E) ∧
    (a.pl ≠ 0 → val.getLsbD 31 = true → E.usersOf n = [a.slot] → n < 127 → E.clk.stopped = false → st ≠ .on → a.slot < 64 →
      (∀ code, E.refuser q n st false = some code → ∃ X : Dev, Answers (exec (.pwrDreq core false val) s) s X ∧
        X.room a.slot = { x with pwr := { pwr with busy := false, refused := true, aborted := false, code := code } } ∧ 837 ∈ X.irqPend ∧
        ∀ k, (X.domain k).st = (E.domain k).st) ∧
      (E.refuser q n st false = none → (E.domain n).st.code < st.code →
        ∃ X : Dev, Answers (exec (.pwrDreq core false val) s) s X ∧
          (st = .gated → ∀ k ∈ domainGroup n, (X.domain k).st = .gated) ∧
          (st ≠ .gated → (∀ k ∈ domainGroup n, (X.domain k).entering = some st) ∧ (X.room a.slot).pwr.busy = true)))) ∧
  (∀ (s : State) (core : Nat) (val : W32) (D : Dev), Reaches s.dev core 0x40000 .write D →
    let a := s.dev.acc core
    let n := val.toNat % 128
    let E := { D with porch := { D.porch with dreqState := BitVec.ofNat 2 (val.toNat / 256), dreqDomain := n } }
    (a.keeper = false ∨ val.getLsbD 31 = false → Answers (exec (.pwrDreq core true val) s) s E) ∧
    (a.keeper = true → val.getLsbD 31 = true → Answers (exec (.pwrDreq core true val) s) s
      (E.request { slot := some a.slot, secure := true, reply := some 64 } n (domStOf (val.toNat / 256 % 4))))) ∧
  (∀ (s : State) (n : Nat), n < 128 → s.dev.clk.stopped = false → (s.dev.domain n).entering = none →
    (s.dev.autoTarget n = none → Answers (exec (.automaticEntry n) s) s s.dev) ∧
    (∀ st, s.dev.autoTarget n = some st → (s.dev.domain n).st.code < st.code →
      s.dev.refuser { slot := none, secure := false, reply := none } n st true = none →
      ∃ X : Dev, Answers (exec (.automaticEntry n) s) s X ∧ (st = .gated → ∀ k ∈ domainGroup n, (X.domain k).st = .gated) ∧
        (st ≠ .gated → ∀ k ∈ domainGroup n, (X.domain k).entering = some st))) ∧
  (∀ (s : State) (n : Nat) (slice : List (Nat × Bool)),
    ((∀ k ∈ domainGroup n, (s.dev.domain k).entering = none ∧ (s.dev.domain k).slice = false) →
      Answers (exec (.domainEntryDone n slice) s) s s.dev) ∧
    (∀ st, (∀ k ∈ domainGroup n, (s.dev.domain k).entering = some st) → s.dev.dependent n st = true →
      ∃ X : Dev, Answers (exec (.domainEntryDone n slice) s) s X ∧ ∀ k ∈ domainGroup n, (X.domain k).st = .on ∧ (X.domain k).entering = none ∧
        (X.domain k).aborted = min 255 ((s.dev.domain k).aborted + 1)) ∧
    (∀ st, (∀ k ∈ domainGroup n, (s.dev.domain k).entering = some st ∧ (s.dev.domain k).slice = false) → s.dev.dependent n st = false →
      ∃ X : Dev, Answers (exec (.domainEntryDone n slice) s) s X ∧
        (∀ k ∈ domainGroup n, (X.domain k).st = st ∧ (X.domain k).entering = none ∧ (X.domain k).waking = false) ∧
        (n < 32 → st = .off →
          ((s.dev.enterState n .off).refuser { slot := none, secure := false, reply := none } (32 + n) .off true = none →
            (X.domain (32 + n)).st = .off) ∧ ∀ k < 4, (X.core (n * 4 + k)).l1 = [] ∧ (X.core (n * 4 + k)).tlb1 = [] ∧
          (X.core (n * 4 + k)).tlb2 = []))) ∧
  (∀ (s : State) (n : Nat), (s.dev.settledOn n = true → Answers (exec (.domainWake n) s) s s.dev) ∧
    (s.dev.entering n = true → ∃ X : Dev, Answers (exec (.domainWake n) s) s X ∧ ∀ k ∈ domainGroup n, (X.domain k).st = .on ∧
      (X.domain k).entering = none) ∧
    ((s.dev.domain n).st ≠ .on → (∀ m ∈ n :: domainDeps n, ∀ k ∈ domainGroup m, (s.dev.domain k).entering = none) →
      ∃ X : Dev, Answers (exec (.domainWake n) s) s X ∧ (∀ k ∈ domainGroup n, (X.domain k).waking = true ∨ (X.domain k).st = .on) ∧
        X.mem = s.dev.mem)) ∧
  (∀ (s : State) (n : Nat),
    ((∀ k ∈ domainGroup n, (s.dev.domain k).waking = false) → (∀ r < 8, 64 + r ∈ domainGroup n → (s.dev.region r).waitQ = []) →
      Answers (exec (.domainReady n) s) s s.dev) ∧
    ((∃ k ∈ domainGroup n, (s.dev.domain k).waking = true) → ∃ X : Dev, Answers (exec (.domainReady n) s) s X ∧
      (∀ k ∈ domainGroup n, (X.domain k).st = .on ∧ (X.domain k).waking = false) ∧
      ((∀ k < 64, (s.dev.room k).dbg.trcEvt.getLsbD 3 = false) → (∀ r < 8, (s.dev.region r).waitQ = []) → X.mem = s.dev.mem)))

/-- R453 to R456, R473: D-Retain and D-Off are refused while a halt, a floorplan operation or a substitution is under way; else the device
stops with its timebase; a fall of the main supply takes it to D-Retain, or one cluster to the emergency point; an enabled wake source
ends D-Retain (a doorbell nothing else, R455); the package's timebase is stepped once and steered after; PWR_EN falls in D-Off once the shutdown test has ended (R504). -/
def Obligations.DeviceStatesComplete : Prop :=
  (∀ (s : State) (core : Nat) (D : Dev), Reaches s.dev core 0x40010 .write D →
    let a := s.dev.acc core
    (a.keeper = false ∨ D.devState ≠ .run → Answers (exec (.dRetain core) s) s D ∧ Answers (exec (.dOff core) s) s D) ∧
    (a.keeper = true → D.devState = .run → D.devRefuser ≠ 0 →
      let E := { D with porch := { D.porch with result := D.devRefuser } }
      Answers (exec (.dRetain core) s) s E ∧ Answers (exec (.dOff core) s) s E) ∧
    (a.keeper = true → D.devState = .run → D.devRefuser = 0 →
      (∃ X : Dev, Answers (exec (.dRetain core) s) s X ∧ X.devState = .retain ∧ X.clk.stopped = true ∧ X.store.cleanStop = true ∧
        (∀ c < 32, (X.domain c).st = .off)) ∧
      (∃ X : Dev, Answers (exec (.dOff core) s) s X ∧ X.devState = .off ∧ X.clk.stopped = true ∧ X.store.cleanStop = true ∧
        X.mem = [] ∧ X.chan = [] ∧ (X.bist.shutdown = true ↔ 0 < D.bist.shutMs)))) ∧
  (∀ (s : State) (slice : List (Nat × Bool)),
    (s.dev.devState ≠ .off ∨ s.dev.bist.shutdown = false → Answers (exec (.shutdownTest slice) s) s s.dev) ∧
    (s.dev.devState = .off → s.dev.bist.shutdown = true →
      ∃ X : Dev, Answers (exec (.shutdownTest slice) s) s X ∧ X.bist.shutdown = false ∧ X.pwrEn = .low)) ∧
  (∀ (s : State) (w : WakeSource),
    let b := WakeSource.bit w
    (s.dev.porch.wakeEn.getLsbD b = false ∨ s.dev.devState = .run ∨ w = .doorbell ∧ s.dev.devState ≠ .retain →
      Answers (exec (.deviceWake w) s) s s.dev) ∧
    (s.dev.porch.wakeEn.getLsbD b = true → w ≠ .alarm ∨ (s.dev.porch.alarm ≠ 0 ∧ s.dev.porch.alarm ≤ s.dev.clk.rtc) →
      s.dev.devState = .retain → ∃ X : Dev, Answers (exec (.deviceWake w) s) s X ∧ X.devState = .run ∧ X.clk.stopped = false ∧
        X.porch.wakeSrc = BitVec.ofNat 7 (2 ^ b) ∧ 836 ∈ X.irqPend ∧ X.store.cleanStop = false)) ∧
  (∀ s : State,
    (s.dev.devState ≠ .run → Answers (exec .mainOkFall s) s { s.dev with porch := { s.dev.porch with mainOk := false } }) ∧
    (s.dev.devState = .run → s.dev.flp.st = .idle → 32 ≤ s.dev.porch.emCluster →
      ∃ X : Dev, Answers (exec .mainOkFall s) s X ∧ X.devState = .retain ∧ X.clk.stopped = true ∧ X.porch.mainOk = false ∧
        X.porch.byMain = true) ∧
    (s.dev.devState = .run → s.dev.flp.st = .idle → s.dev.porch.emCluster < 32 →
      ∃ X : Dev, Answers (exec .mainOkFall s) s X ∧ X.devState = .run ∧ X.porch.emerg = true ∧ 832 ∈ X.irqPend ∧
        (X.cluster s.dev.porch.emCluster).plevel = 4)) ∧
  (∀ s : State,
    (s.dev.devState = .retain → s.dev.porch.byMain = true → ∃ X : Dev, Answers (exec .mainOkRise s) s X ∧ X.devState = .run ∧
      X.clk.stopped = false ∧ X.porch.mainOk = true ∧ X.porch.byMain = false) ∧
    (s.dev.devState = .run → ∃ X : Dev, Answers (exec .mainOkRise s) s X ∧ X.porch.mainOk = true ∧ X.porch.emerg = false ∧
      833 ∈ X.irqPend ∧ X.mem = s.dev.mem)) ∧
  (∀ (s : State) (ofs : Int),
    let k := s.dev.clk
    (s.dev.pkg = 0 ∨ k.stopped = true → Answers (exec (.timebaseAlign ofs) s) s s.dev) ∧
    let tb := (((k.tb : Int) - ofs) % 2 ^ 64).toNat
    (s.dev.pkg ≠ 0 → k.stopped = false → k.stepped = false → Answers (exec (.timebaseAlign ofs) s) s
      { s.dev with keys := s.dev.keys.rebase k.tb tb, frc := s.dev.frc.rebase k.tb tb,
                   clk := { k with tb := tb, stepped := true, tbOfs := 0, aligned := true } }) ∧
    (s.dev.pkg ≠ 0 → k.stopped = false → k.stepped = true → Answers (exec (.timebaseAlign ofs) s) s
      { s.dev with clk := { k with tbOfs := ofs, aligned := decide (-50 ≤ ofs ∧ ofs ≤ 50) } }))

/-! ### Resets -/

/-- R461, R466: a power-on reset and a warm reset leave every volatile unit at its reset value and end every session; the MRAM, its counters
and the BIST ledger stay, and a warm reset keeps the real-time clock; without good firmware the device then has no image. A Returned
device that the vendor has refurbished comes up Unowned with its new factory image (R527). -/
def Obligations.DeviceResetsComplete : Prop :=
  (∀ (s : State) (straps : Straps) (board : Board), ∃ t, exec (.pwronRstN straps board) s = .next t ∧ t.lobby.sessions = [] ∧
    t.pending = s.pending ∧ t.dev.straps = straps ∧ t.dev.board = board ∧
    (board.refurbish = none ∨ s.dev.keys.own ≠ .returned → t.dev.keys.own = s.dev.keys.own ∧ t.dev.store.factory = s.dev.store.factory) ∧
    (∀ image, board.refurbish = some image → s.dev.keys.own = .returned → t.dev.keys.own = .unowned ∧ t.dev.store.factory = image) ∧ s.dev.store.highGen ≤ t.dev.store.highGen ∧
    (board.firmwareOk = false → t.dev.devState = .noImage ∧ t.dev.mem = [] ∧ t.dev.ctxs = [] ∧ t.dev.rooms = [] ∧ t.dev.clk.rtc = 0)) ∧
  (∀ (s : State),
    (s.dev.devState = .inReset → Answers (exec .warmRstN s) s s.dev) ∧
    (s.dev.devState ≠ .inReset → ∃ t, exec .warmRstN s = .next t ∧ t.lobby.sessions = [] ∧ t.pending = s.pending ∧
      t.dev.straps = s.dev.straps ∧ t.dev.board = s.dev.board ∧ t.dev.keys.own = s.dev.keys.own ∧ t.dev.clk.rtc = s.dev.clk.rtc ∧
      s.dev.store.highGen ≤ t.dev.store.highGen ∧ .perst ∈ t.dev.outbox ∧
      (s.dev.board.firmwareOk = false → t.dev.devState = .noImage ∧ t.dev.ctxs = []))) ∧
  (∀ (s : State) (groupA : Bool),
    (s.dev.devState = .inReset ∨ groupA = false ∧ s.dev.pwrEn = .low → Answers (exec (.supplyExcursion groupA) s) s s.dev) ∧
    (s.dev.devState ≠ .inReset → groupA = true → ∃ t, exec (.supplyExcursion groupA) s = .next t ∧ t.lobby.sessions = [] ∧
      t.dev.devState = .inReset ∧ t.dev.mem = [] ∧ t.dev.store.cleanStop = false ∧ t.dev.keys.own = s.dev.keys.own ∧
      t.dev.keys.slots.map Prod.fst = s.dev.keys.slots.map Prod.fst ∧ t.dev.keys.nodeKeys = s.dev.keys.nodeKeys) ∧
    (s.dev.devState ≠ .inReset → groupA = false → s.dev.pwrEn = .high → ∃ t, exec (.supplyExcursion groupA) s = .next t ∧
      t.lobby.sessions = [] ∧ t.dev.clk.rtc = s.dev.clk.rtc))

/-- R462 to R464, R474, R475: PKG_RST with its key by room 0's keeper resets a room or the device; ROOM_RST by the keeper resets the room
or one of its cores, and above PL0 a controller that the room owns; each has no effect without its level. A request during a rollback
waits for its end; a spanning room's reset is told to the other packages. A controller that can send when it is reset has an error
frame (CAN), the whole frame (MAC) or the whole character (UART) on its wire (that it is sending is the model's choice, log entry 80).
R462 to R464 by a room reset: the room's contexts are at their start state with the keeper's entry, its registers at their reset values
but for the cause and the count, and it starts at the next package epoch boundary, or stays held for AUTOSTART = 0, for resources that
are lost (R33), or for a zero-fill that is pending (R97). -/
def Obligations.RoomResetsComplete : Prop :=
  (∀ (s : State) (core : Nat) (val : W32) (D : Dev), Reaches s.dev core 0x20 .write D →
    let a := s.dev.acc core
    let v := val.toNat
    (a.keeper = false ∨ a.id ≠ 0 ∨ v / 2 ^ 24 ≠ 0xA5 → Answers (exec (.roomGo core val) s) s D ∧ Answers (exec (.pkgRstWarm core val) s) s D) ∧
    (a.keeper = true → a.id = 0 → v / 2 ^ 24 = 0xA5 →
      (∀ slot, v.testBit 0 = true → v.testBit 1 = false → D.slotOf (v / 2 ^ 16 % 256) = some slot →
        let E : Dev := if D.spans slot then { D with outbox := .roomReset (D.idOf slot) 4 :: D.outbox } else D
        ((D.room slot).rb = none → Answers (exec (.roomGo core val) s) s (E.resetRoom slot 4)) ∧
        (∀ b, (D.room slot).rb = some b → Answers (exec (.roomGo core val) s) s
          (E.setRoom slot { E.room slot with rb := some { b with thenReset := some 4 } }))) ∧
      (v.testBit 0 = false → v.testBit 1 = true → Answers (exec (.pkgRstWarm core val) s) s (D.warmReset 2)))) ∧
  (∀ (s : State) (core : Nat) (val : W32) (D : Dev), Reaches s.dev core (s.dev.viewOfs core 0x8) .write D →
    let a := s.dev.acc core
    let v := val.toNat
    let c := v / 512 % 512
    (a.pl = 0 → ∀ i ∈ [Instr.self core val, .coreGo core val, .periph core val], Answers (exec i s) s D) ∧
    (a.pl ≠ 0 → a.keeper = false → v % 256 = 0 → ∀ i ∈ [Instr.self core val, .coreGo core val, .periph core val], Answers (exec i s) s D) ∧
    (a.pl ≠ 0 → a.keeper = false → ∀ b < 8, v % 256 = 2 ^ b → D.ownsPeriph a.slot b = true →
      Answers (exec (.periph core val) s) s (D.resetPeriph b)) ∧
    (a.pl ≠ 0 → a.keeper = true → v % 256 = 0 →
      (v.testBit 31 = true → v.testBit 30 = false → (D.room a.slot).rb = none →
        let E : Dev := if D.spans a.slot then { D with outbox := .roomReset (D.idOf a.slot) 3 :: D.outbox } else D
        Answers (exec (.self core val) s) s (E.resetRoom a.slot 3)) ∧
      (v.testBit 31 = false → v.testBit 30 = true → c / 128 = D.pkg → D.coreRoom (c % 128) = some a.id → (D.room a.slot).rb = none →
        (D.room a.slot).phase = .running →
        (D.canBound a.slot = true → Answers (exec (.coreGo core val) s) s (D.resetCore a.slot (c % 128))) ∧
        (D.canBound a.slot = false → ∃ X : Dev, Answers (exec (.coreGo core val) s) s X ∧ X.cores = D.cores ∧
          (X.room a.slot).epo.coreReset = (D.room a.slot).epo.coreReset ++ [c % 128] ∧
          (X.room a.slot).epo.want = (D.room a.slot).epo.want + 1)) ∧
      (v.testBit 31 = false → v.testBit 30 = true → D.coreRoom (c % 128) ≠ some a.id →
        Answers (exec (.coreGo core val) s) s D))) ∧
  (∀ (d : Dev) (b : Nat),
    let E : Dev := { d with outbox := d.onWire b ++ d.outbox }
    (b < 4 → d.resetPeriph b = E.setCan b Can.init) ∧ (6 ≤ b → d.resetPeriph b = E.setUart (b - 6) Uart.init) ∧
    (4 ≤ b → b < 6 → d.resetPeriph b = E.setMac (b - 4) { Mac.init with speed := (d.mac (b - 4)).speed, link := (d.mac (b - 4)).link }) ∧
    (d.perFrozen b = false →
      (b < 4 → d.canOnBus b = true → (d.can b).listen = false → (d.can b).txreq ≠ 0 → d.onWire b = [.canError b]) ∧
      (∀ l, 4 ≤ b → b < 6 → d.macOn (b - 4) = true → d.macFrame (b - 4) = some l → d.onWire b = [.macFrame (b - 4) l]) ∧
      (∀ c l, 6 ≤ b → b < 8 → d.perAwake b = true → (d.uart (b - 6)).en = true → (d.uart (b - 6)).bits7 = false →
        (d.uart (b - 6)).tx = c :: l → d.onWire b = [.uartByte (b - 6) c]))) ∧
  (∀ (d : Dev) (slot core : Nat), d.plan.paired (d.idOf slot) = false →
    let X := d.resetCore slot core
    (X.core core).sbuf = [] ∧ (X.core core).l1 = [] ∧ (X.core core).run = .running ∧ (X.core core).halted = (d.core core).halted ∧
    (X.core core).bps = (d.core core).bps ∧ (X.core core).tlb1 = [] ∧ (X.core core).tlb2 = [] ∧
    ∀ q ∈ (X.cluster (core / 4)).trestle.queue, q.ctx / 4 ≠ core) ∧
  (∀ (d : Dev) (slot cause : Nat) (R : RoomRec), d.rrec slot = some R →
     let X := d.resetRoom slot cause
     let r := X.room slot
     r.rstLast = cause ∧ r.rstCount = min 255 ((d.room slot).rstCount + 1) ∧ r.rb = none ∧ r.hasRun = false ∧
     (∀ reason, d.blocked slot = some reason → r.phase = .held ∧ r.reason = reason) ∧
     (d.blocked slot = none → (d.room slot).zeroFill = true → r.phase = .held ∧ r.reason = 8) ∧
     (d.blocked slot = none → (d.room slot).zeroFill = false → R.autostart = true ∨ R.roomId = 0 → r.phase = .starting ∧ r.readyAt = (d.clk.tb / 5000 + 1) * 5000 ∧ r.reason = 0) ∧
     (d.blocked slot = none → (d.room slot).zeroFill = false → R.autostart = false → R.roomId ≠ 0 → r.phase = .held ∧ r.reason = 7) ∧
     (∀ c ∈ d.coresOf slot, (X.core c).l1 = [] ∧ (X.core c).sbuf = [] ∧ (X.core c).run = .stopped ∧ (X.core c).halted = none ∧
       (X.core c).bps = [] ∧ ∀ b ∈ d.banks c, (X.ctx (c * 4 + b)).pc = BitVec.ofNat 64 (R.entryPa % 2 ^ 46) ∧ (X.ctx (c * 4 + b)).regs = []) ∧
     (∀ c ∈ d.clustersOf slot, ∀ e ∈ (X.cluster c).undo, e.slot ≠ slot) ∧ X.plan = d.plan ∧ X.devState = d.devState)

/-! ### External interfaces -/

/-- R427, R428: a controller on the bus takes in a frame that a filter passes while its FIFO has room, sends a requested buffer and clears its
request, and follows its error counters; POP drops the oldest frame; the wake-up pattern wakes a sleeping controller's domain. -/
def Obligations.CanComplete : Prop :=
  (∀ (s : State) (core can : Nat) (val : W32) (D : Dev), can < 4 → Reaches s.dev core (s.dev.periphOfs core can 0) .write D →
    let a := s.dev.acc core
    let c := D.can can
    let v := val.toNat
    s.dev.ownsPeriph ((s.dev.coreSlot core).getD 0) can = true → D.ownsPeriph a.slot can = true →
    (a.pl = 0 → Answers (exec (.txreq core can val) s) s D) ∧
    (a.pl ≠ 0 → Answers (exec (.txreq core can val) s) s (D.setCan can { c with
      en := v.testBit 31, fd := v.testBit 30, listen := v.testBit 29, wake := v.testBit 28, txreq := BitVec.ofNat 8 v, txDone := false,
      fifo := if v.testBit 16 then c.fifo.drop 1 else c.fifo,
      ready := if v.testBit 31 && !c.en then decide (c.deafUntil ≤ D.clk.tb) else c.ready })) ∧
    (a.pl ≠ 0 → D.can can = s.dev.can can → ∃ X : Dev, Answers (exec (.pop core can) s) s X ∧ (X.can can).fifo = c.fifo.drop 1 ∧
      (X.can can).txreq = c.txreq ∧ (X.can can).en = c.en)) ∧
  (∀ (s : State) (k : Nat) (frame : List Byte),
    let c := s.dev.can k
    let l := slice frame 0 72
    let takes := s.dev.canOnBus k = true ∧ (c.fd = true ∨ canFd l = false) ∧ c.fifo.length < 32 ∧
      ∃ i < 16, ((Sparse.get (0 : W32) c.filters (2 * i)).toNat ^^^ canId l) &&& (Sparse.get (0 : W32) c.filters (2 * i + 1)).toNat = 0
    (takes → Answers (exec (.canFrameReceived k frame) s) s (s.dev.setCan k { c with fifo := c.fifo ++ [l] })) ∧
    (¬ takes → Answers (exec (.canFrameReceived k frame) s) s s.dev)) ∧
  (∀ (s : State) (k b : Nat),
    let c := s.dev.can k
    let goes := s.dev.canOnBus k = true ∧ c.listen = false ∧ b < 8 ∧ c.txreq.getLsbD b = true ∧ (c.fd = true ∨ canFd (c.buffer b) = false) ∧
      (s.dev.perFrozen k = false ∨ c.frz = false)
    (goes → ∃ X : Dev, Answers (exec (.canFrameSent k b) s) s X ∧ X.outbox = .canFrame k b (c.buffer b) :: s.dev.outbox ∧
      (X.can k).txDone = true ∧ ∀ j < 8, (X.can k).txreq.getLsbD j = (c.txreq.getLsbD j && decide (j ≠ b))) ∧
    (¬ goes → Answers (exec (.canFrameSent k b) s) s s.dev)) ∧
  (∀ (s : State) (k tec rcv : Nat),
    (s.dev.canOnBus k = false → Answers (exec (.canBusError k tec rcv) s) s s.dev) ∧
    (s.dev.canOnBus k = true → Answers (exec (.canBusError k tec rcv) s) s (s.dev.setCan k { s.dev.can k with
      tec := min tec 511, rcv := min rcv 255, errChange := true,
      st := if 256 ≤ tec then 2 else if 128 ≤ tec ∨ 128 ≤ rcv then 1 else 0 }))) ∧
  (∀ (s : State) (k : Nat),
    let st := (s.dev.domain (105 + k)).st
    let c := s.dev.can k
    (k < 4 → s.dev.clk.stopped = false → st = .retention ∧ c.en = true ∧ c.wake = true ∨ st = .off ∧ c.watch = true →
      Answers (exec (.canWakePattern k) s) s (s.dev.startWake (105 + k))) ∧
    (st = .on ∨ st = .gated → Answers (exec (.canWakePattern k) s) s s.dev))

/-- R429, R431: with every domain On a received frame goes to the buffer of the MAC's next descriptor, which is handed back; the transmit ring goes out up to
TX_TAIL; a descriptor out of reach stops the MAC; UART bytes pass through 64-entry FIFOs, an overrun setting its error bit. The
descriptor's layout is the model's choice (notes/assumptions/41.md). -/
def Obligations.MacsAndUartsComplete : Prop :=
  (∀ (s : State) (core m : Nat) (val : W32) (D : Dev), m < 2 → Reaches s.dev core (s.dev.periphOfs core (4 + m) 0x18) .write D →
    let a := s.dev.acc core
    s.dev.ownsPeriph ((s.dev.coreSlot core).getD 0) (4 + m) = true → D.ownsPeriph a.slot (4 + m) = true →
    (a.pl = 0 → Answers (exec (.txtail core m val) s) s D) ∧
    (a.pl ≠ 0 → ∃ X : Dev, Answers (exec (.txtail core m val) s) s X ∧ X.mem = D.mem ∧
      (X.mac m).txTail = (if 2 ^ (D.mac m).txLog2 ≤ val.toNat / 2 ^ 16 % 4096 then 0 else val.toNat / 2 ^ 16 % 4096) ∧
      (X.mac m).srcTx = false)) ∧
  (∀ (s : State) (k : Nat) (fr : MacFrame),
    let m := s.dev.mac k
    let at_ := m.rxBase + 16 * m.rxHead
    let desc := s.dev.bytes at_ 16
    let n := fr.bytes.length
    let takes := s.dev.macOn k = true ∧ fr.toLobby = false ∧ n ≤ 1522 ∧ 0 < n
    (¬ takes → Answers (exec (.macFrameReceived k fr) s) s s.dev) ∧
    (takes → s.dev.macMay k .read at_ 16 = false →
      Answers (exec (.macFrameReceived k fr) s) s (s.dev.setMac k { m with fault := true })) ∧
    (takes → s.dev.macMay k .read at_ 16 = true → (leAt desc 10 2).testBit 0 = false ∨ leAt desc 8 2 < n →
      Answers (exec (.macFrameReceived k fr) s) s (s.dev.setMac k { m with drop := min 0xFFFF (m.drop + 1) })) ∧
    (takes → AllOn s.dev → (let room := ((s.dev.macRoom k).map Prod.snd).getD 0
      Unhindered s.dev room (spread (leAt desc 0 8) fr.bytes) ∧
      Unhindered s.dev room (spread (at_ + 8) (leBytes 2 n ++ leBytes 2 (leAt desc 10 2 - 1) ++ leBytes 4 (leAt desc 12 4)))) →
      s.dev.macMay k .read at_ 16 = true → (leAt desc 10 2).testBit 0 = true → n ≤ leAt desc 8 2 →
      s.dev.macMay k .write (leAt desc 0 8) n = true → s.dev.macMay k .write (at_ + 8) 8 = true → fr.ptpEvent = false →
      ∃ X : Dev, Answers (exec (.macFrameReceived k fr) s) s X ∧
        X.mem = (s.dev.mem.putAll (s.dev.mirrored (spread (leAt desc 0 8) fr.bytes))).putAll
          (s.dev.mirrored (spread (at_ + 8) (leBytes 2 n ++ leBytes 2 (leAt desc 10 2 - 1) ++ leBytes 4 (leAt desc 12 4)))) ∧
        X.mac k = { m with rxHead := (m.rxHead + 1) % 2 ^ m.rxLog2, srcRx := true })) ∧
  (∀ (s : State) (k : Nat),
    let m := s.dev.mac k
    let at_ := m.txBase + 16 * m.txHead
    let desc := s.dev.bytes at_ 16
    let n := min 1522 (leAt desc 8 2)
    (s.dev.macOn k = false ∨ m.txHead = m.txTail → Answers (exec (.macFrameSent k false) s) s s.dev) ∧
    (s.dev.macOn k = true → m.txHead ≠ m.txTail → s.dev.perFrozen (4 + k) = false → s.dev.macMay k .read at_ 16 = true →
      s.dev.macMay k .read (leAt desc 0 8) n = true →
      Answers (exec (.macFrameSent k false) s) s ((s.dev.emit (.macFrame k (s.dev.bytes (leAt desc 0 8) n))).setMac k
        { m with txHead := (m.txHead + 1) % 2 ^ m.txLog2, srcTx := true, frz := false }))) ∧
  (∀ (s : State) (k : Nat) (up : Bool) (speed : BitVec 2), k < 2 →
    Answers (exec (.macLinkChange k up speed) s) s (s.dev.setMac k { s.dev.mac k with link := up, speed := speed, srcLink := true })) ∧
  (∀ (s : State) (core k : Nat) (val : W32) (D : Dev), k < 2 → Reaches s.dev core (s.dev.periphOfs core (6 + k) 0x08) .write D →
    let a := s.dev.acc core
    let u := D.uart k
    s.dev.ownsPeriph ((s.dev.coreSlot core).getD 0) (6 + k) = true → D.ownsPeriph a.slot (6 + k) = true →
    (a.pl = 0 → Answers (exec (.uartTx core k val) s) s D) ∧
    (a.pl ≠ 0 → Answers (exec (.uartTx core k val) s) s
      (D.setUart k (if u.tx.length < 64 then { u with tx := u.tx ++ [val.truncate 8] } else u)))) ∧
  (∀ (s : State) (core k : Nat) (D : Dev), k < 2 → Reaches s.dev core (s.dev.periphOfs core (6 + k) 0x0C) .read D →
    let a := s.dev.acc core
    let u := D.uart k
    s.dev.ownsPeriph ((s.dev.coreSlot core).getD 0) (6 + k) = true → D.ownsPeriph a.slot (6 + k) = true →
    Answers (exec (.uartRx core k) s) s (D.setUart k { u with rx := u.rx.drop 1 })) ∧
  (∀ (s : State) (k : Nat) (b : Byte) (err : BitVec 4),
    let u := s.dev.uart k
    let c := if u.bits7 then b &&& 0x7F else b
    (2 ≤ k ∨ s.dev.periphSlot (6 + k) = none ∨ u.en = false ∨ s.dev.clk.stopped = true →
      Answers (exec (.uartByteReceived k b err) s) s s.dev) ∧
    (k < 2 → (s.dev.periphSlot (6 + k)).isSome = true → u.en = true → s.dev.clk.stopped = false → (s.dev.domain (111 + k)).st = .on →
      Answers (exec (.uartByteReceived k b err) s) s (s.dev.setUart k (if u.rx.length < 64 then
        { u with rx := u.rx ++ [c], err := u.err ||| err } else { u with err := u.err ||| err ||| 1 })))) ∧
  (∀ (s : State) (k : Nat),
    let u := s.dev.uart k
    (u.tx = [] → Answers (exec (.uartByteSent k) s) s s.dev) ∧
    (∀ b t, u.tx = b :: t → k < 2 → u.en = true → s.dev.clk.stopped = false → (s.dev.domain (111 + k)).st = .on →
      s.dev.perFrozen (6 + k) = false → Answers (exec (.uartByteSent k) s) s
        ((s.dev.setUart k { u with tx := t, frz := false }).emit (.uartByte k (if u.bits7 then b &&& 0x7F else b)))))

/-- R422 to R426: an inbound read answers the bytes that the port's room may read, else Unsupported Request; an inbound write lands where the
room may write, pends the source of an MSI, or is denied and counted; a core that waits for a read takes its value, all ones at the
timeout or when the link goes down; PCIE_CFGD puts a configuration access on the bus. -/
def Obligations.PcieComplete : Prop :=
  (∀ (s : State) (p pa n : Nat), (s.dev.portUp p = false → Answers (exec (.pcieInboundRequest p (.read pa n)) s) s s.dev) ∧
    (s.dev.portUp p = true → 0 < n → n ≤ 4096 →
      (s.dev.portMay p .read pa n = true → AllOn s.dev → ∃ X : Dev, Answers (exec (.pcieInboundRequest p (.read pa n)) s) s X ∧
        X.outbox = .pcieCompletion p (s.dev.bytes pa n) :: s.dev.outbox ∧ X.mem = s.dev.mem) ∧
      (s.dev.portMay p .read pa n = false → ∃ X : Dev, Answers (exec (.pcieInboundRequest p (.read pa n)) s) s X ∧
        X.outbox = .pcieUnsupported p :: s.dev.outbox ∧ (X.pcie p).deny = min (2 ^ 32 - 1) ((s.dev.pcie p).deny + 1) ∧
        X.mem = s.dev.mem))) ∧
  (∀ (s : State) (p pa : Nat) (bs : List Byte), s.dev.portUp p = true → 0 < bs.length → bs.length ≤ 512 →
    (pa ≠ s.dev.msiPa → s.dev.cplSlot pa = none →
      (s.dev.portMay p .write pa bs.length = true → AllOn s.dev → Unhindered s.dev (s.dev.plan.portOwner s.dev.straps p) (spread pa bs) →
        ∃ X : Dev, Answers (exec (.pcieInboundRequest p (.write pa bs)) s) s X ∧
        X.mem = s.dev.mem.putAll (s.dev.mirrored (spread pa bs)) ∧ ∀ j q, (X.ctx j).getP q = (s.dev.ctx j).getP q) ∧
      (s.dev.portMay p .write pa bs.length = false → Answers (exec (.pcieInboundRequest p (.write pa bs)) s) s
        (s.dev.setPciePort p { s.dev.pcie p with deny := min (2 ^ 32 - 1) ((s.dev.pcie p).deny + 1) }))) ∧
    (pa = s.dev.msiPa → bs.length = 4 →
      exec (.pcieInboundRequest p (.write pa bs)) s = exec (.pcieMsi p (BitVec.ofNat 32 (leNat bs))) s)) ∧
  (∀ (s : State) (p : Nat) (data : W32),
    let v := data.toNat % 256
    (s.dev.portUp p = false → Answers (exec (.pcieMsi p data) s) s s.dev) ∧
    (s.dev.portUp p = true → v < 64 * portSpan s.dev.straps → ∃ X : Dev, Answers (exec (.pcieMsi p data) s) s X ∧
      X = { s.dev with irqPend := X.irqPend } ∧ ∀ k, k ∈ X.irqPend ↔ k = 512 + 64 * p + v ∨ k ∈ s.dev.irqPend) ∧
    (s.dev.portUp p = true → 64 * portSpan s.dev.straps ≤ v → Answers (exec (.pcieMsi p data) s) s
      (s.dev.setPciePort p { s.dev.pcie p with deny := min (2 ^ 32 - 1) ((s.dev.pcie p).deny + 1) }))) ∧
  (∀ (s : State) (core : Nat),
    ((s.dev.core core).wait = none → (∀ bs, Answers (exec (.pcieReadCompletion core bs) s) s s.dev) ∧
      Answers (exec (.completionTimeout core) s) s s.dev) ∧
    (∀ w, (s.dev.core core).wait = some w →
      (∀ bs : List Byte, bs.length ≠ w.len → Answers (exec (.pcieReadCompletion core bs) s) s s.dev) ∧
      (∀ bs : List Byte, bs.length = w.len → Answers (exec (.pcieReadCompletion core bs) s) s (s.dev.finishWait core w bs)) ∧
      (s.dev.clk.tb < w.due → Answers (exec (.completionTimeout core) s) s s.dev) ∧
      (w.due ≤ s.dev.clk.tb →
        let p := s.dev.portAt w.pa
        Answers (exec (.completionTimeout core) s) s
          ((s.dev.setPciePort p { s.dev.pcie p with cto := min (2 ^ 32 - 1) ((s.dev.pcie p).cto + 1) }).finishWait core w
            (List.replicate w.len 0xFF))))) ∧
  (∀ (d : Dev) (core : Nat) (w : PcieWait) (bs : List Byte), w.block = none → w.hit = none → w.more = true → bs.length = w.len → 0 < w.dst →
    w.dst < 312 →
    let X := d.finishWait core w bs
    let x := d.ctx (d.curCtx core)
    (X.core core).wait = none ∧ (X.ctx (d.curCtx core)).pc = w.next ∧ (X.ctx (d.curCtx core)).getP w.dst =
      (let raw := leAt (w.pre ++ bs) w.skip w.item
       if w.signed then sext64 (8 * w.item) raw else BitVec.ofNat 64 raw) ∧
    ∀ q, q ≠ w.dst → (X.ctx (d.curCtx core)).getP q = x.getP q) ∧
  (∀ (s : State) (core : Nat) (write bus : Option W32) (D : Dev),
    Reaches s.dev core 0x108004 (if write.isSome then .write else .read) D →
    ∃ v, Answers (exec (.pcieCfgd core write bus) s) s (D.emit (.pcieConfig D.per.cfga write v)) ∧
      (∀ x, write = some x → v = x) ∧ (∀ x, write = none → bus = some x → v = x) ∧ (write = none → bus = none → v = 0xFFFFFFFF)) ∧
  (∀ (s : State) (p speed width : Nat),
    ((strapPorts s.dev.straps).contains p = false ∨ (s.dev.pcie p).en = false ∨ s.dev.clk.stopped = true →
      ∀ up, Answers (exec (.pcieLinkChange p up speed width) s) s s.dev) ∧
    ((strapPorts s.dev.straps).contains p = true → (s.dev.pcie p).en = true → s.dev.clk.stopped = false →
      Answers (exec (.pcieLinkChange p true speed width) s) s (s.dev.setPciePort p
        { s.dev.pcie p with link := true, speed := max 1 (min 5 speed), width := min 4 width }) ∧
      ((∀ c < 128, (s.dev.core c).wait = none) → Answers (exec (.pcieLinkChange p false speed width) s) s (s.dev.setPciePort p
        { s.dev.pcie p with link := false, speed := 0, width := 0 }))))

/-- R434, R435, Table 1.3: a link that trains with a width and meets a package of its own generation is up and admitted, another is
incident 0x14; a second failure loses it; a retrain goes to the width that the lanes permit, a narrower one with incident 0x11; what the
link held goes out when it is done; the eighth failure of a flit starts a retrain. -/
def Obligations.LinksComplete : Prop :=
  (∀ (s : State) (j : Nat) (p : LinkPartner), j < 3 → s.dev.linkEn j = true → s.dev.clk.stopped = false →
    let x := s.dev.link j
    (x.st = .up ∨ x.st = .lost → Answers (exec (.linkTraining j p) s) s s.dev) ∧
    (x.st = .down ∨ x.st = .training →
      (linkWidth p.lanes.toNat = none → x.tries = 0 → Answers (exec (.linkTraining j p) s) s
        (s.dev.setLink j { x with st := .training, lanes := p.lanes, tries := 1 })) ∧
      (∀ w, linkWidth p.lanes.toNat = some w → p.pkg ≠ s.dev.pkg → p.generation = s.dev.plan.generation →
        ∃ X : Dev, Answers (exec (.linkTraining j p) s) s X ∧
          X.link j = { x with width := w, lanes := p.lanes, tries := 0, st := .up, admitted := true } ∧
          X.per.present = s.dev.per.present ||| BitVec.ofNat 4 (2 ^ p.pkg) ∧ X.inc = s.dev.inc) ∧
      (∀ w, linkWidth p.lanes.toNat = some w → p.pkg = s.dev.pkg ∨ p.generation ≠ s.dev.plan.generation →
        ∃ X : Dev, Answers (exec (.linkTraining j p) s) s X ∧
          X.link j = { x with width := w, lanes := p.lanes, tries := 0, st := .down, admitted := false } ∧
          X.per.present = s.dev.per.present ∧ X.inc.seq = (s.dev.inc.seq + 1) % 2 ^ 32))) ∧
  (∀ (s : State) (j : Nat) (lanes : BitVec 16) (ns : Nat),
    let x := s.dev.link j
    let y := { x with retrains := min (2 ^ 32 - 1) (x.retrains + 1), maxRt := max x.maxRt (min ns (2 ^ 32 - 1)), lanes := lanes, fails := 0 }
    (x.busy = false → Answers (exec (.retrain j lanes ns) s) s s.dev) ∧
    (x.busy = true →
      (linkWidth lanes.toNat = none → x.tries = 0 → Answers (exec (.retrain j lanes ns) s) s (s.dev.setLink j { y with tries := 1 })) ∧
      (∀ w, linkWidth lanes.toNat = some w →
        let w' := if x.wide then w else max x.width w
        ∃ X : Dev, Answers (exec (.retrain j lanes ns) s) s X ∧
          X.link j = { y with width := w', tries := 0, busy := false, wide := false, held := [] } ∧
          (∀ m ∈ x.held, Out.coherence (s.dev.pkg ^^^ (j + 1)) { m with age := s.dev.ageOf m.age } ∈ X.outbox) ∧
          X.inc.seq = (if x.width < w' then (s.dev.inc.seq + 1) % 2 ^ 32 else s.dev.inc.seq)))) ∧
  (∀ (s : State) (j : Nat),
    let x := s.dev.link j
    (x.st ≠ .up ∨ x.busy = true → Answers (exec (.flitReplay j) s) s s.dev) ∧
    (x.st = .up → x.busy = false → Answers (exec (.flitReplay j) s) s (s.dev.setLink j
      { x with replay := min (2 ^ 32 - 1) (x.replay + 1), crc := min (2 ^ 32 - 1) (x.crc + 1),
               fails := if 7 ≤ x.fails then 0 else x.fails + 1, busy := decide (7 ≤ x.fails) }))) ∧
  (∀ lanes, lanes < 65536 → (linkWidth lanes = some 0 ↔ lanes = 0xFFFF) ∧
    (linkWidth lanes = some 1 ↔ lanes ≠ 0xFFFF ∧ (lanes % 256 = 0xFF ∨ lanes / 256 = 0xFF)))

/-- R4, R128, R129: a register write by the context reaches the register named once the access passes; bytes that are no instruction, and bytes
that cannot be fetched, raise their causes in place of an instruction: the trap frame holds the PC. -/
def Obligations.RegisterWriteAndDecodeFaults : Prop :=
  (∀ (s : State) (core o : Nat) (val : W32),
    (s.dev.canIssue core = none → Answers (exec (.registerWrite core o val) s) s s.dev) ∧
    ((s.dev.canIssue core).isSome = true → s.dev.mayReach core o .write = none →
      ∃ e : Exc, Answers (exec (.registerWrite core o val) s) s ((s.dev.wake (core / 4)).raiseExc core e) ∧
        (o % 4 ≠ 0 → e.cls = 3) ∧
        (∀ row, o % 4 = 0 → o < 2 ^ 28 → s.dev.checkRange (s.dev.who core).slot (s.dev.who core).id (s.dev.who core).secure (s.dev.who core).nxf
            .write (s.dev.regPa o) 4 = row → e = rowExc row 0 .write (BitVec.ofNat 64 (regBase + o)))) ∧
    (∀ D, Reaches s.dev core o .write D →
      Answers (exec (.registerWrite core o val) s) s (D.regWrite (s.dev.acc core) o val.toNat))) ∧
  (∀ (d : Dev) (a : Acc) (v : Nat),
    d.regWrite a 0x10 v = { d with ras := { d.ras with starveNs := max 500 (min 20000 (v % 2 ^ 15)) } } ∧
    (a.keeper = true → a.id = 0 → d.regWrite a 0x10008 v = { d with flp := { d.flp with srcLo := BitVec.ofNat 32 (v / 8 * 8) } }) ∧
    d.regWrite a 0x150004 v = { d with bist := { d.bist with ageH := max 1 (min 4000 (v % 4096)) } } ∧
    d.regWrite a 0x40018 v = { d with porch := { d.porch with wakeEn := BitVec.ofNat 7 v } }) ∧
  (∀ (s : State) (core : Nat) (bytes : List Byte),
    let w := s.dev.wake (core / 4)
    (s.dev.canIssue core = none ∨ s.dev.rawCause core bytes = none → Answers (exec (.illegalInstruction core bytes) s) s s.dev) ∧
    (∀ i code, (s.dev.canIssue core).isSome = true → s.dev.rawCause core bytes = some (i, code) → w.bpHit core = none →
      (∀ d1 ps, w.fetch core (i + 1) = .ok d1 ps →
        Answers (exec (.illegalInstruction core bytes) s) s (d1.raiseExc core { cls := 1, code := code })) ∧
      (∀ d1, w.fetch core (i + 1) = .wait d1 → Answers (exec (.illegalInstruction core bytes) s) s d1) ∧
      (∀ x, w.fetch core (i + 1) = .exc x →
        Answers (exec (.illegalInstruction core bytes) s) s ((w.faultWalk core x).raiseExc core x)))) ∧
  (∀ (s : State) (core len : Nat),
    let w := s.dev.wake (core / 4)
    (s.dev.canIssue core = none → Answers (exec (.fetchFault core len) s) s s.dev) ∧
    ((s.dev.canIssue core).isSome = true → w.bpHit core = none →
      (∀ x, w.fetch core (min len 16) = .exc x → Answers (exec (.fetchFault core len) s) s ((w.faultWalk core x).raiseExc core x)) ∧
      (∀ d1, w.fetch core (min len 16) = .wait d1 → Answers (exec (.fetchFault core len) s) s d1) ∧
      (∀ d1 ps, w.fetch core (min len 16) = .ok d1 ps → Answers (exec (.fetchFault core len) s) s w)))

/-! ### Registers that stand apart -/

/-- R101: C0 reads zero; a write to it is discarded, and each integer instruction of Table 5.5 that names it as RD completes with its flags
and the next PC; as a base it gives the displacement. -/
def Obligations.ConstantZeroRegister : Prop :=
  (∀ x : Ctx, x.get 0 = 0) ∧ (∀ (x : Ctx) (v : Word) (p : Nat), (x.wr 0 v).getP p = x.getP p) ∧
  (∀ (x : Ctx) (f : Form) (next : Word), f.mode ≠ amMS → f.mode ≠ amMK → f.mode ≠ amMP → f.rsn = 0 → x.ea f next = f.imm) ∧
  (∀ r ∈ ([(.add, 0x00, aluAdd), (.sub, 0x01, aluSub), (.and, 0x02, aluAnd), (.or, 0x03, aluOr), (.xor, 0x04, aluXor),
       (.andn, 0x05, aluAndn), (.shl, 0x08, aluShl), (.shr, 0x09, aluShr), (.sar, 0x0A, aluSar), (.rol, 0x0B, aluRol),
       (.ror, 0x0C, aluRor), (.mov, 0x0D, aluMov), (.neg, 0x0E, aluNeg), (.not, 0x0F, aluNot), (.mul, 0x10, aluMul),
       (.mulh, 0x11, aluMulh), (.mulhu, 0x12, aluMulhu)] : List ((Nat → Form → Instr) × Nat × (Nat → Nat → Nat → Res))),
    ∀ (s : State) (core : Nat) (f : Form) (e : Env), f.rdn = 0 →
    s.dev.enter core .prim r.2.1 f none (Form.src2 f) false anyLevel = .ok e →
    ∃ X : Dev, Answers (exec (r.1 core f) s) s (X.afterIssue core none) ∧ (∀ p, (X.ctx e.cx).getP p = e.x.getP p) ∧
      (X.ctx e.cx).pc = e.next ∧
      let q := r.2.2 f.width.bits e.ops.1 e.ops.2
      ((X.ctx e.cx).n, (X.ctx e.cx).z, (X.ctx e.cx).c, (X.ctx e.cx).v) =
        (q.n.getD e.x.n, q.z.getD e.x.z, q.c.getD e.x.c, q.v.getD e.x.v))

/-- R108, R109: a bank register holds bits [63:16] of what WRBK writes, whatever they are, and reads zero below; an address that is not
canonical faults when it is used; each world has its own set, which RDBK and WRBK reach while it is current and which SWCALL and SWRET
switch without moving a value; a context starts with every one of them zero. -/
def Obligations.BankRegisters : Prop :=
  (∀ (s : State) (core : Nat) (f : Form) (e : Env), s.dev.enter core .escF0 3 f none [f.rsn] false anyLevel = .ok e →
    ∃ X : Dev, Answers (exec (.wrbk core f) s) s (X.afterIssue core none) ∧ ∀ n, (X.ctx e.cx).bk n =
      if n = f.raw then e.x.get f.rsn &&& 0xFFFFFFFFFFFF0000 else e.x.bk n) ∧
  (∀ (s : State) (core : Nat) (f : Form) (e : Env), s.dev.enter core .escF0 2 f none [] false anyLevel = .ok e →
    ∃ X : Dev, Answers (exec (.rdbk core f) s) s (X.afterIssue core none) ∧
      (X.ctx e.cx).get f.rdn = if f.rdn = 0 then 0 else e.x.bk f.raw) ∧
  (∀ (d : Dev) (w : Who) (va : Word) (k : AccKind), canonical va = false → d.translate w va k = .error (1, 0)) ∧
  (∀ (x : Ctx) (n : Nat), x.bk n = Sparse.get 0 (if x.secure then x.bkS else x.bkN) n) ∧
  (∀ (x : Ctx) (n : Nat) (v : Word), (x.secure = true → (x.setBk n v).bkN = x.bkN) ∧ (x.secure = false → (x.setBk n v).bkS = x.bkS)) ∧
  (∀ (x : Ctx) (next : Word), (x.called next).bkN = x.bkN ∧ (x.called next).bkS = x.bkS ∧ (x.called next).secure = true) ∧
  (∀ x : Ctx, x.returned.bkN = x.bkN ∧ x.returned.bkS = x.bkS ∧ x.returned.secure = false) ∧
  (∀ (d : Dev) (cx entry n : Nat), ((d.startCtx cx entry).ctx cx).bk n = 0)

/-! ### What every step keeps -/

/-- Whatever the command, a step that answers keeps what holds of the Lobby's sessions: distinct IDs, at most eight open (R84), no session
with sixteen discarded messages, 32-bit sequence numbers (R85). -/
def Obligations.EveryStepKeepsTheLobby : Prop :=
  ∀ s t : State, LobbyInv s → step s = .next t → LobbyInv t

/-- R84, R85: a session that is open after a step was open before it with the same key and role, and has since accepted only higher sequence
numbers, or the step was the PROOF of its handshake, whose HMAC under its slot's key is right; and only an accepted message raises
the number. -/
def Obligations.SessionsOpenOnlyByProof : Prop :=
  ∀ s t : State, LobbyInv s → step s = .next t → ∀ y ∈ t.lobby.sessions, y.isOpen = true →
    (∃ x ∈ s.lobby.sessions, x.isOpen = true ∧ x.sid = y.sid ∧ x.key = y.key ∧ x.role = y.role ∧ x.lastSeq ≤ y.lastSeq ∧
      (x.lastSeq < y.lastSeq → ∃ i rest m cmd roles, s.pending = i :: rest ∧ lobbyRow i = some (m, cmd, roles) ∧ m.sid = y.sid ∧
        m.seq = y.lastSeq ∧ m.mac = msgMac x.key m.sid m.seq cmd 0 0 m.payload)) ∨
    (∃ mac rest, s.pending = .proof y.sid mac :: rest ∧ ∃ x ∈ s.lobby.sessions, x.isOpen = false ∧ x.sid = y.sid ∧ x.slot = y.slot ∧
      mac = Config.hmac256 (s.dev.keySlot x.slot).key (ascii "KSES-C" ++ (x.nc ++ x.nd ++ leBytes 4 x.sid)) ∧
      y.role = (s.dev.keySlot x.slot).role)

/-- R461: reset has no command waiting, no session, no floorplan in force, nothing listed in memory, the timebase stopped, and the invariant of
the Lobby; memory is in canonical form; every output ball is at high impedance but PWR_EN, which is high (R504, Table 23.10). That unwritten bytes read zero and which registers hold zero is the model's choice
(notes/assumptions/2.md, 3.md). -/
def Obligations.ResetState : Prop :=
  LobbyInv State.reset ∧ State.reset.pending = [] ∧ State.reset.lobby.sessions = [] ∧ State.reset.dev.devState = .inReset ∧
  State.reset.dev.plan = Plan.empty ∧ State.reset.dev.mem = [] ∧ State.reset.dev.mem.wf = true ∧ State.reset.dev.clk.stopped = true ∧
  State.reset.dev.irqPend = [] ∧ State.reset.dev.flp.st = .idle ∧ State.reset.dev.keys.own = .unowned ∧
  (∀ slot, (State.reset.dev.room slot).phase = .absent) ∧ State.reset.dev.pwrEn = .high ∧
  (∀ p, State.reset.dev.perstN p = .highZ) ∧ ∀ b, State.reset.dev.txdIdle b = .highZ
end

