-- ==== Sys2Proof/Laws/Bits.lean ====
section
/-!
SUPPORT. Fields of numbers, bit by bit.
-/
namespace Sys2Proof.Laws
open Sys2Proof.Machine

theorem testBit_field (x hi lo i : Nat) : (field x hi lo).testBit i = (decide (i < hi + 1 - lo) && x.testBit (lo + i)) := by
  rw [field, Nat.testBit_mod_two_pow, Nat.testBit_shiftRight]

/-- A number taken apart around the field [hi:lo]. -/
theorem setField_eq (x hi lo v : Nat) (h : lo ≤ hi) :
    setField x hi lo v = 2 ^ lo * (2 ^ (hi + 1 - lo) * (x / 2 ^ (hi + 1)) + v % 2 ^ (hi + 1 - lo)) + x % 2 ^ lo := by
  have hp : 2 ^ (hi + 1) = 2 ^ lo * 2 ^ (hi + 1 - lo) := by rw [← pow_add]; congr 1; omega
  have e1 : field x hi lo = x / 2 ^ lo % 2 ^ (hi + 1 - lo) := by rw [field, Nat.shiftRight_eq_div_pow]
  have e2 : x / 2 ^ lo = 2 ^ (hi + 1 - lo) * (x / 2 ^ (hi + 1)) + x / 2 ^ lo % 2 ^ (hi + 1 - lo) := by
    rw [hp, ← Nat.div_div_eq_div_mul]; exact (Nat.div_add_mod _ _).symm
  have e3 : x = 2 ^ lo * (x / 2 ^ lo) + x % 2 ^ lo := (Nat.div_add_mod _ _).symm
  rw [setField, e1]
  generalize hF : x / 2 ^ lo % 2 ^ (hi + 1 - lo) = F at *
  generalize x / 2 ^ (hi + 1) = A at *
  have e4 : x = 2 ^ lo * (2 ^ (hi + 1 - lo) * A) + 2 ^ lo * F + x % 2 ^ lo := by
    rw [← Nat.mul_add, ← e2]; exact e3
  have e5 : x - F * 2 ^ lo = 2 ^ lo * (2 ^ (hi + 1 - lo) * A) + x % 2 ^ lo := by
    rw [Nat.mul_comm F]; omega
  rw [e5, Nat.mul_add, Nat.mul_comm (v % _)]
  omega

theorem testBit_setField (x hi lo v i : Nat) (h : lo ≤ hi) :
    (setField x hi lo v).testBit i = if lo ≤ i ∧ i ≤ hi then v.testBit (i - lo) else x.testBit i := by
  rw [setField_eq x hi lo v h, Nat.testBit_two_pow_mul_add _ (Nat.mod_lt _ (Nat.two_pow_pos _))]
  by_cases h1 : i < lo
  · rw [if_pos h1, Nat.testBit_mod_two_pow, if_neg (by omega)]; simp [h1]
  · rw [if_neg h1, Nat.testBit_two_pow_mul_add _ (Nat.mod_lt _ (Nat.two_pow_pos _))]
    by_cases h2 : i ≤ hi
    · rw [if_pos (by omega), if_pos (by omega), Nat.testBit_mod_two_pow]; simp; omega
    · rw [if_neg (by omega), if_neg (by omega), Nat.testBit_div_two_pow]; congr 1; omega

theorem setField_lt {x hi lo v n : Nat} (h : lo ≤ hi) (hn : hi < n) (hx : x < 2 ^ n) : setField x hi lo v < 2 ^ n := by
  apply Nat.lt_pow_two_of_testBit
  intro i hi'
  rw [testBit_setField _ _ _ _ _ h, if_neg (by omega)]
  exact Nat.testBit_lt_two_pow (lt_of_lt_of_le hx (Nat.pow_le_pow_right (by decide) hi'))

theorem b2n_testBit (b : Bool) : (b2n b).testBit 0 = b := by cases b <;> rfl

end Sys2Proof.Laws
end

