-- ==== Sys2Proof/Laws/Sparse.lean ====
section
/-!
SUPPORT. Laws of sparse tables: a read after a write, and the canonical form.
-/
namespace Sys2Proof.Laws
open Sys2Proof.Machine

variable {α : Type}

theorem Sparse_get_insert (d : α) (m : Sparse α) (a b : Nat) (x : α) :
    Sparse.get d (Sparse.insert m a x) b = if b = a then x else Sparse.get d m b := by
  induction m with
  | nil => simp only [Sparse.insert, Sparse.get, eq_comm]
  | cons h t ih =>
    obtain ⟨k, v⟩ := h
    simp only [Sparse.insert]
    split_ifs with h1 h2 h3 <;> simp only [Sparse.get] <;> split_ifs <;> first | rfl | omega | simp_all

@[simp] theorem Sparse_get_insert_same (d : α) (m : Sparse α) (a : Nat) (x : α) :
    Sparse.get d (Sparse.insert m a x) a = x := by simp [Sparse_get_insert]

theorem Sparse_get_erase (d : α) (m : Sparse α) (a b : Nat) :
    Sparse.get d (Sparse.erase m a) b = if b = a then d else Sparse.get d m b := by
  induction m with
  | nil => simp [Sparse.erase, Sparse.get]
  | cons h t ih =>
    obtain ⟨k, v⟩ := h
    simp only [Sparse.erase]
    by_cases h1 : a = k
    · subst h1; by_cases h2 : b = a
      · simp_all
      · simp [Sparse.get, ih, h2]
    · by_cases h2 : b = a
      · subst h2; simp [Sparse.get, ih, h1]
      · simp [Sparse.get, ih, h1, h2]

/-- A read after a write gives the value written, and a write leaves every other key alone. -/
theorem Sparse_get_set [DecidableEq α] (d : α) (m : Sparse α) (a b : Nat) (x : α) :
    Sparse.get d (Sparse.set d m a x) b = if b = a then x else Sparse.get d m b := by
  unfold Sparse.set
  split_ifs with h1 h2 h2 <;> simp_all [Sparse_get_erase, Sparse_get_insert]

theorem Sparse_wfFrom_mono [DecidableEq α] (d : α) {lo lo' : Nat} (h : lo' ≤ lo) (m : Sparse α)
    (hm : Sparse.wfFrom d lo m = true) : Sparse.wfFrom d lo' m = true := by
  cases m with
  | nil => rfl
  | cons p t => obtain ⟨k, v⟩ := p; simp_all [Sparse.wfFrom]; omega

theorem Sparse_wfFrom_erase [DecidableEq α] (d : α) (a : Nat) (m : Sparse α) (lo : Nat)
    (hm : Sparse.wfFrom d lo m = true) : Sparse.wfFrom d lo (Sparse.erase m a) = true := by
  induction m generalizing lo with
  | nil => rfl
  | cons p t ih =>
    obtain ⟨k, v⟩ := p
    simp only [Sparse.wfFrom, Bool.and_eq_true, decide_eq_true_eq] at hm
    simp only [Sparse.erase]
    split_ifs
    · exact Sparse_wfFrom_mono d (by omega) _ (ih _ hm.2)
    · simp only [Sparse.wfFrom, Bool.and_eq_true, decide_eq_true_eq]; exact ⟨hm.1, ih _ hm.2⟩

theorem Sparse_wfFrom_insert [DecidableEq α] (d : α) (a : Nat) (x : α) (hx : x ≠ d) (m : Sparse α) (lo : Nat) (hlo : lo ≤ a)
    (hm : Sparse.wfFrom d lo m = true) : Sparse.wfFrom d lo (Sparse.insert m a x) = true := by
  induction m generalizing lo with
  | nil => simp [Sparse.insert, Sparse.wfFrom, hx, hlo]
  | cons p t ih =>
    obtain ⟨k, v⟩ := p
    simp only [Sparse.wfFrom, Bool.and_eq_true, decide_eq_true_eq] at hm
    simp only [Sparse.insert]
    split_ifs with h1 h2
    · simp only [Sparse.wfFrom, Bool.and_eq_true, decide_eq_true_eq]
      exact ⟨⟨hlo, hx⟩, ⟨by omega, hm.1.2⟩, hm.2⟩
    · subst h2; simp only [Sparse.wfFrom, Bool.and_eq_true, decide_eq_true_eq]; exact ⟨⟨hlo, hx⟩, hm.2⟩
    · simp only [Sparse.wfFrom, Bool.and_eq_true, decide_eq_true_eq]
      exact ⟨hm.1, ih _ (by omega) hm.2⟩

/-- A write keeps the canonical form. -/
theorem Sparse_wf_set [DecidableEq α] (d : α) (m : Sparse α) (a : Nat) (x : α) (hm : Sparse.wf d m = true) :
    Sparse.wf d (Sparse.set d m a x) = true := by
  unfold Sparse.set Sparse.wf at *
  split_ifs with h
  · exact Sparse_wfFrom_erase d a m 0 hm
  · exact Sparse_wfFrom_insert d a x h m 0 (Nat.zero_le _) hm

theorem Sparse_wfFrom_filter [DecidableEq α] (d : α) (p : Nat × α → Bool) (m : Sparse α) (lo : Nat)
    (hm : Sparse.wfFrom d lo m = true) : Sparse.wfFrom d lo (m.filter p) = true := by
  induction m generalizing lo with
  | nil => rfl
  | cons q t ih =>
    obtain ⟨k, v⟩ := q
    simp only [Sparse.wfFrom, Bool.and_eq_true, decide_eq_true_eq] at hm
    simp only [List.filter_cons]
    split_ifs
    · simp only [Sparse.wfFrom, Bool.and_eq_true, decide_eq_true_eq]; exact ⟨hm.1, ih _ hm.2⟩
    · exact Sparse_wfFrom_mono d (by omega) _ (ih _ hm.2)

end Sys2Proof.Laws
end

