-- ==== Sys2Proof/Laws/State.lean ====
section
/-!
SUPPORT. One lemma per field and per unit for every named update of the device and of a context: what the update sets, and what it
leaves. Each is true by unfolding; together they let a proof read a field without unfolding an update.
-/
namespace Sys2Proof.Laws
open Sys2Proof Sys2Proof.Machine

variable (d : Dev) (i j : Nat)


/-! ### setCore -/

@[simp] theorem modCore_eq (f : Core → Core) : d.modCore i f = d.setCore i (f (d.core i)) := rfl
@[simp] theorem core_setCore_same (x : Core) : (d.setCore i x).core i = x := Sparse_get_insert_same _ _ _ _
theorem core_setCore (x : Core) : (d.setCore i x).core j = if j = i then x else d.core j := by
  by_cases h : j = i <;> simp [h, Dev.core, Dev.setCore, Sparse_get_insert]
theorem core_setCore_ne (x : Core) (h : j ≠ i) : (d.setCore i x).core j = d.core j := by
  rw [core_setCore, if_neg h]
@[simp] theorem straps_setCore (x : Core) : (d.setCore i x).straps = d.straps := rfl
@[simp] theorem board_setCore (x : Core) : (d.setCore i x).board = d.board := rfl
@[simp] theorem devState_setCore (x : Core) : (d.setCore i x).devState = d.devState := rfl
@[simp] theorem clk_setCore (x : Core) : (d.setCore i x).clk = d.clk := rfl
@[simp] theorem store_setCore (x : Core) : (d.setCore i x).store = d.store := rfl
@[simp] theorem keys_setCore (x : Core) : (d.setCore i x).keys = d.keys := rfl
@[simp] theorem plan_setCore (x : Core) : (d.setCore i x).plan = d.plan := rfl
@[simp] theorem shadowPlan_setCore (x : Core) : (d.setCore i x).shadowPlan = d.shadowPlan := rfl
@[simp] theorem flp_setCore (x : Core) : (d.setCore i x).flp = d.flp := rfl
@[simp] theorem rooms_setCore (x : Core) : (d.setCore i x).rooms = d.rooms := rfl
@[simp] theorem ctxs_setCore (x : Core) : (d.setCore i x).ctxs = d.ctxs := rfl
@[simp] theorem clusters_setCore (x : Core) : (d.setCore i x).clusters = d.clusters := rfl
@[simp] theorem regions_setCore (x : Core) : (d.setCore i x).regions = d.regions := rfl
@[simp] theorem mboxes_setCore (x : Core) : (d.setCore i x).mboxes = d.mboxes := rfl
@[simp] theorem ckpts_setCore (x : Core) : (d.setCore i x).ckpts = d.ckpts := rfl
@[simp] theorem mem_setCore (x : Core) : (d.setCore i x).mem = d.mem := rfl
@[simp] theorem chan_setCore (x : Core) : (d.setCore i x).chan = d.chan := rfl
@[simp] theorem irqPend_setCore (x : Core) : (d.setCore i x).irqPend = d.irqPend := rfl
@[simp] theorem irqOff_setCore (x : Core) : (d.setCore i x).irqOff = d.irqOff := rfl
@[simp] theorem irqPrio_setCore (x : Core) : (d.setCore i x).irqPrio = d.irqPrio := rfl
@[simp] theorem inc_setCore (x : Core) : (d.setCore i x).inc = d.inc := rfl
@[simp] theorem ras_setCore (x : Core) : (d.setCore i x).ras = d.ras := rfl
@[simp] theorem porch_setCore (x : Core) : (d.setCore i x).porch = d.porch := rfl
@[simp] theorem domains_setCore (x : Core) : (d.setCore i x).domains = d.domains := rfl
@[simp] theorem bist_setCore (x : Core) : (d.setCore i x).bist = d.bist := rfl
@[simp] theorem rst_setCore (x : Core) : (d.setCore i x).rst = d.rst := rfl
@[simp] theorem frc_setCore (x : Core) : (d.setCore i x).frc = d.frc := rfl
@[simp] theorem per_setCore (x : Core) : (d.setCore i x).per = d.per := rfl
@[simp] theorem hubQ_setCore (x : Core) : (d.setCore i x).hubQ = d.hubQ := rfl
@[simp] theorem diesLost_setCore (x : Core) : (d.setCore i x).diesLost = d.diesLost := rfl
@[simp] theorem endSessions_setCore (x : Core) : (d.setCore i x).endSessions = d.endSessions := rfl
@[simp] theorem outbox_setCore (x : Core) : (d.setCore i x).outbox = d.outbox := rfl
@[simp] theorem unit_ctx_setCore (x : Core) : (d.setCore i x).ctx j = d.ctx j := rfl
@[simp] theorem unit_cluster_setCore (x : Core) : (d.setCore i x).cluster j = d.cluster j := rfl
@[simp] theorem unit_region_setCore (x : Core) : (d.setCore i x).region j = d.region j := rfl
@[simp] theorem unit_room_setCore (x : Core) : (d.setCore i x).room j = d.room j := rfl
@[simp] theorem unit_mbox_setCore (x : Core) : (d.setCore i x).mbox j = d.mbox j := rfl
@[simp] theorem unit_domain_setCore (x : Core) : (d.setCore i x).domain j = d.domain j := rfl
@[simp] theorem unit_node_setCore (x : Core) : (d.setCore i x).node j = d.node j := rfl
@[simp] theorem unit_port_setCore (x : Core) : (d.setCore i x).port j = d.port j := rfl
@[simp] theorem unit_ring_setCore (x : Core) : (d.setCore i x).ring j = d.ring j := rfl
@[simp] theorem unit_can_setCore (x : Core) : (d.setCore i x).can j = d.can j := rfl
@[simp] theorem unit_mac_setCore (x : Core) : (d.setCore i x).mac j = d.mac j := rfl
@[simp] theorem unit_uart_setCore (x : Core) : (d.setCore i x).uart j = d.uart j := rfl
@[simp] theorem unit_pcie_setCore (x : Core) : (d.setCore i x).pcie j = d.pcie j := rfl
@[simp] theorem unit_link_setCore (x : Core) : (d.setCore i x).link j = d.link j := rfl
@[simp] theorem pkg_setCore (x : Core) : (d.setCore i x).pkg = d.pkg := rfl
@[simp] theorem coreSlot_setCore (x : Core) : (d.setCore i x).coreSlot j = d.coreSlot j := rfl
@[simp] theorem coreRoom_setCore (x : Core) : (d.setCore i x).coreRoom j = d.coreRoom j := rfl
@[simp] theorem rrec_setCore (x : Core) : (d.setCore i x).rrec j = d.rrec j := rfl
@[simp] theorem coresOf_setCore (x : Core) : (d.setCore i x).coresOf j = d.coresOf j := rfl
@[simp] theorem clustersOf_setCore (x : Core) : (d.setCore i x).clustersOf j = d.clustersOf j := rfl
@[simp] theorem leads_setCore (x : Core) : (d.setCore i x).leads j = d.leads j := rfl
@[simp] theorem byte_setCore (x : Core) : (d.setCore i x).byte j = d.byte j := rfl
@[simp] theorem timed_setCore (x : Core) : (d.setCore i x).timed j = d.timed j := rfl
@[simp] theorem spans_setCore (x : Core) : (d.setCore i x).spans j = d.spans j := rfl
@[simp] theorem epochUs_setCore (x : Core) : (d.setCore i x).epochUs j = d.epochUs j := rfl

/-! ### setCtx -/

@[simp] theorem modCtx_eq (f : Ctx → Ctx) : d.modCtx i f = d.setCtx i (f (d.ctx i)) := rfl
@[simp] theorem ctx_setCtx_same (x : Ctx) : (d.setCtx i x).ctx i = x := Sparse_get_insert_same _ _ _ _
theorem ctx_setCtx (x : Ctx) : (d.setCtx i x).ctx j = if j = i then x else d.ctx j := by
  by_cases h : j = i <;> simp [h, Dev.ctx, Dev.setCtx, Sparse_get_insert]
theorem ctx_setCtx_ne (x : Ctx) (h : j ≠ i) : (d.setCtx i x).ctx j = d.ctx j := by
  rw [ctx_setCtx, if_neg h]
@[simp] theorem straps_setCtx (x : Ctx) : (d.setCtx i x).straps = d.straps := rfl
@[simp] theorem board_setCtx (x : Ctx) : (d.setCtx i x).board = d.board := rfl
@[simp] theorem devState_setCtx (x : Ctx) : (d.setCtx i x).devState = d.devState := rfl
@[simp] theorem clk_setCtx (x : Ctx) : (d.setCtx i x).clk = d.clk := rfl
@[simp] theorem store_setCtx (x : Ctx) : (d.setCtx i x).store = d.store := rfl
@[simp] theorem keys_setCtx (x : Ctx) : (d.setCtx i x).keys = d.keys := rfl
@[simp] theorem plan_setCtx (x : Ctx) : (d.setCtx i x).plan = d.plan := rfl
@[simp] theorem shadowPlan_setCtx (x : Ctx) : (d.setCtx i x).shadowPlan = d.shadowPlan := rfl
@[simp] theorem flp_setCtx (x : Ctx) : (d.setCtx i x).flp = d.flp := rfl
@[simp] theorem rooms_setCtx (x : Ctx) : (d.setCtx i x).rooms = d.rooms := rfl
@[simp] theorem cores_setCtx (x : Ctx) : (d.setCtx i x).cores = d.cores := rfl
@[simp] theorem clusters_setCtx (x : Ctx) : (d.setCtx i x).clusters = d.clusters := rfl
@[simp] theorem regions_setCtx (x : Ctx) : (d.setCtx i x).regions = d.regions := rfl
@[simp] theorem mboxes_setCtx (x : Ctx) : (d.setCtx i x).mboxes = d.mboxes := rfl
@[simp] theorem ckpts_setCtx (x : Ctx) : (d.setCtx i x).ckpts = d.ckpts := rfl
@[simp] theorem mem_setCtx (x : Ctx) : (d.setCtx i x).mem = d.mem := rfl
@[simp] theorem chan_setCtx (x : Ctx) : (d.setCtx i x).chan = d.chan := rfl
@[simp] theorem irqPend_setCtx (x : Ctx) : (d.setCtx i x).irqPend = d.irqPend := rfl
@[simp] theorem irqOff_setCtx (x : Ctx) : (d.setCtx i x).irqOff = d.irqOff := rfl
@[simp] theorem irqPrio_setCtx (x : Ctx) : (d.setCtx i x).irqPrio = d.irqPrio := rfl
@[simp] theorem inc_setCtx (x : Ctx) : (d.setCtx i x).inc = d.inc := rfl
@[simp] theorem ras_setCtx (x : Ctx) : (d.setCtx i x).ras = d.ras := rfl
@[simp] theorem porch_setCtx (x : Ctx) : (d.setCtx i x).porch = d.porch := rfl
@[simp] theorem domains_setCtx (x : Ctx) : (d.setCtx i x).domains = d.domains := rfl
@[simp] theorem bist_setCtx (x : Ctx) : (d.setCtx i x).bist = d.bist := rfl
@[simp] theorem rst_setCtx (x : Ctx) : (d.setCtx i x).rst = d.rst := rfl
@[simp] theorem frc_setCtx (x : Ctx) : (d.setCtx i x).frc = d.frc := rfl
@[simp] theorem per_setCtx (x : Ctx) : (d.setCtx i x).per = d.per := rfl
@[simp] theorem hubQ_setCtx (x : Ctx) : (d.setCtx i x).hubQ = d.hubQ := rfl
@[simp] theorem diesLost_setCtx (x : Ctx) : (d.setCtx i x).diesLost = d.diesLost := rfl
@[simp] theorem endSessions_setCtx (x : Ctx) : (d.setCtx i x).endSessions = d.endSessions := rfl
@[simp] theorem outbox_setCtx (x : Ctx) : (d.setCtx i x).outbox = d.outbox := rfl
@[simp] theorem unit_core_setCtx (x : Ctx) : (d.setCtx i x).core j = d.core j := rfl
@[simp] theorem unit_cluster_setCtx (x : Ctx) : (d.setCtx i x).cluster j = d.cluster j := rfl
@[simp] theorem unit_region_setCtx (x : Ctx) : (d.setCtx i x).region j = d.region j := rfl
@[simp] theorem unit_room_setCtx (x : Ctx) : (d.setCtx i x).room j = d.room j := rfl
@[simp] theorem unit_mbox_setCtx (x : Ctx) : (d.setCtx i x).mbox j = d.mbox j := rfl
@[simp] theorem unit_domain_setCtx (x : Ctx) : (d.setCtx i x).domain j = d.domain j := rfl
@[simp] theorem unit_node_setCtx (x : Ctx) : (d.setCtx i x).node j = d.node j := rfl
@[simp] theorem unit_port_setCtx (x : Ctx) : (d.setCtx i x).port j = d.port j := rfl
@[simp] theorem unit_ring_setCtx (x : Ctx) : (d.setCtx i x).ring j = d.ring j := rfl
@[simp] theorem unit_can_setCtx (x : Ctx) : (d.setCtx i x).can j = d.can j := rfl
@[simp] theorem unit_mac_setCtx (x : Ctx) : (d.setCtx i x).mac j = d.mac j := rfl
@[simp] theorem unit_uart_setCtx (x : Ctx) : (d.setCtx i x).uart j = d.uart j := rfl
@[simp] theorem unit_pcie_setCtx (x : Ctx) : (d.setCtx i x).pcie j = d.pcie j := rfl
@[simp] theorem unit_link_setCtx (x : Ctx) : (d.setCtx i x).link j = d.link j := rfl
@[simp] theorem pkg_setCtx (x : Ctx) : (d.setCtx i x).pkg = d.pkg := rfl
@[simp] theorem coreSlot_setCtx (x : Ctx) : (d.setCtx i x).coreSlot j = d.coreSlot j := rfl
@[simp] theorem coreRoom_setCtx (x : Ctx) : (d.setCtx i x).coreRoom j = d.coreRoom j := rfl
@[simp] theorem rrec_setCtx (x : Ctx) : (d.setCtx i x).rrec j = d.rrec j := rfl
@[simp] theorem coresOf_setCtx (x : Ctx) : (d.setCtx i x).coresOf j = d.coresOf j := rfl
@[simp] theorem clustersOf_setCtx (x : Ctx) : (d.setCtx i x).clustersOf j = d.clustersOf j := rfl
@[simp] theorem leads_setCtx (x : Ctx) : (d.setCtx i x).leads j = d.leads j := rfl
@[simp] theorem byte_setCtx (x : Ctx) : (d.setCtx i x).byte j = d.byte j := rfl
@[simp] theorem timed_setCtx (x : Ctx) : (d.setCtx i x).timed j = d.timed j := rfl
@[simp] theorem spans_setCtx (x : Ctx) : (d.setCtx i x).spans j = d.spans j := rfl
@[simp] theorem epochUs_setCtx (x : Ctx) : (d.setCtx i x).epochUs j = d.epochUs j := rfl
@[simp] theorem curCtx_setCtx (x : Ctx) : (d.setCtx i x).curCtx j = d.curCtx j := rfl

/-! ### setCluster -/

@[simp] theorem modCluster_eq (f : Cluster → Cluster) : d.modCluster i f = d.setCluster i (f (d.cluster i)) := rfl
@[simp] theorem cluster_setCluster_same (x : Cluster) : (d.setCluster i x).cluster i = x := Sparse_get_insert_same _ _ _ _
theorem cluster_setCluster (x : Cluster) : (d.setCluster i x).cluster j = if j = i then x else d.cluster j := by
  by_cases h : j = i <;> simp [h, Dev.cluster, Dev.setCluster, Sparse_get_insert]
theorem cluster_setCluster_ne (x : Cluster) (h : j ≠ i) : (d.setCluster i x).cluster j = d.cluster j := by
  rw [cluster_setCluster, if_neg h]
@[simp] theorem straps_setCluster (x : Cluster) : (d.setCluster i x).straps = d.straps := rfl
@[simp] theorem board_setCluster (x : Cluster) : (d.setCluster i x).board = d.board := rfl
@[simp] theorem devState_setCluster (x : Cluster) : (d.setCluster i x).devState = d.devState := rfl
@[simp] theorem clk_setCluster (x : Cluster) : (d.setCluster i x).clk = d.clk := rfl
@[simp] theorem store_setCluster (x : Cluster) : (d.setCluster i x).store = d.store := rfl
@[simp] theorem keys_setCluster (x : Cluster) : (d.setCluster i x).keys = d.keys := rfl
@[simp] theorem plan_setCluster (x : Cluster) : (d.setCluster i x).plan = d.plan := rfl
@[simp] theorem shadowPlan_setCluster (x : Cluster) : (d.setCluster i x).shadowPlan = d.shadowPlan := rfl
@[simp] theorem flp_setCluster (x : Cluster) : (d.setCluster i x).flp = d.flp := rfl
@[simp] theorem rooms_setCluster (x : Cluster) : (d.setCluster i x).rooms = d.rooms := rfl
@[simp] theorem ctxs_setCluster (x : Cluster) : (d.setCluster i x).ctxs = d.ctxs := rfl
@[simp] theorem cores_setCluster (x : Cluster) : (d.setCluster i x).cores = d.cores := rfl
@[simp] theorem regions_setCluster (x : Cluster) : (d.setCluster i x).regions = d.regions := rfl
@[simp] theorem mboxes_setCluster (x : Cluster) : (d.setCluster i x).mboxes = d.mboxes := rfl
@[simp] theorem ckpts_setCluster (x : Cluster) : (d.setCluster i x).ckpts = d.ckpts := rfl
@[simp] theorem mem_setCluster (x : Cluster) : (d.setCluster i x).mem = d.mem := rfl
@[simp] theorem chan_setCluster (x : Cluster) : (d.setCluster i x).chan = d.chan := rfl
@[simp] theorem irqPend_setCluster (x : Cluster) : (d.setCluster i x).irqPend = d.irqPend := rfl
@[simp] theorem irqOff_setCluster (x : Cluster) : (d.setCluster i x).irqOff = d.irqOff := rfl
@[simp] theorem irqPrio_setCluster (x : Cluster) : (d.setCluster i x).irqPrio = d.irqPrio := rfl
@[simp] theorem inc_setCluster (x : Cluster) : (d.setCluster i x).inc = d.inc := rfl
@[simp] theorem ras_setCluster (x : Cluster) : (d.setCluster i x).ras = d.ras := rfl
@[simp] theorem porch_setCluster (x : Cluster) : (d.setCluster i x).porch = d.porch := rfl
@[simp] theorem domains_setCluster (x : Cluster) : (d.setCluster i x).domains = d.domains := rfl
@[simp] theorem bist_setCluster (x : Cluster) : (d.setCluster i x).bist = d.bist := rfl
@[simp] theorem rst_setCluster (x : Cluster) : (d.setCluster i x).rst = d.rst := rfl
@[simp] theorem frc_setCluster (x : Cluster) : (d.setCluster i x).frc = d.frc := rfl
@[simp] theorem per_setCluster (x : Cluster) : (d.setCluster i x).per = d.per := rfl
@[simp] theorem hubQ_setCluster (x : Cluster) : (d.setCluster i x).hubQ = d.hubQ := rfl
@[simp] theorem diesLost_setCluster (x : Cluster) : (d.setCluster i x).diesLost = d.diesLost := rfl
@[simp] theorem endSessions_setCluster (x : Cluster) : (d.setCluster i x).endSessions = d.endSessions := rfl
@[simp] theorem outbox_setCluster (x : Cluster) : (d.setCluster i x).outbox = d.outbox := rfl
@[simp] theorem unit_core_setCluster (x : Cluster) : (d.setCluster i x).core j = d.core j := rfl
@[simp] theorem unit_ctx_setCluster (x : Cluster) : (d.setCluster i x).ctx j = d.ctx j := rfl
@[simp] theorem unit_region_setCluster (x : Cluster) : (d.setCluster i x).region j = d.region j := rfl
@[simp] theorem unit_room_setCluster (x : Cluster) : (d.setCluster i x).room j = d.room j := rfl
@[simp] theorem unit_mbox_setCluster (x : Cluster) : (d.setCluster i x).mbox j = d.mbox j := rfl
@[simp] theorem unit_domain_setCluster (x : Cluster) : (d.setCluster i x).domain j = d.domain j := rfl
@[simp] theorem unit_node_setCluster (x : Cluster) : (d.setCluster i x).node j = d.node j := rfl
@[simp] theorem unit_port_setCluster (x : Cluster) : (d.setCluster i x).port j = d.port j := rfl
@[simp] theorem unit_ring_setCluster (x : Cluster) : (d.setCluster i x).ring j = d.ring j := rfl
@[simp] theorem unit_can_setCluster (x : Cluster) : (d.setCluster i x).can j = d.can j := rfl
@[simp] theorem unit_mac_setCluster (x : Cluster) : (d.setCluster i x).mac j = d.mac j := rfl
@[simp] theorem unit_uart_setCluster (x : Cluster) : (d.setCluster i x).uart j = d.uart j := rfl
@[simp] theorem unit_pcie_setCluster (x : Cluster) : (d.setCluster i x).pcie j = d.pcie j := rfl
@[simp] theorem unit_link_setCluster (x : Cluster) : (d.setCluster i x).link j = d.link j := rfl
@[simp] theorem pkg_setCluster (x : Cluster) : (d.setCluster i x).pkg = d.pkg := rfl
@[simp] theorem coreSlot_setCluster (x : Cluster) : (d.setCluster i x).coreSlot j = d.coreSlot j := rfl
@[simp] theorem coreRoom_setCluster (x : Cluster) : (d.setCluster i x).coreRoom j = d.coreRoom j := rfl
@[simp] theorem rrec_setCluster (x : Cluster) : (d.setCluster i x).rrec j = d.rrec j := rfl
@[simp] theorem coresOf_setCluster (x : Cluster) : (d.setCluster i x).coresOf j = d.coresOf j := rfl
@[simp] theorem clustersOf_setCluster (x : Cluster) : (d.setCluster i x).clustersOf j = d.clustersOf j := rfl
@[simp] theorem leads_setCluster (x : Cluster) : (d.setCluster i x).leads j = d.leads j := rfl
@[simp] theorem byte_setCluster (x : Cluster) : (d.setCluster i x).byte j = d.byte j := rfl
@[simp] theorem timed_setCluster (x : Cluster) : (d.setCluster i x).timed j = d.timed j := rfl
@[simp] theorem spans_setCluster (x : Cluster) : (d.setCluster i x).spans j = d.spans j := rfl
@[simp] theorem epochUs_setCluster (x : Cluster) : (d.setCluster i x).epochUs j = d.epochUs j := rfl
@[simp] theorem curCtx_setCluster (x : Cluster) : (d.setCluster i x).curCtx j = d.curCtx j := rfl

/-! ### setRegion -/

@[simp] theorem modRegion_eq (f : Region → Region) : d.modRegion i f = d.setRegion i (f (d.region i)) := rfl
@[simp] theorem region_setRegion_same (x : Region) : (d.setRegion i x).region i = x := Sparse_get_insert_same _ _ _ _
theorem region_setRegion (x : Region) : (d.setRegion i x).region j = if j = i then x else d.region j := by
  by_cases h : j = i <;> simp [h, Dev.region, Dev.setRegion, Sparse_get_insert]
theorem region_setRegion_ne (x : Region) (h : j ≠ i) : (d.setRegion i x).region j = d.region j := by
  rw [region_setRegion, if_neg h]
@[simp] theorem straps_setRegion (x : Region) : (d.setRegion i x).straps = d.straps := rfl
@[simp] theorem board_setRegion (x : Region) : (d.setRegion i x).board = d.board := rfl
@[simp] theorem devState_setRegion (x : Region) : (d.setRegion i x).devState = d.devState := rfl
@[simp] theorem clk_setRegion (x : Region) : (d.setRegion i x).clk = d.clk := rfl
@[simp] theorem store_setRegion (x : Region) : (d.setRegion i x).store = d.store := rfl
@[simp] theorem keys_setRegion (x : Region) : (d.setRegion i x).keys = d.keys := rfl
@[simp] theorem plan_setRegion (x : Region) : (d.setRegion i x).plan = d.plan := rfl
@[simp] theorem shadowPlan_setRegion (x : Region) : (d.setRegion i x).shadowPlan = d.shadowPlan := rfl
@[simp] theorem flp_setRegion (x : Region) : (d.setRegion i x).flp = d.flp := rfl
@[simp] theorem rooms_setRegion (x : Region) : (d.setRegion i x).rooms = d.rooms := rfl
@[simp] theorem ctxs_setRegion (x : Region) : (d.setRegion i x).ctxs = d.ctxs := rfl
@[simp] theorem cores_setRegion (x : Region) : (d.setRegion i x).cores = d.cores := rfl
@[simp] theorem clusters_setRegion (x : Region) : (d.setRegion i x).clusters = d.clusters := rfl
@[simp] theorem mboxes_setRegion (x : Region) : (d.setRegion i x).mboxes = d.mboxes := rfl
@[simp] theorem ckpts_setRegion (x : Region) : (d.setRegion i x).ckpts = d.ckpts := rfl
@[simp] theorem mem_setRegion (x : Region) : (d.setRegion i x).mem = d.mem := rfl
@[simp] theorem chan_setRegion (x : Region) : (d.setRegion i x).chan = d.chan := rfl
@[simp] theorem irqPend_setRegion (x : Region) : (d.setRegion i x).irqPend = d.irqPend := rfl
@[simp] theorem irqOff_setRegion (x : Region) : (d.setRegion i x).irqOff = d.irqOff := rfl
@[simp] theorem irqPrio_setRegion (x : Region) : (d.setRegion i x).irqPrio = d.irqPrio := rfl
@[simp] theorem inc_setRegion (x : Region) : (d.setRegion i x).inc = d.inc := rfl
@[simp] theorem ras_setRegion (x : Region) : (d.setRegion i x).ras = d.ras := rfl
@[simp] theorem porch_setRegion (x : Region) : (d.setRegion i x).porch = d.porch := rfl
@[simp] theorem domains_setRegion (x : Region) : (d.setRegion i x).domains = d.domains := rfl
@[simp] theorem bist_setRegion (x : Region) : (d.setRegion i x).bist = d.bist := rfl
@[simp] theorem rst_setRegion (x : Region) : (d.setRegion i x).rst = d.rst := rfl
@[simp] theorem frc_setRegion (x : Region) : (d.setRegion i x).frc = d.frc := rfl
@[simp] theorem per_setRegion (x : Region) : (d.setRegion i x).per = d.per := rfl
@[simp] theorem hubQ_setRegion (x : Region) : (d.setRegion i x).hubQ = d.hubQ := rfl
@[simp] theorem diesLost_setRegion (x : Region) : (d.setRegion i x).diesLost = d.diesLost := rfl
@[simp] theorem endSessions_setRegion (x : Region) : (d.setRegion i x).endSessions = d.endSessions := rfl
@[simp] theorem outbox_setRegion (x : Region) : (d.setRegion i x).outbox = d.outbox := rfl
@[simp] theorem unit_core_setRegion (x : Region) : (d.setRegion i x).core j = d.core j := rfl
@[simp] theorem unit_ctx_setRegion (x : Region) : (d.setRegion i x).ctx j = d.ctx j := rfl
@[simp] theorem unit_cluster_setRegion (x : Region) : (d.setRegion i x).cluster j = d.cluster j := rfl
@[simp] theorem unit_room_setRegion (x : Region) : (d.setRegion i x).room j = d.room j := rfl
@[simp] theorem unit_mbox_setRegion (x : Region) : (d.setRegion i x).mbox j = d.mbox j := rfl
@[simp] theorem unit_domain_setRegion (x : Region) : (d.setRegion i x).domain j = d.domain j := rfl
@[simp] theorem unit_node_setRegion (x : Region) : (d.setRegion i x).node j = d.node j := rfl
@[simp] theorem unit_port_setRegion (x : Region) : (d.setRegion i x).port j = d.port j := rfl
@[simp] theorem unit_ring_setRegion (x : Region) : (d.setRegion i x).ring j = d.ring j := rfl
@[simp] theorem unit_can_setRegion (x : Region) : (d.setRegion i x).can j = d.can j := rfl
@[simp] theorem unit_mac_setRegion (x : Region) : (d.setRegion i x).mac j = d.mac j := rfl
@[simp] theorem unit_uart_setRegion (x : Region) : (d.setRegion i x).uart j = d.uart j := rfl
@[simp] theorem unit_pcie_setRegion (x : Region) : (d.setRegion i x).pcie j = d.pcie j := rfl
@[simp] theorem unit_link_setRegion (x : Region) : (d.setRegion i x).link j = d.link j := rfl
@[simp] theorem pkg_setRegion (x : Region) : (d.setRegion i x).pkg = d.pkg := rfl
@[simp] theorem coreSlot_setRegion (x : Region) : (d.setRegion i x).coreSlot j = d.coreSlot j := rfl
@[simp] theorem coreRoom_setRegion (x : Region) : (d.setRegion i x).coreRoom j = d.coreRoom j := rfl
@[simp] theorem rrec_setRegion (x : Region) : (d.setRegion i x).rrec j = d.rrec j := rfl
@[simp] theorem coresOf_setRegion (x : Region) : (d.setRegion i x).coresOf j = d.coresOf j := rfl
@[simp] theorem clustersOf_setRegion (x : Region) : (d.setRegion i x).clustersOf j = d.clustersOf j := rfl
@[simp] theorem leads_setRegion (x : Region) : (d.setRegion i x).leads j = d.leads j := rfl
@[simp] theorem byte_setRegion (x : Region) : (d.setRegion i x).byte j = d.byte j := rfl
@[simp] theorem timed_setRegion (x : Region) : (d.setRegion i x).timed j = d.timed j := rfl
@[simp] theorem spans_setRegion (x : Region) : (d.setRegion i x).spans j = d.spans j := rfl
@[simp] theorem epochUs_setRegion (x : Region) : (d.setRegion i x).epochUs j = d.epochUs j := rfl
@[simp] theorem curCtx_setRegion (x : Region) : (d.setRegion i x).curCtx j = d.curCtx j := rfl

/-! ### setRoom -/

@[simp] theorem modRoom_eq (f : Room → Room) : d.modRoom i f = d.setRoom i (f (d.room i)) := rfl
@[simp] theorem room_setRoom_same (x : Room) : (d.setRoom i x).room i = x := Sparse_get_insert_same _ _ _ _
theorem room_setRoom (x : Room) : (d.setRoom i x).room j = if j = i then x else d.room j := by
  by_cases h : j = i <;> simp [h, Dev.room, Dev.setRoom, Sparse_get_insert]
theorem room_setRoom_ne (x : Room) (h : j ≠ i) : (d.setRoom i x).room j = d.room j := by
  rw [room_setRoom, if_neg h]
@[simp] theorem straps_setRoom (x : Room) : (d.setRoom i x).straps = d.straps := rfl
@[simp] theorem board_setRoom (x : Room) : (d.setRoom i x).board = d.board := rfl
@[simp] theorem devState_setRoom (x : Room) : (d.setRoom i x).devState = d.devState := rfl
@[simp] theorem clk_setRoom (x : Room) : (d.setRoom i x).clk = d.clk := rfl
@[simp] theorem store_setRoom (x : Room) : (d.setRoom i x).store = d.store := rfl
@[simp] theorem keys_setRoom (x : Room) : (d.setRoom i x).keys = d.keys := rfl
@[simp] theorem plan_setRoom (x : Room) : (d.setRoom i x).plan = d.plan := rfl
@[simp] theorem shadowPlan_setRoom (x : Room) : (d.setRoom i x).shadowPlan = d.shadowPlan := rfl
@[simp] theorem flp_setRoom (x : Room) : (d.setRoom i x).flp = d.flp := rfl
@[simp] theorem ctxs_setRoom (x : Room) : (d.setRoom i x).ctxs = d.ctxs := rfl
@[simp] theorem cores_setRoom (x : Room) : (d.setRoom i x).cores = d.cores := rfl
@[simp] theorem clusters_setRoom (x : Room) : (d.setRoom i x).clusters = d.clusters := rfl
@[simp] theorem regions_setRoom (x : Room) : (d.setRoom i x).regions = d.regions := rfl
@[simp] theorem mboxes_setRoom (x : Room) : (d.setRoom i x).mboxes = d.mboxes := rfl
@[simp] theorem ckpts_setRoom (x : Room) : (d.setRoom i x).ckpts = d.ckpts := rfl
@[simp] theorem mem_setRoom (x : Room) : (d.setRoom i x).mem = d.mem := rfl
@[simp] theorem chan_setRoom (x : Room) : (d.setRoom i x).chan = d.chan := rfl
@[simp] theorem irqPend_setRoom (x : Room) : (d.setRoom i x).irqPend = d.irqPend := rfl
@[simp] theorem irqOff_setRoom (x : Room) : (d.setRoom i x).irqOff = d.irqOff := rfl
@[simp] theorem irqPrio_setRoom (x : Room) : (d.setRoom i x).irqPrio = d.irqPrio := rfl
@[simp] theorem inc_setRoom (x : Room) : (d.setRoom i x).inc = d.inc := rfl
@[simp] theorem ras_setRoom (x : Room) : (d.setRoom i x).ras = d.ras := rfl
@[simp] theorem porch_setRoom (x : Room) : (d.setRoom i x).porch = d.porch := rfl
@[simp] theorem domains_setRoom (x : Room) : (d.setRoom i x).domains = d.domains := rfl
@[simp] theorem bist_setRoom (x : Room) : (d.setRoom i x).bist = d.bist := rfl
@[simp] theorem rst_setRoom (x : Room) : (d.setRoom i x).rst = d.rst := rfl
@[simp] theorem frc_setRoom (x : Room) : (d.setRoom i x).frc = d.frc := rfl
@[simp] theorem per_setRoom (x : Room) : (d.setRoom i x).per = d.per := rfl
@[simp] theorem hubQ_setRoom (x : Room) : (d.setRoom i x).hubQ = d.hubQ := rfl
@[simp] theorem diesLost_setRoom (x : Room) : (d.setRoom i x).diesLost = d.diesLost := rfl
@[simp] theorem endSessions_setRoom (x : Room) : (d.setRoom i x).endSessions = d.endSessions := rfl
@[simp] theorem outbox_setRoom (x : Room) : (d.setRoom i x).outbox = d.outbox := rfl
@[simp] theorem unit_core_setRoom (x : Room) : (d.setRoom i x).core j = d.core j := rfl
@[simp] theorem unit_ctx_setRoom (x : Room) : (d.setRoom i x).ctx j = d.ctx j := rfl
@[simp] theorem unit_cluster_setRoom (x : Room) : (d.setRoom i x).cluster j = d.cluster j := rfl
@[simp] theorem unit_region_setRoom (x : Room) : (d.setRoom i x).region j = d.region j := rfl
@[simp] theorem unit_mbox_setRoom (x : Room) : (d.setRoom i x).mbox j = d.mbox j := rfl
@[simp] theorem unit_domain_setRoom (x : Room) : (d.setRoom i x).domain j = d.domain j := rfl
@[simp] theorem unit_node_setRoom (x : Room) : (d.setRoom i x).node j = d.node j := rfl
@[simp] theorem unit_port_setRoom (x : Room) : (d.setRoom i x).port j = d.port j := rfl
@[simp] theorem unit_ring_setRoom (x : Room) : (d.setRoom i x).ring j = d.ring j := rfl
@[simp] theorem unit_can_setRoom (x : Room) : (d.setRoom i x).can j = d.can j := rfl
@[simp] theorem unit_mac_setRoom (x : Room) : (d.setRoom i x).mac j = d.mac j := rfl
@[simp] theorem unit_uart_setRoom (x : Room) : (d.setRoom i x).uart j = d.uart j := rfl
@[simp] theorem unit_pcie_setRoom (x : Room) : (d.setRoom i x).pcie j = d.pcie j := rfl
@[simp] theorem unit_link_setRoom (x : Room) : (d.setRoom i x).link j = d.link j := rfl
@[simp] theorem pkg_setRoom (x : Room) : (d.setRoom i x).pkg = d.pkg := rfl
@[simp] theorem coreSlot_setRoom (x : Room) : (d.setRoom i x).coreSlot j = d.coreSlot j := rfl
@[simp] theorem coreRoom_setRoom (x : Room) : (d.setRoom i x).coreRoom j = d.coreRoom j := rfl
@[simp] theorem rrec_setRoom (x : Room) : (d.setRoom i x).rrec j = d.rrec j := rfl
@[simp] theorem coresOf_setRoom (x : Room) : (d.setRoom i x).coresOf j = d.coresOf j := rfl
@[simp] theorem clustersOf_setRoom (x : Room) : (d.setRoom i x).clustersOf j = d.clustersOf j := rfl
@[simp] theorem leads_setRoom (x : Room) : (d.setRoom i x).leads j = d.leads j := rfl
@[simp] theorem byte_setRoom (x : Room) : (d.setRoom i x).byte j = d.byte j := rfl
@[simp] theorem timed_setRoom (x : Room) : (d.setRoom i x).timed j = d.timed j := rfl
@[simp] theorem spans_setRoom (x : Room) : (d.setRoom i x).spans j = d.spans j := rfl
@[simp] theorem epochUs_setRoom (x : Room) : (d.setRoom i x).epochUs j = d.epochUs j := rfl
@[simp] theorem curCtx_setRoom (x : Room) : (d.setRoom i x).curCtx j = d.curCtx j := rfl

/-! ### setMbox -/

@[simp] theorem modMbox_eq (f : Mbox → Mbox) : d.modMbox i f = d.setMbox i (f (d.mbox i)) := rfl
@[simp] theorem mbox_setMbox_same (x : Mbox) : (d.setMbox i x).mbox i = x := Sparse_get_insert_same _ _ _ _
theorem mbox_setMbox (x : Mbox) : (d.setMbox i x).mbox j = if j = i then x else d.mbox j := by
  by_cases h : j = i <;> simp [h, Dev.mbox, Dev.setMbox, Sparse_get_insert]
theorem mbox_setMbox_ne (x : Mbox) (h : j ≠ i) : (d.setMbox i x).mbox j = d.mbox j := by
  rw [mbox_setMbox, if_neg h]
@[simp] theorem straps_setMbox (x : Mbox) : (d.setMbox i x).straps = d.straps := rfl
@[simp] theorem board_setMbox (x : Mbox) : (d.setMbox i x).board = d.board := rfl
@[simp] theorem devState_setMbox (x : Mbox) : (d.setMbox i x).devState = d.devState := rfl
@[simp] theorem clk_setMbox (x : Mbox) : (d.setMbox i x).clk = d.clk := rfl
@[simp] theorem store_setMbox (x : Mbox) : (d.setMbox i x).store = d.store := rfl
@[simp] theorem keys_setMbox (x : Mbox) : (d.setMbox i x).keys = d.keys := rfl
@[simp] theorem plan_setMbox (x : Mbox) : (d.setMbox i x).plan = d.plan := rfl
@[simp] theorem shadowPlan_setMbox (x : Mbox) : (d.setMbox i x).shadowPlan = d.shadowPlan := rfl
@[simp] theorem flp_setMbox (x : Mbox) : (d.setMbox i x).flp = d.flp := rfl
@[simp] theorem rooms_setMbox (x : Mbox) : (d.setMbox i x).rooms = d.rooms := rfl
@[simp] theorem ctxs_setMbox (x : Mbox) : (d.setMbox i x).ctxs = d.ctxs := rfl
@[simp] theorem cores_setMbox (x : Mbox) : (d.setMbox i x).cores = d.cores := rfl
@[simp] theorem clusters_setMbox (x : Mbox) : (d.setMbox i x).clusters = d.clusters := rfl
@[simp] theorem regions_setMbox (x : Mbox) : (d.setMbox i x).regions = d.regions := rfl
@[simp] theorem ckpts_setMbox (x : Mbox) : (d.setMbox i x).ckpts = d.ckpts := rfl
@[simp] theorem mem_setMbox (x : Mbox) : (d.setMbox i x).mem = d.mem := rfl
@[simp] theorem chan_setMbox (x : Mbox) : (d.setMbox i x).chan = d.chan := rfl
@[simp] theorem irqPend_setMbox (x : Mbox) : (d.setMbox i x).irqPend = d.irqPend := rfl
@[simp] theorem irqOff_setMbox (x : Mbox) : (d.setMbox i x).irqOff = d.irqOff := rfl
@[simp] theorem irqPrio_setMbox (x : Mbox) : (d.setMbox i x).irqPrio = d.irqPrio := rfl
@[simp] theorem inc_setMbox (x : Mbox) : (d.setMbox i x).inc = d.inc := rfl
@[simp] theorem ras_setMbox (x : Mbox) : (d.setMbox i x).ras = d.ras := rfl
@[simp] theorem porch_setMbox (x : Mbox) : (d.setMbox i x).porch = d.porch := rfl
@[simp] theorem domains_setMbox (x : Mbox) : (d.setMbox i x).domains = d.domains := rfl
@[simp] theorem bist_setMbox (x : Mbox) : (d.setMbox i x).bist = d.bist := rfl
@[simp] theorem rst_setMbox (x : Mbox) : (d.setMbox i x).rst = d.rst := rfl
@[simp] theorem frc_setMbox (x : Mbox) : (d.setMbox i x).frc = d.frc := rfl
@[simp] theorem per_setMbox (x : Mbox) : (d.setMbox i x).per = d.per := rfl
@[simp] theorem hubQ_setMbox (x : Mbox) : (d.setMbox i x).hubQ = d.hubQ := rfl
@[simp] theorem diesLost_setMbox (x : Mbox) : (d.setMbox i x).diesLost = d.diesLost := rfl
@[simp] theorem endSessions_setMbox (x : Mbox) : (d.setMbox i x).endSessions = d.endSessions := rfl
@[simp] theorem outbox_setMbox (x : Mbox) : (d.setMbox i x).outbox = d.outbox := rfl
@[simp] theorem unit_core_setMbox (x : Mbox) : (d.setMbox i x).core j = d.core j := rfl
@[simp] theorem unit_ctx_setMbox (x : Mbox) : (d.setMbox i x).ctx j = d.ctx j := rfl
@[simp] theorem unit_cluster_setMbox (x : Mbox) : (d.setMbox i x).cluster j = d.cluster j := rfl
@[simp] theorem unit_region_setMbox (x : Mbox) : (d.setMbox i x).region j = d.region j := rfl
@[simp] theorem unit_room_setMbox (x : Mbox) : (d.setMbox i x).room j = d.room j := rfl
@[simp] theorem unit_domain_setMbox (x : Mbox) : (d.setMbox i x).domain j = d.domain j := rfl
@[simp] theorem unit_node_setMbox (x : Mbox) : (d.setMbox i x).node j = d.node j := rfl
@[simp] theorem unit_port_setMbox (x : Mbox) : (d.setMbox i x).port j = d.port j := rfl
@[simp] theorem unit_ring_setMbox (x : Mbox) : (d.setMbox i x).ring j = d.ring j := rfl
@[simp] theorem unit_can_setMbox (x : Mbox) : (d.setMbox i x).can j = d.can j := rfl
@[simp] theorem unit_mac_setMbox (x : Mbox) : (d.setMbox i x).mac j = d.mac j := rfl
@[simp] theorem unit_uart_setMbox (x : Mbox) : (d.setMbox i x).uart j = d.uart j := rfl
@[simp] theorem unit_pcie_setMbox (x : Mbox) : (d.setMbox i x).pcie j = d.pcie j := rfl
@[simp] theorem unit_link_setMbox (x : Mbox) : (d.setMbox i x).link j = d.link j := rfl
@[simp] theorem pkg_setMbox (x : Mbox) : (d.setMbox i x).pkg = d.pkg := rfl
@[simp] theorem coreSlot_setMbox (x : Mbox) : (d.setMbox i x).coreSlot j = d.coreSlot j := rfl
@[simp] theorem coreRoom_setMbox (x : Mbox) : (d.setMbox i x).coreRoom j = d.coreRoom j := rfl
@[simp] theorem rrec_setMbox (x : Mbox) : (d.setMbox i x).rrec j = d.rrec j := rfl
@[simp] theorem coresOf_setMbox (x : Mbox) : (d.setMbox i x).coresOf j = d.coresOf j := rfl
@[simp] theorem clustersOf_setMbox (x : Mbox) : (d.setMbox i x).clustersOf j = d.clustersOf j := rfl
@[simp] theorem leads_setMbox (x : Mbox) : (d.setMbox i x).leads j = d.leads j := rfl
@[simp] theorem byte_setMbox (x : Mbox) : (d.setMbox i x).byte j = d.byte j := rfl
@[simp] theorem timed_setMbox (x : Mbox) : (d.setMbox i x).timed j = d.timed j := rfl
@[simp] theorem spans_setMbox (x : Mbox) : (d.setMbox i x).spans j = d.spans j := rfl
@[simp] theorem epochUs_setMbox (x : Mbox) : (d.setMbox i x).epochUs j = d.epochUs j := rfl
@[simp] theorem curCtx_setMbox (x : Mbox) : (d.setMbox i x).curCtx j = d.curCtx j := rfl

/-! ### setDomain -/

@[simp] theorem modDomain_eq (f : Domain → Domain) : d.modDomain i f = d.setDomain i (f (d.domain i)) := rfl
@[simp] theorem domain_setDomain_same (x : Domain) : (d.setDomain i x).domain i = x := Sparse_get_insert_same _ _ _ _
theorem domain_setDomain (x : Domain) : (d.setDomain i x).domain j = if j = i then x else d.domain j := by
  by_cases h : j = i <;> simp [h, Dev.domain, Dev.setDomain, Sparse_get_insert]
theorem domain_setDomain_ne (x : Domain) (h : j ≠ i) : (d.setDomain i x).domain j = d.domain j := by
  rw [domain_setDomain, if_neg h]
@[simp] theorem straps_setDomain (x : Domain) : (d.setDomain i x).straps = d.straps := rfl
@[simp] theorem board_setDomain (x : Domain) : (d.setDomain i x).board = d.board := rfl
@[simp] theorem devState_setDomain (x : Domain) : (d.setDomain i x).devState = d.devState := rfl
@[simp] theorem clk_setDomain (x : Domain) : (d.setDomain i x).clk = d.clk := rfl
@[simp] theorem store_setDomain (x : Domain) : (d.setDomain i x).store = d.store := rfl
@[simp] theorem keys_setDomain (x : Domain) : (d.setDomain i x).keys = d.keys := rfl
@[simp] theorem plan_setDomain (x : Domain) : (d.setDomain i x).plan = d.plan := rfl
@[simp] theorem shadowPlan_setDomain (x : Domain) : (d.setDomain i x).shadowPlan = d.shadowPlan := rfl
@[simp] theorem flp_setDomain (x : Domain) : (d.setDomain i x).flp = d.flp := rfl
@[simp] theorem rooms_setDomain (x : Domain) : (d.setDomain i x).rooms = d.rooms := rfl
@[simp] theorem ctxs_setDomain (x : Domain) : (d.setDomain i x).ctxs = d.ctxs := rfl
@[simp] theorem cores_setDomain (x : Domain) : (d.setDomain i x).cores = d.cores := rfl
@[simp] theorem clusters_setDomain (x : Domain) : (d.setDomain i x).clusters = d.clusters := rfl
@[simp] theorem regions_setDomain (x : Domain) : (d.setDomain i x).regions = d.regions := rfl
@[simp] theorem mboxes_setDomain (x : Domain) : (d.setDomain i x).mboxes = d.mboxes := rfl
@[simp] theorem ckpts_setDomain (x : Domain) : (d.setDomain i x).ckpts = d.ckpts := rfl
@[simp] theorem mem_setDomain (x : Domain) : (d.setDomain i x).mem = d.mem := rfl
@[simp] theorem chan_setDomain (x : Domain) : (d.setDomain i x).chan = d.chan := rfl
@[simp] theorem irqPend_setDomain (x : Domain) : (d.setDomain i x).irqPend = d.irqPend := rfl
@[simp] theorem irqOff_setDomain (x : Domain) : (d.setDomain i x).irqOff = d.irqOff := rfl
@[simp] theorem irqPrio_setDomain (x : Domain) : (d.setDomain i x).irqPrio = d.irqPrio := rfl
@[simp] theorem inc_setDomain (x : Domain) : (d.setDomain i x).inc = d.inc := rfl
@[simp] theorem ras_setDomain (x : Domain) : (d.setDomain i x).ras = d.ras := rfl
@[simp] theorem porch_setDomain (x : Domain) : (d.setDomain i x).porch = d.porch := rfl
@[simp] theorem bist_setDomain (x : Domain) : (d.setDomain i x).bist = d.bist := rfl
@[simp] theorem rst_setDomain (x : Domain) : (d.setDomain i x).rst = d.rst := rfl
@[simp] theorem frc_setDomain (x : Domain) : (d.setDomain i x).frc = d.frc := rfl
@[simp] theorem per_setDomain (x : Domain) : (d.setDomain i x).per = d.per := rfl
@[simp] theorem hubQ_setDomain (x : Domain) : (d.setDomain i x).hubQ = d.hubQ := rfl
@[simp] theorem diesLost_setDomain (x : Domain) : (d.setDomain i x).diesLost = d.diesLost := rfl
@[simp] theorem endSessions_setDomain (x : Domain) : (d.setDomain i x).endSessions = d.endSessions := rfl
@[simp] theorem outbox_setDomain (x : Domain) : (d.setDomain i x).outbox = d.outbox := rfl
@[simp] theorem unit_core_setDomain (x : Domain) : (d.setDomain i x).core j = d.core j := rfl
@[simp] theorem unit_ctx_setDomain (x : Domain) : (d.setDomain i x).ctx j = d.ctx j := rfl
@[simp] theorem unit_cluster_setDomain (x : Domain) : (d.setDomain i x).cluster j = d.cluster j := rfl
@[simp] theorem unit_region_setDomain (x : Domain) : (d.setDomain i x).region j = d.region j := rfl
@[simp] theorem unit_room_setDomain (x : Domain) : (d.setDomain i x).room j = d.room j := rfl
@[simp] theorem unit_mbox_setDomain (x : Domain) : (d.setDomain i x).mbox j = d.mbox j := rfl
@[simp] theorem unit_node_setDomain (x : Domain) : (d.setDomain i x).node j = d.node j := rfl
@[simp] theorem unit_port_setDomain (x : Domain) : (d.setDomain i x).port j = d.port j := rfl
@[simp] theorem unit_ring_setDomain (x : Domain) : (d.setDomain i x).ring j = d.ring j := rfl
@[simp] theorem unit_can_setDomain (x : Domain) : (d.setDomain i x).can j = d.can j := rfl
@[simp] theorem unit_mac_setDomain (x : Domain) : (d.setDomain i x).mac j = d.mac j := rfl
@[simp] theorem unit_uart_setDomain (x : Domain) : (d.setDomain i x).uart j = d.uart j := rfl
@[simp] theorem unit_pcie_setDomain (x : Domain) : (d.setDomain i x).pcie j = d.pcie j := rfl
@[simp] theorem unit_link_setDomain (x : Domain) : (d.setDomain i x).link j = d.link j := rfl
@[simp] theorem pkg_setDomain (x : Domain) : (d.setDomain i x).pkg = d.pkg := rfl
@[simp] theorem coreSlot_setDomain (x : Domain) : (d.setDomain i x).coreSlot j = d.coreSlot j := rfl
@[simp] theorem coreRoom_setDomain (x : Domain) : (d.setDomain i x).coreRoom j = d.coreRoom j := rfl
@[simp] theorem rrec_setDomain (x : Domain) : (d.setDomain i x).rrec j = d.rrec j := rfl
@[simp] theorem coresOf_setDomain (x : Domain) : (d.setDomain i x).coresOf j = d.coresOf j := rfl
@[simp] theorem clustersOf_setDomain (x : Domain) : (d.setDomain i x).clustersOf j = d.clustersOf j := rfl
@[simp] theorem leads_setDomain (x : Domain) : (d.setDomain i x).leads j = d.leads j := rfl
@[simp] theorem byte_setDomain (x : Domain) : (d.setDomain i x).byte j = d.byte j := rfl
@[simp] theorem timed_setDomain (x : Domain) : (d.setDomain i x).timed j = d.timed j := rfl
@[simp] theorem spans_setDomain (x : Domain) : (d.setDomain i x).spans j = d.spans j := rfl
@[simp] theorem epochUs_setDomain (x : Domain) : (d.setDomain i x).epochUs j = d.epochUs j := rfl
@[simp] theorem curCtx_setDomain (x : Domain) : (d.setDomain i x).curCtx j = d.curCtx j := rfl

/-! ### setNode -/

@[simp] theorem modNode_eq (f : Node → Node) : d.modNode i f = d.setNode i (f (d.node i)) := rfl
@[simp] theorem node_setNode_same (x : Node) : (d.setNode i x).node i = x := Sparse_get_insert_same _ _ _ _
theorem node_setNode (x : Node) : (d.setNode i x).node j = if j = i then x else d.node j := by
  by_cases h : j = i <;> simp [h, Dev.node, Dev.setNode, Sparse_get_insert]
theorem node_setNode_ne (x : Node) (h : j ≠ i) : (d.setNode i x).node j = d.node j := by
  rw [node_setNode, if_neg h]
@[simp] theorem straps_setNode (x : Node) : (d.setNode i x).straps = d.straps := rfl
@[simp] theorem board_setNode (x : Node) : (d.setNode i x).board = d.board := rfl
@[simp] theorem devState_setNode (x : Node) : (d.setNode i x).devState = d.devState := rfl
@[simp] theorem clk_setNode (x : Node) : (d.setNode i x).clk = d.clk := rfl
@[simp] theorem store_setNode (x : Node) : (d.setNode i x).store = d.store := rfl
@[simp] theorem keys_setNode (x : Node) : (d.setNode i x).keys = d.keys := rfl
@[simp] theorem plan_setNode (x : Node) : (d.setNode i x).plan = d.plan := rfl
@[simp] theorem shadowPlan_setNode (x : Node) : (d.setNode i x).shadowPlan = d.shadowPlan := rfl
@[simp] theorem flp_setNode (x : Node) : (d.setNode i x).flp = d.flp := rfl
@[simp] theorem rooms_setNode (x : Node) : (d.setNode i x).rooms = d.rooms := rfl
@[simp] theorem ctxs_setNode (x : Node) : (d.setNode i x).ctxs = d.ctxs := rfl
@[simp] theorem cores_setNode (x : Node) : (d.setNode i x).cores = d.cores := rfl
@[simp] theorem clusters_setNode (x : Node) : (d.setNode i x).clusters = d.clusters := rfl
@[simp] theorem regions_setNode (x : Node) : (d.setNode i x).regions = d.regions := rfl
@[simp] theorem mboxes_setNode (x : Node) : (d.setNode i x).mboxes = d.mboxes := rfl
@[simp] theorem ckpts_setNode (x : Node) : (d.setNode i x).ckpts = d.ckpts := rfl
@[simp] theorem mem_setNode (x : Node) : (d.setNode i x).mem = d.mem := rfl
@[simp] theorem chan_setNode (x : Node) : (d.setNode i x).chan = d.chan := rfl
@[simp] theorem irqPend_setNode (x : Node) : (d.setNode i x).irqPend = d.irqPend := rfl
@[simp] theorem irqOff_setNode (x : Node) : (d.setNode i x).irqOff = d.irqOff := rfl
@[simp] theorem irqPrio_setNode (x : Node) : (d.setNode i x).irqPrio = d.irqPrio := rfl
@[simp] theorem inc_setNode (x : Node) : (d.setNode i x).inc = d.inc := rfl
@[simp] theorem ras_setNode (x : Node) : (d.setNode i x).ras = d.ras := rfl
@[simp] theorem porch_setNode (x : Node) : (d.setNode i x).porch = d.porch := rfl
@[simp] theorem domains_setNode (x : Node) : (d.setNode i x).domains = d.domains := rfl
@[simp] theorem bist_setNode (x : Node) : (d.setNode i x).bist = d.bist := rfl
@[simp] theorem rst_setNode (x : Node) : (d.setNode i x).rst = d.rst := rfl
@[simp] theorem per_setNode (x : Node) : (d.setNode i x).per = d.per := rfl
@[simp] theorem hubQ_setNode (x : Node) : (d.setNode i x).hubQ = d.hubQ := rfl
@[simp] theorem diesLost_setNode (x : Node) : (d.setNode i x).diesLost = d.diesLost := rfl
@[simp] theorem endSessions_setNode (x : Node) : (d.setNode i x).endSessions = d.endSessions := rfl
@[simp] theorem outbox_setNode (x : Node) : (d.setNode i x).outbox = d.outbox := rfl
@[simp] theorem unit_core_setNode (x : Node) : (d.setNode i x).core j = d.core j := rfl
@[simp] theorem unit_ctx_setNode (x : Node) : (d.setNode i x).ctx j = d.ctx j := rfl
@[simp] theorem unit_cluster_setNode (x : Node) : (d.setNode i x).cluster j = d.cluster j := rfl
@[simp] theorem unit_region_setNode (x : Node) : (d.setNode i x).region j = d.region j := rfl
@[simp] theorem unit_room_setNode (x : Node) : (d.setNode i x).room j = d.room j := rfl
@[simp] theorem unit_mbox_setNode (x : Node) : (d.setNode i x).mbox j = d.mbox j := rfl
@[simp] theorem unit_domain_setNode (x : Node) : (d.setNode i x).domain j = d.domain j := rfl
@[simp] theorem unit_port_setNode (x : Node) : (d.setNode i x).port j = d.port j := rfl
@[simp] theorem unit_ring_setNode (x : Node) : (d.setNode i x).ring j = d.ring j := rfl
@[simp] theorem unit_can_setNode (x : Node) : (d.setNode i x).can j = d.can j := rfl
@[simp] theorem unit_mac_setNode (x : Node) : (d.setNode i x).mac j = d.mac j := rfl
@[simp] theorem unit_uart_setNode (x : Node) : (d.setNode i x).uart j = d.uart j := rfl
@[simp] theorem unit_pcie_setNode (x : Node) : (d.setNode i x).pcie j = d.pcie j := rfl
@[simp] theorem unit_link_setNode (x : Node) : (d.setNode i x).link j = d.link j := rfl
@[simp] theorem pkg_setNode (x : Node) : (d.setNode i x).pkg = d.pkg := rfl
@[simp] theorem coreSlot_setNode (x : Node) : (d.setNode i x).coreSlot j = d.coreSlot j := rfl
@[simp] theorem coreRoom_setNode (x : Node) : (d.setNode i x).coreRoom j = d.coreRoom j := rfl
@[simp] theorem rrec_setNode (x : Node) : (d.setNode i x).rrec j = d.rrec j := rfl
@[simp] theorem coresOf_setNode (x : Node) : (d.setNode i x).coresOf j = d.coresOf j := rfl
@[simp] theorem clustersOf_setNode (x : Node) : (d.setNode i x).clustersOf j = d.clustersOf j := rfl
@[simp] theorem leads_setNode (x : Node) : (d.setNode i x).leads j = d.leads j := rfl
@[simp] theorem byte_setNode (x : Node) : (d.setNode i x).byte j = d.byte j := rfl
@[simp] theorem timed_setNode (x : Node) : (d.setNode i x).timed j = d.timed j := rfl
@[simp] theorem spans_setNode (x : Node) : (d.setNode i x).spans j = d.spans j := rfl
@[simp] theorem epochUs_setNode (x : Node) : (d.setNode i x).epochUs j = d.epochUs j := rfl
@[simp] theorem curCtx_setNode (x : Node) : (d.setNode i x).curCtx j = d.curCtx j := rfl

/-! ### setPort -/

@[simp] theorem modPort_eq (f : Port → Port) : d.modPort i f = d.setPort i (f (d.port i)) := rfl
@[simp] theorem port_setPort_same (x : Port) : (d.setPort i x).port i = x := Sparse_get_insert_same _ _ _ _
theorem port_setPort (x : Port) : (d.setPort i x).port j = if j = i then x else d.port j := by
  by_cases h : j = i <;> simp [h, Dev.port, Dev.setPort, Sparse_get_insert]
theorem port_setPort_ne (x : Port) (h : j ≠ i) : (d.setPort i x).port j = d.port j := by
  rw [port_setPort, if_neg h]
@[simp] theorem straps_setPort (x : Port) : (d.setPort i x).straps = d.straps := rfl
@[simp] theorem board_setPort (x : Port) : (d.setPort i x).board = d.board := rfl
@[simp] theorem devState_setPort (x : Port) : (d.setPort i x).devState = d.devState := rfl
@[simp] theorem clk_setPort (x : Port) : (d.setPort i x).clk = d.clk := rfl
@[simp] theorem store_setPort (x : Port) : (d.setPort i x).store = d.store := rfl
@[simp] theorem keys_setPort (x : Port) : (d.setPort i x).keys = d.keys := rfl
@[simp] theorem plan_setPort (x : Port) : (d.setPort i x).plan = d.plan := rfl
@[simp] theorem shadowPlan_setPort (x : Port) : (d.setPort i x).shadowPlan = d.shadowPlan := rfl
@[simp] theorem flp_setPort (x : Port) : (d.setPort i x).flp = d.flp := rfl
@[simp] theorem rooms_setPort (x : Port) : (d.setPort i x).rooms = d.rooms := rfl
@[simp] theorem ctxs_setPort (x : Port) : (d.setPort i x).ctxs = d.ctxs := rfl
@[simp] theorem cores_setPort (x : Port) : (d.setPort i x).cores = d.cores := rfl
@[simp] theorem clusters_setPort (x : Port) : (d.setPort i x).clusters = d.clusters := rfl
@[simp] theorem regions_setPort (x : Port) : (d.setPort i x).regions = d.regions := rfl
@[simp] theorem mboxes_setPort (x : Port) : (d.setPort i x).mboxes = d.mboxes := rfl
@[simp] theorem ckpts_setPort (x : Port) : (d.setPort i x).ckpts = d.ckpts := rfl
@[simp] theorem mem_setPort (x : Port) : (d.setPort i x).mem = d.mem := rfl
@[simp] theorem chan_setPort (x : Port) : (d.setPort i x).chan = d.chan := rfl
@[simp] theorem irqPend_setPort (x : Port) : (d.setPort i x).irqPend = d.irqPend := rfl
@[simp] theorem irqOff_setPort (x : Port) : (d.setPort i x).irqOff = d.irqOff := rfl
@[simp] theorem irqPrio_setPort (x : Port) : (d.setPort i x).irqPrio = d.irqPrio := rfl
@[simp] theorem inc_setPort (x : Port) : (d.setPort i x).inc = d.inc := rfl
@[simp] theorem ras_setPort (x : Port) : (d.setPort i x).ras = d.ras := rfl
@[simp] theorem porch_setPort (x : Port) : (d.setPort i x).porch = d.porch := rfl
@[simp] theorem domains_setPort (x : Port) : (d.setPort i x).domains = d.domains := rfl
@[simp] theorem bist_setPort (x : Port) : (d.setPort i x).bist = d.bist := rfl
@[simp] theorem rst_setPort (x : Port) : (d.setPort i x).rst = d.rst := rfl
@[simp] theorem per_setPort (x : Port) : (d.setPort i x).per = d.per := rfl
@[simp] theorem hubQ_setPort (x : Port) : (d.setPort i x).hubQ = d.hubQ := rfl
@[simp] theorem diesLost_setPort (x : Port) : (d.setPort i x).diesLost = d.diesLost := rfl
@[simp] theorem endSessions_setPort (x : Port) : (d.setPort i x).endSessions = d.endSessions := rfl
@[simp] theorem outbox_setPort (x : Port) : (d.setPort i x).outbox = d.outbox := rfl
@[simp] theorem unit_core_setPort (x : Port) : (d.setPort i x).core j = d.core j := rfl
@[simp] theorem unit_ctx_setPort (x : Port) : (d.setPort i x).ctx j = d.ctx j := rfl
@[simp] theorem unit_cluster_setPort (x : Port) : (d.setPort i x).cluster j = d.cluster j := rfl
@[simp] theorem unit_region_setPort (x : Port) : (d.setPort i x).region j = d.region j := rfl
@[simp] theorem unit_room_setPort (x : Port) : (d.setPort i x).room j = d.room j := rfl
@[simp] theorem unit_mbox_setPort (x : Port) : (d.setPort i x).mbox j = d.mbox j := rfl
@[simp] theorem unit_domain_setPort (x : Port) : (d.setPort i x).domain j = d.domain j := rfl
@[simp] theorem unit_node_setPort (x : Port) : (d.setPort i x).node j = d.node j := rfl
@[simp] theorem unit_ring_setPort (x : Port) : (d.setPort i x).ring j = d.ring j := rfl
@[simp] theorem unit_can_setPort (x : Port) : (d.setPort i x).can j = d.can j := rfl
@[simp] theorem unit_mac_setPort (x : Port) : (d.setPort i x).mac j = d.mac j := rfl
@[simp] theorem unit_uart_setPort (x : Port) : (d.setPort i x).uart j = d.uart j := rfl
@[simp] theorem unit_pcie_setPort (x : Port) : (d.setPort i x).pcie j = d.pcie j := rfl
@[simp] theorem unit_link_setPort (x : Port) : (d.setPort i x).link j = d.link j := rfl
@[simp] theorem pkg_setPort (x : Port) : (d.setPort i x).pkg = d.pkg := rfl
@[simp] theorem coreSlot_setPort (x : Port) : (d.setPort i x).coreSlot j = d.coreSlot j := rfl
@[simp] theorem coreRoom_setPort (x : Port) : (d.setPort i x).coreRoom j = d.coreRoom j := rfl
@[simp] theorem rrec_setPort (x : Port) : (d.setPort i x).rrec j = d.rrec j := rfl
@[simp] theorem coresOf_setPort (x : Port) : (d.setPort i x).coresOf j = d.coresOf j := rfl
@[simp] theorem clustersOf_setPort (x : Port) : (d.setPort i x).clustersOf j = d.clustersOf j := rfl
@[simp] theorem leads_setPort (x : Port) : (d.setPort i x).leads j = d.leads j := rfl
@[simp] theorem byte_setPort (x : Port) : (d.setPort i x).byte j = d.byte j := rfl
@[simp] theorem timed_setPort (x : Port) : (d.setPort i x).timed j = d.timed j := rfl
@[simp] theorem spans_setPort (x : Port) : (d.setPort i x).spans j = d.spans j := rfl
@[simp] theorem epochUs_setPort (x : Port) : (d.setPort i x).epochUs j = d.epochUs j := rfl
@[simp] theorem curCtx_setPort (x : Port) : (d.setPort i x).curCtx j = d.curCtx j := rfl

/-! ### setRing -/

@[simp] theorem modRing_eq (f : Ring → Ring) : d.modRing i f = d.setRing i (f (d.ring i)) := rfl
@[simp] theorem ring_setRing_same (x : Ring) : (d.setRing i x).ring i = x := Sparse_get_insert_same _ _ _ _
theorem ring_setRing (x : Ring) : (d.setRing i x).ring j = if j = i then x else d.ring j := by
  by_cases h : j = i <;> simp [h, Dev.ring, Dev.setRing, Sparse_get_insert]
theorem ring_setRing_ne (x : Ring) (h : j ≠ i) : (d.setRing i x).ring j = d.ring j := by
  rw [ring_setRing, if_neg h]
@[simp] theorem straps_setRing (x : Ring) : (d.setRing i x).straps = d.straps := rfl
@[simp] theorem board_setRing (x : Ring) : (d.setRing i x).board = d.board := rfl
@[simp] theorem devState_setRing (x : Ring) : (d.setRing i x).devState = d.devState := rfl
@[simp] theorem clk_setRing (x : Ring) : (d.setRing i x).clk = d.clk := rfl
@[simp] theorem store_setRing (x : Ring) : (d.setRing i x).store = d.store := rfl
@[simp] theorem keys_setRing (x : Ring) : (d.setRing i x).keys = d.keys := rfl
@[simp] theorem plan_setRing (x : Ring) : (d.setRing i x).plan = d.plan := rfl
@[simp] theorem shadowPlan_setRing (x : Ring) : (d.setRing i x).shadowPlan = d.shadowPlan := rfl
@[simp] theorem flp_setRing (x : Ring) : (d.setRing i x).flp = d.flp := rfl
@[simp] theorem rooms_setRing (x : Ring) : (d.setRing i x).rooms = d.rooms := rfl
@[simp] theorem ctxs_setRing (x : Ring) : (d.setRing i x).ctxs = d.ctxs := rfl
@[simp] theorem cores_setRing (x : Ring) : (d.setRing i x).cores = d.cores := rfl
@[simp] theorem clusters_setRing (x : Ring) : (d.setRing i x).clusters = d.clusters := rfl
@[simp] theorem regions_setRing (x : Ring) : (d.setRing i x).regions = d.regions := rfl
@[simp] theorem mboxes_setRing (x : Ring) : (d.setRing i x).mboxes = d.mboxes := rfl
@[simp] theorem ckpts_setRing (x : Ring) : (d.setRing i x).ckpts = d.ckpts := rfl
@[simp] theorem mem_setRing (x : Ring) : (d.setRing i x).mem = d.mem := rfl
@[simp] theorem chan_setRing (x : Ring) : (d.setRing i x).chan = d.chan := rfl
@[simp] theorem irqPend_setRing (x : Ring) : (d.setRing i x).irqPend = d.irqPend := rfl
@[simp] theorem irqOff_setRing (x : Ring) : (d.setRing i x).irqOff = d.irqOff := rfl
@[simp] theorem irqPrio_setRing (x : Ring) : (d.setRing i x).irqPrio = d.irqPrio := rfl
@[simp] theorem inc_setRing (x : Ring) : (d.setRing i x).inc = d.inc := rfl
@[simp] theorem ras_setRing (x : Ring) : (d.setRing i x).ras = d.ras := rfl
@[simp] theorem porch_setRing (x : Ring) : (d.setRing i x).porch = d.porch := rfl
@[simp] theorem domains_setRing (x : Ring) : (d.setRing i x).domains = d.domains := rfl
@[simp] theorem bist_setRing (x : Ring) : (d.setRing i x).bist = d.bist := rfl
@[simp] theorem rst_setRing (x : Ring) : (d.setRing i x).rst = d.rst := rfl
@[simp] theorem per_setRing (x : Ring) : (d.setRing i x).per = d.per := rfl
@[simp] theorem hubQ_setRing (x : Ring) : (d.setRing i x).hubQ = d.hubQ := rfl
@[simp] theorem diesLost_setRing (x : Ring) : (d.setRing i x).diesLost = d.diesLost := rfl
@[simp] theorem endSessions_setRing (x : Ring) : (d.setRing i x).endSessions = d.endSessions := rfl
@[simp] theorem outbox_setRing (x : Ring) : (d.setRing i x).outbox = d.outbox := rfl
@[simp] theorem unit_core_setRing (x : Ring) : (d.setRing i x).core j = d.core j := rfl
@[simp] theorem unit_ctx_setRing (x : Ring) : (d.setRing i x).ctx j = d.ctx j := rfl
@[simp] theorem unit_cluster_setRing (x : Ring) : (d.setRing i x).cluster j = d.cluster j := rfl
@[simp] theorem unit_region_setRing (x : Ring) : (d.setRing i x).region j = d.region j := rfl
@[simp] theorem unit_room_setRing (x : Ring) : (d.setRing i x).room j = d.room j := rfl
@[simp] theorem unit_mbox_setRing (x : Ring) : (d.setRing i x).mbox j = d.mbox j := rfl
@[simp] theorem unit_domain_setRing (x : Ring) : (d.setRing i x).domain j = d.domain j := rfl
@[simp] theorem unit_node_setRing (x : Ring) : (d.setRing i x).node j = d.node j := rfl
@[simp] theorem unit_port_setRing (x : Ring) : (d.setRing i x).port j = d.port j := rfl
@[simp] theorem unit_can_setRing (x : Ring) : (d.setRing i x).can j = d.can j := rfl
@[simp] theorem unit_mac_setRing (x : Ring) : (d.setRing i x).mac j = d.mac j := rfl
@[simp] theorem unit_uart_setRing (x : Ring) : (d.setRing i x).uart j = d.uart j := rfl
@[simp] theorem unit_pcie_setRing (x : Ring) : (d.setRing i x).pcie j = d.pcie j := rfl
@[simp] theorem unit_link_setRing (x : Ring) : (d.setRing i x).link j = d.link j := rfl
@[simp] theorem pkg_setRing (x : Ring) : (d.setRing i x).pkg = d.pkg := rfl
@[simp] theorem coreSlot_setRing (x : Ring) : (d.setRing i x).coreSlot j = d.coreSlot j := rfl
@[simp] theorem coreRoom_setRing (x : Ring) : (d.setRing i x).coreRoom j = d.coreRoom j := rfl
@[simp] theorem rrec_setRing (x : Ring) : (d.setRing i x).rrec j = d.rrec j := rfl
@[simp] theorem coresOf_setRing (x : Ring) : (d.setRing i x).coresOf j = d.coresOf j := rfl
@[simp] theorem clustersOf_setRing (x : Ring) : (d.setRing i x).clustersOf j = d.clustersOf j := rfl
@[simp] theorem leads_setRing (x : Ring) : (d.setRing i x).leads j = d.leads j := rfl
@[simp] theorem byte_setRing (x : Ring) : (d.setRing i x).byte j = d.byte j := rfl
@[simp] theorem timed_setRing (x : Ring) : (d.setRing i x).timed j = d.timed j := rfl
@[simp] theorem spans_setRing (x : Ring) : (d.setRing i x).spans j = d.spans j := rfl
@[simp] theorem epochUs_setRing (x : Ring) : (d.setRing i x).epochUs j = d.epochUs j := rfl
@[simp] theorem curCtx_setRing (x : Ring) : (d.setRing i x).curCtx j = d.curCtx j := rfl

/-! ### setCan -/

@[simp] theorem modCan_eq (f : Can → Can) : d.modCan i f = d.setCan i (f (d.can i)) := rfl
@[simp] theorem can_setCan_same (x : Can) : (d.setCan i x).can i = x := Sparse_get_insert_same _ _ _ _
theorem can_setCan (x : Can) : (d.setCan i x).can j = if j = i then x else d.can j := by
  by_cases h : j = i <;> simp [h, Dev.can, Dev.setCan, Sparse_get_insert]
theorem can_setCan_ne (x : Can) (h : j ≠ i) : (d.setCan i x).can j = d.can j := by
  rw [can_setCan, if_neg h]
@[simp] theorem straps_setCan (x : Can) : (d.setCan i x).straps = d.straps := rfl
@[simp] theorem board_setCan (x : Can) : (d.setCan i x).board = d.board := rfl
@[simp] theorem devState_setCan (x : Can) : (d.setCan i x).devState = d.devState := rfl
@[simp] theorem clk_setCan (x : Can) : (d.setCan i x).clk = d.clk := rfl
@[simp] theorem store_setCan (x : Can) : (d.setCan i x).store = d.store := rfl
@[simp] theorem keys_setCan (x : Can) : (d.setCan i x).keys = d.keys := rfl
@[simp] theorem plan_setCan (x : Can) : (d.setCan i x).plan = d.plan := rfl
@[simp] theorem shadowPlan_setCan (x : Can) : (d.setCan i x).shadowPlan = d.shadowPlan := rfl
@[simp] theorem flp_setCan (x : Can) : (d.setCan i x).flp = d.flp := rfl
@[simp] theorem rooms_setCan (x : Can) : (d.setCan i x).rooms = d.rooms := rfl
@[simp] theorem ctxs_setCan (x : Can) : (d.setCan i x).ctxs = d.ctxs := rfl
@[simp] theorem cores_setCan (x : Can) : (d.setCan i x).cores = d.cores := rfl
@[simp] theorem clusters_setCan (x : Can) : (d.setCan i x).clusters = d.clusters := rfl
@[simp] theorem regions_setCan (x : Can) : (d.setCan i x).regions = d.regions := rfl
@[simp] theorem mboxes_setCan (x : Can) : (d.setCan i x).mboxes = d.mboxes := rfl
@[simp] theorem ckpts_setCan (x : Can) : (d.setCan i x).ckpts = d.ckpts := rfl
@[simp] theorem mem_setCan (x : Can) : (d.setCan i x).mem = d.mem := rfl
@[simp] theorem chan_setCan (x : Can) : (d.setCan i x).chan = d.chan := rfl
@[simp] theorem irqPend_setCan (x : Can) : (d.setCan i x).irqPend = d.irqPend := rfl
@[simp] theorem irqOff_setCan (x : Can) : (d.setCan i x).irqOff = d.irqOff := rfl
@[simp] theorem irqPrio_setCan (x : Can) : (d.setCan i x).irqPrio = d.irqPrio := rfl
@[simp] theorem inc_setCan (x : Can) : (d.setCan i x).inc = d.inc := rfl
@[simp] theorem ras_setCan (x : Can) : (d.setCan i x).ras = d.ras := rfl
@[simp] theorem porch_setCan (x : Can) : (d.setCan i x).porch = d.porch := rfl
@[simp] theorem domains_setCan (x : Can) : (d.setCan i x).domains = d.domains := rfl
@[simp] theorem bist_setCan (x : Can) : (d.setCan i x).bist = d.bist := rfl
@[simp] theorem rst_setCan (x : Can) : (d.setCan i x).rst = d.rst := rfl
@[simp] theorem frc_setCan (x : Can) : (d.setCan i x).frc = d.frc := rfl
@[simp] theorem hubQ_setCan (x : Can) : (d.setCan i x).hubQ = d.hubQ := rfl
@[simp] theorem diesLost_setCan (x : Can) : (d.setCan i x).diesLost = d.diesLost := rfl
@[simp] theorem endSessions_setCan (x : Can) : (d.setCan i x).endSessions = d.endSessions := rfl
@[simp] theorem outbox_setCan (x : Can) : (d.setCan i x).outbox = d.outbox := rfl
@[simp] theorem unit_core_setCan (x : Can) : (d.setCan i x).core j = d.core j := rfl
@[simp] theorem unit_ctx_setCan (x : Can) : (d.setCan i x).ctx j = d.ctx j := rfl
@[simp] theorem unit_cluster_setCan (x : Can) : (d.setCan i x).cluster j = d.cluster j := rfl
@[simp] theorem unit_region_setCan (x : Can) : (d.setCan i x).region j = d.region j := rfl
@[simp] theorem unit_room_setCan (x : Can) : (d.setCan i x).room j = d.room j := rfl
@[simp] theorem unit_mbox_setCan (x : Can) : (d.setCan i x).mbox j = d.mbox j := rfl
@[simp] theorem unit_domain_setCan (x : Can) : (d.setCan i x).domain j = d.domain j := rfl
@[simp] theorem unit_node_setCan (x : Can) : (d.setCan i x).node j = d.node j := rfl
@[simp] theorem unit_port_setCan (x : Can) : (d.setCan i x).port j = d.port j := rfl
@[simp] theorem unit_ring_setCan (x : Can) : (d.setCan i x).ring j = d.ring j := rfl
@[simp] theorem unit_mac_setCan (x : Can) : (d.setCan i x).mac j = d.mac j := rfl
@[simp] theorem unit_uart_setCan (x : Can) : (d.setCan i x).uart j = d.uart j := rfl
@[simp] theorem unit_pcie_setCan (x : Can) : (d.setCan i x).pcie j = d.pcie j := rfl
@[simp] theorem unit_link_setCan (x : Can) : (d.setCan i x).link j = d.link j := rfl
@[simp] theorem pkg_setCan (x : Can) : (d.setCan i x).pkg = d.pkg := rfl
@[simp] theorem coreSlot_setCan (x : Can) : (d.setCan i x).coreSlot j = d.coreSlot j := rfl
@[simp] theorem coreRoom_setCan (x : Can) : (d.setCan i x).coreRoom j = d.coreRoom j := rfl
@[simp] theorem rrec_setCan (x : Can) : (d.setCan i x).rrec j = d.rrec j := rfl
@[simp] theorem coresOf_setCan (x : Can) : (d.setCan i x).coresOf j = d.coresOf j := rfl
@[simp] theorem clustersOf_setCan (x : Can) : (d.setCan i x).clustersOf j = d.clustersOf j := rfl
@[simp] theorem leads_setCan (x : Can) : (d.setCan i x).leads j = d.leads j := rfl
@[simp] theorem byte_setCan (x : Can) : (d.setCan i x).byte j = d.byte j := rfl
@[simp] theorem timed_setCan (x : Can) : (d.setCan i x).timed j = d.timed j := rfl
@[simp] theorem spans_setCan (x : Can) : (d.setCan i x).spans j = d.spans j := rfl
@[simp] theorem epochUs_setCan (x : Can) : (d.setCan i x).epochUs j = d.epochUs j := rfl
@[simp] theorem curCtx_setCan (x : Can) : (d.setCan i x).curCtx j = d.curCtx j := rfl

/-! ### setMac -/

@[simp] theorem modMac_eq (f : Mac → Mac) : d.modMac i f = d.setMac i (f (d.mac i)) := rfl
@[simp] theorem mac_setMac_same (x : Mac) : (d.setMac i x).mac i = x := Sparse_get_insert_same _ _ _ _
theorem mac_setMac (x : Mac) : (d.setMac i x).mac j = if j = i then x else d.mac j := by
  by_cases h : j = i <;> simp [h, Dev.mac, Dev.setMac, Sparse_get_insert]
theorem mac_setMac_ne (x : Mac) (h : j ≠ i) : (d.setMac i x).mac j = d.mac j := by
  rw [mac_setMac, if_neg h]
@[simp] theorem straps_setMac (x : Mac) : (d.setMac i x).straps = d.straps := rfl
@[simp] theorem board_setMac (x : Mac) : (d.setMac i x).board = d.board := rfl
@[simp] theorem devState_setMac (x : Mac) : (d.setMac i x).devState = d.devState := rfl
@[simp] theorem clk_setMac (x : Mac) : (d.setMac i x).clk = d.clk := rfl
@[simp] theorem store_setMac (x : Mac) : (d.setMac i x).store = d.store := rfl
@[simp] theorem keys_setMac (x : Mac) : (d.setMac i x).keys = d.keys := rfl
@[simp] theorem plan_setMac (x : Mac) : (d.setMac i x).plan = d.plan := rfl
@[simp] theorem shadowPlan_setMac (x : Mac) : (d.setMac i x).shadowPlan = d.shadowPlan := rfl
@[simp] theorem flp_setMac (x : Mac) : (d.setMac i x).flp = d.flp := rfl
@[simp] theorem rooms_setMac (x : Mac) : (d.setMac i x).rooms = d.rooms := rfl
@[simp] theorem ctxs_setMac (x : Mac) : (d.setMac i x).ctxs = d.ctxs := rfl
@[simp] theorem cores_setMac (x : Mac) : (d.setMac i x).cores = d.cores := rfl
@[simp] theorem clusters_setMac (x : Mac) : (d.setMac i x).clusters = d.clusters := rfl
@[simp] theorem regions_setMac (x : Mac) : (d.setMac i x).regions = d.regions := rfl
@[simp] theorem mboxes_setMac (x : Mac) : (d.setMac i x).mboxes = d.mboxes := rfl
@[simp] theorem ckpts_setMac (x : Mac) : (d.setMac i x).ckpts = d.ckpts := rfl
@[simp] theorem mem_setMac (x : Mac) : (d.setMac i x).mem = d.mem := rfl
@[simp] theorem chan_setMac (x : Mac) : (d.setMac i x).chan = d.chan := rfl
@[simp] theorem irqPend_setMac (x : Mac) : (d.setMac i x).irqPend = d.irqPend := rfl
@[simp] theorem irqOff_setMac (x : Mac) : (d.setMac i x).irqOff = d.irqOff := rfl
@[simp] theorem irqPrio_setMac (x : Mac) : (d.setMac i x).irqPrio = d.irqPrio := rfl
@[simp] theorem inc_setMac (x : Mac) : (d.setMac i x).inc = d.inc := rfl
@[simp] theorem ras_setMac (x : Mac) : (d.setMac i x).ras = d.ras := rfl
@[simp] theorem porch_setMac (x : Mac) : (d.setMac i x).porch = d.porch := rfl
@[simp] theorem domains_setMac (x : Mac) : (d.setMac i x).domains = d.domains := rfl
@[simp] theorem bist_setMac (x : Mac) : (d.setMac i x).bist = d.bist := rfl
@[simp] theorem rst_setMac (x : Mac) : (d.setMac i x).rst = d.rst := rfl
@[simp] theorem frc_setMac (x : Mac) : (d.setMac i x).frc = d.frc := rfl
@[simp] theorem hubQ_setMac (x : Mac) : (d.setMac i x).hubQ = d.hubQ := rfl
@[simp] theorem diesLost_setMac (x : Mac) : (d.setMac i x).diesLost = d.diesLost := rfl
@[simp] theorem endSessions_setMac (x : Mac) : (d.setMac i x).endSessions = d.endSessions := rfl
@[simp] theorem outbox_setMac (x : Mac) : (d.setMac i x).outbox = d.outbox := rfl
@[simp] theorem unit_core_setMac (x : Mac) : (d.setMac i x).core j = d.core j := rfl
@[simp] theorem unit_ctx_setMac (x : Mac) : (d.setMac i x).ctx j = d.ctx j := rfl
@[simp] theorem unit_cluster_setMac (x : Mac) : (d.setMac i x).cluster j = d.cluster j := rfl
@[simp] theorem unit_region_setMac (x : Mac) : (d.setMac i x).region j = d.region j := rfl
@[simp] theorem unit_room_setMac (x : Mac) : (d.setMac i x).room j = d.room j := rfl
@[simp] theorem unit_mbox_setMac (x : Mac) : (d.setMac i x).mbox j = d.mbox j := rfl
@[simp] theorem unit_domain_setMac (x : Mac) : (d.setMac i x).domain j = d.domain j := rfl
@[simp] theorem unit_node_setMac (x : Mac) : (d.setMac i x).node j = d.node j := rfl
@[simp] theorem unit_port_setMac (x : Mac) : (d.setMac i x).port j = d.port j := rfl
@[simp] theorem unit_ring_setMac (x : Mac) : (d.setMac i x).ring j = d.ring j := rfl
@[simp] theorem unit_can_setMac (x : Mac) : (d.setMac i x).can j = d.can j := rfl
@[simp] theorem unit_uart_setMac (x : Mac) : (d.setMac i x).uart j = d.uart j := rfl
@[simp] theorem unit_pcie_setMac (x : Mac) : (d.setMac i x).pcie j = d.pcie j := rfl
@[simp] theorem unit_link_setMac (x : Mac) : (d.setMac i x).link j = d.link j := rfl
@[simp] theorem pkg_setMac (x : Mac) : (d.setMac i x).pkg = d.pkg := rfl
@[simp] theorem coreSlot_setMac (x : Mac) : (d.setMac i x).coreSlot j = d.coreSlot j := rfl
@[simp] theorem coreRoom_setMac (x : Mac) : (d.setMac i x).coreRoom j = d.coreRoom j := rfl
@[simp] theorem rrec_setMac (x : Mac) : (d.setMac i x).rrec j = d.rrec j := rfl
@[simp] theorem coresOf_setMac (x : Mac) : (d.setMac i x).coresOf j = d.coresOf j := rfl
@[simp] theorem clustersOf_setMac (x : Mac) : (d.setMac i x).clustersOf j = d.clustersOf j := rfl
@[simp] theorem leads_setMac (x : Mac) : (d.setMac i x).leads j = d.leads j := rfl
@[simp] theorem byte_setMac (x : Mac) : (d.setMac i x).byte j = d.byte j := rfl
@[simp] theorem timed_setMac (x : Mac) : (d.setMac i x).timed j = d.timed j := rfl
@[simp] theorem spans_setMac (x : Mac) : (d.setMac i x).spans j = d.spans j := rfl
@[simp] theorem epochUs_setMac (x : Mac) : (d.setMac i x).epochUs j = d.epochUs j := rfl
@[simp] theorem curCtx_setMac (x : Mac) : (d.setMac i x).curCtx j = d.curCtx j := rfl

/-! ### setUart -/

@[simp] theorem modUart_eq (f : Uart → Uart) : d.modUart i f = d.setUart i (f (d.uart i)) := rfl
@[simp] theorem uart_setUart_same (x : Uart) : (d.setUart i x).uart i = x := Sparse_get_insert_same _ _ _ _
theorem uart_setUart (x : Uart) : (d.setUart i x).uart j = if j = i then x else d.uart j := by
  by_cases h : j = i <;> simp [h, Dev.uart, Dev.setUart, Sparse_get_insert]
theorem uart_setUart_ne (x : Uart) (h : j ≠ i) : (d.setUart i x).uart j = d.uart j := by
  rw [uart_setUart, if_neg h]
@[simp] theorem straps_setUart (x : Uart) : (d.setUart i x).straps = d.straps := rfl
@[simp] theorem board_setUart (x : Uart) : (d.setUart i x).board = d.board := rfl
@[simp] theorem devState_setUart (x : Uart) : (d.setUart i x).devState = d.devState := rfl
@[simp] theorem clk_setUart (x : Uart) : (d.setUart i x).clk = d.clk := rfl
@[simp] theorem store_setUart (x : Uart) : (d.setUart i x).store = d.store := rfl
@[simp] theorem keys_setUart (x : Uart) : (d.setUart i x).keys = d.keys := rfl
@[simp] theorem plan_setUart (x : Uart) : (d.setUart i x).plan = d.plan := rfl
@[simp] theorem shadowPlan_setUart (x : Uart) : (d.setUart i x).shadowPlan = d.shadowPlan := rfl
@[simp] theorem flp_setUart (x : Uart) : (d.setUart i x).flp = d.flp := rfl
@[simp] theorem rooms_setUart (x : Uart) : (d.setUart i x).rooms = d.rooms := rfl
@[simp] theorem ctxs_setUart (x : Uart) : (d.setUart i x).ctxs = d.ctxs := rfl
@[simp] theorem cores_setUart (x : Uart) : (d.setUart i x).cores = d.cores := rfl
@[simp] theorem clusters_setUart (x : Uart) : (d.setUart i x).clusters = d.clusters := rfl
@[simp] theorem regions_setUart (x : Uart) : (d.setUart i x).regions = d.regions := rfl
@[simp] theorem mboxes_setUart (x : Uart) : (d.setUart i x).mboxes = d.mboxes := rfl
@[simp] theorem ckpts_setUart (x : Uart) : (d.setUart i x).ckpts = d.ckpts := rfl
@[simp] theorem mem_setUart (x : Uart) : (d.setUart i x).mem = d.mem := rfl
@[simp] theorem chan_setUart (x : Uart) : (d.setUart i x).chan = d.chan := rfl
@[simp] theorem irqPend_setUart (x : Uart) : (d.setUart i x).irqPend = d.irqPend := rfl
@[simp] theorem irqOff_setUart (x : Uart) : (d.setUart i x).irqOff = d.irqOff := rfl
@[simp] theorem irqPrio_setUart (x : Uart) : (d.setUart i x).irqPrio = d.irqPrio := rfl
@[simp] theorem inc_setUart (x : Uart) : (d.setUart i x).inc = d.inc := rfl
@[simp] theorem ras_setUart (x : Uart) : (d.setUart i x).ras = d.ras := rfl
@[simp] theorem porch_setUart (x : Uart) : (d.setUart i x).porch = d.porch := rfl
@[simp] theorem domains_setUart (x : Uart) : (d.setUart i x).domains = d.domains := rfl
@[simp] theorem bist_setUart (x : Uart) : (d.setUart i x).bist = d.bist := rfl
@[simp] theorem rst_setUart (x : Uart) : (d.setUart i x).rst = d.rst := rfl
@[simp] theorem frc_setUart (x : Uart) : (d.setUart i x).frc = d.frc := rfl
@[simp] theorem hubQ_setUart (x : Uart) : (d.setUart i x).hubQ = d.hubQ := rfl
@[simp] theorem diesLost_setUart (x : Uart) : (d.setUart i x).diesLost = d.diesLost := rfl
@[simp] theorem endSessions_setUart (x : Uart) : (d.setUart i x).endSessions = d.endSessions := rfl
@[simp] theorem outbox_setUart (x : Uart) : (d.setUart i x).outbox = d.outbox := rfl
@[simp] theorem unit_core_setUart (x : Uart) : (d.setUart i x).core j = d.core j := rfl
@[simp] theorem unit_ctx_setUart (x : Uart) : (d.setUart i x).ctx j = d.ctx j := rfl
@[simp] theorem unit_cluster_setUart (x : Uart) : (d.setUart i x).cluster j = d.cluster j := rfl
@[simp] theorem unit_region_setUart (x : Uart) : (d.setUart i x).region j = d.region j := rfl
@[simp] theorem unit_room_setUart (x : Uart) : (d.setUart i x).room j = d.room j := rfl
@[simp] theorem unit_mbox_setUart (x : Uart) : (d.setUart i x).mbox j = d.mbox j := rfl
@[simp] theorem unit_domain_setUart (x : Uart) : (d.setUart i x).domain j = d.domain j := rfl
@[simp] theorem unit_node_setUart (x : Uart) : (d.setUart i x).node j = d.node j := rfl
@[simp] theorem unit_port_setUart (x : Uart) : (d.setUart i x).port j = d.port j := rfl
@[simp] theorem unit_ring_setUart (x : Uart) : (d.setUart i x).ring j = d.ring j := rfl
@[simp] theorem unit_can_setUart (x : Uart) : (d.setUart i x).can j = d.can j := rfl
@[simp] theorem unit_mac_setUart (x : Uart) : (d.setUart i x).mac j = d.mac j := rfl
@[simp] theorem unit_pcie_setUart (x : Uart) : (d.setUart i x).pcie j = d.pcie j := rfl
@[simp] theorem unit_link_setUart (x : Uart) : (d.setUart i x).link j = d.link j := rfl
@[simp] theorem pkg_setUart (x : Uart) : (d.setUart i x).pkg = d.pkg := rfl
@[simp] theorem coreSlot_setUart (x : Uart) : (d.setUart i x).coreSlot j = d.coreSlot j := rfl
@[simp] theorem coreRoom_setUart (x : Uart) : (d.setUart i x).coreRoom j = d.coreRoom j := rfl
@[simp] theorem rrec_setUart (x : Uart) : (d.setUart i x).rrec j = d.rrec j := rfl
@[simp] theorem coresOf_setUart (x : Uart) : (d.setUart i x).coresOf j = d.coresOf j := rfl
@[simp] theorem clustersOf_setUart (x : Uart) : (d.setUart i x).clustersOf j = d.clustersOf j := rfl
@[simp] theorem leads_setUart (x : Uart) : (d.setUart i x).leads j = d.leads j := rfl
@[simp] theorem byte_setUart (x : Uart) : (d.setUart i x).byte j = d.byte j := rfl
@[simp] theorem timed_setUart (x : Uart) : (d.setUart i x).timed j = d.timed j := rfl
@[simp] theorem spans_setUart (x : Uart) : (d.setUart i x).spans j = d.spans j := rfl
@[simp] theorem epochUs_setUart (x : Uart) : (d.setUart i x).epochUs j = d.epochUs j := rfl
@[simp] theorem curCtx_setUart (x : Uart) : (d.setUart i x).curCtx j = d.curCtx j := rfl

/-! ### setPciePort -/

@[simp] theorem modPciePort_eq (f : PciePort → PciePort) : d.modPciePort i f = d.setPciePort i (f (d.pcie i)) := rfl
@[simp] theorem pcie_setPciePort_same (x : PciePort) : (d.setPciePort i x).pcie i = x := Sparse_get_insert_same _ _ _ _
theorem pcie_setPciePort (x : PciePort) : (d.setPciePort i x).pcie j = if j = i then x else d.pcie j := by
  by_cases h : j = i <;> simp [h, Dev.pcie, Dev.setPciePort, Sparse_get_insert]
theorem pcie_setPciePort_ne (x : PciePort) (h : j ≠ i) : (d.setPciePort i x).pcie j = d.pcie j := by
  rw [pcie_setPciePort, if_neg h]
@[simp] theorem straps_setPciePort (x : PciePort) : (d.setPciePort i x).straps = d.straps := rfl
@[simp] theorem board_setPciePort (x : PciePort) : (d.setPciePort i x).board = d.board := rfl
@[simp] theorem devState_setPciePort (x : PciePort) : (d.setPciePort i x).devState = d.devState := rfl
@[simp] theorem clk_setPciePort (x : PciePort) : (d.setPciePort i x).clk = d.clk := rfl
@[simp] theorem store_setPciePort (x : PciePort) : (d.setPciePort i x).store = d.store := rfl
@[simp] theorem keys_setPciePort (x : PciePort) : (d.setPciePort i x).keys = d.keys := rfl
@[simp] theorem plan_setPciePort (x : PciePort) : (d.setPciePort i x).plan = d.plan := rfl
@[simp] theorem shadowPlan_setPciePort (x : PciePort) : (d.setPciePort i x).shadowPlan = d.shadowPlan := rfl
@[simp] theorem flp_setPciePort (x : PciePort) : (d.setPciePort i x).flp = d.flp := rfl
@[simp] theorem rooms_setPciePort (x : PciePort) : (d.setPciePort i x).rooms = d.rooms := rfl
@[simp] theorem ctxs_setPciePort (x : PciePort) : (d.setPciePort i x).ctxs = d.ctxs := rfl
@[simp] theorem cores_setPciePort (x : PciePort) : (d.setPciePort i x).cores = d.cores := rfl
@[simp] theorem clusters_setPciePort (x : PciePort) : (d.setPciePort i x).clusters = d.clusters := rfl
@[simp] theorem regions_setPciePort (x : PciePort) : (d.setPciePort i x).regions = d.regions := rfl
@[simp] theorem mboxes_setPciePort (x : PciePort) : (d.setPciePort i x).mboxes = d.mboxes := rfl
@[simp] theorem ckpts_setPciePort (x : PciePort) : (d.setPciePort i x).ckpts = d.ckpts := rfl
@[simp] theorem mem_setPciePort (x : PciePort) : (d.setPciePort i x).mem = d.mem := rfl
@[simp] theorem chan_setPciePort (x : PciePort) : (d.setPciePort i x).chan = d.chan := rfl
@[simp] theorem irqPend_setPciePort (x : PciePort) : (d.setPciePort i x).irqPend = d.irqPend := rfl
@[simp] theorem irqOff_setPciePort (x : PciePort) : (d.setPciePort i x).irqOff = d.irqOff := rfl
@[simp] theorem irqPrio_setPciePort (x : PciePort) : (d.setPciePort i x).irqPrio = d.irqPrio := rfl
@[simp] theorem inc_setPciePort (x : PciePort) : (d.setPciePort i x).inc = d.inc := rfl
@[simp] theorem ras_setPciePort (x : PciePort) : (d.setPciePort i x).ras = d.ras := rfl
@[simp] theorem porch_setPciePort (x : PciePort) : (d.setPciePort i x).porch = d.porch := rfl
@[simp] theorem domains_setPciePort (x : PciePort) : (d.setPciePort i x).domains = d.domains := rfl
@[simp] theorem bist_setPciePort (x : PciePort) : (d.setPciePort i x).bist = d.bist := rfl
@[simp] theorem rst_setPciePort (x : PciePort) : (d.setPciePort i x).rst = d.rst := rfl
@[simp] theorem frc_setPciePort (x : PciePort) : (d.setPciePort i x).frc = d.frc := rfl
@[simp] theorem hubQ_setPciePort (x : PciePort) : (d.setPciePort i x).hubQ = d.hubQ := rfl
@[simp] theorem diesLost_setPciePort (x : PciePort) : (d.setPciePort i x).diesLost = d.diesLost := rfl
@[simp] theorem endSessions_setPciePort (x : PciePort) : (d.setPciePort i x).endSessions = d.endSessions := rfl
@[simp] theorem outbox_setPciePort (x : PciePort) : (d.setPciePort i x).outbox = d.outbox := rfl
@[simp] theorem unit_core_setPciePort (x : PciePort) : (d.setPciePort i x).core j = d.core j := rfl
@[simp] theorem unit_ctx_setPciePort (x : PciePort) : (d.setPciePort i x).ctx j = d.ctx j := rfl
@[simp] theorem unit_cluster_setPciePort (x : PciePort) : (d.setPciePort i x).cluster j = d.cluster j := rfl
@[simp] theorem unit_region_setPciePort (x : PciePort) : (d.setPciePort i x).region j = d.region j := rfl
@[simp] theorem unit_room_setPciePort (x : PciePort) : (d.setPciePort i x).room j = d.room j := rfl
@[simp] theorem unit_mbox_setPciePort (x : PciePort) : (d.setPciePort i x).mbox j = d.mbox j := rfl
@[simp] theorem unit_domain_setPciePort (x : PciePort) : (d.setPciePort i x).domain j = d.domain j := rfl
@[simp] theorem unit_node_setPciePort (x : PciePort) : (d.setPciePort i x).node j = d.node j := rfl
@[simp] theorem unit_port_setPciePort (x : PciePort) : (d.setPciePort i x).port j = d.port j := rfl
@[simp] theorem unit_ring_setPciePort (x : PciePort) : (d.setPciePort i x).ring j = d.ring j := rfl
@[simp] theorem unit_can_setPciePort (x : PciePort) : (d.setPciePort i x).can j = d.can j := rfl
@[simp] theorem unit_mac_setPciePort (x : PciePort) : (d.setPciePort i x).mac j = d.mac j := rfl
@[simp] theorem unit_uart_setPciePort (x : PciePort) : (d.setPciePort i x).uart j = d.uart j := rfl
@[simp] theorem unit_link_setPciePort (x : PciePort) : (d.setPciePort i x).link j = d.link j := rfl
@[simp] theorem pkg_setPciePort (x : PciePort) : (d.setPciePort i x).pkg = d.pkg := rfl
@[simp] theorem coreSlot_setPciePort (x : PciePort) : (d.setPciePort i x).coreSlot j = d.coreSlot j := rfl
@[simp] theorem coreRoom_setPciePort (x : PciePort) : (d.setPciePort i x).coreRoom j = d.coreRoom j := rfl
@[simp] theorem rrec_setPciePort (x : PciePort) : (d.setPciePort i x).rrec j = d.rrec j := rfl
@[simp] theorem coresOf_setPciePort (x : PciePort) : (d.setPciePort i x).coresOf j = d.coresOf j := rfl
@[simp] theorem clustersOf_setPciePort (x : PciePort) : (d.setPciePort i x).clustersOf j = d.clustersOf j := rfl
@[simp] theorem leads_setPciePort (x : PciePort) : (d.setPciePort i x).leads j = d.leads j := rfl
@[simp] theorem byte_setPciePort (x : PciePort) : (d.setPciePort i x).byte j = d.byte j := rfl
@[simp] theorem timed_setPciePort (x : PciePort) : (d.setPciePort i x).timed j = d.timed j := rfl
@[simp] theorem spans_setPciePort (x : PciePort) : (d.setPciePort i x).spans j = d.spans j := rfl
@[simp] theorem epochUs_setPciePort (x : PciePort) : (d.setPciePort i x).epochUs j = d.epochUs j := rfl
@[simp] theorem curCtx_setPciePort (x : PciePort) : (d.setPciePort i x).curCtx j = d.curCtx j := rfl

/-! ### setLink -/

@[simp] theorem modLink_eq (f : Link → Link) : d.modLink i f = d.setLink i (f (d.link i)) := rfl
@[simp] theorem link_setLink_same (x : Link) : (d.setLink i x).link i = x := Sparse_get_insert_same _ _ _ _
theorem link_setLink (x : Link) : (d.setLink i x).link j = if j = i then x else d.link j := by
  by_cases h : j = i <;> simp [h, Dev.link, Dev.setLink, Sparse_get_insert]
theorem link_setLink_ne (x : Link) (h : j ≠ i) : (d.setLink i x).link j = d.link j := by
  rw [link_setLink, if_neg h]
@[simp] theorem straps_setLink (x : Link) : (d.setLink i x).straps = d.straps := rfl
@[simp] theorem board_setLink (x : Link) : (d.setLink i x).board = d.board := rfl
@[simp] theorem devState_setLink (x : Link) : (d.setLink i x).devState = d.devState := rfl
@[simp] theorem clk_setLink (x : Link) : (d.setLink i x).clk = d.clk := rfl
@[simp] theorem store_setLink (x : Link) : (d.setLink i x).store = d.store := rfl
@[simp] theorem keys_setLink (x : Link) : (d.setLink i x).keys = d.keys := rfl
@[simp] theorem plan_setLink (x : Link) : (d.setLink i x).plan = d.plan := rfl
@[simp] theorem shadowPlan_setLink (x : Link) : (d.setLink i x).shadowPlan = d.shadowPlan := rfl
@[simp] theorem flp_setLink (x : Link) : (d.setLink i x).flp = d.flp := rfl
@[simp] theorem rooms_setLink (x : Link) : (d.setLink i x).rooms = d.rooms := rfl
@[simp] theorem ctxs_setLink (x : Link) : (d.setLink i x).ctxs = d.ctxs := rfl
@[simp] theorem cores_setLink (x : Link) : (d.setLink i x).cores = d.cores := rfl
@[simp] theorem clusters_setLink (x : Link) : (d.setLink i x).clusters = d.clusters := rfl
@[simp] theorem regions_setLink (x : Link) : (d.setLink i x).regions = d.regions := rfl
@[simp] theorem mboxes_setLink (x : Link) : (d.setLink i x).mboxes = d.mboxes := rfl
@[simp] theorem ckpts_setLink (x : Link) : (d.setLink i x).ckpts = d.ckpts := rfl
@[simp] theorem mem_setLink (x : Link) : (d.setLink i x).mem = d.mem := rfl
@[simp] theorem chan_setLink (x : Link) : (d.setLink i x).chan = d.chan := rfl
@[simp] theorem irqPend_setLink (x : Link) : (d.setLink i x).irqPend = d.irqPend := rfl
@[simp] theorem irqOff_setLink (x : Link) : (d.setLink i x).irqOff = d.irqOff := rfl
@[simp] theorem irqPrio_setLink (x : Link) : (d.setLink i x).irqPrio = d.irqPrio := rfl
@[simp] theorem inc_setLink (x : Link) : (d.setLink i x).inc = d.inc := rfl
@[simp] theorem ras_setLink (x : Link) : (d.setLink i x).ras = d.ras := rfl
@[simp] theorem porch_setLink (x : Link) : (d.setLink i x).porch = d.porch := rfl
@[simp] theorem domains_setLink (x : Link) : (d.setLink i x).domains = d.domains := rfl
@[simp] theorem bist_setLink (x : Link) : (d.setLink i x).bist = d.bist := rfl
@[simp] theorem rst_setLink (x : Link) : (d.setLink i x).rst = d.rst := rfl
@[simp] theorem frc_setLink (x : Link) : (d.setLink i x).frc = d.frc := rfl
@[simp] theorem hubQ_setLink (x : Link) : (d.setLink i x).hubQ = d.hubQ := rfl
@[simp] theorem diesLost_setLink (x : Link) : (d.setLink i x).diesLost = d.diesLost := rfl
@[simp] theorem endSessions_setLink (x : Link) : (d.setLink i x).endSessions = d.endSessions := rfl
@[simp] theorem outbox_setLink (x : Link) : (d.setLink i x).outbox = d.outbox := rfl
@[simp] theorem unit_core_setLink (x : Link) : (d.setLink i x).core j = d.core j := rfl
@[simp] theorem unit_ctx_setLink (x : Link) : (d.setLink i x).ctx j = d.ctx j := rfl
@[simp] theorem unit_cluster_setLink (x : Link) : (d.setLink i x).cluster j = d.cluster j := rfl
@[simp] theorem unit_region_setLink (x : Link) : (d.setLink i x).region j = d.region j := rfl
@[simp] theorem unit_room_setLink (x : Link) : (d.setLink i x).room j = d.room j := rfl
@[simp] theorem unit_mbox_setLink (x : Link) : (d.setLink i x).mbox j = d.mbox j := rfl
@[simp] theorem unit_domain_setLink (x : Link) : (d.setLink i x).domain j = d.domain j := rfl
@[simp] theorem unit_node_setLink (x : Link) : (d.setLink i x).node j = d.node j := rfl
@[simp] theorem unit_port_setLink (x : Link) : (d.setLink i x).port j = d.port j := rfl
@[simp] theorem unit_ring_setLink (x : Link) : (d.setLink i x).ring j = d.ring j := rfl
@[simp] theorem unit_can_setLink (x : Link) : (d.setLink i x).can j = d.can j := rfl
@[simp] theorem unit_mac_setLink (x : Link) : (d.setLink i x).mac j = d.mac j := rfl
@[simp] theorem unit_uart_setLink (x : Link) : (d.setLink i x).uart j = d.uart j := rfl
@[simp] theorem unit_pcie_setLink (x : Link) : (d.setLink i x).pcie j = d.pcie j := rfl
@[simp] theorem pkg_setLink (x : Link) : (d.setLink i x).pkg = d.pkg := rfl
@[simp] theorem coreSlot_setLink (x : Link) : (d.setLink i x).coreSlot j = d.coreSlot j := rfl
@[simp] theorem coreRoom_setLink (x : Link) : (d.setLink i x).coreRoom j = d.coreRoom j := rfl
@[simp] theorem rrec_setLink (x : Link) : (d.setLink i x).rrec j = d.rrec j := rfl
@[simp] theorem coresOf_setLink (x : Link) : (d.setLink i x).coresOf j = d.coresOf j := rfl
@[simp] theorem clustersOf_setLink (x : Link) : (d.setLink i x).clustersOf j = d.clustersOf j := rfl
@[simp] theorem leads_setLink (x : Link) : (d.setLink i x).leads j = d.leads j := rfl
@[simp] theorem byte_setLink (x : Link) : (d.setLink i x).byte j = d.byte j := rfl
@[simp] theorem timed_setLink (x : Link) : (d.setLink i x).timed j = d.timed j := rfl
@[simp] theorem spans_setLink (x : Link) : (d.setLink i x).spans j = d.spans j := rfl
@[simp] theorem epochUs_setLink (x : Link) : (d.setLink i x).epochUs j = d.epochUs j := rfl
@[simp] theorem curCtx_setLink (x : Link) : (d.setLink i x).curCtx j = d.curCtx j := rfl

/-! ### emit -/

@[simp] theorem straps_emit (x : Out) : (d.emit x).straps = d.straps := rfl
@[simp] theorem board_emit (x : Out) : (d.emit x).board = d.board := rfl
@[simp] theorem devState_emit (x : Out) : (d.emit x).devState = d.devState := rfl
@[simp] theorem clk_emit (x : Out) : (d.emit x).clk = d.clk := rfl
@[simp] theorem store_emit (x : Out) : (d.emit x).store = d.store := rfl
@[simp] theorem keys_emit (x : Out) : (d.emit x).keys = d.keys := rfl
@[simp] theorem plan_emit (x : Out) : (d.emit x).plan = d.plan := rfl
@[simp] theorem shadowPlan_emit (x : Out) : (d.emit x).shadowPlan = d.shadowPlan := rfl
@[simp] theorem flp_emit (x : Out) : (d.emit x).flp = d.flp := rfl
@[simp] theorem rooms_emit (x : Out) : (d.emit x).rooms = d.rooms := rfl
@[simp] theorem ctxs_emit (x : Out) : (d.emit x).ctxs = d.ctxs := rfl
@[simp] theorem cores_emit (x : Out) : (d.emit x).cores = d.cores := rfl
@[simp] theorem clusters_emit (x : Out) : (d.emit x).clusters = d.clusters := rfl
@[simp] theorem regions_emit (x : Out) : (d.emit x).regions = d.regions := rfl
@[simp] theorem mboxes_emit (x : Out) : (d.emit x).mboxes = d.mboxes := rfl
@[simp] theorem ckpts_emit (x : Out) : (d.emit x).ckpts = d.ckpts := rfl
@[simp] theorem mem_emit (x : Out) : (d.emit x).mem = d.mem := rfl
@[simp] theorem chan_emit (x : Out) : (d.emit x).chan = d.chan := rfl
@[simp] theorem irqPend_emit (x : Out) : (d.emit x).irqPend = d.irqPend := rfl
@[simp] theorem irqOff_emit (x : Out) : (d.emit x).irqOff = d.irqOff := rfl
@[simp] theorem irqPrio_emit (x : Out) : (d.emit x).irqPrio = d.irqPrio := rfl
@[simp] theorem inc_emit (x : Out) : (d.emit x).inc = d.inc := rfl
@[simp] theorem ras_emit (x : Out) : (d.emit x).ras = d.ras := rfl
@[simp] theorem porch_emit (x : Out) : (d.emit x).porch = d.porch := rfl
@[simp] theorem domains_emit (x : Out) : (d.emit x).domains = d.domains := rfl
@[simp] theorem bist_emit (x : Out) : (d.emit x).bist = d.bist := rfl
@[simp] theorem rst_emit (x : Out) : (d.emit x).rst = d.rst := rfl
@[simp] theorem frc_emit (x : Out) : (d.emit x).frc = d.frc := rfl
@[simp] theorem per_emit (x : Out) : (d.emit x).per = d.per := rfl
@[simp] theorem hubQ_emit (x : Out) : (d.emit x).hubQ = d.hubQ := rfl
@[simp] theorem diesLost_emit (x : Out) : (d.emit x).diesLost = d.diesLost := rfl
@[simp] theorem endSessions_emit (x : Out) : (d.emit x).endSessions = d.endSessions := rfl
@[simp] theorem unit_core_emit (x : Out) : (d.emit x).core j = d.core j := rfl
@[simp] theorem unit_ctx_emit (x : Out) : (d.emit x).ctx j = d.ctx j := rfl
@[simp] theorem unit_cluster_emit (x : Out) : (d.emit x).cluster j = d.cluster j := rfl
@[simp] theorem unit_region_emit (x : Out) : (d.emit x).region j = d.region j := rfl
@[simp] theorem unit_room_emit (x : Out) : (d.emit x).room j = d.room j := rfl
@[simp] theorem unit_mbox_emit (x : Out) : (d.emit x).mbox j = d.mbox j := rfl
@[simp] theorem unit_domain_emit (x : Out) : (d.emit x).domain j = d.domain j := rfl
@[simp] theorem unit_node_emit (x : Out) : (d.emit x).node j = d.node j := rfl
@[simp] theorem unit_port_emit (x : Out) : (d.emit x).port j = d.port j := rfl
@[simp] theorem unit_ring_emit (x : Out) : (d.emit x).ring j = d.ring j := rfl
@[simp] theorem unit_can_emit (x : Out) : (d.emit x).can j = d.can j := rfl
@[simp] theorem unit_mac_emit (x : Out) : (d.emit x).mac j = d.mac j := rfl
@[simp] theorem unit_uart_emit (x : Out) : (d.emit x).uart j = d.uart j := rfl
@[simp] theorem unit_pcie_emit (x : Out) : (d.emit x).pcie j = d.pcie j := rfl
@[simp] theorem unit_link_emit (x : Out) : (d.emit x).link j = d.link j := rfl
@[simp] theorem outbox_emit (x : Out) : (d.emit x).outbox = x :: d.outbox := rfl

/-! ### raise -/

@[simp] theorem straps_raise : (d.raise i).straps = d.straps := rfl
@[simp] theorem board_raise : (d.raise i).board = d.board := rfl
@[simp] theorem devState_raise : (d.raise i).devState = d.devState := rfl
@[simp] theorem clk_raise : (d.raise i).clk = d.clk := rfl
@[simp] theorem store_raise : (d.raise i).store = d.store := rfl
@[simp] theorem keys_raise : (d.raise i).keys = d.keys := rfl
@[simp] theorem plan_raise : (d.raise i).plan = d.plan := rfl
@[simp] theorem shadowPlan_raise : (d.raise i).shadowPlan = d.shadowPlan := rfl
@[simp] theorem flp_raise : (d.raise i).flp = d.flp := rfl
@[simp] theorem rooms_raise : (d.raise i).rooms = d.rooms := rfl
@[simp] theorem ctxs_raise : (d.raise i).ctxs = d.ctxs := rfl
@[simp] theorem cores_raise : (d.raise i).cores = d.cores := rfl
@[simp] theorem clusters_raise : (d.raise i).clusters = d.clusters := rfl
@[simp] theorem regions_raise : (d.raise i).regions = d.regions := rfl
@[simp] theorem mboxes_raise : (d.raise i).mboxes = d.mboxes := rfl
@[simp] theorem ckpts_raise : (d.raise i).ckpts = d.ckpts := rfl
@[simp] theorem mem_raise : (d.raise i).mem = d.mem := rfl
@[simp] theorem chan_raise : (d.raise i).chan = d.chan := rfl
@[simp] theorem irqOff_raise : (d.raise i).irqOff = d.irqOff := rfl
@[simp] theorem irqPrio_raise : (d.raise i).irqPrio = d.irqPrio := rfl
@[simp] theorem inc_raise : (d.raise i).inc = d.inc := rfl
@[simp] theorem ras_raise : (d.raise i).ras = d.ras := rfl
@[simp] theorem porch_raise : (d.raise i).porch = d.porch := rfl
@[simp] theorem domains_raise : (d.raise i).domains = d.domains := rfl
@[simp] theorem bist_raise : (d.raise i).bist = d.bist := rfl
@[simp] theorem rst_raise : (d.raise i).rst = d.rst := rfl
@[simp] theorem frc_raise : (d.raise i).frc = d.frc := rfl
@[simp] theorem per_raise : (d.raise i).per = d.per := rfl
@[simp] theorem hubQ_raise : (d.raise i).hubQ = d.hubQ := rfl
@[simp] theorem diesLost_raise : (d.raise i).diesLost = d.diesLost := rfl
@[simp] theorem endSessions_raise : (d.raise i).endSessions = d.endSessions := rfl
@[simp] theorem outbox_raise : (d.raise i).outbox = d.outbox := rfl
@[simp] theorem unit_core_raise : (d.raise i).core j = d.core j := rfl
@[simp] theorem unit_ctx_raise : (d.raise i).ctx j = d.ctx j := rfl
@[simp] theorem unit_cluster_raise : (d.raise i).cluster j = d.cluster j := rfl
@[simp] theorem unit_region_raise : (d.raise i).region j = d.region j := rfl
@[simp] theorem unit_room_raise : (d.raise i).room j = d.room j := rfl
@[simp] theorem unit_mbox_raise : (d.raise i).mbox j = d.mbox j := rfl
@[simp] theorem unit_domain_raise : (d.raise i).domain j = d.domain j := rfl
@[simp] theorem unit_node_raise : (d.raise i).node j = d.node j := rfl
@[simp] theorem unit_port_raise : (d.raise i).port j = d.port j := rfl
@[simp] theorem unit_ring_raise : (d.raise i).ring j = d.ring j := rfl
@[simp] theorem unit_can_raise : (d.raise i).can j = d.can j := rfl
@[simp] theorem unit_mac_raise : (d.raise i).mac j = d.mac j := rfl
@[simp] theorem unit_uart_raise : (d.raise i).uart j = d.uart j := rfl
@[simp] theorem unit_pcie_raise : (d.raise i).pcie j = d.pcie j := rfl
@[simp] theorem unit_link_raise : (d.raise i).link j = d.link j := rfl
@[simp] theorem irqPend_raise : (d.raise i).irqPend = insertAsc d.irqPend i := rfl

/-! ### poke -/

@[simp] theorem straps_poke (l : List (Nat × Byte)) : (d.poke l).straps = d.straps := rfl
@[simp] theorem board_poke (l : List (Nat × Byte)) : (d.poke l).board = d.board := rfl
@[simp] theorem devState_poke (l : List (Nat × Byte)) : (d.poke l).devState = d.devState := rfl
@[simp] theorem clk_poke (l : List (Nat × Byte)) : (d.poke l).clk = d.clk := rfl
@[simp] theorem store_poke (l : List (Nat × Byte)) : (d.poke l).store = d.store := rfl
@[simp] theorem keys_poke (l : List (Nat × Byte)) : (d.poke l).keys = d.keys := rfl
@[simp] theorem plan_poke (l : List (Nat × Byte)) : (d.poke l).plan = d.plan := rfl
@[simp] theorem shadowPlan_poke (l : List (Nat × Byte)) : (d.poke l).shadowPlan = d.shadowPlan := rfl
@[simp] theorem flp_poke (l : List (Nat × Byte)) : (d.poke l).flp = d.flp := rfl
@[simp] theorem rooms_poke (l : List (Nat × Byte)) : (d.poke l).rooms = d.rooms := rfl
@[simp] theorem ctxs_poke (l : List (Nat × Byte)) : (d.poke l).ctxs = d.ctxs := rfl
@[simp] theorem cores_poke (l : List (Nat × Byte)) : (d.poke l).cores = d.cores := rfl
@[simp] theorem clusters_poke (l : List (Nat × Byte)) : (d.poke l).clusters = d.clusters := rfl
@[simp] theorem regions_poke (l : List (Nat × Byte)) : (d.poke l).regions = d.regions := rfl
@[simp] theorem mboxes_poke (l : List (Nat × Byte)) : (d.poke l).mboxes = d.mboxes := rfl
@[simp] theorem ckpts_poke (l : List (Nat × Byte)) : (d.poke l).ckpts = d.ckpts := rfl
@[simp] theorem chan_poke (l : List (Nat × Byte)) : (d.poke l).chan = d.chan := rfl
@[simp] theorem irqPend_poke (l : List (Nat × Byte)) : (d.poke l).irqPend = d.irqPend := rfl
@[simp] theorem irqOff_poke (l : List (Nat × Byte)) : (d.poke l).irqOff = d.irqOff := rfl
@[simp] theorem irqPrio_poke (l : List (Nat × Byte)) : (d.poke l).irqPrio = d.irqPrio := rfl
@[simp] theorem inc_poke (l : List (Nat × Byte)) : (d.poke l).inc = d.inc := rfl
@[simp] theorem ras_poke (l : List (Nat × Byte)) : (d.poke l).ras = d.ras := rfl
@[simp] theorem porch_poke (l : List (Nat × Byte)) : (d.poke l).porch = d.porch := rfl
@[simp] theorem domains_poke (l : List (Nat × Byte)) : (d.poke l).domains = d.domains := rfl
@[simp] theorem bist_poke (l : List (Nat × Byte)) : (d.poke l).bist = d.bist := rfl
@[simp] theorem rst_poke (l : List (Nat × Byte)) : (d.poke l).rst = d.rst := rfl
@[simp] theorem frc_poke (l : List (Nat × Byte)) : (d.poke l).frc = d.frc := rfl
@[simp] theorem per_poke (l : List (Nat × Byte)) : (d.poke l).per = d.per := rfl
@[simp] theorem hubQ_poke (l : List (Nat × Byte)) : (d.poke l).hubQ = d.hubQ := rfl
@[simp] theorem diesLost_poke (l : List (Nat × Byte)) : (d.poke l).diesLost = d.diesLost := rfl
@[simp] theorem endSessions_poke (l : List (Nat × Byte)) : (d.poke l).endSessions = d.endSessions := rfl
@[simp] theorem outbox_poke (l : List (Nat × Byte)) : (d.poke l).outbox = d.outbox := rfl
@[simp] theorem unit_core_poke (l : List (Nat × Byte)) : (d.poke l).core j = d.core j := rfl
@[simp] theorem unit_ctx_poke (l : List (Nat × Byte)) : (d.poke l).ctx j = d.ctx j := rfl
@[simp] theorem unit_cluster_poke (l : List (Nat × Byte)) : (d.poke l).cluster j = d.cluster j := rfl
@[simp] theorem unit_region_poke (l : List (Nat × Byte)) : (d.poke l).region j = d.region j := rfl
@[simp] theorem unit_room_poke (l : List (Nat × Byte)) : (d.poke l).room j = d.room j := rfl
@[simp] theorem unit_mbox_poke (l : List (Nat × Byte)) : (d.poke l).mbox j = d.mbox j := rfl
@[simp] theorem unit_domain_poke (l : List (Nat × Byte)) : (d.poke l).domain j = d.domain j := rfl
@[simp] theorem unit_node_poke (l : List (Nat × Byte)) : (d.poke l).node j = d.node j := rfl
@[simp] theorem unit_port_poke (l : List (Nat × Byte)) : (d.poke l).port j = d.port j := rfl
@[simp] theorem unit_ring_poke (l : List (Nat × Byte)) : (d.poke l).ring j = d.ring j := rfl
@[simp] theorem unit_can_poke (l : List (Nat × Byte)) : (d.poke l).can j = d.can j := rfl
@[simp] theorem unit_mac_poke (l : List (Nat × Byte)) : (d.poke l).mac j = d.mac j := rfl
@[simp] theorem unit_uart_poke (l : List (Nat × Byte)) : (d.poke l).uart j = d.uart j := rfl
@[simp] theorem unit_pcie_poke (l : List (Nat × Byte)) : (d.poke l).pcie j = d.pcie j := rfl
@[simp] theorem unit_link_poke (l : List (Nat × Byte)) : (d.poke l).link j = d.link j := rfl
@[simp] theorem mem_poke (l : List (Nat × Byte)) : (d.poke l).mem = d.mem.putAll (d.mirrored l) := rfl

/-! ### writeBack -/

@[simp] theorem straps_writeBack : (d.writeBack i).straps = d.straps := rfl
@[simp] theorem board_writeBack : (d.writeBack i).board = d.board := rfl
@[simp] theorem devState_writeBack : (d.writeBack i).devState = d.devState := rfl
@[simp] theorem clk_writeBack : (d.writeBack i).clk = d.clk := rfl
@[simp] theorem store_writeBack : (d.writeBack i).store = d.store := rfl
@[simp] theorem keys_writeBack : (d.writeBack i).keys = d.keys := rfl
@[simp] theorem plan_writeBack : (d.writeBack i).plan = d.plan := rfl
@[simp] theorem shadowPlan_writeBack : (d.writeBack i).shadowPlan = d.shadowPlan := rfl
@[simp] theorem flp_writeBack : (d.writeBack i).flp = d.flp := rfl
@[simp] theorem rooms_writeBack : (d.writeBack i).rooms = d.rooms := rfl
@[simp] theorem ctxs_writeBack : (d.writeBack i).ctxs = d.ctxs := rfl
@[simp] theorem cores_writeBack : (d.writeBack i).cores = d.cores := rfl
@[simp] theorem clusters_writeBack : (d.writeBack i).clusters = d.clusters := rfl
@[simp] theorem regions_writeBack : (d.writeBack i).regions = d.regions := rfl
@[simp] theorem mboxes_writeBack : (d.writeBack i).mboxes = d.mboxes := rfl
@[simp] theorem ckpts_writeBack : (d.writeBack i).ckpts = d.ckpts := rfl
@[simp] theorem mem_writeBack : (d.writeBack i).mem = d.mem := rfl
@[simp] theorem irqPend_writeBack : (d.writeBack i).irqPend = d.irqPend := rfl
@[simp] theorem irqOff_writeBack : (d.writeBack i).irqOff = d.irqOff := rfl
@[simp] theorem irqPrio_writeBack : (d.writeBack i).irqPrio = d.irqPrio := rfl
@[simp] theorem inc_writeBack : (d.writeBack i).inc = d.inc := rfl
@[simp] theorem ras_writeBack : (d.writeBack i).ras = d.ras := rfl
@[simp] theorem porch_writeBack : (d.writeBack i).porch = d.porch := rfl
@[simp] theorem domains_writeBack : (d.writeBack i).domains = d.domains := rfl
@[simp] theorem bist_writeBack : (d.writeBack i).bist = d.bist := rfl
@[simp] theorem rst_writeBack : (d.writeBack i).rst = d.rst := rfl
@[simp] theorem frc_writeBack : (d.writeBack i).frc = d.frc := rfl
@[simp] theorem per_writeBack : (d.writeBack i).per = d.per := rfl
@[simp] theorem hubQ_writeBack : (d.writeBack i).hubQ = d.hubQ := rfl
@[simp] theorem diesLost_writeBack : (d.writeBack i).diesLost = d.diesLost := rfl
@[simp] theorem endSessions_writeBack : (d.writeBack i).endSessions = d.endSessions := rfl
@[simp] theorem outbox_writeBack : (d.writeBack i).outbox = d.outbox := rfl
@[simp] theorem unit_core_writeBack : (d.writeBack i).core j = d.core j := rfl
@[simp] theorem unit_ctx_writeBack : (d.writeBack i).ctx j = d.ctx j := rfl
@[simp] theorem unit_cluster_writeBack : (d.writeBack i).cluster j = d.cluster j := rfl
@[simp] theorem unit_region_writeBack : (d.writeBack i).region j = d.region j := rfl
@[simp] theorem unit_room_writeBack : (d.writeBack i).room j = d.room j := rfl
@[simp] theorem unit_mbox_writeBack : (d.writeBack i).mbox j = d.mbox j := rfl
@[simp] theorem unit_domain_writeBack : (d.writeBack i).domain j = d.domain j := rfl
@[simp] theorem unit_node_writeBack : (d.writeBack i).node j = d.node j := rfl
@[simp] theorem unit_port_writeBack : (d.writeBack i).port j = d.port j := rfl
@[simp] theorem unit_ring_writeBack : (d.writeBack i).ring j = d.ring j := rfl
@[simp] theorem unit_can_writeBack : (d.writeBack i).can j = d.can j := rfl
@[simp] theorem unit_mac_writeBack : (d.writeBack i).mac j = d.mac j := rfl
@[simp] theorem unit_uart_writeBack : (d.writeBack i).uart j = d.uart j := rfl
@[simp] theorem unit_pcie_writeBack : (d.writeBack i).pcie j = d.pcie j := rfl
@[simp] theorem unit_link_writeBack : (d.writeBack i).link j = d.link j := rfl

/-! ### zeroRange -/

@[simp] theorem straps_zeroRange (n : Nat) : (d.zeroRange i n).straps = d.straps := rfl
@[simp] theorem board_zeroRange (n : Nat) : (d.zeroRange i n).board = d.board := rfl
@[simp] theorem devState_zeroRange (n : Nat) : (d.zeroRange i n).devState = d.devState := rfl
@[simp] theorem clk_zeroRange (n : Nat) : (d.zeroRange i n).clk = d.clk := rfl
@[simp] theorem store_zeroRange (n : Nat) : (d.zeroRange i n).store = d.store := rfl
@[simp] theorem keys_zeroRange (n : Nat) : (d.zeroRange i n).keys = d.keys := rfl
@[simp] theorem plan_zeroRange (n : Nat) : (d.zeroRange i n).plan = d.plan := rfl
@[simp] theorem shadowPlan_zeroRange (n : Nat) : (d.zeroRange i n).shadowPlan = d.shadowPlan := rfl
@[simp] theorem flp_zeroRange (n : Nat) : (d.zeroRange i n).flp = d.flp := rfl
@[simp] theorem rooms_zeroRange (n : Nat) : (d.zeroRange i n).rooms = d.rooms := rfl
@[simp] theorem ctxs_zeroRange (n : Nat) : (d.zeroRange i n).ctxs = d.ctxs := rfl
@[simp] theorem cores_zeroRange (n : Nat) : (d.zeroRange i n).cores = d.cores := rfl
@[simp] theorem clusters_zeroRange (n : Nat) : (d.zeroRange i n).clusters = d.clusters := rfl
@[simp] theorem regions_zeroRange (n : Nat) : (d.zeroRange i n).regions = d.regions := rfl
@[simp] theorem mboxes_zeroRange (n : Nat) : (d.zeroRange i n).mboxes = d.mboxes := rfl
@[simp] theorem ckpts_zeroRange (n : Nat) : (d.zeroRange i n).ckpts = d.ckpts := rfl
@[simp] theorem irqPend_zeroRange (n : Nat) : (d.zeroRange i n).irqPend = d.irqPend := rfl
@[simp] theorem irqOff_zeroRange (n : Nat) : (d.zeroRange i n).irqOff = d.irqOff := rfl
@[simp] theorem irqPrio_zeroRange (n : Nat) : (d.zeroRange i n).irqPrio = d.irqPrio := rfl
@[simp] theorem inc_zeroRange (n : Nat) : (d.zeroRange i n).inc = d.inc := rfl
@[simp] theorem ras_zeroRange (n : Nat) : (d.zeroRange i n).ras = d.ras := rfl
@[simp] theorem porch_zeroRange (n : Nat) : (d.zeroRange i n).porch = d.porch := rfl
@[simp] theorem domains_zeroRange (n : Nat) : (d.zeroRange i n).domains = d.domains := rfl
@[simp] theorem bist_zeroRange (n : Nat) : (d.zeroRange i n).bist = d.bist := rfl
@[simp] theorem rst_zeroRange (n : Nat) : (d.zeroRange i n).rst = d.rst := rfl
@[simp] theorem frc_zeroRange (n : Nat) : (d.zeroRange i n).frc = d.frc := rfl
@[simp] theorem per_zeroRange (n : Nat) : (d.zeroRange i n).per = d.per := rfl
@[simp] theorem hubQ_zeroRange (n : Nat) : (d.zeroRange i n).hubQ = d.hubQ := rfl
@[simp] theorem diesLost_zeroRange (n : Nat) : (d.zeroRange i n).diesLost = d.diesLost := rfl
@[simp] theorem endSessions_zeroRange (n : Nat) : (d.zeroRange i n).endSessions = d.endSessions := rfl
@[simp] theorem outbox_zeroRange (n : Nat) : (d.zeroRange i n).outbox = d.outbox := rfl
@[simp] theorem unit_core_zeroRange (n : Nat) : (d.zeroRange i n).core j = d.core j := rfl
@[simp] theorem unit_ctx_zeroRange (n : Nat) : (d.zeroRange i n).ctx j = d.ctx j := rfl
@[simp] theorem unit_cluster_zeroRange (n : Nat) : (d.zeroRange i n).cluster j = d.cluster j := rfl
@[simp] theorem unit_region_zeroRange (n : Nat) : (d.zeroRange i n).region j = d.region j := rfl
@[simp] theorem unit_room_zeroRange (n : Nat) : (d.zeroRange i n).room j = d.room j := rfl
@[simp] theorem unit_mbox_zeroRange (n : Nat) : (d.zeroRange i n).mbox j = d.mbox j := rfl
@[simp] theorem unit_domain_zeroRange (n : Nat) : (d.zeroRange i n).domain j = d.domain j := rfl
@[simp] theorem unit_node_zeroRange (n : Nat) : (d.zeroRange i n).node j = d.node j := rfl
@[simp] theorem unit_port_zeroRange (n : Nat) : (d.zeroRange i n).port j = d.port j := rfl
@[simp] theorem unit_ring_zeroRange (n : Nat) : (d.zeroRange i n).ring j = d.ring j := rfl
@[simp] theorem unit_can_zeroRange (n : Nat) : (d.zeroRange i n).can j = d.can j := rfl
@[simp] theorem unit_mac_zeroRange (n : Nat) : (d.zeroRange i n).mac j = d.mac j := rfl
@[simp] theorem unit_uart_zeroRange (n : Nat) : (d.zeroRange i n).uart j = d.uart j := rfl
@[simp] theorem unit_pcie_zeroRange (n : Nat) : (d.zeroRange i n).pcie j = d.pcie j := rfl
@[simp] theorem unit_link_zeroRange (n : Nat) : (d.zeroRange i n).link j = d.link j := rfl

/-! ### Updates of a context -/

variable (x : Ctx) (p n : Nat) (v : Word)

@[simp] theorem regs_setPsw : (x.setPsw i j p).regs = x.regs := rfl
@[simp] theorem pc_setPsw : (x.setPsw i j p).pc = x.pc := rfl
@[simp] theorem bkN_setPsw : (x.setPsw i j p).bkN = x.bkN := rfl
@[simp] theorem bkS_setPsw : (x.setPsw i j p).bkS = x.bkS := rfl
@[simp] theorem ptbaseN_setPsw : (x.setPsw i j p).ptbaseN = x.ptbaseN := rfl
@[simp] theorem ptbaseS_setPsw : (x.setPsw i j p).ptbaseS = x.ptbaseS := rfl
@[simp] theorem asidN_setPsw : (x.setPsw i j p).asidN = x.asidN := rfl
@[simp] theorem asidS_setPsw : (x.setPsw i j p).asidS = x.asidS := rfl
@[simp] theorem vbase_setPsw : (x.setPsw i j p).vbase = x.vbase := rfl
@[simp] theorem kvbase_setPsw : (x.setPsw i j p).kvbase = x.kvbase := rfl
@[simp] theorem wctl_setPsw : (x.setPsw i j p).wctl = x.wctl := rfl
@[simp] theorem rd_setPsw : (x.setPsw i j p).rd = x.rd := rfl
@[simp] theorem wspN_setPsw : (x.setPsw i j p).wspN = x.wspN := rfl
@[simp] theorem wspS_setPsw : (x.setPsw i j p).wspS = x.wspS := rfl
@[simp] theorem scN_setPsw : (x.setPsw i j p).scN = x.scN := rfl
@[simp] theorem scS_setPsw : (x.setPsw i j p).scS = x.scS := rfl
@[simp] theorem ncwp_setPsw : (x.setPsw i j p).ncwp = x.ncwp := rfl
@[simp] theorem nrd_setPsw : (x.setPsw i j p).nrd = x.nrd := rfl
@[simp] theorem fill_setPsw : (x.setPsw i j p).fill = x.fill := rfl
@[simp] theorem rec1_setPsw : (x.setPsw i j p).rec1 = x.rec1 := rfl
@[simp] theorem rec2_setPsw : (x.setPsw i j p).rec2 = x.rec2 := rfl
@[simp] theorem secret_setPsw : (x.setPsw i j p).secret = x.secret := rfl
@[simp] theorem bar_setPsw : (x.setPsw i j p).bar = x.bar := rfl
@[simp] theorem resv_setPsw : (x.setPsw i j p).resv = x.resv := rfl
@[simp] theorem btable_setPsw : (x.setPsw i j p).btable = x.btable := rfl
@[simp] theorem rstack_setPsw : (x.setPsw i j p).rstack = x.rstack := rfl
@[simp] theorem long_setPsw : (x.setPsw i j p).long = x.long := rfl
@[simp] theorem pc_setP : (x.setP p v).pc = x.pc := by
  unfold Ctx.setP; split <;> rfl
@[simp] theorem psw_setP : (x.setP p v).psw = x.psw := by
  unfold Ctx.setP; split <;> rfl
@[simp] theorem bkN_setP : (x.setP p v).bkN = x.bkN := by
  unfold Ctx.setP; split <;> rfl
@[simp] theorem bkS_setP : (x.setP p v).bkS = x.bkS := by
  unfold Ctx.setP; split <;> rfl
@[simp] theorem ptbaseN_setP : (x.setP p v).ptbaseN = x.ptbaseN := by
  unfold Ctx.setP; split <;> rfl
@[simp] theorem ptbaseS_setP : (x.setP p v).ptbaseS = x.ptbaseS := by
  unfold Ctx.setP; split <;> rfl
@[simp] theorem asidN_setP : (x.setP p v).asidN = x.asidN := by
  unfold Ctx.setP; split <;> rfl
@[simp] theorem asidS_setP : (x.setP p v).asidS = x.asidS := by
  unfold Ctx.setP; split <;> rfl
@[simp] theorem vbase_setP : (x.setP p v).vbase = x.vbase := by
  unfold Ctx.setP; split <;> rfl
@[simp] theorem kvbase_setP : (x.setP p v).kvbase = x.kvbase := by
  unfold Ctx.setP; split <;> rfl
@[simp] theorem wctl_setP : (x.setP p v).wctl = x.wctl := by
  unfold Ctx.setP; split <;> rfl
@[simp] theorem rd_setP : (x.setP p v).rd = x.rd := by
  unfold Ctx.setP; split <;> rfl
@[simp] theorem wspN_setP : (x.setP p v).wspN = x.wspN := by
  unfold Ctx.setP; split <;> rfl
@[simp] theorem wspS_setP : (x.setP p v).wspS = x.wspS := by
  unfold Ctx.setP; split <;> rfl
@[simp] theorem scN_setP : (x.setP p v).scN = x.scN := by
  unfold Ctx.setP; split <;> rfl
@[simp] theorem scS_setP : (x.setP p v).scS = x.scS := by
  unfold Ctx.setP; split <;> rfl
@[simp] theorem ncwp_setP : (x.setP p v).ncwp = x.ncwp := by
  unfold Ctx.setP; split <;> rfl
@[simp] theorem nrd_setP : (x.setP p v).nrd = x.nrd := by
  unfold Ctx.setP; split <;> rfl
@[simp] theorem fill_setP : (x.setP p v).fill = x.fill := by
  unfold Ctx.setP; split <;> rfl
@[simp] theorem rec1_setP : (x.setP p v).rec1 = x.rec1 := by
  unfold Ctx.setP; split <;> rfl
@[simp] theorem rec2_setP : (x.setP p v).rec2 = x.rec2 := by
  unfold Ctx.setP; split <;> rfl
@[simp] theorem secret_setP : (x.setP p v).secret = x.secret := by
  unfold Ctx.setP; split <;> rfl
@[simp] theorem bar_setP : (x.setP p v).bar = x.bar := by
  unfold Ctx.setP; split <;> rfl
@[simp] theorem resv_setP : (x.setP p v).resv = x.resv := by
  unfold Ctx.setP; split <;> rfl
@[simp] theorem btable_setP : (x.setP p v).btable = x.btable := by
  unfold Ctx.setP; split <;> rfl
@[simp] theorem rstack_setP : (x.setP p v).rstack = x.rstack := by
  unfold Ctx.setP; split <;> rfl
@[simp] theorem long_setP : (x.setP p v).long = x.long := by
  unfold Ctx.setP; split <;> rfl
@[simp] theorem regs_setBk : (x.setBk n v).regs = x.regs := by
  unfold Ctx.setBk; split <;> rfl
@[simp] theorem pc_setBk : (x.setBk n v).pc = x.pc := by
  unfold Ctx.setBk; split <;> rfl
@[simp] theorem psw_setBk : (x.setBk n v).psw = x.psw := by
  unfold Ctx.setBk; split <;> rfl
@[simp] theorem ptbaseN_setBk : (x.setBk n v).ptbaseN = x.ptbaseN := by
  unfold Ctx.setBk; split <;> rfl
@[simp] theorem ptbaseS_setBk : (x.setBk n v).ptbaseS = x.ptbaseS := by
  unfold Ctx.setBk; split <;> rfl
@[simp] theorem asidN_setBk : (x.setBk n v).asidN = x.asidN := by
  unfold Ctx.setBk; split <;> rfl
@[simp] theorem asidS_setBk : (x.setBk n v).asidS = x.asidS := by
  unfold Ctx.setBk; split <;> rfl
@[simp] theorem vbase_setBk : (x.setBk n v).vbase = x.vbase := by
  unfold Ctx.setBk; split <;> rfl
@[simp] theorem kvbase_setBk : (x.setBk n v).kvbase = x.kvbase := by
  unfold Ctx.setBk; split <;> rfl
@[simp] theorem wctl_setBk : (x.setBk n v).wctl = x.wctl := by
  unfold Ctx.setBk; split <;> rfl
@[simp] theorem rd_setBk : (x.setBk n v).rd = x.rd := by
  unfold Ctx.setBk; split <;> rfl
@[simp] theorem wspN_setBk : (x.setBk n v).wspN = x.wspN := by
  unfold Ctx.setBk; split <;> rfl
@[simp] theorem wspS_setBk : (x.setBk n v).wspS = x.wspS := by
  unfold Ctx.setBk; split <;> rfl
@[simp] theorem scN_setBk : (x.setBk n v).scN = x.scN := by
  unfold Ctx.setBk; split <;> rfl
@[simp] theorem scS_setBk : (x.setBk n v).scS = x.scS := by
  unfold Ctx.setBk; split <;> rfl
@[simp] theorem ncwp_setBk : (x.setBk n v).ncwp = x.ncwp := by
  unfold Ctx.setBk; split <;> rfl
@[simp] theorem nrd_setBk : (x.setBk n v).nrd = x.nrd := by
  unfold Ctx.setBk; split <;> rfl
@[simp] theorem fill_setBk : (x.setBk n v).fill = x.fill := by
  unfold Ctx.setBk; split <;> rfl
@[simp] theorem rec1_setBk : (x.setBk n v).rec1 = x.rec1 := by
  unfold Ctx.setBk; split <;> rfl
@[simp] theorem rec2_setBk : (x.setBk n v).rec2 = x.rec2 := by
  unfold Ctx.setBk; split <;> rfl
@[simp] theorem secret_setBk : (x.setBk n v).secret = x.secret := by
  unfold Ctx.setBk; split <;> rfl
@[simp] theorem bar_setBk : (x.setBk n v).bar = x.bar := by
  unfold Ctx.setBk; split <;> rfl
@[simp] theorem resv_setBk : (x.setBk n v).resv = x.resv := by
  unfold Ctx.setBk; split <;> rfl
@[simp] theorem btable_setBk : (x.setBk n v).btable = x.btable := by
  unfold Ctx.setBk; split <;> rfl
@[simp] theorem rstack_setBk : (x.setBk n v).rstack = x.rstack := by
  unfold Ctx.setBk; split <;> rfl
@[simp] theorem long_setBk : (x.setBk n v).long = x.long := by
  unfold Ctx.setBk; split <;> rfl
@[simp] theorem regs_setWsp (b : Bool) : (x.setWsp b v).regs = x.regs := by
  unfold Ctx.setWsp; split <;> rfl
@[simp] theorem pc_setWsp (b : Bool) : (x.setWsp b v).pc = x.pc := by
  unfold Ctx.setWsp; split <;> rfl
@[simp] theorem psw_setWsp (b : Bool) : (x.setWsp b v).psw = x.psw := by
  unfold Ctx.setWsp; split <;> rfl
@[simp] theorem bkN_setWsp (b : Bool) : (x.setWsp b v).bkN = x.bkN := by
  unfold Ctx.setWsp; split <;> rfl
@[simp] theorem bkS_setWsp (b : Bool) : (x.setWsp b v).bkS = x.bkS := by
  unfold Ctx.setWsp; split <;> rfl
@[simp] theorem ptbaseN_setWsp (b : Bool) : (x.setWsp b v).ptbaseN = x.ptbaseN := by
  unfold Ctx.setWsp; split <;> rfl
@[simp] theorem ptbaseS_setWsp (b : Bool) : (x.setWsp b v).ptbaseS = x.ptbaseS := by
  unfold Ctx.setWsp; split <;> rfl
@[simp] theorem asidN_setWsp (b : Bool) : (x.setWsp b v).asidN = x.asidN := by
  unfold Ctx.setWsp; split <;> rfl
@[simp] theorem asidS_setWsp (b : Bool) : (x.setWsp b v).asidS = x.asidS := by
  unfold Ctx.setWsp; split <;> rfl
@[simp] theorem vbase_setWsp (b : Bool) : (x.setWsp b v).vbase = x.vbase := by
  unfold Ctx.setWsp; split <;> rfl
@[simp] theorem kvbase_setWsp (b : Bool) : (x.setWsp b v).kvbase = x.kvbase := by
  unfold Ctx.setWsp; split <;> rfl
@[simp] theorem wctl_setWsp (b : Bool) : (x.setWsp b v).wctl = x.wctl := by
  unfold Ctx.setWsp; split <;> rfl
@[simp] theorem rd_setWsp (b : Bool) : (x.setWsp b v).rd = x.rd := by
  unfold Ctx.setWsp; split <;> rfl
@[simp] theorem scN_setWsp (b : Bool) : (x.setWsp b v).scN = x.scN := by
  unfold Ctx.setWsp; split <;> rfl
@[simp] theorem scS_setWsp (b : Bool) : (x.setWsp b v).scS = x.scS := by
  unfold Ctx.setWsp; split <;> rfl
@[simp] theorem ncwp_setWsp (b : Bool) : (x.setWsp b v).ncwp = x.ncwp := by
  unfold Ctx.setWsp; split <;> rfl
@[simp] theorem nrd_setWsp (b : Bool) : (x.setWsp b v).nrd = x.nrd := by
  unfold Ctx.setWsp; split <;> rfl
@[simp] theorem fill_setWsp (b : Bool) : (x.setWsp b v).fill = x.fill := by
  unfold Ctx.setWsp; split <;> rfl
@[simp] theorem rec1_setWsp (b : Bool) : (x.setWsp b v).rec1 = x.rec1 := by
  unfold Ctx.setWsp; split <;> rfl
@[simp] theorem rec2_setWsp (b : Bool) : (x.setWsp b v).rec2 = x.rec2 := by
  unfold Ctx.setWsp; split <;> rfl
@[simp] theorem secret_setWsp (b : Bool) : (x.setWsp b v).secret = x.secret := by
  unfold Ctx.setWsp; split <;> rfl
@[simp] theorem bar_setWsp (b : Bool) : (x.setWsp b v).bar = x.bar := by
  unfold Ctx.setWsp; split <;> rfl
@[simp] theorem resv_setWsp (b : Bool) : (x.setWsp b v).resv = x.resv := by
  unfold Ctx.setWsp; split <;> rfl
@[simp] theorem btable_setWsp (b : Bool) : (x.setWsp b v).btable = x.btable := by
  unfold Ctx.setWsp; split <;> rfl
@[simp] theorem rstack_setWsp (b : Bool) : (x.setWsp b v).rstack = x.rstack := by
  unfold Ctx.setWsp; split <;> rfl
@[simp] theorem long_setWsp (b : Bool) : (x.setWsp b v).long = x.long := by
  unfold Ctx.setWsp; split <;> rfl
@[simp] theorem regs_setSc (b : Bool) : (x.setSc b n).regs = x.regs := by
  unfold Ctx.setSc; split <;> rfl
@[simp] theorem pc_setSc (b : Bool) : (x.setSc b n).pc = x.pc := by
  unfold Ctx.setSc; split <;> rfl
@[simp] theorem psw_setSc (b : Bool) : (x.setSc b n).psw = x.psw := by
  unfold Ctx.setSc; split <;> rfl
@[simp] theorem bkN_setSc (b : Bool) : (x.setSc b n).bkN = x.bkN := by
  unfold Ctx.setSc; split <;> rfl
@[simp] theorem bkS_setSc (b : Bool) : (x.setSc b n).bkS = x.bkS := by
  unfold Ctx.setSc; split <;> rfl
@[simp] theorem ptbaseN_setSc (b : Bool) : (x.setSc b n).ptbaseN = x.ptbaseN := by
  unfold Ctx.setSc; split <;> rfl
@[simp] theorem ptbaseS_setSc (b : Bool) : (x.setSc b n).ptbaseS = x.ptbaseS := by
  unfold Ctx.setSc; split <;> rfl
@[simp] theorem asidN_setSc (b : Bool) : (x.setSc b n).asidN = x.asidN := by
  unfold Ctx.setSc; split <;> rfl
@[simp] theorem asidS_setSc (b : Bool) : (x.setSc b n).asidS = x.asidS := by
  unfold Ctx.setSc; split <;> rfl
@[simp] theorem vbase_setSc (b : Bool) : (x.setSc b n).vbase = x.vbase := by
  unfold Ctx.setSc; split <;> rfl
@[simp] theorem kvbase_setSc (b : Bool) : (x.setSc b n).kvbase = x.kvbase := by
  unfold Ctx.setSc; split <;> rfl
@[simp] theorem wctl_setSc (b : Bool) : (x.setSc b n).wctl = x.wctl := by
  unfold Ctx.setSc; split <;> rfl
@[simp] theorem rd_setSc (b : Bool) : (x.setSc b n).rd = x.rd := by
  unfold Ctx.setSc; split <;> rfl
@[simp] theorem wspN_setSc (b : Bool) : (x.setSc b n).wspN = x.wspN := by
  unfold Ctx.setSc; split <;> rfl
@[simp] theorem wspS_setSc (b : Bool) : (x.setSc b n).wspS = x.wspS := by
  unfold Ctx.setSc; split <;> rfl
@[simp] theorem ncwp_setSc (b : Bool) : (x.setSc b n).ncwp = x.ncwp := by
  unfold Ctx.setSc; split <;> rfl
@[simp] theorem nrd_setSc (b : Bool) : (x.setSc b n).nrd = x.nrd := by
  unfold Ctx.setSc; split <;> rfl
@[simp] theorem fill_setSc (b : Bool) : (x.setSc b n).fill = x.fill := by
  unfold Ctx.setSc; split <;> rfl
@[simp] theorem rec1_setSc (b : Bool) : (x.setSc b n).rec1 = x.rec1 := by
  unfold Ctx.setSc; split <;> rfl
@[simp] theorem rec2_setSc (b : Bool) : (x.setSc b n).rec2 = x.rec2 := by
  unfold Ctx.setSc; split <;> rfl
@[simp] theorem secret_setSc (b : Bool) : (x.setSc b n).secret = x.secret := by
  unfold Ctx.setSc; split <;> rfl
@[simp] theorem bar_setSc (b : Bool) : (x.setSc b n).bar = x.bar := by
  unfold Ctx.setSc; split <;> rfl
@[simp] theorem resv_setSc (b : Bool) : (x.setSc b n).resv = x.resv := by
  unfold Ctx.setSc; split <;> rfl
@[simp] theorem btable_setSc (b : Bool) : (x.setSc b n).btable = x.btable := by
  unfold Ctx.setSc; split <;> rfl
@[simp] theorem rstack_setSc (b : Bool) : (x.setSc b n).rstack = x.rstack := by
  unfold Ctx.setSc; split <;> rfl
@[simp] theorem long_setSc (b : Bool) : (x.setSc b n).long = x.long := by
  unfold Ctx.setSc; split <;> rfl
@[simp] theorem psw_setPsw : (x.setPsw i j p).psw = BitVec.ofNat 32 (setField x.psn i j p) := rfl
@[simp] theorem getP_setPsw (q : Nat) : (x.setPsw i j p).getP q = x.getP q := rfl
@[simp] theorem getP_zero : x.getP 0 = 0 := rfl
@[simp] theorem setP_zero : x.setP 0 v = x := rfl
theorem getP_setP (q : Nat) (hp : p ≠ 0) : (x.setP p v).getP q = if q = p then v else x.getP q := by
  by_cases hq : q = 0
  · subst hq; simp [Ctx.getP, Ne.symm hp]
  · simp only [Ctx.getP, Ctx.setP, beq_iff_eq, hp, hq, if_false, Sparse_get_set]

end Sys2Proof.Laws
end

