-- ==== Sys2Proof/Laws/Memory.lean ====
section
/-!
SUPPORT. Memory: a read after a write gives the value written, a write leaves every other byte alone, and every operation on memory
keeps its canonical form.
-/
namespace Sys2Proof.Laws
open Sys2Proof Sys2Proof.Machine

theorem Memory_get_put (m : Memory) (a b : Nat) (v : Byte) :
    Sparse.get Memory.unlisted (m.put a v) b = if b = a then v else Sparse.get Memory.unlisted m b :=
  Sparse_get_set _ _ _ _ _

/-- A byte that a list of writes does not name is left alone. -/
theorem Memory_get_putAll_of_not_mem (l : List (Nat × Byte)) (m : Memory) (a : Nat) (h : ∀ q ∈ l, q.1 ≠ a) :
    Sparse.get Memory.unlisted (m.putAll l) a = Sparse.get Memory.unlisted m a := by
  induction l generalizing m with
  | nil => rfl
  | cons q t ih =>
    obtain ⟨k, v⟩ := q
    have hk : a ≠ k := fun e => h (k, v) (List.mem_cons_self ..) e.symm
    simp only [Memory.putAll]
    rw [ih _ (fun q hq => h q (List.mem_cons_of_mem _ hq)), Memory_get_put, if_neg hk]

theorem Memory_wf_put (m : Memory) (a : Nat) (v : Byte) (h : m.wf = true) : (m.put a v).wf = true :=
  Sparse_wf_set _ _ _ _ h

theorem Memory_wf_putAll (l : List (Nat × Byte)) (m : Memory) (h : m.wf = true) : (m.putAll l).wf = true := by
  induction l generalizing m with
  | nil => exact h
  | cons q t ih => exact ih _ (Memory_wf_put _ _ _ h)

theorem Memory_wf_zero (m : Memory) (pa n : Nat) (h : m.wf = true) : (m.zero pa n).wf = true :=
  Sparse_wfFrom_filter _ _ _ _ h

theorem Dev_poke_wf (d : Dev) (l : List (Nat × Byte)) (h : d.mem.wf = true) : (d.poke l).mem.wf = true := by
  rw [mem_poke]; exact Memory_wf_putAll _ _ h

theorem Dev_write_wf (d : Dev) (pa : Nat) (bs : List Byte) (h : d.mem.wf = true) : (d.write pa bs).mem.wf = true := by
  unfold Dev.write; exact Dev_poke_wf _ _ h

theorem Dev_writeBack_wf (d : Dev) (line : Nat) (h : d.chan.wf = true) : (d.writeBack line).chan.wf = true := by
  unfold Dev.writeBack
  generalize d.mirrored _ = l
  exact Memory_wf_putAll l _ h

theorem Dev_zeroRange_wf (d : Dev) (pa n : Nat) (h : d.mem.wf = true) : (d.zeroRange pa n).mem.wf = true := by
  show (d.mem.zero pa n).wf = true
  exact Memory_wf_zero _ _ _ h

/-- Memory at reset has the canonical form. -/
theorem reset_mem_wf : State.reset.dev.mem.wf = true := by
  simp [State.reset, Dev.reset, Memory.wf, Sparse.wf, Sparse.wfFrom]

/-- A byte outside the bytes written, and outside their secondary copies, reads as before. -/
theorem Dev_byte_poke_of_not_mem (d : Dev) (l : List (Nat × Byte)) (a : Nat) (h : ∀ q ∈ d.mirrored l, q.1 ≠ a) :
    (d.poke l).byte a = d.byte a := Memory_get_putAll_of_not_mem _ _ _ h

end Sys2Proof.Laws
end

