-- ==== Sys2Proof/Laws/Caches.lean ====
section
/-!
SUPPORT. What the shared cache operations can do while every domain in use is On: they move lines between caches and channels, clear
reservations and send messages. Memory, registers, store buffers, TLBs, undo logs and every room stay as they are.
-/
namespace Sys2Proof.Laws
open Sys2Proof Sys2Proof.Machine Sys2Proof.Safety

/-- From `d` to `d'` only caches, channels, reservations, idle times and messages on their way have changed. -/
structure Quiet (d d' : Dev) : Prop where
  on : AllOn d'
  rest : d' = { d with chan := d'.chan, cores := d'.cores, ctxs := d'.ctxs, clusters := d'.clusters, regions := d'.regions,
                       domains := d'.domains, outbox := d'.outbox, per := { d.per with links := d'.per.links } }
  cores : ∀ k, d'.core k = { d.core k with l1 := (d'.core k).l1, lk := (d'.core k).lk }
  ctxs : ∀ j, d'.ctx j = { d.ctx j with resv := (d'.ctx j).resv }
  clusters : ∀ c, d'.cluster c = { d.cluster c with l2 := (d'.cluster c).l2, pendList := (d'.cluster c).pendList,
                                                    slots := (d'.cluster c).slots, slotGen := (d'.cluster c).slotGen }

variable {d d' d'' : Dev}

theorem Quiet.refl (h : AllOn d) : Quiet d d := ⟨h, rfl, fun _ => rfl, fun _ => rfl, fun _ => rfl⟩

theorem Quiet.trans (h : Quiet d d') (h' : Quiet d' d'') : Quiet d d'' where
  on := h'.on
  rest := by rw [h'.rest, h.rest]
  cores k := by rw [h'.cores k, h.cores k]
  ctxs j := by rw [h'.ctxs j, h.ctxs j]
  clusters c := by rw [h'.clusters c, h.clusters c]

theorem Quiet.bind (h : Quiet d d') (g : AllOn d' → Quiet d' d'') : Quiet d d'' := h.trans (g h.on)

theorem quiet_each {α : Type} (l : List α) (f : Dev → α → Dev) (hf : ∀ a d, AllOn d → Quiet d (f d a)) (h : AllOn d) :
    Quiet d (each l f d) := by
  induction l generalizing d with
  | nil => exact Quiet.refl h
  | cons a t ih => exact (hf a d h).trans (ih (hf a d h).on)

theorem quiet_setRegion (h : AllOn d) (i : Nat) (g : Region) : Quiet d (d.setRegion i g) where
  on := h
  rest := rfl
  cores k := by rw [unit_core_setRegion]
  ctxs j := by rw [unit_ctx_setRegion]
  clusters c := by rw [unit_cluster_setRegion]

theorem quiet_setChan (h : AllOn d) (m : Memory) : Quiet d { d with chan := m } where
  on := h
  rest := rfl
  cores k := by change d.core k = { d.core k with l1 := (d.core k).l1, lk := (d.core k).lk }; rfl
  ctxs j := by change d.ctx j = { d.ctx j with resv := (d.ctx j).resv }; rfl
  clusters k := by
    change d.cluster k = { d.cluster k with l2 := (d.cluster k).l2, pendList := (d.cluster k).pendList, slots := (d.cluster k).slots,
                                            slotGen := (d.cluster k).slotGen }
    rfl

theorem quiet_writeBack (h : AllOn d) (l : Nat) : Quiet d (d.writeBack l) := by
  unfold Dev.writeBack
  generalize d.chan.putAll _ = m
  exact quiet_setChan h m

theorem quiet_setCore (h : AllOn d) (i : Nat) (x : Core)
    (hx : x = { d.core i with l1 := x.l1, lk := x.lk }) : Quiet d (d.setCore i x) where
  on := h
  rest := rfl
  cores k := by
    rw [core_setCore]; split_ifs with hk
    · subst hk; exact hx
    · rfl
  ctxs j := by rw [unit_ctx_setCore]
  clusters c := by rw [unit_cluster_setCore]

theorem quiet_setCluster (h : AllOn d) (i : Nat) (x : Cluster)
    (hx : x = { d.cluster i with l2 := x.l2, pendList := x.pendList, slots := x.slots, slotGen := x.slotGen }) : Quiet d (d.setCluster i x) where
  on := h
  rest := rfl
  cores k := by rw [unit_core_setCluster]
  ctxs j := by rw [unit_ctx_setCluster]
  clusters k := by
    rw [cluster_setCluster]; split_ifs with hk
    · subst hk; exact hx
    · rfl

theorem quiet_setDomain (h : AllOn d) (i : Nat) (x : Domain) (hx : x.st = (d.domain i).st ∧ x.entering = none) : Quiet d (d.setDomain i x) where
  on n := by
    change _ ∧ (_ ∨ (n < 64 ∧ _ ∧ d.plan.cluster d.pkg (n % 32) = none))
    rw [domain_setDomain]; split_ifs with hn
    · subst hn; rw [hx.1, hx.2]; exact ⟨rfl, (h n).2⟩
    · exact h n
  rest := rfl
  cores k := by rw [unit_core_setDomain]
  ctxs j := by rw [unit_ctx_setDomain]
  clusters c := by rw [unit_cluster_setDomain]

theorem quiet_emit (h : AllOn d) (o : Out) : Quiet d (d.emit o) where
  on := h
  rest := rfl
  cores k := by change d.core k = { d.core k with l1 := (d.core k).l1, lk := (d.core k).lk }; rfl
  ctxs j := by change d.ctx j = { d.ctx j with resv := (d.ctx j).resv }; rfl
  clusters k := by
    change d.cluster k = { d.cluster k with l2 := (d.cluster k).l2, pendList := (d.cluster k).pendList, slots := (d.cluster k).slots,
                                            slotGen := (d.cluster k).slotGen }
    rfl

theorem quiet_setLink (h : AllOn d) (i : Nat) (x : Link) : Quiet d (d.setLink i x) where
  on := h
  rest := rfl
  cores k := by change d.core k = { d.core k with l1 := (d.core k).l1, lk := (d.core k).lk }; rfl
  ctxs j := by change d.ctx j = { d.ctx j with resv := (d.ctx j).resv }; rfl
  clusters k := by
    change d.cluster k = { d.cluster k with l2 := (d.cluster k).l2, pendList := (d.cluster k).pendList, slots := (d.cluster k).slots,
                                            slotGen := (d.cluster k).slotGen }
    rfl

/-- A map over the listed entries of a table that keeps what the default keeps. -/
theorem Sparse_get_map {α : Type} (d0 : α) (m : Sparse α) (f : Nat → α → α) (i : Nat) (P : α → α → Prop) (h0 : P d0 d0)
    (hP : ∀ k x, P x (f k x)) : P (Sparse.get d0 m i) (Sparse.get d0 (m.map (fun p => (p.1, f p.1 p.2))) i) := by
  induction m with
  | nil => exact h0
  | cons p t ih =>
    obtain ⟨k, v⟩ := p
    simp only [List.map_cons, Sparse.get]
    split_ifs
    · exact hP k v
    · exact ih

theorem quiet_mapCtxs (h : AllOn d) (c : Nat → Ctx → Bool) :
    Quiet d { d with ctxs := d.ctxs.map (fun p => (p.1, if c p.1 p.2 then { p.2 with resv := none } else p.2)) } where
  on := h
  rest := rfl
  cores k := by change d.core k = { d.core k with l1 := (d.core k).l1, lk := (d.core k).lk }; rfl
  ctxs j := Sparse_get_map Ctx.init d.ctxs (fun k x => if c k x then { x with resv := none } else x) j
    (fun x y => y = { x with resv := y.resv }) rfl (fun k x => by split_ifs <;> rfl)
  clusters k := by
    change d.cluster k = { d.cluster k with l2 := (d.cluster k).l2, pendList := (d.cluster k).pendList, slots := (d.cluster k).slots,
                                            slotGen := (d.cluster k).slotGen }
    rfl

theorem quiet_clearResv (h : AllOn d) (l : Nat) (keep : Option Nat) : Quiet d (d.clearResv l keep) :=
  quiet_mapCtxs h (fun k x => x.resv == some l && keep != some k)

/-! ### The operations of Coherence.lean -/

theorem quiet_ite {c : Bool} {a b : Dev} (ha : Quiet d a) (hb : Quiet d b) : Quiet d (if c = true then a else b) := by
  split_ifs
  · exact ha
  · exact hb

theorem on_of_ge (h : AllOn d) {n : Nat} (hn : 64 ≤ n) : (d.domain n).st = .on := by
  rcases (h n).2 with h1 | h1
  · exact h1
  · omega

theorem settledOn_of (h : AllOn d) {n : Nat} (hn : 64 ≤ n) : d.settledOn n = true := by
  simp [Dev.settledOn, Dev.entering, on_of_ge h hn, (h _).1]

theorem quiet_wake (n : Nat) (h : AllOn d) : Quiet d (d.wake (64 + n)) := by
  have hw : d.wake (64 + n) = each (domainGroup (64 + n)) (fun d k => d.modDomain k (fun x => { x with since := d.clk.tb })) d := by
    simp only [Dev.wake, Dev.wakeOne, settledOn_of h (Nat.le_add_right 64 n), if_true]
  rw [hw]
  exact quiet_each _ _ (fun k d h => quiet_setDomain h _ _ ⟨rfl, (h k).1⟩) h

theorem quiet_sendTo (q : Nat) (m : CohMsg) (h : AllOn d) : Quiet d (d.sendTo q m) := by
  unfold Dev.sendTo; dsimp only
  split_ifs
  · exact Quiet.refl h
  · exact quiet_setLink h _ _
  · exact quiet_emit h _

theorem quiet_chanPush (r : Nat) (q : ChanReq) (h : AllOn d) : Quiet d (d.chanPush r q) := quiet_setRegion h _ _

theorem quiet_chanPost (l n id : Nat) (h : AllOn d) : Quiet d (d.chanPost l n id) := by
  unfold Dev.chanPost
  split
  · exact quiet_chanPush _ _ h
  · exact Quiet.refl h

theorem quiet_dirRefresh (l : Nat) (h : AllOn d) : Quiet d (d.dirRefresh l) := by
  unfold Dev.dirRefresh; split
  · exact Quiet.refl h
  · exact quiet_setRegion h _ _

theorem quiet_modL1 (k : Nat) (f : List L1Line → List L1Line) (h : AllOn d) :
    Quiet d (d.modCore k (fun c => { c with l1 := f c.l1 })) := quiet_setCore h _ _ rfl

theorem quiet_modL2 (k : Nat) (f : List L2Line → List L2Line) (h : AllOn d) :
    Quiet d (d.modCluster k (fun c => { c with l2 := f c.l2 })) := quiet_setCluster h _ _ rfl

theorem quiet_l1Drop (c l : Nat) (h : AllOn d) : Quiet d (d.l1Drop c l) := by
  unfold Dev.l1Drop
  refine quiet_ite ?_ (Quiet.refl h)
  have h1 := quiet_modL1 c (fun L => L.filter (fun e => e.line != l)) h
  exact h1.trans (quiet_mapCtxs h1.on (fun k x => coreOf k == c && x.resv == some l))

theorem quiet_l1DropAll (c l : Nat) (h : AllOn d) : Quiet d (d.l1DropAll c l) :=
  quiet_each _ _ (fun k _ h => quiet_l1Drop k l h) h

theorem quiet_dropEach (L : List Nat) (l : Nat) (h : AllOn d) : Quiet d (each L (fun d k => d.l1Drop k l) d) :=
  quiet_each _ _ (fun k _ h => quiet_l1Drop k l h) h

theorem quiet_l1Share (c l : Nat) (h : AllOn d) : Quiet d (d.l1Share c l) :=
  quiet_each _ _ (fun _ _ h => quiet_modL1 _ _ h) h

theorem quiet_l1Fill (c l : Nat) (st : L1St) (nt : Bool) (h : AllOn d) : Quiet d (d.l1Fill c l st nt) := by
  unfold Dev.l1Fill; dsimp only
  split
  · exact Quiet.refl h
  · have h1 := fun (L : List L1Line) => quiet_each L (fun d e => d.l1Drop c e.line) (fun e _ h => quiet_l1Drop c e.line h) h
    exact (h1 _).trans (quiet_setCore (h1 _).on _ _ rfl)

theorem quiet_chanWrite (l n id : Nat) (h : AllOn d) : Quiet d (d.chanWrite l n id) :=
  quiet_each _ _ (fun k _ h => quiet_chanPost k n id h) h

theorem quiet_writeOut (l id : Nat) (h : AllOn d) : Quiet d (d.writeOut l id) :=
  (quiet_writeBack h l).bind (quiet_chanWrite l 128 id)

theorem quiet_l3Fill (r l id : Nat) (h : AllOn d) : Quiet d (d.l3Fill r l id) := by
  unfold Dev.l3Fill; dsimp only
  split
  · exact quiet_ite (quiet_setRegion h _ _) (Quiet.refl h)
  · split
    · exact Quiet.refl h
    · have h1 := fun (L : List L3Line) => quiet_each L (fun d e => d.writeOut e.line e.room) (fun e _ h => quiet_writeOut _ _ h) h
      exact (h1 _).trans (quiet_setRegion (h1 _).on _ _)

theorem quiet_homeWrite (l id : Nat) (h : AllOn d) : Quiet d (d.homeWrite l id) := by
  unfold Dev.homeWrite
  split
  · rename_i r _
    exact (((quiet_l3Fill r l id h).bind (fun h => quiet_writeBack h l))).bind (fun h => quiet_setRegion h _ _)
  · exact quiet_writeBack h _

theorem quiet_farLeave (c l id : Nat) (dirty : Bool) (h : AllOn d) : Quiet d (d.farLeave c l id dirty) := by
  unfold Dev.farLeave
  split
  · exact Quiet.refl h
  · dsimp only
    split_ifs
    · exact Quiet.refl h
    · exact (quiet_setCluster h c _ rfl).bind (quiet_sendTo _ _)
    · exact Quiet.refl h
    · exact quiet_sendTo _ _ h

theorem quiet_homeSend (c l id : Nat) (dirty : Bool) (h : AllOn d) : Quiet d (d.homeSend c l id dirty) := by
  unfold Dev.homeSend
  split
  · rename_i r _
    exact quiet_ite (((quiet_wake r h).bind (quiet_homeWrite l id)).bind (quiet_chanWrite l _ id)) (Quiet.refl h)
  · exact quiet_farLeave c l id dirty h

theorem quiet_l2Evict (c l : Nat) (h : AllOn d) : Quiet d (d.l2Evict c l) := by
  unfold Dev.l2Evict
  split
  · exact Quiet.refl h
  · rename_i e _
    exact (((quiet_l1DropAll c l h).bind (quiet_modL2 c (fun L => L.filter (fun y => y.line != l)))).bind
      (quiet_homeSend c l e.room e.st.dirty)).bind (quiet_dirRefresh l)

theorem quiet_l2Invalidate (c l : Nat) (h : AllOn d) : Quiet d (d.l2Invalidate c l) := by
  have h2 := (quiet_l1DropAll c l h).bind (quiet_modL2 c (fun L => L.filter (fun y => y.line != l)))
  unfold Dev.l2Invalidate; dsimp only
  rcases (h2.on c).2 with hs | ⟨_, hs, _⟩
  · rw [hs]; exact h2
  · rw [hs]; exact h2

theorem quiet_l2Share (c l : Nat) (h : AllOn d) : Quiet d (d.l2Share c l) := by
  have h1 := quiet_l1Share c l h
  exact h1.trans (quiet_modL2 _ _ h1.on)

theorem quiet_countIn (L : List Nat) (h : AllOn d) : Quiet d (d.countIn L) :=
  quiet_each _ _ (fun _ _ h => quiet_setRegion h _ _) h

theorem quiet_forwardTo (c : Nat) (h : AllOn d) : Quiet d (d.forwardTo c) := by
  unfold Dev.forwardTo
  rcases (h c).2 with hs | ⟨_, hs, _⟩
  · rw [hs]; exact quiet_setRegion h _ _
  · rw [hs]; exact quiet_setRegion h _ _

theorem quiet_snoopOthers (l : Nat) (e : Option Nat) (x : Bool) (h : AllOn d) : Quiet d (d.snoopOthers l e x) := by
  unfold Dev.snoopOthers; dsimp only
  refine ((quiet_countIn _ h).bind (quiet_each _ _ (fun c _ h => quiet_forwardTo c h))).bind (quiet_each _ _ (fun c d h => ?_))
  have h2 := quiet_forwardTo c h
  exact quiet_ite (h2.trans (quiet_l2Invalidate c l h2.on)) (h2.trans (quiet_l2Share c l h2.on))

theorem quiet_takeSlots (l n id : Nat) (h : AllOn d) : Quiet d (d.takeSlots l n id) := by
  unfold Dev.takeSlots
  refine quiet_each _ _ (fun c d h => ?_) h
  split
  · exact (quiet_setRegion h _ _).bind (fun h => quiet_setCluster h _ _ rfl)
  · exact Quiet.refl h

theorem quiet_homeFill (r l n id : Nat) (h : AllOn d) : Quiet d (d.homeFill r l n id) := by
  unfold Dev.homeFill
  exact (quiet_ite (Quiet.refl h) (quiet_chanPost l n id h)).bind (quiet_l3Fill r l id)

theorem quiet_evictEach (c : Nat) (L : List L2Line) (h : AllOn d) : Quiet d (each L (fun d x => d.l2Evict c x.line) d) :=
  quiet_each _ _ (fun x _ h => quiet_l2Evict c x.line h) h

/-- A line's home is asked: it wakes, snoops, takes over evictions, and reads memory where no holder gives the line. -/
theorem quiet_ask (f g k : Dev → Dev) (o : Option Nat) (b1 b2 b3 : Bool) (l n id : Nat)
    (hf : ∀ d, AllOn d → Quiet d (f d)) (hg : ∀ d, AllOn d → Quiet d (g d)) (hk : ∀ d, AllOn d → Quiet d (k d)) (h : AllOn d) :
    Quiet d
      (let D := if b2 = true then g (if b1 = true then f (k d) else k d) else if b1 = true then f (k d) else k d
       match o with
       | some r => if b3 = true then D else D.homeFill r l n id
       | none => D) := by
  have h0 := hk d h
  have h1 := quiet_ite (c := b1) (h0.bind (hf _)) h0
  have h2 := quiet_ite (c := b2) (h1.bind (hg _)) h1
  cases o with
  | none => exact h2
  | some r => exact quiet_ite h2 (h2.bind (quiet_homeFill r l n id))

theorem quiet_l2Get (core l : Nat) (wr nt : Bool) (h : AllOn d) : Quiet d (d.l2Get core l wr nt) := by
  unfold Dev.l2Get; dsimp only
  split
  · rename_i e _
    have h1 := quiet_ite (c := wr && (e.st == .s || e.st == .o))
      ((quiet_snoopOthers l (some (core / 4)) true h).bind (quiet_takeSlots l (d.sysCluster (core / 4)) ((d.coreRoom core).getD 0))) (Quiet.refl h)
    have h2 := fun (b : Bool) (L : List L2Line) => quiet_ite (c := b) h1 (h1.trans (quiet_evictEach (core / 4) L h1.on))
    exact ((h2 _ _).bind (fun h => quiet_setCluster h (core / 4) _ rfl)).bind (quiet_dirRefresh l)
  · have hw : ∀ d, AllOn d → Quiet d (match d.homeLocal l with | some r => d.wake (64 + r) | none => d) := by
      intro d h
      split
      · exact quiet_wake _ h
      · exact Quiet.refl h
    split
    · exact (quiet_ask _ _ _ _ _ _ _ l _ _ (fun _ h => quiet_snoopOthers l _ wr h) (fun _ h => quiet_takeSlots l _ _ h) hw h).bind
        (quiet_dirRefresh l)
    · exact (((quiet_ask _ _ _ _ _ _ _ l _ _ (fun _ h => quiet_snoopOthers l _ wr h) (fun _ h => quiet_takeSlots l _ _ h) hw h).bind
        (quiet_evictEach (core / 4) _)).bind (fun h => quiet_setCluster h (core / 4) _ rfl)).bind (quiet_dirRefresh l)

theorem quiet_touchLine (core l : Nat) (wr nt : Bool) (h : AllOn d) : Quiet d (d.touchLine core l wr nt) := by
  unfold Dev.touchLine; dsimp only
  split
  · rename_i e _
    have h1 := quiet_ite (c := wr && e.st == L1St.s || (d.core core).lk.enL1 && !(d.l1Lock core).testBit e.way)
      (quiet_l2Get core l wr nt h) (Quiet.refl h)
    have h2 := h1.trans (quiet_dropEach ((clusterCores (core / 4)).filter (· != core)) l h1.on)
    have h3 := quiet_ite (c := wr) (h2.trans (quiet_modL2 (core / 4)
      (fun L => L.map (fun y => if y.line == l then { y with st := .m } else y)) h2.on)) h1
    have h4 := h3.trans (quiet_modL1 core (fun L => L.filter (fun x => x.line != l)) h3.on)
    refine quiet_ite ((h4.bind (quiet_l1Fill core l _ nt)).bind (fun h => quiet_setCore h core _ rfl)) (h3.trans (quiet_setCore h3.on core _ rfl))
  · have h1 := quiet_l2Get core l wr nt h
    have h2 := fun (L : List Nat) => quiet_ite (c := wr) (h1.trans (quiet_dropEach L l h1.on))
      (quiet_ite (c := L.isEmpty) h1 (h1.trans (quiet_l1Share (core / 4) l h1.on)))
    have h3 := fun (L : List Nat) (st : L1St) => (h2 L).trans (quiet_l1Fill core l st nt (h2 L).on)
    exact quiet_ite ((h3 _ _).trans (quiet_setCore (h3 _ _).on core _ rfl)) (h3 _ _)

theorem quiet_writeLine (core l : Nat) (nt : Bool) (h : AllOn d) : Quiet d (d.writeLine core l nt) :=
  quiet_ite (quiet_setCore h core _ rfl) (quiet_touchLine core l true nt h)

theorem quiet_touch (core : Nat) (ps : List Piece) (wr nt : Bool) (h : AllOn d) : Quiet d (d.touch core ps wr nt) :=
  quiet_each _ _ (fun _ _ h => quiet_each _ _ (fun _ _ h => quiet_touchLine core _ wr nt h) h) h

/-! ### What a quiet operation leaves -/

theorem Quiet.mem (h : Quiet d d') : d'.mem = d.mem := by rw [h.rest]
theorem Quiet.plan (h : Quiet d d') : d'.plan = d.plan := by rw [h.rest]
theorem Quiet.rooms (h : Quiet d d') : d'.rooms = d.rooms := by rw [h.rest]
theorem Quiet.byte (h : Quiet d d') (a : Nat) : d'.byte a = d.byte a := by unfold Dev.byte; rw [h.mem]
theorem Quiet.sbuf (h : Quiet d d') (k : Nat) : (d'.core k).sbuf = (d.core k).sbuf := by rw [h.cores k]
theorem Quiet.seen (h : Quiet d d') (k a : Nat) : d'.seen k a = d.seen k a := by
  unfold Dev.seen; rw [h.sbuf, h.byte]
theorem Quiet.seenBytes (h : Quiet d d') (k : Nat) (ps : List Piece) : d'.seenBytes k ps = d.seenBytes k ps := by
  unfold Dev.seenBytes; simp only [h.seen]
theorem Quiet.getP (h : Quiet d d') (j p : Nat) : (d'.ctx j).getP p = (d.ctx j).getP p := by rw [h.ctxs j]; rfl

end Sys2Proof.Laws
end

