-- ==== Sys2Proof/Laws/Issue.lean ====
section
/-!
SUPPORT. Issuing an instruction: what `enter` gives a body, what cancelling tagged results and ending an issue leave, and the one law
of every instruction that only writes its own context.
-/
namespace Sys2Proof.Laws
open Sys2Proof Sys2Proof.Machine Sys2Proof.Safety

/-- A meaning over the device answers the device it computes. -/
theorem onDev_answers (g : Dev → Dev) (s : State) : Answers (onDev g s) s (g s.dev) := rfl

/-- What a body works with. -/
structure Entered (d : Dev) (core : Nat) (f : Form) (e : Env) : Prop where
  sameCore : e.core = core
  form : e.f = f
  slot : d.canIssue core = some e.slot
  ctx : e.d.ctx e.cx = e.x
  who : e.w = e.d.who core

theorem enter_ok {d : Dev} {core : Nat} {m : OpMap} {op : Nat} {f : Form} {room : Option Nat} {srcs : List Nat} {flags : Bool}
    {priv : Ctx → Bool} {e : Env} (h : d.enter core m op f room srcs flags priv = .ok e) : Entered d core f e := by
  unfold Dev.enter at h
  split at h
  · cases h
  · rename_i slot hs
    dsimp only at h
    split at h
    · cases h
    · split at h
      · split at h <;> cases h
      · split at h
        · cases h
        · cases h
        · split at h
          · cases h
          · split at h
            · cases h
            · cases h
              exact ⟨rfl, rfl, hs, ctx_setCtx_same _ _ _, rfl⟩

/-- An instruction that reaches its body comes out as the body says. -/
theorem issue_ok {d : Dev} {core : Nat} {m : OpMap} {op : Nat} {f : Form} {room : Option Nat} {srcs : List Nat} {flags : Bool}
    {priv : Ctx → Bool} {e : Env} (h : d.enter core m op f room srcs flags priv = .ok e) (body : Env → IRes) :
    d.issue core m op f room srcs flags priv body = (d.wake (core / 4)).leave m op e (body e) := by
  unfold Dev.issue; rw [h]

/-! ### Cancelling tagged results -/

/-- Only tagged operations differ. -/
structure OnlyTags (d d' : Dev) : Prop where
  clusters : ∀ c, d'.cluster c =
    { d.cluster c with trestle := { (d.cluster c).trestle with queue := (d'.cluster c).trestle.queue } }
  rooms : ∀ r, d'.room r = { d.room r with fwd := { (d.room r).fwd with out := (d'.room r).fwd.out } }
  rest : d' = { d with clusters := d'.clusters, rooms := d'.rooms }

theorem OnlyTags.refl (d : Dev) : OnlyTags d d := ⟨fun _ => rfl, fun _ => rfl, rfl⟩

theorem OnlyTags.trans {d d' d'' : Dev} (h : OnlyTags d d') (h' : OnlyTags d' d'') : OnlyTags d d'' where
  clusters c := by rw [h'.clusters c, h.clusters c]
  rooms r := by rw [h'.rooms r, h.rooms r]
  rest := by rw [h'.rest, h.rest]

theorem onlyTags_trCancel (d : Dev) (ctx : Nat) (ps : List Nat) : OnlyTags d (d.trCancel ctx ps) := by
  unfold Dev.trCancel
  split_ifs
  · exact OnlyTags.refl d
  · refine ⟨fun c => ?_, fun r => ?_, rfl⟩
    · rw [modCluster_eq, cluster_setCluster]; split_ifs with hc
      · subst hc; rfl
      · rfl
    · rw [modCluster_eq, unit_room_setCluster]

theorem onlyTags_tagCancel (d : Dev) (slot ctx : Nat) (ps : List Nat) : OnlyTags d (d.tagCancel slot ctx ps) := by
  unfold Dev.tagCancel
  refine (onlyTags_trCancel d ctx ps).trans ?_
  generalize d.trCancel ctx ps = D
  dsimp only
  split_ifs
  · exact OnlyTags.refl D
  · refine ⟨fun c => ?_, fun r => ?_, rfl⟩
    · rw [modRoom_eq, unit_cluster_setRoom]
    · rw [modRoom_eq, room_setRoom]; split_ifs with hr
      · subst hr; rfl
      · rfl

theorem OnlyTags.ctx {d d' : Dev} (h : OnlyTags d d') (j : Nat) : d'.ctx j = d.ctx j := by rw [h.rest]; rfl

theorem OnlyTags.core {d d' : Dev} (h : OnlyTags d d') (j : Nat) : d'.core j = d.core j := by rw [h.rest]; rfl

/-! ### Instructions that only write their own context -/

theorem dataHit_nil (d : Dev) (core : Nat) (x : Ctx) : d.dataHit core x [] = none := rfl

theorem writesOnly_of_onlyTags {D : Dev} {cx : Nat} {z : Ctx} {X : Dev} (h : OnlyTags (D.setCtx cx z) X) :
    WritesOnly D cx z X where
  ctx := by rw [h.ctx, ctx_setCtx_same]
  others j hj := by rw [h.ctx, ctx_setCtx_ne _ _ _ _ hj]
  clusters c := h.clusters c
  rooms r := h.rooms r
  rest := by
    have hx := h.rest
    cases X
    simp only [Dev.setCtx, Dev.mk.injEq] at hx ⊢
    simp only [hx, and_self]

/-- Writing over a context written just before. -/
theorem writesOnly_of_setCtx {D : Dev} {cx : Nat} {y z : Ctx} {X : Dev} (h : WritesOnly (D.setCtx cx y) cx z X) :
    WritesOnly D cx z X where
  ctx := h.ctx
  others j hj := by rw [h.others j hj, ctx_setCtx_ne _ _ _ _ hj]
  clusters c := h.clusters c
  rooms r := h.rooms r
  rest := by
    have hx := h.rest
    cases X
    simp only [Dev.setCtx, Dev.mk.injEq] at hx ⊢
    simp only [hx, and_self]

/-- What an instruction that is done comes to (R136, R195, R314): the next PC, BLK cleared unless it keeps it. -/
theorem leave_done {d : Dev} {m : OpMap} {op : Nat} {e : Env} (D : Dev) (pc : Word) (keep : Bool)
    (acc : List (Word × Nat × AccKind)) :
    ∃ X, d.leave m op e (.done D pc keep acc) = X.afterIssue e.core (X.dataHit e.core e.x acc) ∧
      WritesOnly D e.cx (if keep then { D.ctx e.cx with pc := pc } else ({ D.ctx e.cx with pc := pc }).setPsw 21 16 0) X :=
  ⟨_, rfl, writesOnly_of_onlyTags (onlyTags_tagCancel _ e.slot e.cx (dstPhys m op e.f e.x))⟩

theorem past_eq (y : Ctx) (p : Word) : ({ y with pc := p } : Ctx).setPsw 21 16 0 = y.past p := by
  simp only [Ctx.past, Ctx.setPsw, Ctx.psn]

/-- The law of every row whose body is done in device `D`; `room` may look at the device. -/
theorem onDev_done {s : State} {core : Nat} {m : OpMap} {op : Nat} {f : Form} {room : Dev → Option Nat} {srcs : List Nat}
    {flags : Bool} {priv : Ctx → Bool} {e : Env} (h : s.dev.enter core m op f (room s.dev) srcs flags priv = .ok e)
    (body : Env → IRes) (D : Dev) (acc : List (Word × Nat × AccKind)) (hb : body e = .done D e.next false acc) :
    ∃ X, Answers (onDev (fun d => d.issue core m op f (room d) srcs flags priv body) s) s
        (X.afterIssue core (X.dataHit core e.x acc)) ∧ WritesOnly D e.cx ((D.ctx e.cx).past e.next) X := by
  obtain ⟨X, h1, h2⟩ := leave_done (d := s.dev.wake (core / 4)) (m := m) (op := op) (e := e) D e.next false acc
  rw [if_neg (by decide), past_eq] at h2
  refine ⟨X, ?_, h2⟩
  have hi := issue_ok h body
  rw [hb, h1, (enter_ok h).sameCore] at hi
  exact hi ▸ onDev_answers _ s

/-- The law of every row whose body only puts one changed context. -/
theorem onDev_put {s : State} {core : Nat} {m : OpMap} {op : Nat} {f : Form} {room : Dev → Option Nat} {srcs : List Nat}
    {flags : Bool} {priv : Ctx → Bool} {e : Env} (h : s.dev.enter core m op f (room s.dev) srcs flags priv = .ok e)
    (body : Env → IRes) (y : Ctx) (hb : body e = e.put y) :
    ∃ X, Answers (onDev (fun d => d.issue core m op f (room d) srcs flags priv body) s) s (X.afterIssue core none) ∧
      WritesOnly e.d e.cx (y.past e.next) X := by
  obtain ⟨X, h1, h2⟩ := onDev_done h body (e.d.setCtx e.cx y) [] hb
  rw [ctx_setCtx_same] at h2
  exact ⟨X, h1, writesOnly_of_setCtx h2⟩

/-- The law of every row whose body comes out some other way. -/
theorem onDev_leave {s : State} {core : Nat} {m : OpMap} {op : Nat} {f : Form} {room : Dev → Option Nat} {srcs : List Nat}
    {flags : Bool} {priv : Ctx → Bool} {e : Env} (h : s.dev.enter core m op f (room s.dev) srcs flags priv = .ok e)
    (body : Env → IRes) {r : IRes} (hb : body e = r) :
    Answers (onDev (fun d => d.issue core m op f (room d) srcs flags priv body) s) s
      ((s.dev.wake (core / 4)).leave m op e r) := by
  have hi := issue_ok h body
  rw [hb] at hi
  exact hi ▸ onDev_answers _ s

end Sys2Proof.Laws
end

