-- ==== Sys2Proof/Laws/Psw.lean ====
section
/-!
SUPPORT. The PSW of a context: every field of it is read back as written, and a write of one field leaves the others.
-/
namespace Sys2Proof.Laws
open Sys2Proof Sys2Proof.Machine

theorem psn_setPsw (x : Ctx) (hi lo v : Nat) (h : lo ≤ hi) (hh : hi < 32) :
    (x.setPsw hi lo v).psn = setField x.psn hi lo v := by
  have hx : x.psn < 2 ^ 32 := x.psw.isLt
  simp only [Ctx.psn, Ctx.setPsw, BitVec.toNat_ofNat]
  exact Nat.mod_eq_of_lt (setField_lt h hh hx)

theorem testBit_setPsw (x : Ctx) (hi lo v i : Nat) (h : lo ≤ hi) (hh : hi < 32) :
    (x.setPsw hi lo v).psn.testBit i = if lo ≤ i ∧ i ≤ hi then v.testBit (i - lo) else x.psn.testBit i := by
  rw [psn_setPsw x hi lo v h hh, testBit_setField _ _ _ _ _ h]

/-- One flag or status bit written. -/
theorem testBit_setPsw_bit (x : Ctx) (k i : Nat) (b : Bool) (hk : k < 32) :
    (x.setPsw k k (b2n b)).psn.testBit i = if i = k then b else x.psn.testBit i := by
  rw [testBit_setPsw x k k _ i le_rfl hk]
  by_cases h : i = k
  · subst h; rw [if_pos ⟨le_rfl, le_rfl⟩, if_pos rfl, Nat.sub_self, b2n_testBit]
  · rw [if_neg (by omega), if_neg h]

/-- A flag written when the operation writes it. -/
def putFlag (x : Ctx) (k : Nat) (b : Option Bool) : Ctx :=
  match b with
  | some b => x.setPsw k k (b2n b)
  | none => x

theorem testBit_putFlag (x : Ctx) (k i : Nat) (b : Option Bool) (hk : k < 32) :
    (putFlag x k b).psn.testBit i = if i = k then b.getD (x.psn.testBit i) else x.psn.testBit i := by
  cases b with
  | none => simp [putFlag]
  | some b => exact testBit_setPsw_bit x k i b hk

theorem wrFlags_eq (x : Ctx) (r : Res) :
    x.wrFlags r = putFlag (putFlag (putFlag (putFlag (x.cancelFlags r) 3 r.n) 2 r.z) 1 r.c) 0 r.v := rfl

theorem testBit_wrFlags (x : Ctx) (r : Res) (i : Nat) :
    (x.wrFlags r).psn.testBit i =
      if i = 0 then r.v.getD (x.psn.testBit i) else if i = 1 then r.c.getD (x.psn.testBit i)
      else if i = 2 then r.z.getD (x.psn.testBit i) else if i = 3 then r.n.getD (x.psn.testBit i) else x.psn.testBit i := by
  have h0 : (x.cancelFlags r).psn = x.psn := rfl
  rw [wrFlags_eq]
  simp only [testBit_putFlag _ _ _ _ (show (0 : Nat) < 32 by decide), testBit_putFlag _ _ _ _ (show (1 : Nat) < 32 by decide),
    testBit_putFlag _ _ _ _ (show (2 : Nat) < 32 by decide), testBit_putFlag _ _ _ _ (show (3 : Nat) < 32 by decide), h0]
  split_ifs <;> first | rfl | omega

theorem putFlag_frame (x : Ctx) (k : Nat) (b : Option Bool) : putFlag x k b = { x with psw := (putFlag x k b).psw } := by
  cases b <;> rfl

theorem finishLong_eq (x : Ctx) (o : LongOp) :
    x.finishLong o = putFlag (putFlag (putFlag (putFlag (if o.wr then x.setP o.dst o.val else x) 3 o.n) 2 o.z) 1 o.c) 0 o.v := rfl

end Sys2Proof.Laws
end

