-- ==== Sys2Proof/Laws/Rows.lean ====
section
/-!
SUPPORT. What every row outside the Lobby answers, what a register write by a core comes to, and small laws of registers, flags and
ascending lists.
-/
namespace Sys2Proof.Laws
open Sys2Proof Sys2Proof.Machine Sys2Proof.Safety

/-! ### Rows -/

/-- The sessions after a command is settled: as before, or none after a reset that ends them. -/
theorem lobby_settle (s : State) :
    (State.settle s).lobby.nextSid = s.lobby.nextSid ∧
      ((State.settle s).lobby.sessions = s.lobby.sessions ∨ (State.settle s).lobby.sessions = []) := by
  unfold State.settle
  split_ifs
  · exact ⟨rfl, .inr rfl⟩
  · exact ⟨rfl, .inl rfl⟩

/-- A row that is no message of a session acts on the device alone, but for the three that open and close sessions. -/
theorem exec_in_device (i : Instr) (s : State) (hl : lobbyRow i = none) :
    (∃ D, Answers (exec i s) s D) ∨ (∃ ch slot nc, i = .hello ch slot nc) ∨ (∃ sid mac, i = .proof sid mac) ∨
      (∃ sid, i = .sessionIdleTimeout sid) := by
  cases i
  case hello => exact .inr (.inl ⟨_, _, _, rfl⟩)
  case proof => exact .inr (.inr (.inl ⟨_, _, rfl⟩))
  case sessionIdleTimeout => exact .inr (.inr (.inr ⟨_, rfl⟩))
  case load who => cases who <;> first | exact .inl ⟨_, rfl⟩ | cases hl
  case swap who => cases who <;> first | exact .inl ⟨_, rfl⟩ | cases hl
  case cancel who => cases who <;> first | exact .inl ⟨_, rfl⟩ | cases hl
  case revert who => cases who <;> first | exact .inl ⟨_, rfl⟩ | cases hl
  case startRoom who _ => cases who <;> first | exact .inl ⟨_, rfl⟩ | cases hl
  all_goals first | exact Or.inl ⟨_, rfl⟩ | cases hl

/-- A session's command but SURRENDER is the shared Lobby operation with the row's code and roles. -/
theorem exec_on_lobby (i : Instr) (s : State) (m : LobbyMsg) (cmd roles : Nat) (h : lobbyRow i = some (m, cmd, roles))
    (hs : ∀ n, i ≠ .surrender m n) : ∃ body, exec i s = onLobby m cmd roles body s := by
  cases i
  case surrender => cases h; exact absurd rfl (hs _)
  case load who => cases who <;> cases h; exact ⟨_, rfl⟩
  case swap who => cases who <;> cases h; exact ⟨_, rfl⟩
  case cancel who => cases who <;> cases h; exact ⟨_, rfl⟩
  case revert who => cases who <;> cases h; exact ⟨_, rfl⟩
  case startRoom who _ => cases who <;> cases h; exact ⟨_, rfl⟩
  all_goals first | (cases h; exact ⟨_, rfl⟩) | cases h

/-! ### Register writes -/

/-- A write that reaches a register of the package is that register's write by the context's room and level. -/
theorem writeReg_of_reaches {d D : Dev} {core o v : Nat} (h : Reaches d core o .write D) (hv : v < 2 ^ 32) :
    o < 0x10000000 ∧ d.writeReg core o v = D.regWrite (d.acc core) o v := by
  obtain ⟨D0, h1, h2, rfl⟩ := h
  have ho : o < 0x10000000 := by
    unfold Dev.mayReach at h1
    split at h1
    · cases h1
    · dsimp only at h1
      split_ifs at h1 with hc
      simp only [Bool.and_eq_true, decide_eq_true_eq, beq_iff_eq] at hc
      exact hc.1.1.2
  refine ⟨ho, ?_⟩
  have hp : D0.pkg < 4 := D0.straps.pkgId.isLt
  have e1 : (paPkg (D0.regPa o) != D0.pkg) = false := by
    simp [paPkg, Dev.regPa, regBase]; omega
  have e2 : paOfs (D0.regPa o) - regBase = o := by
    simp [paOfs, Dev.regPa, regBase]; omega
  simp only [Dev.writeReg, h1, Dev.regStore, e1, e2, Bool.false_eq_true, if_false, h2]
  rw [Nat.mod_eq_of_lt hv]
  simp

/-- The same for a register of the view page. -/
theorem writeReg_of_reaches_view {d D : Dev} {core o v : Nat} (h : Reaches d core (d.viewOfs core o) .write D) (hv : v < 2 ^ 32) (ho : o < 0x10000) :
    d.writeReg core (d.viewOfs core o) v = D.viewWrite (d.acc core) o v := by
  obtain ⟨h1, h2⟩ := writeReg_of_reaches h hv
  rw [h2]
  simp only [Dev.viewOfs] at *
  have e1 : 0xF000000 ≤ 0xF000000 + (d.coreSlot core).getD 0 * 0x10000 + o := by omega
  have e2 : (0xF000000 + (d.coreSlot core).getD 0 * 0x10000 + o - 0xF000000) / 0x10000 = (d.coreSlot core).getD 0 := by omega
  have e3 : (0xF000000 + (d.coreSlot core).getD 0 * 0x10000 + o) % 0x10000 = o := by omega
  rw [Dev.regWrite, if_pos e1, e2, e3]
  simp [Dev.acc]

/-! ### Registers, flags, lists -/

/-- A register after a write, C0 included. -/
theorem getP_setP_ite (x : Ctx) (p q : Nat) (v : Word) : (x.setP p v).getP q = if q = p ∧ q ≠ 0 then v else x.getP q := by
  by_cases hp : p = 0
  · subst hp; rw [setP_zero, if_neg (by rintro ⟨h, h'⟩; exact h' h)]
  · rw [getP_setP _ _ _ _ hp]
    by_cases hq : q = p
    · subst hq; rw [if_pos rfl, if_pos ⟨rfl, hp⟩]
    · rw [if_neg hq, if_neg (fun h => hq h.1)]

theorem getP_putFlag (x : Ctx) (k : Nat) (b : Option Bool) (p : Nat) : (putFlag x k b).getP p = x.getP p := by
  cases b <;> rfl

theorem mem_insertAsc (l : List Nat) (a k : Nat) : k ∈ insertAsc l a ↔ k = a ∨ k ∈ l := by
  induction l with
  | nil => simp [insertAsc]
  | cons h t ih =>
    simp only [insertAsc]; split_ifs with h1 h2
    · simp
    · subst h2; simp
    · simp [ih]; tauto

/-- An aligned item raises no alignment exception. -/
theorem misaligned_of_aligned {va : Word} {n : Nat} {wr : Bool} (h : va.toNat % n = 0) : misaligned va n wr = none := by
  simp [misaligned, h]

/-- A body that ends with a PC of its own. -/
theorem onDev_done_at {s : State} {core : Nat} {m : OpMap} {op : Nat} {f : Form} {srcs : List Nat}
    {flags : Bool} {priv : Ctx → Bool} {e : Env} (h : s.dev.enter core m op f none srcs flags priv = .ok e)
    (body : Env → IRes) (D : Dev) (pc : Word) (hb : body e = .done D pc false []) :
    ∃ X, Answers (onDev (fun d => d.issue core m op f none srcs flags priv body) s) s (X.afterIssue core none) ∧
      WritesOnly D e.cx ((D.ctx e.cx).past pc) X := by
  obtain ⟨X, h1, h2⟩ := leave_done (d := s.dev.wake (core / 4)) (m := m) (op := op) (e := e) D pc false []
  rw [if_neg (by decide), past_eq] at h2
  refine ⟨X, ?_, h2⟩
  have hi := issue_ok h body
  rw [hb, h1, (enter_ok h).sameCore] at hi
  exact hi ▸ onDev_answers _ s

/-- Whether the next fetch was read beyond a transfer is all that a right guess changes. -/
theorem guessed_ctx (e : Env) (d : Dev) (pc : Word) (j : Nat) : (e.guessed d pc).ctx j = d.ctx j := by
  unfold Env.guessed; split_ifs
  · rw [modCore_eq, unit_ctx_setCore]
  · rfl

/-- A body that transfers control. -/
theorem onDev_jump {s : State} {core : Nat} {m : OpMap} {op : Nat} {f : Form} {srcs : List Nat}
    {flags : Bool} {priv : Ctx → Bool} {e : Env} (h : s.dev.enter core m op f none srcs flags priv = .ok e)
    (body : Env → IRes) (x : Ctx) (k : BtKind) (pc : Word) (hb : body e = e.jump x k pc) :
    ∃ X, Answers (onDev (fun d => d.issue core m op f none srcs flags priv body) s) s (X.afterIssue core none) ∧
      WritesOnly (e.guessed e.d pc) e.cx ((x.resolve k true pc).past pc) X := by
  obtain ⟨X, h1, h2⟩ := onDev_done_at h body _ _ hb
  rw [guessed_ctx, ctx_setCtx_same] at h2
  have hg : e.guessed (e.d.setCtx e.cx (x.resolve k true pc)) pc = (e.guessed e.d pc).setCtx e.cx (x.resolve k true pc) := by
    unfold Env.guessed; split_ifs <;> rfl
  rw [hg] at h2
  exact ⟨X, h1, writesOnly_of_setCtx h2⟩

end Sys2Proof.Laws
end

