-- ==== Sys2Proof/Laws/Stores.lean ====
section
/-!
SUPPORT. What loads, buffered stores, drains and visible stores do while every domain is On.
-/
namespace Sys2Proof.Laws
open Sys2Proof Sys2Proof.Machine Sys2Proof.Safety

variable {d d' d'' : Dev}

/-- From `d` to `d'` caches, channels, undo logs, store buffers and reservations may have changed, and memory; registers, rooms and
the plan have not. -/
structure Stored (d d' : Dev) : Prop where
  on : AllOn d'
  plan : d'.plan = d.plan
  rooms : d'.rooms = d.rooms
  ctxs : ∀ j, d'.ctx j = { d.ctx j with resv := (d'.ctx j).resv }
  cores : ∀ k, d'.core k = { d.core k with l1 := (d'.core k).l1, lk := (d'.core k).lk, sbuf := (d'.core k).sbuf }

theorem Stored.refl (h : AllOn d) : Stored d d := ⟨h, rfl, rfl, fun _ => rfl, fun _ => rfl⟩

theorem Stored.trans (h : Stored d d') (h' : Stored d' d'') : Stored d d'' where
  on := h'.on
  plan := h'.plan.trans h.plan
  rooms := h'.rooms.trans h.rooms
  ctxs j := by rw [h'.ctxs j, h.ctxs j]
  cores k := by rw [h'.cores k, h.cores k]

theorem Quiet.stored (h : Quiet d d') : Stored d d' where
  on := h.on
  plan := h.plan
  rooms := h.rooms
  ctxs := h.ctxs
  cores k := by rw [h.cores k]

theorem mirrored_plan (l : List (Nat × Byte)) (h : d'.plan = d.plan) : d'.mirrored l = d.mirrored l := by
  unfold Dev.mirrored Dev.mirrorOf; rw [h]

/-- A copy taken ahead of a write stages node images alone (R339). -/
theorem copierFirst_frame (slot : Nat) (nodes : List Nat) (d : Dev) :
    d.copierFirst slot nodes = { d with frc := (d.copierFirst slot nodes).frc } := by
  have key : ∀ (l : List Nat) (e : Nat) (x : Dev),
      each l (fun d n => d.stageNode n e) x = { x with frc := (each l (fun d n => d.stageNode n e) x).frc } := by
    intro l e
    induction l with
    | nil => intro x; rfl
    | cons n t ih => intro x; simp only [each, List.foldl_cons] at ih ⊢; rw [ih]; rfl
  unfold Dev.copierFirst
  dsimp only
  split
  · exact key _ _ d
  · rfl

/-- Filling undo entries changes the logs, and the copies that R339 asks for first. -/
theorem logLines_frame (slot c : Nat) (lines : List Nat) (d : Dev) :
    d.logLines slot c lines =
      { d with clusters := (d.logLines slot c lines).clusters, frc := (d.logLines slot c lines).frc } := by
  unfold Dev.logLines
  induction lines generalizing d with
  | nil => rfl
  | cons n t ih =>
    simp only [each, List.foldl_cons] at ih ⊢
    rw [ih]
    simp only [Dev.modCluster, Dev.setCluster]
    rw [copierFirst_frame]

theorem logLines_allOn (slot c : Nat) (lines : List Nat) (h : AllOn d) : AllOn (d.logLines slot c lines) := by
  intro n; rw [logLines_frame]; exact h n

theorem stored_logLines (slot c : Nat) (lines : List Nat) (h : AllOn d) : Stored d (d.logLines slot c lines) := by
  have hf := logLines_frame slot c lines d
  refine ⟨logLines_allOn slot c lines h, ?_, ?_, fun j => ?_, fun k => ?_⟩
  · rw [hf]
  · rw [hf]
  · rw [show (d.logLines slot c lines).ctx j = d.ctx j by rw [hf]; rfl]
  · rw [show (d.logLines slot c lines).core k = d.core k by rw [hf]; rfl]

theorem logLines_mem (slot c : Nat) (lines : List Nat) (d : Dev) : (d.logLines slot c lines).mem = d.mem := by
  rw [logLines_frame]

theorem logLines_core (slot c : Nat) (lines : List Nat) (d : Dev) (k : Nat) :
    (d.logLines slot c lines).core k = d.core k := by
  rw [logLines_frame]; rfl

theorem stored_setSbuf (h : AllOn d) (core : Nat) (l : List StoreEntry) :
    Stored d (d.setCore core { d.core core with sbuf := l }) where
  on := h
  plan := rfl
  rooms := rfl
  ctxs j := by rw [unit_ctx_setCore]
  cores k := by
    rw [core_setCore]; split_ifs with hk
    · subst hk; rfl
    · rfl

/-- Writing the oldest buffered store (R196): its bytes and their secondary copies reach memory, and it leaves the buffer. -/
theorem drainOne_cons {core : Nat} {b : StoreEntry} {rest : List StoreEntry} (h : AllOn d)
    (hs : (d.core core).sbuf = b :: rest) :
    Stored d (d.drainOne core) ∧ (d.drainOne core).mem = d.mem.putAll (d.mirrored b.bytes) ∧
      ∀ k, ((d.drainOne core).core k).sbuf = if k = core then rest else (d.core k).sbuf := by
  unfold Dev.drainOne
  rw [hs]
  dsimp only
  have h1 : Stored d (d.modCore core (fun c => { c with sbuf := rest })) := stored_setSbuf h core rest
  have h2 : Quiet (d.modCore core (fun c => { c with sbuf := rest }))
      (each (linesOf b.bytes) (fun d n => (d.writeLine core n b.nt).clearResv n b.keep)
        (d.modCore core (fun c => { c with sbuf := rest }))) :=
    quiet_each _ _ (fun n d h => (quiet_writeLine core n b.nt h).bind (fun h => quiet_clearResv h n _)) h1.on
  generalize each (linesOf b.bytes) (fun d n => (d.writeLine core n b.nt).clearResv n b.keep)
        (d.modCore core (fun c => { c with sbuf := rest })) = D at h2
  have h3 : Stored d D := h1.trans h2.stored
  refine ⟨⟨h3.on, h3.plan, h3.rooms, h3.ctxs, h3.cores⟩, ?_, fun k => ?_⟩
  · rw [mem_poke, mirrored_plan b.bytes h3.plan, h2.mem]; rfl
  · rw [unit_core_poke, h2.sbuf, modCore_eq, core_setCore]
    split_ifs <;> rfl

theorem drainOne_nil {core : Nat} (hs : (d.core core).sbuf = []) : d.drainOne core = d := by
  unfold Dev.drainOne; rw [hs]

/-- Memory once a list of buffered stores is written, oldest first. -/
def drainMem (d : Dev) (m : Memory) (l : List StoreEntry) : Memory :=
  l.foldl (fun m b => m.putAll (d.mirrored b.bytes)) m

theorem drainMem_plan (m : Memory) (l : List StoreEntry) (h : d'.plan = d.plan) : drainMem d' m l = drainMem d m l := by
  unfold drainMem
  congr 1
  funext m b
  rw [mirrored_plan b.bytes h]

theorem drain_iter (core n : Nat) : ∀ d : Dev, AllOn d → (d.core core).sbuf.length = n →
    Stored d (iter (fun d => d.drainOne core) n d) ∧
      (iter (fun d => d.drainOne core) n d).mem = drainMem d d.mem (d.core core).sbuf ∧
      ∀ k, ((iter (fun d => d.drainOne core) n d).core k).sbuf = if k = core then [] else (d.core k).sbuf := by
  induction n with
  | zero =>
    intro d h hn
    have hs : (d.core core).sbuf = [] := List.eq_nil_of_length_eq_zero hn
    refine ⟨Stored.refl h, ?_, fun k => ?_⟩
    · rw [hs]; rfl
    · simp only [iter]; split_ifs with hk
      · subst hk; exact hs
      · rfl
  | succ n ih =>
    intro d h hn
    cases hs : (d.core core).sbuf with
    | nil => rw [hs] at hn; cases hn
    | cons b rest =>
      obtain ⟨h1, h2, h3⟩ := drainOne_cons h hs
      have hr : ((d.drainOne core).core core).sbuf = rest := by rw [h3, if_pos rfl]
      obtain ⟨g1, g2, g3⟩ := ih (d.drainOne core) h1.on (by rw [hr]; rw [hs] at hn; exact Nat.succ.inj hn)
      refine ⟨h1.trans g1, ?_, fun k => ?_⟩
      · simp only [iter]; rw [g2, hr, h2, drainMem_plan _ _ h1.plan]; rfl
      · simp only [iter]; rw [g3, h3]; split_ifs <;> rfl

/-- A forced drain (R198): every buffered store reaches memory, in program order. -/
theorem drain_law (h : AllOn d) (core : Nat) :
    Stored d (d.drain core) ∧ (d.drain core).mem = drainMem d d.mem (d.core core).sbuf ∧
      ∀ k, ((d.drain core).core k).sbuf = if k = core then [] else (d.core k).sbuf := drain_iter core _ d h rfl

/-- Before a core writes some lines, other cores' buffered stores on them are written; the core's own stay buffered (R196). -/
theorem yieldStores_law (h : AllOn d) (core : Nat) (lines : List Nat) :
    Stored d (d.yieldStores core lines) ∧ ((d.yieldStores core lines).core core).sbuf = (d.core core).sbuf := by
  unfold Dev.yieldStores
  have hb : ∀ k ∈ d.bufferers core lines, k ≠ core := by
    intro k hk e
    subst e
    simp [Dev.bufferers] at hk
  revert hb
  generalize d.bufferers core lines = L
  induction L generalizing d with
  | nil => intro _; exact ⟨Stored.refl h, rfl⟩
  | cons k t ih =>
    intro hb
    obtain ⟨g1, _, g3⟩ := drain_law h k
    obtain ⟨e1, e2⟩ := ih g1.on (fun j hj => hb j (List.mem_cons_of_mem _ hj))
    refine ⟨g1.trans e1, e2.trans ?_⟩
    rw [g3, if_neg (Ne.symm (hb k (List.mem_cons_self ..)))]

/-- With no other core's store buffered on the lines, nothing happens. -/
theorem yieldStores_none {core : Nat} {lines : List Nat} (h : d.bufferers core lines = []) : d.yieldStores core lines = d := by
  unfold Dev.yieldStores; rw [h]; rfl

/-- A load of DRAM without a partial overlap (R197) changes caches alone and reads what the core sees. -/
theorem loadDram_law {core : Nat} {ps : List Piece} {nt : Bool} (h : AllOn d) (hp : d.partialHit core ps = false) :
    Quiet d (d.loadDram core ps nt).1 ∧ (d.loadDram core ps nt).2 = leNat (d.seenBytes core ps) := by
  have hq := quiet_touch core ps false nt h
  unfold Dev.loadDram
  rw [hp]
  exact ⟨hq, by dsimp only; rw [if_neg (by decide), hq.seenBytes]⟩

/-- A store to DRAM (R196): after what other cores have buffered for its lines, it waits in the buffer behind the core's others; a full buffer
first writes its oldest. -/
theorem bufStore_law (w : Who) (ps : List Piece) (bs : List Byte) (nt : Bool) (keep : Option Nat) (h : AllOn d) :
    let Y := d.yieldStores w.core (linesOf (scatter ps bs))
    let e : StoreEntry := { keep := keep, nt := nt, bytes := scatter ps bs }
    Stored d (d.bufStore w ps bs nt keep) ∧
    ((d.core w.core).sbuf.length < 4 →
      (d.bufStore w ps bs nt keep).mem = Y.mem ∧ ((d.bufStore w ps bs nt keep).core w.core).sbuf = (d.core w.core).sbuf ++ [e]) ∧
    (∀ b rest, (d.core w.core).sbuf = b :: rest → 3 ≤ rest.length →
      (d.bufStore w ps bs nt keep).mem = Y.mem.putAll (d.mirrored b.bytes) ∧
      ((d.bufStore w ps bs nt keep).core w.core).sbuf = rest ++ [e]) := by
  unfold Dev.bufStore
  dsimp only
  obtain ⟨hY, hYs⟩ := yieldStores_law h w.core (linesOf (scatter ps bs))
  generalize d.yieldStores w.core (linesOf (scatter ps bs)) = Y at hY hYs
  have h1 := stored_logLines w.slot (w.core / 4) (Y.toLog w.slot (scatter ps bs)) hY.on
  have hm := logLines_mem w.slot (w.core / 4) (Y.toLog w.slot (scatter ps bs)) Y
  have hc := logLines_core w.slot (w.core / 4) (Y.toLog w.slot (scatter ps bs)) Y w.core
  generalize Y.logLines w.slot (w.core / 4) (Y.toLog w.slot (scatter ps bs)) = D at h1 hm hc
  have h2 := quiet_touch w.core ps true nt h1.on
  generalize D.touch w.core ps true nt = E at h2
  have hE : (E.core w.core).sbuf = (d.core w.core).sbuf := by rw [h2.sbuf, hc, hYs]
  have hS : Stored d E := (hY.trans h1).trans h2.stored
  by_cases hl : (E.core w.core).sbuf.length ≥ 4
  · rw [if_pos hl]
    cases hb : (E.core w.core).sbuf with
    | nil => rw [hb] at hl; simp at hl
    | cons b rest =>
      obtain ⟨g1, g2, g3⟩ := drainOne_cons hS.on hb
      refine ⟨(hS.trans g1).trans (stored_setSbuf g1.on _ _), fun h4 => ?_, fun b' rest' hb' hr => ?_⟩
      · rw [hE] at hl; omega
      · rw [hE, hb'] at hb
        cases hb
        refine ⟨?_, ?_⟩
        · rw [modCore_eq, mem_setCore, g2, h2.mem, hm, mirrored_plan _ hS.plan]
        · rw [modCore_eq, core_setCore_same, g3, if_pos rfl]
  · rw [if_neg hl]
    refine ⟨hS.trans (stored_setSbuf hS.on _ _), fun _ => ⟨?_, ?_⟩, fun b rest hb hr => ?_⟩
    · rw [modCore_eq, mem_setCore, h2.mem, hm]
    · rw [modCore_eq, core_setCore_same, hE]
    · rw [hE, hb] at hl; simp only [List.length_cons] at hl; omega

/-- A write that is visible at once: the core's buffered stores first, and other cores' on its lines, then its bytes with their secondary
copies. -/
theorem storeNow_law (w : Who) (ps : List Piece) (bs : List Byte) (nt : Bool) (keep : Option Nat) (h : AllOn d) :
    let Y := (d.drain w.core).yieldStores w.core (linesOf (scatter ps bs))
    Stored d (d.storeNow w ps bs nt keep) ∧
    (d.storeNow w ps bs nt keep).mem = Y.mem.putAll (d.mirrored (scatter ps bs)) ∧
    ((d.storeNow w ps bs nt keep).core w.core).sbuf = [] := by
  unfold Dev.storeNow
  dsimp only
  obtain ⟨g1, g2, g3⟩ := drain_law h w.core
  have g4 : ((d.drain w.core).core w.core).sbuf = [] := by rw [g3, if_pos rfl]
  generalize d.drain w.core = C at g1 g4
  obtain ⟨hY, hYs⟩ := yieldStores_law g1.on w.core (linesOf (scatter ps bs))
  generalize C.yieldStores w.core (linesOf (scatter ps bs)) = Y at hY hYs
  have h1 := stored_logLines w.slot (w.core / 4) (Y.toLog w.slot (scatter ps bs)) hY.on
  have hm := logLines_mem w.slot (w.core / 4) (Y.toLog w.slot (scatter ps bs)) Y
  have hc := logLines_core w.slot (w.core / 4) (Y.toLog w.slot (scatter ps bs)) Y
  generalize Y.logLines w.slot (w.core / 4) (Y.toLog w.slot (scatter ps bs)) = D at h1 hm hc
  have h2 := (quiet_touch w.core ps true nt h1.on).bind (fun h =>
    quiet_each (linesOf (scatter ps bs)) (fun d n => d.clearResv n keep) (fun n _ h => quiet_clearResv h n keep) h)
  generalize each (linesOf (scatter ps bs)) (fun d n => d.clearResv n keep) (D.touch w.core ps true nt) = E at h2
  have hS : Stored d E := ((g1.trans hY).trans h1).trans h2.stored
  refine ⟨⟨hS.on, hS.plan, hS.rooms, hS.ctxs, hS.cores⟩, ?_, ?_⟩
  · rw [mem_poke, h2.mem, hm, mirrored_plan _ hS.plan]
  · rw [unit_core_poke, h2.sbuf, hc, hYs, g4]

end Sys2Proof.Laws
end

