-- ==== Sys2Proof/WellFormed.lean ====
section
/-!
DEFINITION. Well-formed commands: every operand that numbers a structure names one that exists (Table 1.2, Table 2.7, Table 17.1,
Table 18.5, Table 20.3), and keys and nonces have their length. A board sends well-formed commands only.
-/
namespace Sys2Proof.WellFormed

def coreOk (n : Nat) : Bool := decide (n < 128)
def ctxOk (n : Nat) : Bool := decide (n < 512)
def bankOk (n : Nat) : Bool := decide (n < 4)
def clusterOk (n : Nat) : Bool := decide (n < 32)
def regionOk (n : Nat) : Bool := decide (n < 8)
def sysRegionOk (n : Nat) : Bool := decide (n < 32)
def requesterOk (n : Nat) : Bool := decide (n < 2 ^ 16)
def ageOk (n : Nat) : Bool := decide (n < 2 ^ 24)
def coreAsks (a : Requester) : Bool := decide (a.number < 512) && ageOk a.age
def engineAsks (a : Requester) : Bool := decide (128 ≤ a.number) && requesterOk a.number && ageOk a.age
def pairOk (n : Nat) : Bool := decide (n < 4)
def dieOk (n : Nat) : Bool := decide (n < 2)
def slotOk (n : Nat) : Bool := decide (n < 64)
def roomIdOk (n : Nat) : Bool := decide (n < 256)
def tlbiOk : TlbiFrom → Bool
  | .here _ => true
  | .far room _ _ _ => roomIdOk room
def moveOk : MoveFrom → Bool
  | .here _ => true
  | .far room win _ => roomIdOk room && decide (win < 8)
def wayOk (n : Nat) : Bool := decide (n < 16)
def lineOk (n : Nat) : Bool := decide (n < 2 ^ 46)
def paOk (n : Nat) : Bool := decide (n < 2 ^ 52)
def offsetOk (n : Nat) : Bool := decide (n < 0x10000000)
def srcOk (n : Nat) : Bool := decide (n < 1024)
def mboxOk (n : Nat) : Bool := decide (n < 128)
def nodeOk (n : Nat) : Bool := decide (n < 4096)
/-- NODE is a field of 16 bits (Table 18.1). -/
def kfxNodeOk (n : Nat) : Bool := decide (n < 65536)
/-- A source address has 48 bits, the sequence number of an HSR tag 16. -/
def frameOk (f : Frame) : Bool := decide (f.src < 2 ^ 48) && decide (f.hsr.getD 0 < 65536)
def fieldPortOk (n : Nat) : Bool := decide (n < 8)
def ringOk (n : Nat) : Bool := decide (n < 4)
def pciePortOk (n : Nat) : Bool := decide (n < 4)
def canOk (n : Nat) : Bool := decide (n < 4)
def bufOk (n : Nat) : Bool := decide (n < 8)
def macOk (n : Nat) : Bool := decide (n < 2)
def uartOk (n : Nat) : Bool := decide (n < 2)
def linkOk (n : Nat) : Bool := decide (n < 3)
def domainOk (n : Nat) : Bool := decide (n < 128)
def keySlotOk (n : Nat) : Bool := decide (n < 16)
def roleOk (n : Nat) : Bool := decide (n < 5)
def bpOk (n : Nat) : Bool := decide (n < 8)
def lenIs (n : Nat) (l : List Byte) : Bool := l.length == n
def lineOrNone (l : List Byte) : Bool := l.isEmpty || lenIs 64 l
/-- A cache of a level: of a core, a cluster or a region. -/
def unitOk (level : CacheLevel) (n : Nat) : Bool :=
  match level with
  | .l1 => coreOk n
  | .l2 => clusterOk n
  | .l3 => regionOk n
/-- A report names a structure that exists: 8 words to a line (R265), 16 local-store units of 256 blocks (R316). -/
def reportOk (e : ErrorReport) : Bool :=
  match e with
  | .core _ core => coreOk core
  | .lockstep core => coreOk core && core % 2 == 0
  | .array level unit way line words _ => unitOk level unit && wayOk way && lineOk line && words.length == 8
  | .arrayCorrected level unit way => unitOk level unit && wayOk way
  | .trestle cluster slot => clusterOk cluster && slotOk slot
  | .localStore cluster unit block words => clusterOk cluster && decide (unit < 16) && decide (block < 256) && words.length == 8
  | .localStoreCorrected cluster unit => clusterOk cluster && decide (unit < 16)
  | .readBack ctx => ctxOk ctx
  | .readBackCorrected ctx => ctxOk ctx
  | .restoreLost slot => slotOk slot
  | .dram line => lineOk line
  | .dramCorrected region hit => regionOk region && lineOk hit.line
  | .snoopFilter region set => regionOk region && decide (set < 2048)
  | .remote slot reset => slotOk slot && decide (reset.getD 1 < 5) && reset != some 0
  | .remoteHeld slot reason => slotOk slot && decide (0 < reason) && decide (reason < 7)

end Sys2Proof.WellFormed

namespace Sys2Proof
open Sys2Proof.WellFormed

/-- Every operand names what exists. -/
def Instr.wf (i : Instr) : Bool :=
  match i with
  | .add core _ => coreOk core
  | .sub core _ => coreOk core
  | .and core _ => coreOk core
  | .or core _ => coreOk core
  | .xor core _ => coreOk core
  | .andn core _ => coreOk core
  | .cmp core _ => coreOk core
  | .tst core _ => coreOk core
  | .shl core _ => coreOk core
  | .shr core _ => coreOk core
  | .sar core _ => coreOk core
  | .rol core _ => coreOk core
  | .ror core _ => coreOk core
  | .mov core _ => coreOk core
  | .neg core _ => coreOk core
  | .not core _ => coreOk core
  | .mul core _ => coreOk core
  | .mulh core _ => coreOk core
  | .mulhu core _ => coreOk core
  | .div core _ => coreOk core
  | .divu core _ => coreOk core
  | .rem core _ => coreOk core
  | .remu core _ => coreOk core
  | .longOpComplete ctx _ => ctxOk ctx
  | .bins core _ => coreOk core
  | .bext core _ => coreOk core
  | .bexts core _ => coreOk core
  | .clz core _ => coreOk core
  | .ctz core _ => coreOk core
  | .popc core _ => coreOk core
  | .bperm core _ => coreOk core
  | .bswap core _ => coreOk core
  | .cmovcc core _ _ => coreOk core
  | .selcc core _ _ => coreOk core
  | .ld core _ => coreOk core
  | .ldx core _ => coreOk core
  | .st core _ => coreOk core
  | .lea core _ => coreOk core
  | .llk core _ => coreOk core
  | .stc core _ => coreOk core
  | .pfh core _ => coreOk core
  | .stim core _ => coreOk core
  | .aadd core _ => coreOk core
  | .aand core _ => coreOk core
  | .aor core _ => coreOk core
  | .axor core _ => coreOk core
  | .xchg core _ => coreOk core
  | .storeBufferWrite core => coreOk core
  | .bcc core _ _ => coreOk core
  | .j core _ => coreOk core
  | .call core _ => coreOk core
  | .callw core _ => coreOk core
  | .ret core => coreOk core
  | .retw core => coreOk core
  | .syscall core _ => coreOk core
  | .eret core => coreOk core
  | .fadd core _ => coreOk core
  | .fsub core _ => coreOk core
  | .fmul core _ => coreOk core
  | .fma core _ => coreOk core
  | .fdiv core _ => coreOk core
  | .fsqrt core _ => coreOk core
  | .fcmp core _ => coreOk core
  | .fcvt core _ => coreOk core
  | .stm core _ _ => coreOk core
  | .ldm core _ _ => coreOk core
  | .spillw core _ => coreOk core
  | .fillw core _ => coreOk core
  | .ctxsw core _ => coreOk core
  | .fence core => coreOk core
  | .ifence core => coreOk core
  | .bpflush core => coreOk core
  | .bpbar core => coreOk core
  | .swcall core => coreOk core
  | .swret core => coreOk core
  | .idle core => coreOk core
  | .idleEnd core => coreOk core
  | .nop core => coreOk core
  | .rdcr core _ => coreOk core
  | .wrcr core _ => coreOk core
  | .rdbk core _ => coreOk core
  | .wrbk core _ => coreOk core
  | .twait core => coreOk core
  | .tmma core _ => coreOk core
  | .ti1 core _ => coreOk core
  | .ti2 core _ => coreOk core
  | .ti3 core _ => coreOk core
  | .trsum core _ => coreOk core
  | .trdot core _ => coreOk core
  | .trmax core _ => coreOk core
  | .trmin core _ => coreOk core
  | .tband core _ => coreOk core
  | .tld core _ => coreOk core
  | .trestleTst core _ => coreOk core
  | .tget core _ => coreOk core
  | .tput core _ => coreOk core
  | .trestleOpComplete cluster slot => clusterOk cluster && slotOk slot
  | .trestleSlotSwitch cluster => clusterOk cluster
  | .trestleQuickTestDone cluster _ => clusterOk cluster
  | .forwardedOperation core _ _ => coreOk core
  | .forwardedCompletion pa _ => paOk pa
  | .forwardedTimeout slot _ => slotOk slot
  | .interruptSourceEvent src => srcOk src
  | .interruptEntry core => coreOk core
  | .irqSwgen core _ => coreOk core
  | .tick slot => slotOk slot
  | .wdgKick core _ => coreOk core
  | .watchdogWarning slot => slotOk slot
  | .watchdogBite slot => slotOk slot
  | .epochBoundary slot => slotOk slot
  | .forcedBoundary slot => slotOk slot
  | .epoCtlForce core _ => coreOk core
  | .checkpointStreamed cluster slot => clusterOk cluster && slotOk slot
  | .epochConfirmation slot => slotOk slot
  | .outputSnapshot slot => slotOk slot
  | .systemEpochBoundary _ => true
  | .mbxSend core mbox _ => coreOk core && mboxOk mbox
  | .mailboxDelivery mbox => mboxOk mbox
  | .detectedError report => reportOk report
  | .quickTestComplete core _ _ _ => coreOk core
  | .rollbackResume slot => slotOk slot
  | .wayRetirement level unit way _ => unitOk level unit && wayOk way
  | .patrolScrub region _ => regionOk region
  | .channelLoss region => regionOk region
  | .mirrorResyncDone pair => pairOk pair
  | .dieFault die => dieOk die
  | .flitRetransmit region _ => region.all regionOk
  | .snoopFilterRebuild region set => regionOk region && decide (set < 2048)
  | .rds asker line => coreAsks asker && lineOk line
  | .rdx asker line => coreAsks asker && lineOk line
  | .upg asker line => coreAsks asker && lineOk line
  | .rdc engine line => engineAsks engine && lineOk line
  | .wrf engine line bs => engineAsks engine && lineOk line && lenIs 64 bs
  | .wrp engine line _ bs => engineAsks engine && lineOk line && lenIs 64 bs
  | .evd victim line => ageOk victim.age && lineOk line && lineOrNone victim.data
  | .rgn region line => sysRegionOk region && lineOk line
  | .snps cluster line => clusterOk cluster.cluster && lineOk line
  | .snpx cluster line => clusterOk cluster.cluster && lineOk line
  | .snpi cluster line => clusterOk cluster.cluster && lineOk line
  | .snpc cluster line => clusterOk cluster.cluster && lineOk line
  | .rsp answer line => sysRegionOk answer.region && lineOk line && lineOrNone answer.data
  | .data fill line => requesterOk fill.dest && lineOk line && decide (fill.grant < 3) && lineOrNone fill.data
  | .grant dest line => requesterOk dest && lineOk line
  | .cmpMessage dest line => requesterOk dest && lineOk line
  | .ack line => requesterOk line.dest && lineOk line.line
  | .lkfillWrite core _ => coreOk core
  | .clrL1 core => coreOk core
  | .clrL2 core => coreOk core
  | .tlbiAll core b => coreOk core && tlbiOk b
  | .tlbiAsid core _ b => coreOk core && tlbiOk b
  | .tlbiVaAsid core _ b => coreOk core && tlbiOk b
  | .tlbiVa core b => coreOk core && tlbiOk b
  | .tlbiComplete slot => slotOk slot
  | .watermarkMove core m => coreOk core && moveOk m
  | .watermarkMoveDone slot => slotOk slot
  | .trLswmWrite core _ => coreOk core
  | .trLswmDone cluster slot => clusterOk cluster && slotOk slot
  | .load _ => true
  | .validationDone _ => true
  | .swap _ => true
  | .swapPoint => true
  | .cancel _ => true
  | .revert _ => true
  | .startRoom _ roomId => roomIdOk roomId
  | .badCommand core _ => coreOk core
  | .zeroFillDone slot => slotOk slot
  | .hello _ slot nc => keySlotOk slot && lenIs 16 nc
  | .proof _ mac => lenIs 32 mac
  | .sessionIdleTimeout _ => true
  | .own _ _ _ _ => true
  | .ident _ => true
  | .status _ => true
  | .readInc _ _ _ _ => true
  | .readTrace _ slot _ _ => slotOk slot
  | .halt _ _ => true
  | .pendingHaltStop core => coreOk core
  | .resume _ _ => true
  | .step _ core _ => coreOk core
  | .bpSet _ => true
  | .bpClr _ core index => coreOk core && bpOk index
  | .regRd _ core bank _ => coreOk core && bankOk bank
  | .regWr _ core bank _ _ => coreOk core && bankOk bank
  | .memRd _ slot _ _ _ => slotOk slot
  | .memWr _ slot _ _ => slotOk slot
  | .pcSample _ core => coreOk core
  | .nodeKey _ node key => nodeOk node && lenIs 32 key
  | .keyslot _ slot role key salt => keySlotOk slot && roleOk role && lenIs 32 key && lenIs 16 salt
  | .surrender _ _ => true
  | .surrenderComplete => true
  | .power _ domain _ => domainOk domain
  | .devState _ _ => true
  | .reset _ _ => true
  | .baseCycle => true
  | .takePoint => true
  | .nodeCycleEnd node => nodeOk node
  | .inputFrame port _ => fieldPortOk port
  | .inputImageWrite node => nodeOk node
  | .join port node nn => fieldPortOk port && kfxNodeOk node && frameOk nn
  | .nodeProof port node mac => fieldPortOk port && kfxNodeOk node && frameOk mac
  | .doorbell port node code => fieldPortOk port && kfxNodeOk node && frameOk code
  | .doorbellReply slot => slotOk slot
  | .hostRingFrame port fr => fieldPortOk port && frameOk fr
  | .hsrSupervision ring _ _ => ringOk ring
  | .gptpSync port _ => fieldPortOk port
  | .frcPortCtlEn core port _ => coreOk core && fieldPortOk port
  | .frcNctlDrop core _ => coreOk core
  | .pwrPreq core _ => coreOk core
  | .pLevelSwitch cluster => clusterOk cluster
  | .thermalSample _ _ => true
  | .supplyFault rail _ _ => decide (rail < 3)
  | .pwrDreq core _ _ => coreOk core
  | .automaticEntry domain => domainOk domain
  | .domainEntryDone domain _ => domainOk domain
  | .domainWake domain => domainOk domain
  | .domainReady domain => domainOk domain
  | .dRetain core => coreOk core
  | .dOff core => coreOk core
  | .shutdownTest _ => true
  | .deviceWake _ => true
  | .mainOkFall => true
  | .mainOkRise => true
  | .timebaseAlign _ => true
  | .pwronRstN _ _ => true
  | .warmRstN => true
  | .pkgRstWarm core _ => coreOk core
  | .roomGo core _ => coreOk core
  | .self core _ => coreOk core
  | .coreGo core _ => coreOk core
  | .periph core _ => coreOk core
  | .supplyExcursion _ => true
  | .txreq core can _ => coreOk core && canOk can
  | .pop core can => coreOk core && canOk can
  | .canFrameReceived can _ => canOk can
  | .canWakePattern can => canOk can
  | .txtail core mac _ => coreOk core && macOk mac
  | .macFrameReceived mac _ => macOk mac
  | .uartTx core uart _ => coreOk core && uartOk uart
  | .uartRx core uart => coreOk core && uartOk uart
  | .uartByteReceived uart _ _ => uartOk uart
  | .pcieInboundRequest port _ => pciePortOk port
  | .pcieMsi port _ => pciePortOk port
  | .completionTimeout core => coreOk core
  | .pcieCfgd core _ _ => coreOk core
  | .linkTraining link _ => linkOk link
  | .retrain link _ _ => linkOk link
  | .flitReplay link => linkOk link
  | .registerWrite core offset _ => coreOk core && offsetOk offset
  | .illegalInstruction core _ => coreOk core
  | .fetchFault core _ => coreOk core
  | .wheelSlot region => regionOk region
  | .pcieLinkChange port _ _ _ => pciePortOk port
  | .pcieReadCompletion core _ => coreOk core
  | .fieldPortLinkChange port _ => fieldPortOk port
  | .macLinkChange mac _ _ => macOk mac
  | .canFrameSent can buf => canOk can && bufOk buf
  | .canBusError can _ _ => canOk can
  | .macFrameSent mac _ => macOk mac
  | .uartByteSent uart => uartOk uart

end Sys2Proof
end

