-- ==== Sys2Proof/Tests/Slice0.lean ====
section
/-!
SUPPORT. Tests: ill-formed commands that the check refuses, single steps whose outcome the spec's tables and examples give, and for each
statement a concrete state and operands that meet its hypotheses.
-/
namespace Sys2Proof.Tests
open Sys2Proof Sys2Proof.Machine Sys2Proof.Safety Sys2Proof.WellFormed

set_option maxRecDepth 100000
set_option Elab.async false

/-! ### Ill-formed commands (one for each check of WellFormed) -/

theorem test_wf_core : Instr.wf (.nop 128) = false := by decide
theorem test_wf_ctx : Instr.wf (.longOpComplete 512 0) = false := by decide
theorem test_wf_bank : Instr.wf (.regRd ⟨1, 1, [], []⟩ 0 4 .pc) = false := by decide
theorem test_wf_cluster : Instr.wf (.trestleSlotSwitch 32) = false := by decide
theorem test_wf_region : Instr.wf (.channelLoss 8) = false := by decide
theorem test_wf_pair : Instr.wf (.mirrorResyncDone 4) = false := by decide
theorem test_wf_die : Instr.wf (.dieFault 2) = false := by decide
theorem test_wf_slot : Instr.wf (.tick 64) = false := by decide
theorem test_wf_room_id : Instr.wf (.startRoom (.core 0) 256) = false := by decide
theorem test_wf_way : Instr.wf (.wayRetirement .l3 0 16 true) = false := by decide
theorem test_wf_unit_l1 : Instr.wf (.wayRetirement .l1 128 0 true) = false := by decide
theorem test_wf_unit_l2 : Instr.wf (.wayRetirement .l2 32 0 true) = false := by decide
theorem test_wf_unit_l3 : Instr.wf (.wayRetirement .l3 8 0 true) = false := by decide
theorem test_wf_line : Instr.wf (.ack ⟨0, 2 ^ 46⟩) = false := by decide
theorem test_wf_pa : Instr.wf (.forwardedCompletion (2 ^ 52) []) = false := by decide
theorem test_wf_offset : Instr.wf (.registerWrite 0 0x10000000 0) = false := by decide
theorem test_wf_source : Instr.wf (.interruptSourceEvent 1024) = false := by decide
theorem test_wf_mailbox : Instr.wf (.mailboxDelivery 128) = false := by decide
theorem test_wf_node : Instr.wf (.nodeCycleEnd 4096) = false := by decide
theorem test_wf_field_port : Instr.wf (.gptpSync 8 0) = false := by decide
theorem test_wf_ring : Instr.wf (.hsrSupervision 4 true true) = false := by decide
theorem test_wf_pcie_port : Instr.wf (.pcieMsi 4 0) = false := by decide
theorem test_wf_can : Instr.wf (.canWakePattern 4) = false := by decide
theorem test_wf_can_buffer : Instr.wf (.canFrameSent 0 8) = false := by decide
theorem test_wf_mac : Instr.wf (.macFrameSent 2 false) = false := by decide
theorem test_wf_uart : Instr.wf (.uartByteSent 2) = false := by decide
theorem test_wf_link : Instr.wf (.flitReplay 3) = false := by decide
theorem test_wf_domain : Instr.wf (.domainReady 128) = false := by decide
theorem test_wf_key_slot : Instr.wf (.hello (.mac 0) 16 (List.replicate 16 0)) = false := by decide
theorem test_wf_nonce_length : Instr.wf (.hello (.mac 0) 15 (List.replicate 15 0)) = false := by decide
theorem test_wf_role : Instr.wf (.keyslot ⟨1, 1, [], []⟩ 0 5 (List.replicate 32 0) (List.replicate 16 0)) = false := by decide
theorem test_wf_comparator : Instr.wf (.bpClr ⟨1, 1, [], []⟩ 0 8) = false := by decide
theorem test_wf_asker : Instr.wf (.rds ⟨512, 0, 0⟩ 0) = false ∧ Instr.wf (.rdx ⟨0, 2 ^ 24, 0⟩ 0) = false := by decide
theorem test_wf_engine : Instr.wf (.rdc ⟨127, 0, 0⟩ 0) = false ∧ Instr.wf (.rdc ⟨2 ^ 16, 0, 0⟩ 0) = false := by decide
theorem test_wf_line_data : Instr.wf (.wrf ⟨128, 0, 0⟩ 0 [1]) = false ∧ Instr.wf (.evd ⟨0, 0, 0, [1]⟩ 0) = false := by decide
theorem test_wf_answer : Instr.wf (.rsp ⟨32, false, none, []⟩ 0) = false ∧ Instr.wf (.data ⟨0, 3, []⟩ 0) = false := by decide
theorem test_wf_remote : Instr.wf (.detectedError (.remote 0 (some 5))) = false ∧ Instr.wf (.detectedError (.remote 0 (some 0))) = false := by
  decide
theorem test_wf_report : Instr.wf (.detectedError (.array .l1 0 0 0 [] 0)) = false ∧ Instr.wf (.flitRetransmit (some 8) true) = false := by
  decide
theorem test_wf_frame : Instr.wf (.join 0 65536 ⟨true, 0, none, []⟩) = false ∧ Instr.wf (.doorbell 0 0 ⟨true, 0, some 65536, []⟩) = false := by decide
theorem test_wf_far : Instr.wf (.tlbiVa 0 (.far 256 false false 0)) = false ∧ Instr.wf (.watermarkMove 0 (.far 0 8 0)) = false := by decide
theorem test_wf_accepts : Instr.wf (.add 127 {}) = true ∧ Instr.wf (.hello (.mac 0) 15 (List.replicate 16 0)) = true := by decide

/-! ### A small device: one running room, every domain On -/

/-- A result that is there and satisfies a test. -/
def ok {ε α : Type} (x : Except ε α) (p : α → Bool) : Bool :=
  match x with
  | .ok a => p a
  | .error _ => false

/-- A result that is an error. -/
def errs {ε α : Type} (x : Except ε α) : Bool := !ok x (fun _ => true)

/-- A checked access that goes on, and a test of it; one that raises an exception. -/
def goes (c : Chk) (p : Dev → List Piece → Bool := fun _ _ => true) : Bool :=
  match c with
  | .ok d ps => p d ps
  | _ => false
def waitsFor (c : Chk) : Bool :=
  match c with
  | .wait _ => true
  | _ => false
def raises (c : Chk) : Bool :=
  match c with
  | .exc _ => true
  | _ => false

/-- A floorplan of one package: rooms 0 (timed, PCIe, registers) and 1, a mailbox, a field node and routed sources. -/
def plan : Plan := { Plan.empty with
  generation := 5
  pkgs := [{ pkg := 0, linkEn := 7, mirrorPairs := 1, ddrMts := 6400, chan := ⟨0, 64⟩ :: List.replicate 7 ⟨0, 0⟩ }]
  rooms := [{ roomId := 0, timed := true, sealed := true, span := false, autostart := true, plevReq := 0, plevFloor := 0,
              slots := [0, 255, 255, 255], entryPa := 0x100000, name := 0 },
            { roomId := 1, timed := false, sealed := false, span := false, autostart := false, plevReq := 0, plevFloor := 0,
              slots := [1, 255, 255, 255], entryPa := 0x41000000, name := 0 }]
  clusters := [{ cluster := 0, coreEn := 1, coreRoom := [0, 0, 0, 0], tlsA := 8, tslotA := 8, ctxMaskA := 3, ctxMaskB := 1 },
               { cluster := 1, coreEn := 1, coreRoom := [1, 1, 1, 1], tlsA := 8, tslotA := 8, ctxMaskA := 1, ctxMaskB := 1 }]
  windows := [{ roomId := 0, index := 0, perm := 7, kind := 0, mirror := 0, base := 0, size := 0x40000000, wmark := 0x20000000,
                mirrorBase := 0 },
              { roomId := 0, index := 1, perm := 3, kind := 1, mirror := 0, base := 0x100000000000, size := 0x10000000, wmark := 0,
                mirrorBase := 0 },
              { roomId := 0, index := 2, perm := 3, kind := 2, mirror := 0, base := 0x3F0000000000, size := 0x10000000, wmark := 0,
                mirrorBase := 0 },
              { roomId := 0, index := 3, perm := 1, kind := 3, mirror := 0, base := 0x3E0000000000, size := 0x100000, wmark := 0,
                mirrorBase := 0 },
              { roomId := 1, index := 0, perm := 7, kind := 0, mirror := 0, base := 0x40000000, size := 0x40000000, wmark := 0,
                mirrorBase := 0 }]
  caches := [{ form := 1, roomId := 0, loc := 0, ways := 0xFFFF, lock := 0 }]
  irqs := [{ source := 0, roomId := 0, prio := 5, target := 0, bank := 0, keeper := true },
           { source := 128, roomId := 0, prio := 5, target := 0, bank := 0, keeper := true },
           { source := 930, roomId := 0, prio := 9, target := 0, bank := 0, keeper := true }]
  nodePre := { Plan.empty.nodePre with etherType := 0x1234, portEn := 0xFF, nodeTmoCyc := 3 }
  nodes := [{ node := 5, roomId := 0, cls := 0, inSize := 8, outSize := 8, inPa := 0x300000, outPa := 0x301000 }]
  powers := [{ roomId := 0, mayRetain := true, uncoreMaySleep := true, idleRetUs := 100, wakeMask := 0, doorbell := 7 }]
  debugs := [{ roomId := 0, normMax := 2, secMax := 2, roles := 31, traceKib := 16, freezeWdg := true, freezePer := true }]
  epochs := [{ roomId := 0, paired := false, epochUs := 20 }]
  fwds := [{ roomId := 0, tmoUs := 10, cmdPa := 0x100000001000, cplPa := 0x200000, opMask := 2 ^ 32 - 1 }]
  mboxes := [{ mbox := 3, sender := 0, receiver := 1, bufPa := 0x42000000, bufSize := 0x2000 }] }

/-- The device with room 0 just started: core 0 in secure PL2 at 0x100000. -/
def dev : Dev :=
  let d := { Dev.reset with devState := .run, plan := plan, clk := { Clock.init with stopped := false, tb := 5000 } }
  let d := d.setRoom 0 { d.freshRoom 0 Room.init with phase := .held, reason := 7 }
  d.startRoom 0

/-- A state of a device. -/
def st (d : Dev) : State := { State.reset with dev := d }

/-- Core 0's context changed. -/
def cx0 (f : Ctx → Ctx) : Dev := dev.modCtx 0 f

/-- Registers of core 0's context. -/
def regs (l : List (Nat × Word)) : Dev := cx0 (fun x => l.foldl (fun x p => x.set p.1 p.2) x)

/-- The normal world at PL1, above the watermark. -/
def normal : Dev := cx0 (fun x => { (x.setPsw 6 4 1) with pc := 0x20001000 })

/-- User level of the normal world. -/
def user : Dev := cx0 (fun x => { (x.setPsw 6 4 0) with pc := 0x20001000 })

/-- `[RS + disp]` with base C1 and destination C2. -/
def mem1 : Form := { am := 3, rs := 1, rd := 2 }

/-- A device whose listed domains are On has every domain On. -/
theorem all_on (d : Dev) (h : d.domains.all (fun p => p.2.entering.isNone && p.2.st == .on) = true) : AllOn d := by
  intro n
  suffices g : (Sparse.get Domain.init d.domains n).entering = none ∧ (Sparse.get Domain.init d.domains n).st = .on from ⟨g.1, .inl g.2⟩
  generalize d.domains = l at h ⊢
  induction l with
  | nil => exact ⟨rfl, rfl⟩
  | cons p t ih =>
    rw [List.all_cons, Bool.and_eq_true] at h
    by_cases c : n = p.1
    · simpa [Sparse.get, c] using h.1
    · simpa [Sparse.get, c] using ih h.2

theorem dev_on : AllOn dev := all_on dev (by decide +kernel)

/-! ### Hypotheses that are met: instructions -/

/-- An instruction of a map and opcode reaches its body on a device, and a test of what it works with holds. -/
def enters (d : Dev) (m : OpMap) (op : Nat) (f : Form) (srcs : List Nat) (flags : Bool) (priv : Ctx → Bool)
    (p : Env → Bool := fun _ => true) : Bool :=
  ok (d.enter 0 m op f none srcs flags priv) p

theorem witness_StepOnAnEmptyQueueIsOneNanosecond : State.reset.pending = [] ∧ State.reset.dev.clk.stopped = true ∧
    (st dev).dev.clk.stopped = false ∧ dev.clk.rtcAcc + 32768 < 1000000000 ∧
    1000000000 ≤ ({ dev with clk := { dev.clk with rtcAcc := 999967232 } } : Dev).clk.rtcAcc + 32768 := by decide +kernel

/-- An illegal form that is fetched, one that cannot be fetched, a legal one that cannot, and one whose level does not permit it. -/
theorem witness_IssuingAnInstruction :
    enters dev .prim 0x00 {} [0, 0] false anyLevel = true ∧ dev.canIssue 0 = some 0 ∧ (dev.wake 0).bpHit 0 = none ∧
    firstCause .prim 0x00 { lock := true } none = some (1, 4) ∧ goes ((dev.wake 0).fetch 0 2) = true ∧
    raises (((cx0 (fun x => { x with pc := 0x50000000 })).wake 0).fetch 0 1) = true ∧ firstCause .prim 0x00 {} none = none ∧
    goes ((normal.wake 0).fetch 0 1) = true ∧ mayReturn (normal.ctx 0) = false ∧ (dev.core 0).stepping = none := by
  decide +kernel

def longCtx : Dev :=
  cx0 (fun x => { x with long := [{ dst := 9, val := 4, wr := true, n := some true, z := none, c := none, v := some false }] })

theorem witness_IntegerInstructionsComplete :
    (∀ op ∈ [0x00, 0x01, 0x02, 0x03, 0x04, 0x05, 0x06, 0x07, 0x08, 0x09, 0x0A, 0x0B, 0x0C, 0x0D, 0x0E, 0x0F, 0x10, 0x11, 0x12,
        0x13, 0x14, 0x15, 0x16],
      enters dev .prim op { rd := 1, rs := 2 } (Form.src2 { rd := 1, rs := 2 }) false anyLevel = true) ∧
    (∀ op ∈ [0x4C, 0x4D], enters dev .prim op { rd := 1, rs := 2 } [1, 2] false anyLevel = true) ∧
    ((longCtx.ctx 0).long[0]?).isSome = true := by decide +kernel

/-- Each premise on operands: a zero and a nonzero divisor, a zero and a nonzero word. -/
theorem witness_IntegerResults : (0 : BitVec 8) = 0 ∧ (1 : BitVec 64) ≠ 0 ∧ 0 < 2 ^ 8 ∧ 5 < 2 ^ 64 ∧ (5 : Nat) ≠ 0 ∧ 63 < 64 := by
  decide

theorem witness_BitOperationsAndMovesComplete :
    (∀ op ∈ [0x1B, 0x1C, 0x1D, 0x1F], enters dev .prim op { rd := 1, rs := 2 } [2] false anyLevel = true) ∧
    enters dev .prim 0x18 { rd := 1, rs := 2, am := 1, sz := 2, ext := 0x3F3F } [1, 2] false anyLevel = true ∧
    enters dev .prim 0x19 { rd := 1, rs := 2, am := 1, sz := 2, ext := 0x3F3F } [2] false anyLevel = true ∧
    enters dev .prim 0x1A { rd := 1, rs := 2, am := 1, sz := 2, ext := 0x3F3F } [2] false anyLevel = true ∧
    enters dev .prim 0x1E { rd := 1, rs := 2, am := 2, sz := 1, ext := 3 } [1, 2, 3] false anyLevel = true ∧
    (∀ cc < 15, enters dev .escF1 cc { rd := 1, rs := 2 } [1, 2] true anyLevel = true) ∧
    (∀ cc < 15, enters dev .escF1 (0x10 + cc) { rd := 1, rs := 2, am := 2, sz := 1, ext := 3 } [2, 3] true anyLevel = true) ∧
    enters dev .prim 0x23 { rd := 1, am := 6, sz := 1 } [] false anyLevel = true := by decide +kernel

theorem witness_FloatInstructionsComplete :
    (∀ op ∈ [0x48, 0x49, 0x4A, 0x4E], enters dev .prim op { rd := 1, rs := 2 } [1, 2] false anyLevel = true) ∧
    enters dev .prim 0x4B { rd := 1, rs := 2, am := 2, sz := 1, ext := 3 } [1, 2, 3] false anyLevel = true ∧
    enters dev .prim 0x4F { rd := 1, rs := 2, am := 1, sz := 1, ext := 6 } [2] false anyLevel = true ∧
    fpIsNan 0x7FF8000000000001 = true := by decide +kernel

theorem witness_RegistersAndWindows : (dev.ctx 0).tw = false ∧ (dev.ctx 0).rd ≤ 14 ∧ (5 : Nat) ≠ 0 ∧ (6 : Nat) ≠ 5 := by
  decide +kernel

/-- Translation off: a canonical VA in and above the package, one that is not canonical, at PL0 and above. The room check: no window, a
refused write, below and above the watermark, and a fetch above it that the execute-never bit stops. -/
theorem witness_AddressesAndRoomCheck :
    ((dev.ctx 0).ptbase true).getLsbD 0 = false ∧ canonical 0x1000000000000 = false ∧ canonical 0x400000000000 = true ∧
    canonical 0x200000 = true ∧ (user.who 0).pl = 0 ∧ (dev.who 0).pl ≠ 0 ∧
    dev.inViewPage 0 0x50000000 = false ∧ dev.plan.mboxAt 0x50000000 = none ∧ dev.plan.windowAt 0 0x50000000 = none ∧
    (∀ pa ∈ [0, 0x1FFFFFFF, 0x20000000, 0x3FFFFFFF], dev.inViewPage 0 pa = false ∧ dev.plan.mboxAt pa = none ∧
      (dev.plan.windowAt 0 pa).any (fun w => w.perm.testBit 0 && decide (dev.wmark 0 w = 0x20000000)) = true) ∧
    (dev.plan.windowAt 0 0x3E0000000000).any (fun w => !w.perm.testBit 1) = true := by decide +kernel

/-- A data access of 8 bytes passes its checks, nothing holds it, and a test of its first PA holds. -/
def reach (k : AccKind) (s : Target) (p : Dev → Nat → Bool) (e : Env) : Bool :=
  goes (e.d.access e.w (e.x.ea e.f e.next) 8 k s .data) (fun d ps => p d (ps.headD (0, 0)).1)

/-- The port of a PA has a link that is up. -/
def linkUp : Dev := (regs [(1, 0x100000000000)]).setPciePort 0 { (dev.pcie 0) with en := true, link := true }
def pcieUp (d : Dev) (pa : Nat) : Bool := (d.wake 100).portUp ((d.wake 100).portAt pa)

/-- The view page's PCIe configuration registers at C1: the PAIR's second word is PCIE_CFGD. -/
def cfgReg : Dev := regs [(1, 0x3F0000108000)]

theorem witness_LoadsComplete :
    AllOn dev ∧ dev.partialHit 0 [(0x200000, 8)] = false ∧
    (∀ op ∈ [0x20, 0x21],
      enters (regs [(1, 0x200000)]) .prim op mem1 [1] false anyLevel (reach .read .item (fun _ pa => paKind pa == .dram)) = true ∧
      enters (regs [(1, 0x3E0000000000)]) .prim op mem1 [1] false anyLevel (reach .read .item (fun _ pa => paKind pa == .hamper)) = true ∧
      enters (regs [(1, 0x3F0000000010)]) .prim op mem1 [1] false anyLevel
        (reach .read .item (fun d pa => paKind pa == .reg && !d.readsCfgd pa 8)) = true ∧
      enters cfgReg .prim op mem1 [1] false anyLevel (reach .read .item (fun d pa => paKind pa == .reg && d.readsCfgd pa 8)) = true ∧
      enters (regs [(1, 0x100000000000)]) .prim op mem1 [1] false anyLevel
        (reach .read .item (fun d pa => paKind pa == .pcie && !pcieUp d pa)) = true ∧
      enters linkUp .prim op mem1 [1] false anyLevel (reach .read .item (fun d pa => paKind pa == .pcie && pcieUp d pa)) = true) :=
  ⟨dev_on, by decide +kernel, by decide +kernel⟩

/-- A core with stores in its buffer. -/
def buffered (n : Nat) : Dev := dev.modCore 0 (fun c => { c with
  sbuf := (List.range n).map (fun i => { keep := none, nt := false, bytes := [(0x200000 + i, 1)] }) })

/-- The cluster's undo log has no room for a further entry. -/
def crowded (d : Dev) : Dev :=
  d.modCluster 0 (fun c => { c with undo := List.replicate 8192 { slot := 0, epoch := 0, kind := .line, addr := 0, pre := [] } })

theorem witness_StoresComplete :
    (∀ a ∈ ([0x200000, 0x100000000000, 0x3F0000000010] : List Nat),
      enters (regs [(1, BitVec.ofNat 64 a)]) .prim 0x22 mem1 [2, 1] false anyLevel (fun e =>
        goes (e.d.access e.w (e.x.ea e.f e.next) 8 .write .item .data) (fun d ps =>
          e.undoFits d ps (leBytes 8 (e.x.get 2).toNat) && (ps.headD (0, 0)).1 == a)) = true) ∧
    enters (crowded (regs [(1, 0x200000)])) .prim 0x22 mem1 [2, 1] false anyLevel (fun e =>
      goes (e.d.access e.w (e.x.ea e.f e.next) 8 .write .item .data) (fun d ps => !e.undoFits d ps (leBytes 8 (e.x.get 2).toNat))) = true ∧
    paKind 0x200000 = .dram ∧ paKind 0x100000000000 = .pcie ∧ paKind 0x3F0000000010 = .reg ∧
    AllOn dev ∧ AllOn (buffered 4) ∧ (dev.core 0).sbuf.length < 4 ∧ (((buffered 4).core 0).sbuf.drop 1).length = 3 ∧
    ((buffered 4).core 0).sbuf.length = 4 ∧ dev.bufferers 0 [0x8000] = [] :=
  ⟨by decide +kernel, by decide +kernel, by decide +kernel, by decide +kernel, by decide +kernel, dev_on, all_on _ (by decide +kernel),
    by decide +kernel, by decide +kernel, by decide +kernel, by decide +kernel⟩

/-- The line of 0x200000 reserved. -/
def reserved : Dev := cx0 (fun x => { x.set 1 0x200000 with resv := some (0x200000 / 64) })

theorem witness_AtomicsComplete :
    enters (regs [(1, 0x200000)]) .prim 0x24 mem1 [1] false anyLevel (reach .link .atomic (fun _ _ => true)) = true ∧
    (∀ d ∈ [reserved, regs [(1, 0x200000)]],
      enters d .prim 0x25 mem1 [2, 1] false anyLevel (fun e => goes (e.d.access e.w (e.x.ea e.f e.next) 8 .write .atomic .data)
        (fun d1 ps => d1.bufferers 0 [(ps.headD (0, 0)).1 / 64] == [] &&
          e.undoFits (d1.yieldStores 0 [(ps.headD (0, 0)).1 / 64]) ps (leBytes 8 (e.x.get 2).toNat))) = true) ∧
    (reserved.ctx 0).resv = some 0x8000 ∧ ((regs [(1, 0x200000)]).ctx 0).resv ≠ some 0x8000 ∧ AllOn (regs [(1, 0x200000)]) ∧
    (∀ op ∈ [0x28, 0x29, 0x2A, 0x2B, 0x2C], ∀ lock ∈ [true, false],
      enters (regs [(1, 0x200000)]) .prim op { mem1 with lock := lock } [2, 1] false anyLevel
        (fun e => goes (e.d.access e.w (e.x.ea e.f e.next) 8 .rmw .atomic .data)
          (fun d1 ps => e.undoFits d1 ps (List.replicate 8 0) && (!lock || d1.drainReady 0))) = true) ∧
    (∀ r ∈ ([(0x24, .link), (0x25, .write), (0x28, .rmw), (0x2C, .rmw)] : List (Nat × AccKind)),
      enters (regs [(1, 0x200004)]) .prim r.1 mem1 (if r.1 = 0x24 then [1] else [2, 1]) false anyLevel
        (fun e => (e.x.ea e.f e.next).toNat % 8 != 0) = true ∧
      enters (regs [(1, 0x100000000000)]) .prim r.1 mem1 (if r.1 = 0x24 then [1] else [2, 1]) false anyLevel
        (fun e => let va := e.x.ea e.f e.next
          va.toNat % 8 == 0 && decide (va.toNat % 4096 + 8 ≤ 4096) && !e.d.walkWaits e.w va r.2 &&
          !e.d.heldSpan e.slot (e.d.pasOf e.w va 8 r.2) && ok (e.d.translate e.w va r.2) (fun q => paKind q.2.1 != .dram)) = true) := by
  (repeat' with_reducible apply And.intro) <;> first | exact all_on _ (by decide +kernel) | decide +kernel

theorem witness_HintsAndStimulusComplete :
    enters (regs [(1, 0x50000000)]) .prim 0x26 mem1 [1] false anyLevel
      (fun e => errs (e.d.checkAccess e.w (e.x.ea e.f e.next) 1 .read .any)) = true ∧
    enters (regs [(1, 0x200000)]) .prim 0x26 mem1 [1] false anyLevel
      (fun e => !e.d.walkWaits e.w (e.x.ea e.f e.next) .read && ok (e.d.checkAccess e.w (e.x.ea e.f e.next) 1 .read .any)
        (fun r => r.2.length == 1 && paKind (r.2.headD (0, 0)).1 == .dram && !r.1.heldSpan e.slot r.2 &&
          (r.1.hint 0 e.f.rdn 0x8000 e.f.hint).isSome)) = true ∧
    enters dev .prim 0x27 { rs := 2, am := 1, sz := 1 } [2] false anyLevel (fun e => !e.d.stimOn e.slot 0 e.x.secure) = true ∧
    enters (dev.modRoom 0 (fun r => { r with dbg := { r.dbg with trcEn := true, stimEn := [(0, 1)], sec := 1 } })) .prim 0x27 { rs := 2, am := 1, sz := 1 } [2] false
      anyLevel (fun e => e.d.stimOn e.slot 0 e.x.secure) = true := by decide +kernel

def target : Form := { am := 6, sz := 2, ext := 0x40 }

/-- Window trap handlers: the trap window of PL2. -/
def trapWin : Dev := cx0 (fun x => { (x.setPsw 12 12 1) with rec2 := .windowTrap })
/-- A full ring, and one window held with blocks spilled. -/
def full : Dev := cx0 (fun x => { x with rd := 15 })
def spilled : Dev := cx0 (fun x => { x with rd := 1, scS := 3, scN := 3 })

theorem witness_TransfersComplete :
    (∀ cc < 15, enters dev .prim (0x30 + cc) target [] (cc != 14) anyLevel = true) ∧
    (∀ op ∈ [0x40, 0x41], enters dev .prim op target [] false anyLevel = true) ∧
    enters dev .prim 0x43 {} [rH 0] false anyLevel = true ∧
    enters dev .prim 0x42 target [] false anyLevel (fun e => !e.x.tw && e.x.rd != 15) = true ∧
    enters full .prim 0x42 target [] false anyLevel (fun e => !e.x.tw && e.x.rd == 15 && e.x.sc e.x.secure != 0xFFFFF) = true ∧
    enters (full.modCtx 0 (fun x => { x with scS := 0xFFFFF })) .prim 0x42 target [] false anyLevel
      (fun e => !e.x.tw && e.x.rd == 15 && e.x.sc e.x.secure == 0xFFFFF) = true ∧
    (∀ op ∈ [0x42, 0x44], enters trapWin .prim op (if op = 0x42 then target else {}) (if op = 0x42 then [] else [rH 0]) false anyLevel
      (fun e => e.x.tw) = true) ∧
    enters dev .prim 0x44 {} [rH 0] false anyLevel (fun e => !e.x.tw && e.x.sc e.x.secure == 0) = true ∧
    enters spilled .prim 0x44 {} [rH 0] false anyLevel (fun e => !e.x.tw && decide (e.x.rd ≤ 1) && decide (0 < e.x.sc e.x.secure)) = true := by
  decide +kernel

/-- A trap entry that has its handler in the room's window. -/
def entry : Entry := { pl := 2, secure := true, base := 0x100000, vec := 0x40, ipl := some 5 }

theorem witness_TrapEntry :
    entry.pl < 4 ∧ entry.ipl.getD 0 < 64 ∧
    (∀ d ∈ [dev, longCtx], let D := d.settleFlags 0
      (D.ctx 0).tw = false ∧ (D.ctx 0).rd ≤ 14 ∧
      (D.enterTrap 0 ((D.ctx 0).rotate.ringEntry entry 1 2 3 (D.ctx 0).psw64)).fetchCheck 0 1 = none) := by decide +kernel

theorem witness_SyscallAndEret :
    enters dev .prim 0x45 { am := 1, sz := 1, ext := 7 } [] true anyLevel (fun e => !e.x.tw && decide (e.x.rd ≤ 14) && e.d.curCtx 0 == e.cx &&
      (let D := (e.d.setCtx e.cx (e.x.setPsw 21 16 0)).settleFlags 0
       let x := D.ctx e.cx
       (D.enterTrap 0 (x.rotate.ringEntry (e.x.excEntry 0x1C0)
         (syndrome { cls := 8, number := e.f.raw } e.x.pl 0) 0 e.next x.psw64)).fetchCheck 0 1 == none)) = true ∧
    enters trapWin .prim 0x45 { am := 1, sz := 1, ext := 7 } [] true anyLevel (fun e => e.x.tw) = true ∧
    enters dev .prim 0x46 {} [rH 4, rH 5, rH 6, rH 7] true notUser
      (fun e => e.chains == none && e.x.sc e.x.secure == 0) = true ∧
    enters spilled .prim 0x46 {} [rH 4, rH 5, rH 6, rH 7] true notUser
      (fun e => e.chains == none && !e.x.tw && decide (e.x.rd ≤ 1) && decide (0 < e.x.sc e.x.secure)) = true ∧
    (normal.ctx 0).pl = 1 ∧ (dev.ctx 0).pl = 2 ∧ (trapWin.ctx 0).tw = true := by decide +kernel

theorem witness_BlockTransferOrder : (3, 16) ∈ blockElems 0x8 16 ∧ (3 : Nat) < 32 ∧ (0x8 : Nat).testBit 3 = true := by decide

/-- C1 holds 0x200000; the mask names C2 and C3. -/
def block : Form := { am := 1, sz := 3, rs := 1, ext := 0xC }
def blk (n : Nat) : Dev := (regs [(1, 0x200000)]).modCtx 0 (fun x => x.setPsw 21 16 n)

/-- The device before each element of `blk`'s transfers, computed as the statement asks. -/
def stmDev (e : Env) (k : Nat) (d : Dev) : Option Dev :=
  match d.access e.w (e.x.get 1 + BitVec.ofNat 64 (8 * k)) 8 .write .item .data with
  | .ok d1 ps =>
    let bs := leBytes 8 (e.x.get (2 + k)).toNat
    let d' := e.storeAt (d1.modCtx e.cx (fun y => y.setPsw 21 16 (k + 1))) ps bs e.f.hint none
    if e.undoFits d1 ps bs && e.goesOn d' (k + 1) && (e.hits (e.x.get 1 + BitVec.ofNat 64 (8 * k)) 8 .write).isNone then some d' else none
  | _ => none
def ldmDev (e : Env) (k : Nat) (d : Dev) : Option Dev :=
  match d.access e.w (e.x.get 1 + BitVec.ofNat 64 (8 * k)) 8 .read .item .data with
  | .ok d1 ps =>
    match e.loadAt d1 ps 8 e.f.hint with
    | .ok d2 v =>
      let d' := (d2.modCtx e.cx (fun y => (y.wr (2 + k) (BitVec.ofNat 64 v)).setPsw 21 16 (k + 1))).tagCancel e.slot e.cx [e.x.phys (2 + k)]
      if e.goesOn d' (k + 1) && (e.hits (e.x.get 1 + BitVec.ofNat 64 (8 * k)) 8 .read).isNone then some d' else none
    | _ => none
  | _ => none

/-- C1 points at PCIe memory behind a link that is up. -/
def farBlk : Dev := linkUp.modCtx 0 (fun x => x.setPsw 21 16 0)

theorem witness_BlockTransfersComplete :
    enters (blk 2) .prim 0x50 block (1 :: bitsOf 0xC 32) false anyLevel (fun e => decide ((blockElems 0xC (e.x.get 1)).length ≤ e.x.blk)) = true ∧
    enters (blk 0) .prim 0x50 block (1 :: bitsOf 0xC 32) false anyLevel (fun e => (e.x.get 1).toNat % 8 == 0 && e.x.blk == 0 &&
      (stmDev e 0 e.d).any (fun d => d.breaksAt 0 0 (some 0) && !d.breaksAt 0 0 none &&
        (stmDev e 1 d).any (fun d => !d.breaksAt 0 1 none))) = true ∧
    enters (blk 2) .prim 0x51 block [1] false anyLevel (fun e => decide ((ldmElems 0xC (e.x.get 1) 1).length ≤ e.x.blk)) = true ∧
    enters (blk 0) .prim 0x51 block [1] false anyLevel (fun e => (e.x.get 1).toNat % 8 == 0 && e.x.blk == 0 &&
      (ldmDev e 0 e.d).any (fun d => d.breaksAt 0 0 (some 0) && !d.breaksAt 0 0 none &&
        (ldmDev e 1 d).any (fun d => !d.breaksAt 0 1 none))) = true ∧
    enters farBlk .prim 0x51 block [1] false anyLevel (fun e =>
      goes (e.d.access e.w (e.x.get 1) 8 .read .item .data) (fun d1 ps => paKind (ps.headD (0, 0)).1 == .pcie && pcieUp d1 (ps.headD (0, 0)).1))
      = true ∧
    enters (blk 0) .prim 0x52 { am := 3, rs := 1 } [1] false notUser (fun e =>
      (e.x.ea e.f e.next).toNat % 64 == 0 && (e.d.tagWait 0 e.slot e.cx (blockRegs e.x.movedBlock)).any (fun d1 =>
        let d3 := d1.modCtx e.cx Ctx.finishAll
        goes (d3.access e.w (e.x.ea e.f e.next) 128 .write .any .data) (fun d2 ps =>
          e.undoFits d2 ps (wordsBytes ((d3.ctx e.cx).blockWords e.x.movedBlock))))) = true ∧
    (∀ r ∈ [(blk 0, true), (farBlk, false)], enters r.1 .prim 0x53 { am := 3, rs := 1 } [1] false notUser (fun e =>
      (e.x.ea e.f e.next).toNat % 64 == 0 && goes (e.d.access e.w (e.x.ea e.f e.next) 128 .read .any .data) (fun d1 ps =>
        (e.fillItems (itemsOf ps 0) ((d1.modCtx e.cx (fun y => (blockRegs e.x.movedBlock).foldl Ctx.cancelReg y)).tagCancel e.slot e.cx
          (blockRegs e.x.movedBlock))).2.all (fun q => q.owed == 0) == r.2)) = true) ∧
    enters trapWin .prim 0x53 { am := 3, rs := 1 } [1] false notUser (fun e => e.x.tw && e.blockSrc.isSome &&
      (e.d.tagWait e.core e.slot e.cx [e.x.phys (rH 5)]).isSome) = true ∧
    (∀ k ∈ [1, 2], let x := (trapWin.ctx 0).set (rH 5) (BitVec.ofNat 64 (k * 2 ^ 28))
      x.inWindowTrap = true ∧ (x.get (rH 5)).toNat / 2 ^ 28 % 4 = k) := by
  (repeat' with_reducible apply And.intro) <;> decide +kernel

/-- An idle core and a pending source: taken at once outside a trap window, else only the idling ends. -/
def idling (tw : Nat) : Dev := ({ (cx0 (fun x => x.setPsw 12 12 tw)) with irqPend := [930] }).modCore 0 (fun c => { c with run := .idle })

theorem witness_SystemInstructionsComplete :
    enters dev .prim 0x54 { am := 1, sz := 1, ext := 1 } [] false notUser (fun e => e.x.secure) = true ∧
    enters (normal.modCtx 1 (fun x => x.setPsw 6 4 6)) .prim 0x54 { am := 1, sz := 1, ext := 1 } [] false notUser
      (fun e => !e.x.secure && (e.d.ctx 1).secure) = true ∧
    (∀ op ∈ [0x58, 0x59, 0x5A, 0x5B, 0x5E, 0x5F], enters dev .prim op {} [] false anyLevel (fun e => e.x.keeper) = true) ∧
    enters normal .prim 0x5A {} [] false anyLevel (fun e => !e.x.keeper) = true ∧
    enters dev .escF0 4 {} [] false anyLevel (fun e =>
      let D := e.d.trDrain 0 e.slot (fun t => t.ctx == e.cx)
      !D.trPending e.cx (fun _ => true) && !(D.room e.slot).fwd.out.any (fun c => c.ctx == e.cx && c.tagOn)) = true ∧
    dev.coreSlot 0 = some 0 ∧ dev.nextIrq 0 true = none ∧ ((idling 0).core 0).stepping = none ∧
    (∀ tw < 2, (idling tw).coreSlot 0 = some 0 ∧ (idling tw).nextIrq 0 true = some 930 ∧ ((idling tw).room 0).phase = .running ∧
      ((idling tw).core 0).run = .idle ∧ ((idling tw).core 0).halted = none ∧ (idling tw).leads 0 = true ∧
      ((idling tw).nextIrq 0 false).isSome = decide (tw = 0)) := by decide +kernel

/-- The normal world with a spill area. -/
def caller : Dev := normal.modCtx 0 (fun x => { x with wspN := 0x20010000, wctl := 1 })

theorem witness_ControlRegistersAndWorlds :
    (∀ n ∈ [0x00, 0x01, 0x02, 0x08, 0x09, 0x0A, 0x10, 0x11],
      enters dev .escF0 0 { rd := 1, am := 1, sz := 1, ext := BitVec.ofNat 64 n } [] (n == 0) (fun x => decide (crLevel n ≤ x.pl)) = true ∧
      enters dev .escF0 1 { rs := 1, am := 1, sz := 1, ext := BitVec.ofNat 64 n } [1] false (fun x => decide (crLevel n ≤ x.pl)) = true) ∧
    (∀ n < 8, enters dev .escF0 2 { rd := 1, am := 1, sz := 1, ext := BitVec.ofNat 64 n } [] false anyLevel = true ∧
      enters dev .escF0 3 { rs := 1, am := 1, sz := 1, ext := BitVec.ofNat 64 n } [1] false anyLevel = true) ∧
    enters (caller.modCtx 0 (fun x => { x with wspN := 0 })) .prim 0x5C {} [] true mayCall (fun e => e.x.wspN == 0) = true ∧
    (∀ full ∈ [true, false], enters (caller.modCtx 0 (fun x => { x with scN := if full then 0xFFFFF else 0 })) .prim 0x5C {} [] true mayCall (fun e =>
      e.x.wspN != 0 && (e.d.tagWait 0 e.slot e.cx (e.x.callBlocks.flatMap blockRegs)).any (fun d0 =>
        goes ((d0.modCtx e.cx Ctx.finishAll).access e.w e.x.wspN (128 * (e.x.rd + 1)) .write .any .data) (fun d1 ps =>
          decide (0xFFFFF < e.x.scN + e.x.rd + 1) == full &&
          d1.drainReady 0 && (full || e.undoFits d1 ps (wordsBytes (e.x.callBlocks.flatMap (d1.ctx e.cx).blockWords)))))) = true) ∧
    (caller.ctx 0).tw = false ∧
    enters dev .prim 0x5D {} [rH 6, rH 7] false mayReturn (fun e => e.x.fill == 0) = true ∧
    (∀ far ∈ [false, true],
      enters (linkUp.modCtx 0 (fun x => { x with fill := 1, wspN := if far then 0x100000000080 else 0x20010080 })) .prim 0x5D {} [rH 6, rH 7] false
        mayReturn (fun e => e.x.fill != 0 &&
          e.d.drainReady 0 && goes (e.d.access { e.w with secure := false, pl := 1 } (e.x.wspN - 128) 128 .read .any .data) (fun d1 ps =>
            (e.fillItems ((List.range 1).reverse.flatMap (fun k => ((itemsOf ps 0).drop (16 * k)).take 16))
              ((d1.drain 0).cancelTags e.slot e.cx)).2.all (fun q => q.owed == 0) == !far)) = true) := by
  (repeat' with_reducible apply And.intro) <;> decide +kernel

/-! ### Hypotheses that are met: Trestle, interrupts, epochs, failures -/

/-- A register access of core 0 reaches the register, and a test of the device it finds holds. -/
def reg (d : Dev) (o : Nat) (k : AccKind) (p : Dev → Bool := fun _ => true) : Bool :=
  (d.mayReach 0 o k).any (fun D0 => decide (D0.acc 0 = d.acc 0) && p (D0.regWake (D0.acc 0) o))

theorem reaches_of_reg {d : Dev} {o : Nat} {k : AccKind} {p : Dev → Bool} (h : reg d o k p = true) :
    ∃ D, Reaches d 0 o k D ∧ p D = true := by
  unfold reg at h
  cases hm : d.mayReach 0 o k with
  | none => rw [hm] at h; cases h
  | some D0 =>
    rw [hm] at h
    simp only [Option.any_some, Bool.and_eq_true, decide_eq_true_eq] at h
    exact ⟨_, ⟨D0, hm, h.1, rfl⟩, h.2⟩

/-- Registers and form of each Trestle operation: sources and destination lie apart in the share, but for TLD's source and TST's
destination in memory. -/
def trRegs (op : TrOp) : Dev :=
  regs [(1, if op = .tld then 0x200000 else 0), (2, if op = .tst then 0x200000 else 0x2000), (3, 0x1000)]
def trForm (op : TrOp) : Form :=
  { am := 1, sz := 3, rs := 1, rd := 2, ext := if op = .tget then 0x10103 else 0x10003 }

theorem witness_TrestleOperationsIssue :
    ∀ op ∈ [TrOp.tmma, .ti1, .ti2, .ti3, .trsum, .trdot, .trmax, .trmin, .tband, .tld, .tst, .tget, .tput],
      enters (trRegs op) .trestle op.code (trForm op) (trSrcs op (trForm op)) false anyLevel (fun e =>
        let imm := Form.imm32 e.f
        let o := e.d.trOperands e.w op imm (e.x.get 1) (e.x.get e.f.rt) (e.x.get 2)
        ([o.1, o.2.1, o.2.2].filter (e.d.trHolds e.w)).isEmpty && (op != .tband || (!descMem (e.x.get 1) && !descMem (e.x.get e.f.rt))) &&
        ok (e.d.trCheck e.w o.1) (fun a => ok (a.1.trCheck e.w o.2.1) (fun b => ok (b.1.trCheck e.w o.2.2) (fun c =>
          !trOverlap o.2.2 o.1 (.ok c) (.ok a) && !trOverlap o.2.2 o.2.1 (.ok c) (.ok b) &&
          (c.1.tagReady 0 e.slot e.cx (immTag imm)).isSome)))) = true := by decide +kernel

def station (op : TrOp) (imm : W32) : Station :=
  { ctx := 0, op := op, tag := 0, imm := imm, rdVal := 0x2000, rsVal := 0, rtVal := 0x1000, dst := if immDr imm then some 9 else none,
    aReg := none, rotated := false, early := false, rsPa := 0, rsLen := 64, rtPa := 0x1000, rdPa := 0x2000 }
def queued (s : Station) : Dev := dev.modCluster 0 (fun c => { c with trestle := { c.trestle with queue := [s] } })
def finishes (s : Station) (p : Option (Bool × Nat × List Byte) → Bool) : Bool :=
  let d := queued s
  let D := if (d.trSources 0 0 s).isEmpty then d else d.drain 0
  (d.room 0).phase == .running && d.trServes 0 0 && d.trHead 0 0 == some s && ((d.trSources 0 0 s).isEmpty || d.drainReady 0) && D.trReady 0 0 (D.trStore 0 0 s) && D.trLinesReady 0 0 s (D.trStore 0 0 s) &&
    p (D.trStore 0 0 s)

/-- A result in a register, one in the local store, one in memory; a sum of one value; NaNs only, and a number among them. -/
theorem witness_TrestleOperationsFinish :
    finishes (station .tget 0x10100) (fun o => o == none) = true ∧ ((station .tget 0x10100).target (dev.ctx 0)) = some 9 ∧
    finishes { station .tget 0x10100 with dst := none } (fun o => o == none) = true ∧
    finishes (station .tput 0x10000) (fun o => o.any (fun r => !r.1)) = true ∧
    finishes (station .tst 0x10000) (fun o => o.any (fun r => r.1)) = true ∧ AllOn (queued (station .tst 0x10000)) ∧
    (dev.trWords 0 0 false 0 (immN (station .trsum 0x10000).imm)).length = 1 ∧
    fpIsNan 0x7FF8000000000000 = true ∧ fpIsNan 0x3FF0000000000000 = false := by
  (repeat' with_reducible apply And.intro) <;> first | exact all_on _ (by decide +kernel) | decide +kernel

/-- The datapath holds room 1's state, and its save store room 0's. -/
def swinging (d : Dev) : Dev := d.modCluster 0 (fun c => { c with trestle := { c.trestle with
  loaded := some (0, 1), running := some (station .tput 0), save := [(0, station .tget 0)] } })

theorem witness_TrestleWheelAndWatermark :
    (31 : Nat) < 32 ∧
    (let t := ((swinging dev).cluster 0).trestle
     t.serves = false ∧ t.health = .healthy ∧ ((swinging dev).wheelOwner 0 (swinging dev).clk.tb) = some 0 ∧ t.loaded = some (0, 1) ∧
     t.running = some (station .tput 0) ∧ t.save.find? (fun e => e.1 == 0) = some (0, station .tget 0)) ∧
    (∀ early ∈ [true, false], ((queued { station .tput 0x10000 with early := early }).cluster 0).trestle.queue.any
      (fun q => (queued { station .tput 0x10000 with early := early }).coreSlot (coreOf q.ctx) == some 0 && q.early) = early) ∧
    (∀ d ∈ [dev, normal, queued (station .tput 0x10000)], reg d (d.viewOfs 0 0x304) .write = true) ∧
    (dev.acc 0).keeper = true ∧ (normal.acc 0).keeper = false ∧ dev.trWaiting 0 0 = false ∧
    (queued (station .tput 0x10000)).trWaiting 0 0 = true := by decide +kernel

def cmd : FwdCmd :=
  { seq := 0, rgen := 0, ctx := 0, tag := 0, tagOn := true, op := 5, dr := true, dst := some 9, rdv := 0, rsv := 0, rtv := 0, user := 0, epoch := 0,
    due := 6000 }
/-- One forwarded operation outstanding. -/
def forwarded : Dev := dev.modRoom 0 (fun r => { r with fwd := { r.fwd with seq := 1, out := [cmd] }, epo := { r.epo with rgen := 0 } })
def at_ (tb : Nat) (d : Dev) : Dev := { d with clk := { d.clk with tb := tb } }
def late (d : Dev) : Dev := at_ 6000 d
def fwdForm : Form := { am := 1, sz := 3, rs := 1, rd := 2, ext := 0x103 }

theorem witness_ForwardedOperationsComplete :
    ok (dev.enter 0 .fwd 5 fwdForm (dev.fwdCause 0 5) [1, 3, 2] false anyLevel) (fun e =>
      (e.d.tagReady 0 e.slot e.cx (immTag (Form.imm32 e.f))).any (fun d => (d.plan.fwd (d.idOf e.slot)).isSome &&
        decide (d.plan.fwd (d.idOf e.slot) = d.plan.fwd e.w.id)) &&
      (e.d.room e.slot).fwd.out.all (fun c => decide (((e.d.room e.slot).fwd.seq + 2 ^ 64 - c.seq) % 2 ^ 64 < 64))) = true ∧
    forwarded.cplSlot 0x200000 = some 0 ∧ ((forwarded.plan.fwd (forwarded.idOf 0)).map FwdRec.cplPa).getD 0 = 0x200000 ∧
    (forwarded.room 0).fwd.out.find? (fun c => c.seq == leAt (List.replicate 64 (0 : Byte)) 0 8 && c.rgen == leAt (List.replicate 64 (0 : Byte)) 16 1) = some cmd ∧
    leAt (List.replicate 64 (0 : Byte)) 17 1 = 0 ∧ (dev.room 0).fwd.out = [] ∧
    forwarded.clk.tb < cmd.due ∧ cmd.due ≤ (late forwarded).clk.tb ∧
    ((late forwarded).room 0).fwd.out.find? (fun c => c.seq == 0) = some cmd := by decide +kernel

def pending (d : Dev) (l : List Nat) : Dev := { d with irqPend := l }

theorem witness_InterruptsComplete :
    (930 : Nat) < 1024 ∧ ¬ (768 ≤ 930 ∧ 930 < 800) ∧ (768 : Nat) ≤ 768 ∧ (799 : Nat) < 800 ∧
    (∀ d ∈ [dev, normal], reg d (d.viewOfs 0 0x300C) .write (fun D => D.routedTo 930 0) = true) ∧ (dev.acc 0).pl ≠ 0 ∧
    dev.routedTo 931 0 = false ∧ (pending dev [930]).canRun 0 = some 0 ∧ (pending dev [930]).takesIrq 0 = true ∧
    (pending dev [930]).holdsX2 0 = false ∧ (pending dev [930]).nextIrq 0 false = some 930 ∧
    dev.nextIrq 0 false = none ∧ (pending dev [0, 128, 930]).nextIrq 0 false = some 930 ∧
    (pending dev [0, 128]).nextIrq 0 false = some 0 ∧
    (normal.route 930).any (fun r => r.keeper) = true ∧ (normal.ctx 0).secure = false ∧ normal.irqPrioOf 930 < 64 ∧
    (pending normal [930]).chosenCore 0 930 = some 0 ∧ levelSrc 930 = false := by decide +kernel

def ticking (t : TickRegs → TickRegs) : Dev := dev.modRoom 0 (fun r => { r with tick := t { r.tick with en := true, period := 1 } })
def watch (w : WdgRegs → WdgRegs) : Dev := dev.modRoom 0 (fun r => { r with wdg := w { r.wdg with en := true, loaded := 16, count := 8 } })

theorem witness_TimersComplete :
    (let t := ((ticking (fun t => { t with next := 5000 })).room 0).tick
     t.en = true ∧ (dev.rrec 0).isSome = true ∧ t.next ≤ dev.clk.tb) ∧
    (dev.room 0).tick.en = false ∧ dev.clk.tb < ((ticking (fun t => { t with next := 5001 })).room 0).tick.next ∧
    (∀ d ∈ [dev, normal], reg d (d.viewOfs 0 0x2014) .write = true) ∧ (dev.acc 0).secure = (dev.room 0).wdg.kworld ∧
    (normal.acc 0).secure ≠ (normal.room 0).wdg.kworld ∧
    (∀ w ∈ [((watch (fun w => { w with count := 4 })).room 0).wdg], w.en = true ∧ w.warned = false ∧ w.count ≤ w.loaded * w.warn / 16) ∧
    (∀ w ∈ [((watch id).room 0).wdg], w.en = true ∧ w.loaded * w.warn / 16 < w.count ∧ 0 < w.count) ∧
    ((watch (fun w => { w with count := 0 })).room 0).wdg.count = 0 ∧ (dev.room 0).wdg.en = false := by decide +kernel

def room0 (f : Room → Room) : Dev := dev.modRoom 0 f
/-- The undo log of cluster 0 full for the room. -/
def logFull : Dev := dev.modCluster 0 (fun c => { c with undo := List.replicate 8192 { slot := 0, epoch := 0, kind := .line, addr := 0, pre := [] } })

def rb0 : Rollback :=
  { back := 0, started := 4000, testing := [0], recs := [{ kind := 2, loc := 0, addr := 0, detail := 2 }], thenReset := none, thenCore := none,
    subst := [], thenHalt := [] }
/-- A request for a boundary that room 0 cannot take; two packages at a system boundary. -/
def noBound : Dev := room0 (fun r => { r with rb := some rb0 })
def system : Dev :=
  { dev with per := { dev.per with present := 3 }, plan := { plan with sysEpochUs := 100 }, clk := { dev.clk with tb := 200050 } }

theorem witness_EpochsComplete :
    AllOn dev ∧ dev.canBound 0 = true ∧ dev.spans 0 = false ∧ (dev.room 0).epo.frozen = false ∧
    (late (room0 (fun r => { r with epo := { r.epo with next := 5500 } }))).clk.tb ≥ 5500 ∧
    (late (room0 (fun r => { r with epo := { r.epo with next := 5500 } }))).canBound 0 = true ∧
    logFull.canBound 0 = true ∧ 0 ∈ logFull.clustersOf 0 ∧ logFull.undoFree 0 0 ≤ 64 ∧
    (∀ d ∈ [dev, normal], reg d (d.viewOfs 0 0x1004) .write (fun D => D.canBound 0) = true) ∧ (dev.acc 0).keeper = true ∧
    (normal.acc 0).keeper = false ∧ (1 : W32).getLsbD 0 = true ∧
    0 ∈ ((room0 (fun r => { r with epo := { r.epo with streaming := [0] } })).room 0).epo.streaming ∧
    (let r := (room0 (fun r => { r with epo := { r.epo with cnt := 2, conf := 0 } })).room 0
     r.phase = .running ∧ r.rb = none ∧ r.epo.conf + 2 ≤ r.epo.cnt ∧ r.epo.readBad = false) ∧
    (dev.room 0).epo.snapDue = false ∧ ((room0 (fun r => { r with epo := { r.epo with snapDue := true } })).room 0).epo.snapDue = true ∧
    popCount dev.per.present.toNat 4 < 2 ∧ 2 ≤ popCount system.per.present.toNat 4 ∧ system.sysDue 50 = true ∧ system.sysDue 0 = false ∧
    reg noBound (noBound.viewOfs 0 0x1004) .write (fun D => !D.canBound 0) = true ∧ (noBound.acc 0).keeper = true :=
  ⟨dev_on, by decide +kernel⟩

def box (b : Mbox → Mbox) : Dev := dev.setMbox 3 (b Mbox.init)
def msg : List Byte := [1, 2, 3]

theorem witness_MailboxesComplete :
    (3 : Nat) < 128 ∧ (∀ q ∈ [[], List.replicate 16 (⟨0, 0, 8⟩ : MbxItem)],
      reg (box (fun b => { b with queue := q })) (dev.viewOfs 0 (0x4004 + 3 * 64)) .write
        (fun D => (D.plan.mbox 3).any (fun m => m.sender == (dev.acc 0).id) && decide ((D.mbox 3).queue.length = q.length)) = true) ∧
    (dev.acc 0).pl ≠ 0 ∧
    (dev.plan.mbox 3).any (fun m =>
      let need := 8 + 8
      let half := m.bufSize / 2
      !decide (half < 0 + need + 8) && decide (half < (half - 16) + need + 8) &&
      decide (need + 8 ≤ mboxFree half 0 0) && decide (mboxFree half (half - 16) (half - 8) < 16 + need + 8)) = true ∧
    ((box (fun b => { b with waiting := [msg] })).mbox 3).waiting = [msg] ∧ AllOn (box (fun b => { b with waiting := [msg] })) := by
  (repeat' with_reducible apply And.intro) <;> first | exact all_on _ (by decide +kernel) | decide +kernel

/-- Room 0 spans packages. -/
def spanning : Dev := { dev with plan := { plan with rooms := plan.rooms.map (fun r => { r with span := true }) } }
def roll (b : Rollback) : Dev := room0 (fun r => { r with phase := .rolling, rb := some b })
/-- Room 0 paired; its window mirrored in the second channel. -/
def paired : Dev := { dev with plan := { plan with epochs := [{ roomId := 0, paired := true, epochUs := 20 }] } }
def mirrored : Dev := { dev with plan := { plan with windows := plan.windows.map (fun w =>
  if w.base = 0 then { w with mirror := 1, mirrorBase := 0x80000000 } else w) } }
/-- A clean line of cluster 0's L2. -/
def line0 : L2Line := { line := 0x8000, way := 3, st := .e, room := 0 }
def cached (st : Moesi) : Dev := dev.modCluster 0 (fun c => { c with l2 := [{ line0 with st := st }] })

theorem witness_ErrorsComplete :
    (dev.room 0).rb = none ∧ ((roll rb0).room 0).rb = some rb0 ∧ ((roll rb0).room 0).phase = .rolling ∧ dev.coreSlot 0 = some 0 ∧
    paired.coreSlot 0 = some 0 ∧ paired.plan.paired (paired.idOf 0) = true ∧ 0 ∈ dev.clustersOf 0 ∧ dev.coreSlot (coreOf 0) = some 0 ∧
    (dev.room 0).phase = .running ∧ mirrored.homeOf (0x8000 * 64) = some 0 ∧ mirrored.mirrorServes 0x8000 = true ∧
    ((cached .e).cluster 0).l2.find? (fun x => x.line == 0x8000) = some line0 ∧ line0.st.dirty = false ∧
    ((cached .m).cluster 0).l2.find? (fun x => x.line == 0x8000) = some { line0 with st := .m } ∧ (cached .m).slotOf 0 = some 0 ∧
    (cached .m).ew 0 0x8000 = false ∧ ((cached .m).modCluster 0 (fun c => { c with undo :=
      [{ slot := 0, epoch := 1, kind := .line, addr := 0x8000, pre := [] }] })).ew 0 0x8000 = true ∧
    ([0, 0, 0, 0, 0, 0, 0, 0] : List Nat).all (· == 0) = true ∧ corrects .l1 [1, 0, 1] 0 = true ∧ corrects .l2 [2, 0, 1] 1 = true ∧
    corrects .l2 [2, 2] 0 = false ∧ spanning.spans 0 = true ∧ (spanning.room 0).phase = .running ∧ (spanning.room 0).rb = none ∧ dev.spans 0 = false ∧ ((roll rb0).room 0).phase = .rolling ∧
    Sparse.get 0 (dev.cluster 0).trestle.ce 3 + 1 < (dev.cluster 0).trestle.ceLimit ∧ Sparse.get 0 (dev.cluster 0).trestle.ce 3 < 255 := by
  decide +kernel

theorem witness_QuickTestsAndResumeComplete :
    (roll rb0).coreSlot 0 = some 0 ∧ 0 ∈ rb0.testing ∧
    rb0.recs.find? (fun x => (x.kind == 2 && x.loc == (roll rb0).sysCore 0) || (x.kind == 1 && x.loc / 2 == (roll rb0).sysCore 0 / 2)) =
      some { kind := 2, loc := 0, addr := 0, detail := 2 } ∧ (roll rb0).clk.stopped = false ∧ ((roll rb0).room 0).pwr.susp = false ∧ ((roll rb0).cluster 0).spare ≠ 7 ∧
    ((roll rb0).cluster 0).slotMap.length = 4 ∧ (roll rb0).located 0 ((roll rb0).physSlot 0) < (roll rb0).ras.subLimit ∧
    ((roll rb0).room 0).rb = some rb0 ∧ rb0.testing ≠ [] ∧
    (let b := { rb0 with testing := [] }
     ((roll b).room 0).rb = some b ∧ ((roll b).room 0).phase = .rolling ∧ b.thenReset = none ∧ b.thenCore = none ∧ b.thenHalt = [] ∧
       (roll b).clk.tb % 5000 = 0 ∧ (at_ 5001 (roll b)).clk.tb % 5000 ≠ 0) := by
  decide +kernel

def ring (rd wr : Nat) : Dev := { dev with inc := { dev.inc with rd := rd, wr := wr } }
def hit : PatrolHit := { line := 0x8000, rank := 0, device := 3, row := 7 }
def degraded : Dev := { dev with ras := { dev.ras with mirrorDeg := 1 } }

theorem witness_LostUnitsComplete :
    (∃ rd wr, ((ring rd wr).inc.wr + 8192 - (ring rd wr).inc.rd) % 8192 = 8191) ∧ (dev.inc.wr + 8192 - dev.inc.rd) % 8192 ≠ 8191 ∧
    incClass 0x06 = 2 ∧ (dev.region 7).l3Retired.getLsbD 15 = false ∧ AllOn dev ∧ (dev.cluster 31).l2Retired.getLsbD 15 = false ∧
    (dev.region 0).spent hit = false ∧
    (recent dev.clk.tb (Sparse.get [] (dev.region 0).devErr (hit.rank * 64 + hit.device))).length + 1 < dev.ras.devLimit ∧
    (recent dev.clk.tb (Sparse.get [] (dev.region 0).rowErr hit.row)).length < 3 ∧ (dev.region 2).chanLost = false ∧
    dev.mirrorPair 2 = none ∧ dev.mirrorPair 0 = some 0 ∧ (dev.region 1).chanLost = false ∧ degraded.ras.mirrorDeg.getLsbD 0 = true ∧
    (degraded.region 0).chanLost = false ∧ (degraded.region 1).chanLost = false ∧ dev.ras.mirrorDeg.getLsbD 0 = false ∧
    1 ∉ dev.diesLost ∧ 1 ∈ ({ dev with diesLost := [1] } : Dev).diesLost ∧ (dev.cluster 0).trestle.testing = false ∧
    ((dev.modCluster 0 (fun c => { c with trestle := { c.trestle with testing := true } })).cluster 0).trestle.testing = true :=
  ⟨⟨0, 8191, by decide +kernel⟩, by decide +kernel, by decide +kernel, by decide +kernel, dev_on, by decide +kernel⟩

def txn (kind : TxnKind) (who : Nat := 0) : Txn :=
  { line := 0x8000, kind := kind, requester := who, room := 0, stamp := 4900, toSnoop := [], awaiting := [], gotData := false,
    ownerDirty := false, heldBy := [], slotTag := none, cmp := false, sent := false, installed := false, bytes := [] }
def opened (d : Dev) (t : Txn) : Dev := d.modRegion 0 (fun g => { g with txns := [t] })
def miss (core : Nat) : MissReg := { line := 0x8000, core := core, room := 0, use := .data, wr := false, secs := [] }
def missing (d : Dev) (core : Nat) : Dev := d.modCluster 0 (fun c => { c with miss := [(0, miss core)] })
/-- Two packages; a core of the second serves room 1, and package 1's slice of memory is homed there. -/
def two : Dev := { dev with plan := { plan with
  pkgs := plan.pkgs ++ [{ pkg := 1, linkEn := 7, mirrorPairs := 0, ddrMts := 6400, chan := ⟨0, 64⟩ :: List.replicate 7 ⟨0, 0⟩ }]
  clusters := plan.clusters ++ [{ cluster := 32, coreEn := 1, coreRoom := [1, 0, 0, 0], tlsA := 8, tslotA := 8, ctxMaskA := 1, ctxMaskB := 1 }] } }
/-- Every way of cluster 0's set holds a dirty line. -/
def crowdedL2 (d : Dev) : Dev := d.modCluster 0 (fun c => { c with
  l2 := (List.range 16).map (fun w => { line := (w + 17) * 2048, way := w, st := .m, room := 0 }) })
/-- An engine's earlier write waits at a home. -/
def engineWrites : Dev := dev.modRegion 1 (fun g => { g with txns := [{ txn .wrf 130 with line := 0x8001 }] })

theorem witness_CoherenceRequestsComplete :
    AllOn dev ∧ dev.homeLocal 0x8000 = some 0 ∧ (dev.region 0).waitQ = [] ∧ 0 / 128 = dev.pkg ∧
    (∀ r ∈ ([(dev, .rds), (dev, .rdx), (cached .s, .upg), (crowdedL2 dev, .rds)] : List (Dev × TxnKind)), ∀ busy ∈ [true, false],
      let d := if busy then opened r.1 (txn .wrf 130) else r.1
      d.needs 0 0x8000 r.2 = true ∧ d.mayRequest 0 0x8000 = true ∧ d.missOf 0 0x8000 = none ∧ (d.freeMiss 0 0 .data).isSome = true ∧
      (busy = false → (d.region 0).txn 0x8000 = none ∧ d.entryFree 0 0 0 = true) ∧ (busy = true → (d.region 0).txn 0x8000 ≠ none)) ∧
    ((crowdedL2 dev).l2Victim 0 0 0x8000).any (fun v => v.st.dirty) = true ∧
    (let d := dev.modCluster 0 (fun c => { c with miss := (List.range 16).map (fun i => (i, { miss 0 with line := i })) })
     d.missOf 0 0x8000 = none ∧ d.freeMiss 0 0 .data = none ∧ d.needs 0 0x8000 .rds = true ∧ d.mayRequest 0 0x8000 = true) ∧
    (missing dev 1).missOf 0 0x8000 = some (0, miss 1) ∧ (miss 1).core ≠ 0 ∧ (miss 1).secs.length < 4 ∧
    128 / 128 ≠ two.pkg ∧ two.plan.coreRoom (128 / 128) 128 = none ∧ two.plan.coreRoom 1 0 = some 1 ∧
    (128 ≤ 130) ∧ dev.hubCount < 64 ∧ (List.replicate 64 (1 : Byte)).length = 64 ∧ dev.engineBusy 130 = false ∧
    engineWrites.engineBusy 130 = true ∧ dev.entryFree 0 130 0 = true ∧
    (∀ k ∈ [SnoopKind.snps, .snpx, .snpi, .snpc], ∀ q ∈ [Moesi.m, .o, .e, .s],
      let t := { txn .rdx 1 with toSnoop := [(0, k)], awaiting := [0] }
      ((opened (cached q) t).region 0).txn 0x8000 = some t ∧ (0, k) ∈ t.toSnoop ∧ (opened (cached q) t).homeLocal 0x8000 = some 0) ∧
    AllOn (opened (cached .m) (txn .rdx)) ∧ dev.bufferers 128 [0x8000] = [] ∧
    two.homeLocal (2 ^ 44) = none ∧ two.homeOf (2 ^ 44 * 64) = some 8 ∧ (two.link ((8 / 8 ^^^ two.pkg) - 1)).busy = false := by
  (repeat' with_reducible apply And.intro) <;> first | exact all_on _ (by decide +kernel) | decide +kernel

def evicting (stale granted : Bool) : Dev := dev.modCluster 0 (fun c => { c with slots := [(2, some ⟨0x8000, 0, stale, granted, 4900⟩)] })
def waiting (l : List ChanReq) (f : Region → Region) : Dev := dev.modRegion 0 (fun g => f { g with chanQ := l })
def req : ChanReq := { room := 0, requester := 0, stamp := 4900, line := 0x8000, posted := false, late := false }
def bwRec : BwRec := { roomId := 0, region := 0, units := 0, slots := 2 ^ 64 - 1 }
def sealedBw : Dev := { (waiting [req] (fun g => { g with turn := [bwRec] })) with plan := { plan with bw := [bwRec] } }

theorem witness_CoherenceRepliesAndSlots :
    (let t := { txn .rds with awaiting := [0, 9] }
     ((opened dev t).region 0).txn 0x8000 = some t ∧ (opened dev t).homeLocal 0x8000 = some 0 ∧ 0 ∈ t.awaiting ∧ 9 ∈ t.awaiting ∧ 5 ∉ t.awaiting ∧
       ∀ p ∈ t.toSnoop, dev.sysRegion (p.1 / 4) ≠ 0) ∧
    (∀ k ∈ [TxnKind.rds, .rdx, .upg, .rdc, .wrf, .wrp], let D := opened (missing dev 0) (txn k)
      (D.region 0).txn 0x8000 = some (txn k) ∧ (txn k).ready = true ∧ D.chanWaits 0x8000 = false ∧ D.writeWaits 0x8000 = false ∧
      D.missOf 0 0x8000 = some (0, miss 0) ∧ Sparse.get none (D.cluster 0).slots 0 = none ∧ D.ownCluster 0 = some 0 ∧
      (D.region 0).waitQ = [] ∧ D.hubQ = [] ∧ D.l2Victim 0 0 0x8000 = none ∧ D.l2Way 0 0 0x8000 ≠ none ∧
      ((D.cluster 0).miss.all (fun p => p.1 == 0)) = true) ∧
    ((opened (missing (crowdedL2 dev) 0) (txn .rds)).l2Victim 0 0 0x8000).any (fun v => v.st.dirty) = true ∧
    (∀ tag ∈ [none, some (4 : BitVec 12)], ∀ k ∈ [TxnKind.rds, .wrf],
      let t := { txn k with sent := decide (k = .rds), installed := decide (k = .rds), slotTag := tag }
      ((opened dev t).region 0).txn 0x8000 = some t ∧ (t.installed = true ∨ t.ready = true)) ∧ (txn .rds).installed = false ∧ dev.txnOf 0x8000 = none ∧
    ((opened dev (txn .evd)).region 0).txn 0x8000 = some (txn .evd) ∧
    (∀ stale ∈ [true, false], ((evicting stale false).cluster 0).slotGen.getLsbD 2 = (4 : BitVec 12).getLsbD 0 ∧
      Sparse.get none ((evicting stale false).cluster 0).slots ((4 : BitVec 12).toNat / 2 % 16) = some ⟨0x8000, 0, stale, false, 4900⟩ ∧
      (4 : BitVec 12).toNat / 1024 = (evicting stale false).pkg ∧
      ∀ l ∈ [[], [{ txn .wrf 130 with cmp := true, slotTag := some 4 }], [txn .wrf 130]],
        (((evicting stale false).modRegion 0 (fun g => { g with txns := l })).region 0).waitQ = [] ∧
        (((evicting stale false).modRegion 0 (fun g => { g with txns := l })).region 0).txn 0x8000 = l.head?) ∧
    AllOn (evicting true false) ∧ AllOn (evicting false false) ∧ (∀ j < 64, dev.mirrorOf (0x8000 * 64 + j) = none) ∧
    dev.listed 0x8000 = [] ∧ 0 ∈ (cached .e).listed 0x8000 ∧ (cached .e).sysRegion (0 / 4) / 8 = (cached .e).pkg ∧ dev.clk.stopped = false ∧
    (dev.domain 64).st = .on ∧ (((sealedBw.turnOwner 0 0).filter sealedBw.ownerRuns).bind (fun id =>
      sealedBw.oldest ((sealedBw.region 0).chanQ.filter (fun q => q.room == id)))) = some req ∧
    (dev.turnOwner 0 0) = none ∧ ((waiting [req] id).openGrant 0).isSome = true ∧ (dev.openGrant 0) = none := by
  (repeat' with_reducible apply And.intro) <;> first | exact all_on _ (by decide +kernel) | decide +kernel

def moving : Dev := room0 (fun r => { r with wm := { r.wm with busy := true, win := 0, target := 0x10000000 } })

theorem witness_CacheControlCompletes :
    (∀ d ∈ [dev, normal], reg d (d.viewOfs 0 0x200) .write (fun D => D.timed 0) = true ∧ reg d (d.viewOfs 0 0x108) .write = true ∧
      reg d (d.viewOfs 0 0x148) .write (fun D => (D.winOf 0 0).isSome && (D.clustersOf 0).all (fun c => (D.cluster c).trestle.queue == [])) = true) ∧
    AllOn dev ∧ (dev.acc 0).keeper = true ∧ (normal.acc 0).keeper = false ∧ (dev.acc 0).pl ≠ 0 ∧ (dev.room 0).tlbi.busy = false ∧
    (0x708 : W32).getLsbD 3 = true ∧ (dev.room 0).wm.busy = false ∧ (moving.room 0).wm.busy = true ∧ (15 : Nat) < 2 ^ 32 :=
  ⟨by decide +kernel, dev_on, by decide +kernel⟩

/-- Core 0's line in a state of MOESI, and a store of core 0 that waits for it. -/
def storing (st : Moesi) : Dev := (cached st).modCore 0 (fun c => { c with sbuf := [{ keep := none, nt := false, bytes := [(0x200000, 1)] }] })

/-- Buffered stores with and without their line: an open transaction holds an owned one back (R270, R277). -/
theorem witness_BufferedLines :
    (let d := storing .m
     d.drainReady 0 = true ∧ (linesOf [(0x200000, (1 : Byte))]).all (fun n => d.lineReady 0 n true .data) = true) ∧
    (let d := opened (storing .o) (txn .rds 128)
     d.drainReady 0 = false ∧ (linesOf [(0x200000, (1 : Byte))]).all (fun n => d.lineReady 0 n true .data) = false ∧ d.canBound 0 = false ∧
     enters d .prim 0x58 {} [] false anyLevel (fun e => !e.d.drainReady 0) = true ∧
     enters d .prim 0x54 { am := 1, sz := 1, ext := 1 } [] false notUser (fun e => e.x.secure && !e.d.drainReady 0) = true) ∧
    enters (storing .m) .prim 0x58 {} [] false anyLevel (fun e => e.d.drainReady 0) = true ∧
    enters (storing .m) .prim 0x54 { am := 1, sz := 1, ext := 1 } [] false notUser (fun e => e.x.secure && e.d.drainReady 0) = true ∧
    (idling 0).boundaryDue 0 = false := by decide +kernel

/-- No watermark move holds the vectors of the trap entries. -/
theorem witness_VectorsAreFree :
    (∀ d ∈ [dev, longCtx], let D := d.settleFlags 0
      D.vectorHeld 0 ((D.ctx 0).rotate.ringEntry entry 0 0 0 0) = false) ∧
    enters dev .prim 0x45 { am := 1, sz := 1, ext := 7 } [] true anyLevel (fun e =>
      let D := (e.d.setCtx e.cx (e.x.setPsw 21 16 0)).settleFlags 0
      !D.vectorHeld 0 ((D.ctx e.cx).rotate.ringEntry (e.x.excEntry 0x1C0) 0 0 0 0)) = true := by decide +kernel

/-- A boundary that a load's miss holds back: what asks for it waits (R330). -/
def missed : Dev := missing dev 0

theorem witness_BoundariesWait :
    missed.canBound 0 = false ∧ (missed.room 0).phase = .running ∧ (missed.room 0).epo.want = 0 ∧ (crowded missed).canBound 0 = false ∧
    ((crowded missed).room 0).epo.want = 0 ∧ 0 ∈ (crowded missed).clustersOf 0 ∧ (crowded missed).undoFree 0 0 ≤ 64 ∧ dev.ckptFree 0 = true ∧
    (room0 (fun r => { r with epo := { r.epo with cnt := 2, conf := 0, streaming := [0] } })).ckptFree 0 = false ∧
    reg missed (missed.viewOfs 0 8) .write (fun D => !D.canBound 0 && (D.room 0).rb.isNone && (D.room 0).phase == .running) = true ∧
    (pending missed [930]).holdsX2 0 = true := by decide +kernel

/-- A core already named by a detector of one core; a datapath served by a helper, one that is lost; a spanning room that is held elsewhere; a
window that only the lost channel of a pair holds. -/
def trestles (h : TrHealth) : Dev := dev.modCluster 0 (fun c => { c with trestle := { c.trestle with health := h, helper := 1 } })

theorem witness_ErrorsAddUp :
    (∃ b x, ((roll rb0).room 0).rb = some b ∧ x ∈ b.recs ∧ x.kind = 2 ∧ x.loc / 2 = (roll rb0).sysCore 0 / 2) ∧
    (¬ ∃ b x, (dev.room 0).rb = some b ∧ x ∈ b.recs ∧ x.kind = 2 ∧ x.loc / 2 = dev.sysCore 0 / 2) ∧ 0 ∈ (trestles .forwarded).clustersOf 0 ∧
    ((trestles .forwarded).cluster 0).trestle.health = .forwarded ∧ ((trestles .forwarded).cluster 1).trestle.health ≠ .lost ∧
    ((trestles .lost).cluster 0).trestle.health = .lost ∧ 5 ∉ dev.clustersOf 0 ∧ spanning.spans 0 = true ∧ (2047 : Nat) < 2048 ∧
    corrects .l2 [1, 0, 1] 0 = true ∧ ([1, 0, 1] : List Nat).all (· == 0) = false ∧ (7 : Nat) < 8 :=
  ⟨⟨rb0, _, by decide +kernel, List.mem_cons_self, rfl, by decide +kernel⟩,
   fun ⟨b, x, h, _⟩ => (by rw [show (dev.room 0).rb = none by decide +kernel] at h; cases h), by decide +kernel⟩

/-- The wheel of home 0 turns at DDR 6400 and last started a slot. -/
def spun (d : Dev) (k : Nat) : Dev := d.modRegion 0 (fun g => { g with mts := 6400, wheelAt := k })

/-- A hint's miss register, with the line there as it asks and not; requests that find no entry; engine writes and slots of other kinds. -/
theorem witness_HintsEntriesAndSlots :
    (let m : MissReg := { line := 0x8000, core := 0, room := 0, use := .hint 1 false, wr := true, secs := [] }
     (cached .s).l2St (m.core / 4) 0x8000 = some .s ∧ (cached .e).l2St (m.core / 4) 0x8000 = some .e ∧ m.secs = []) ∧
    (miss 0).use.isHint = false ∧ dev.l1MissFree 0 .data = true ∧ (0, MissUse.data) ∉ (miss 1).secs ∧
    ((evicting false false).modRegion 0 (fun g => { g with txns := (List.range 96).map (fun i => { txn .wrf 130 with line := i + 1 }) })).entryFree
      0 ((4 : BitVec 12).toNat / 32) 0 = false ∧ dev.entryFree 0 0 0 = true ∧
    engineWrites.engineSent 130 = true ∧ dev.hubQ = [] ∧ 128 ≤ 130 ∧
    (∀ p ∈ [(3990, some 4000), (4000, none)], (spun sealedBw p.1).nextSlot 0 = p.2) ∧
    (let D := spun (sealedBw.modRegion 0 (fun g => { g with wheel := 33 })) 4000
     ((D.turnOwner 0 32).filter D.ownerRuns).bind (fun id => D.oldest ((D.region 0).chanQ.filter (fun q => q.room == id))) = some req) ∧
    ((spun (waiting [req] id) 4000).openGrant 0).isSome = true := by decide +kernel

/-- Operations of a core of another package on a room that spans packages, and on one that does not (R233, R247). -/
theorem witness_OperationsFromAfar :
    spanning.slotOf 0 = some 0 ∧ spanning.spans 0 = true ∧ dev.slotOf 0 = some 0 ∧ dev.spans 0 = false ∧ (spanning.room 0).wm.busy = false ∧
    (spanning.winOf 0 0).isSome = true ∧ AllOn spanning ∧ (∀ c ∈ spanning.clustersOf 0, (spanning.cluster c).trestle.queue = []) := by
  (repeat' with_reducible apply And.intro) <;> first | exact all_on _ (by decide +kernel) | decide +kernel

/-! ### Hypotheses that are met: the floorplan and the Lobby -/

def flp (f : Flp → Flp) : Dev := { dev with flp := f dev.flp, shadowPlan := some plan }
def heldRoom (reason : Nat) : Dev := dev.modRoom 1 (fun r => { r with phase := .held, reason := reason })

theorem witness_FloorplanByTheKeeper :
    (∀ st ∈ [FlpSt.idle, .validating, .ready, .armed, .draining, .swapping], reg (flp (fun f => { f with st := st })) 0x10000 .write
      (fun D => D.flp.st == st && D.shadowPlan == some plan) = true) ∧
    reg normal 0x10000 .write = true ∧ (normal.acc 0).keeper = false ∧ (dev.acc 0).keeper = true ∧ (dev.acc 0).id = 0 ∧
    (0x0 : W32).toNat % 16 ∉ [1, 2, 3, 4, 5] ∧ dev.flpSource 0 1024 = true ∧ dev.flpSource (2 ^ 32) 1024 = false ∧
    dev.slotOf 77 = none ∧ dev.slotOf 0 = some 0 ∧ (dev.room 0).phase ≠ .held ∧
    (∀ r ∈ [3, 7], reg (heldRoom r) 0x10000 .write (fun D => (D.slotOf 1 == some 1) && (D.room 1).phase == .held && (D.room 1).reason == r) = true) := by
  decide +kernel

/-- An armed swap at a package boundary with every room stopped. -/
def armed : Dev := { (dev.modRoom 0 (fun r => { r with phase := .drained })) with
  flp := { dev.flp with st := .armed }, shadowPlan := some plan, clk := { dev.clk with tb := 10000 } }
def filling (phase : RoomPhase) (reason : Nat) : Dev := room0 (fun r => { r with zeroFill := true, phase := phase, reason := reason })

theorem witness_SwapCompletes :
    dev.flp.st ≠ .validating ∧ (flp (fun f => { f with st := .validating })).flp.st = .validating ∧ dev.others = [] ∧
    ({ dev with per := { dev.per with present := 2 } } : Dev).others = [1] ∧
    dev.shadowPlan = none ∧ (flp id).swapReady = false ∧ armed.shadowPlan = some plan ∧ armed.swapReady = true ∧ armed.porch.mainOk = true ∧
    (dev.room 0).zeroFill = false ∧
    ((filling .held 8).room 0).zeroFill = true ∧ ((filling .held 8).room 0).phase = .held ∧ ((filling .held 8).room 0).reason = 8 ∧
    ((filling .held 8).rrec 0).any RoomRec.autostart = true ∧ ((filling .running 0).room 0).phase ≠ .held := by
  decide +kernel

/-- An owned device with one open owner session, number 1, that holds full on both worlds of room 0. -/
def sess : Session :=
  { sid := 1, slot := 0, ch := .mac 0, nc := [], nd := [], isOpen := true, key := [], lastSeq := 0, sent := 0, discarded := 0, lastAt := 0,
    role := 4, stream := 0 }
def keyed (k : KeySlot) : Dev :=
  { (dev.modRoom 0 (fun r => { r with dbg := { r.dbg with sec := 2, norm := 2 }, sess := [⟨1, 4, 2⟩] })) with
    keys := { dev.keys with own := .owned, slots := [(0, k)] } }
def slot0 : KeySlot := { key := List.replicate 32 1, salt := List.replicate 16 2, role := 4, fails := 0, lockUntil := 0 }
def owned : Dev := keyed slot0
def lobby (d : Dev) (l : List Session) : State := { dev := d, lobby := { sessions := l, nextSid := 9 }, pending := [] }
def ses (d : Dev) : State := lobby d [sess]

/-- A message of session 1 with the number, payload and right MAC of a command. -/
def msgWith (cmd : Nat) (p : List Byte) : LobbyMsg := { sid := 1, seq := 1, payload := p, mac := msgMac [] 1 1 cmd 0 0 p }

/-- Such a message is acted on, whatever the command. -/
theorem admits (d : Dev) (i : Instr) (cmd roles : Nat) (p : List Byte) (hrow : lobbyRow i = some (msgWith cmd p, cmd, roles))
    (hs : (ses d).sessionOf 1 = some sess) (hp : p.length ≤ 1280) (hr : roles.testBit 4 = true) : Admits (ses d) i sess (msgWith cmd p) :=
  ⟨cmd, roles, hrow, hs, by
    have : sess.key = [] := rfl
    simp [Session.accepts, msgWith, sess, hp], hr⟩

theorem owned_session : (ses owned).sessionOf 1 = some sess := by decide +kernel

def hand : Session := { sess with sid := 5, isOpen := false }

theorem witness_SessionsOpenAndClose :
    owned.lobbyUp = true ∧ owned.chReach (.mac 0) = true ∧ owned.keys.own = .owned ∧
    8 ≤ ((List.replicate 8 sess).filter Session.isOpen).length ∧ (([] : List Session).filter Session.isOpen).length < 8 ∧
    (owned.keySlot 15).key = [] ∧ (keyed { slot0 with lockUntil := 6000 }).clk.tb < ((keyed { slot0 with lockUntil := 6000 }).keySlot 0).lockUntil ∧
    (owned.keySlot 0).key ≠ [] ∧ (owned.keySlot 0).lockUntil ≤ owned.clk.tb ∧ (lobby owned [sess]).lobby.nextSid < 2 ^ 32 ∧
    (∀ y ∈ (lobby owned [sess]).lobby.sessions, y.sid ≠ (lobby owned [sess]).lobby.nextSid) ∧
    (lobby owned [sess, hand]).lobby.sessions.find? (fun y => y.sid == 5 && !y.isOpen) = some hand ∧
    (∃ mac, mac = Config.hmac256 (owned.keySlot 0).key (ascii "KSES-C")) ∧
    (lobby owned [sess]).lobby.sessions.find? (fun y => y.sid == 1 && y.isOpen) = some sess ∧
    owned.clk.tb < sess.lastAt + 300000000000 ∧
    sess.lastAt + 300000000000 ≤ ({ owned with clk := { owned.clk with tb := 300000000000 } } : Dev).clk.tb ∧
    dev.lobbyUp = true ∧ owned.keys.own ≠ .unowned ∧ dev.keys.own = .unowned ∧ (List.replicate 880 (0 : Byte)).length = 880 ∧
    (∀ k < 16, leAt (List.replicate 880 (0 : Byte)) (96 + 49 * k) 1 ≤ 4) ∧
    (∃ k < 16, 4 < leAt (List.replicate 880 (5 : Byte)) (96 + 49 * k) 1) ∧ dev.keys.identAt.find? (fun p => p.1 == 0) = none ∧
    ({ dev with keys := { dev.keys with identAt := [(0, 4000)] } } : Dev).keys.identAt.find? (fun p => p.1 == 0) = some (0, 4000) := by
  (repeat' with_reducible apply And.intro) <;> first | decide +kernel | exact ⟨_, rfl⟩

/-- A wrong MAC for any right one. -/
theorem wrong_mac (l : List Byte) : l ++ [0] ≠ l := by simp

theorem witness_LobbyMessagesComplete :
    (∃ i m, lobbyRow i = some (m, 1, 31) ∧ (ses owned).sessionOf m.sid = some sess ∧ sess.lastSeq < m.seq ∧ m.seq < 2 ^ 32 ∧
      m.payload.length ≤ 1280 ∧ m.mac = (Config.hmac256 sess.key
        (leBytes 4 m.sid ++ leBytes 4 m.seq ++ leBytes 1 1 ++ leBytes 1 0 ++ leBytes 2 m.payload.length ++ leBytes 4 0 ++ m.payload)).take 16 ∧
      (31 : Nat).testBit sess.role = true) ∧
    (ses owned).sessionOf 2 = none ∧ ¬ sess.lastSeq < 0 ∧ sess.discarded < 15 ∧ 15 ≤ ({ sess with discarded := 15 } : Session).discarded ∧
    (0b10000 : Nat).testBit ({ sess with role := 1 } : Session).role = false :=
  ⟨⟨.status (msgWith 1 []), msgWith 1 [], rfl, owned_session, by decide, by decide, by decide, rfl, by decide⟩, by decide +kernel⟩

def halted : Dev := owned.modCore 0 (fun c => { c with halted := some 1 })

theorem witness_LobbyReadsComplete :
    Admits (ses owned) (.status (msgWith 1 [])) sess (msgWith 1 []) ∧
    Admits (ses owned) (.readInc (msgWith 2 []) false 0 10) sess (msgWith 2 []) ∧ Admits (ses owned) (.readInc (msgWith 2 []) true 0 11) sess (msgWith 2 []) ∧
    Admits (ses owned) (.readTrace (msgWith 3 []) 0 0 40) sess (msgWith 3 []) ∧ Admits (ses owned) (.readTrace (msgWith 3 []) 9 0 41) sess (msgWith 3 []) ∧
    Admits (ses halted) (.regRd (msgWith 0x15 []) 0 0 .pc) sess (msgWith 0x15 []) ∧ Admits (ses owned) (.regRd (msgWith 0x15 []) 127 0 .pc) sess (msgWith 0x15 []) ∧
    Admits (ses owned) (.pcSample (msgWith 0x19 []) 0) sess (msgWith 0x19 []) ∧
    Admits (ses owned) (.memRd (msgWith 0x17 []) 0 (.pa 0x200000) 8 false) sess (msgWith 0x17 []) ∧
    (owned.rrec 0).isSome = true ∧ owned.rrec 9 = none ∧ 0 + 40 ≤ owned.traceKib 0 * 32 ∧ owned.coreSlot 0 = some 0 ∧ owned.coreSlot 127 = none ∧
    1 ≤ owned.sessLevel 0 1 true ∧ dev.sessLevel 0 1 true = 0 ∧ (owned.core 0).halted = none ∧ (halted.core 0).halted.isSome = true ∧
    0 ∈ halted.banks 0 ∧ (owned.room 0).phase = .running ∧ (owned.core 0).run = .running ∧
    (∀ i < 8, owned.dbgByte 0 1 1 false (0x200000 + i) = 0) ∧ (∃ i < 8, dev.dbgByte 0 1 1 false (0x200000 + i) = 2) ∧
    (∀ i < 8, owned.dbgByte 0 1 1 false (0x100000000000 + i) = 0) ∧ paKind 0x100000000000 = .pcie ∧ paKind 0x200000 = .dram ∧
    owned.inViewPage 0 0x200000 = false ∧ (owned.plan.windowAt 0 0x200000).isSome = true := by
  have h := owned_session
  have g : (ses halted).sessionOf 1 = some sess := by decide +kernel
  refine ⟨admits _ _ _ _ _ rfl h (by decide) rfl, admits _ _ _ _ _ rfl h (by decide) rfl, admits _ _ _ _ _ rfl h (by decide) rfl,
    admits _ _ _ _ _ rfl h (by decide) rfl, admits _ _ _ _ _ rfl h (by decide) rfl, admits _ _ _ _ _ rfl g (by decide) rfl,
    admits _ _ _ _ _ rfl h (by decide) rfl, admits _ _ _ _ _ rfl h (by decide) rfl, admits _ _ _ _ _ rfl h (by decide) rfl, ?_⟩
  decide +kernel

/-- BP_SET of comparator 3 of core 0, for both worlds. -/
def bpPayload : List Byte := [0, 0, 3, 0, 0x18, 3, 0, 0] ++ List.replicate 8 0
def asked : Dev := owned.modCore 0 (fun c => { c with pendHalt := some 1 })

theorem witness_LobbyDebugComplete :
    Admits (ses owned) (.halt (msgWith 0x10 []) (.core 0)) sess (msgWith 0x10 []) ∧ Admits (ses halted) (.resume (msgWith 0x11 []) (.core 0)) sess (msgWith 0x11 []) ∧
    Admits (ses halted) (.step (msgWith 0x12 []) 0 (.one true)) sess (msgWith 0x12 []) ∧ Admits (ses owned) (.bpSet (msgWith 0x13 bpPayload)) sess (msgWith 0x13 bpPayload) ∧
    Admits (ses owned) (.bpClr (msgWith 0x14 []) 0 3) sess (msgWith 0x14 []) ∧ Admits (ses halted) (.regWr (msgWith 0x16 []) 0 0 .pc 0) sess (msgWith 0x16 []) ∧
    Admits (ses owned) (.memWr (msgWith 0x18 []) 0 (.pa 0x200000) [1]) sess (msgWith 0x18 []) ∧
    owned.haltTargets (.core 127) = none ∧ owned.haltTargets (.core 0) = some (0, [0]) ∧ halted.haltTargets (.core 0) = some (0, [0]) ∧
    owned.sessLevel 0 1 false = 2 ∧ owned.sessLevel 0 1 true = 2 ∧ dev.sessLevel 0 1 false < 2 ∧ (owned.core 0).halted = none ∧
    (owned.core 0).wait = none ∧ owned.sessLevel 0 1 (owned.ctx (owned.curCtx 0)).secure = 2 ∧ (owned.core 0).pendHalt = none ∧
    (asked.core 0).pendHalt = some 1 ∧ asked.coreSlot 0 = some 0 ∧ (asked.room 0).phase = .running ∧
    (halted.core 0).halted = some 1 ∧ (owned.core 0).halted ≠ some 1 ∧ StepKind.ended (.one true) (halted.ctx (halted.curCtx 0)).pc = false ∧
    bpPayload.length = 16 ∧ leAt bpPayload 0 2 / 128 = owned.pkg ∧ leAt bpPayload 2 1 ≤ 7 ∧ leAt bpPayload 3 1 ≤ 3 ∧ 0 ∈ halted.banks 0 ∧
    owned.dbgByte 0 1 2 true 0x200000 = 0 ∧ dev.dbgByte 0 1 2 true 0x200000 = 2 := by
  have h := owned_session
  have g : (ses halted).sessionOf 1 = some sess := by decide +kernel
  refine ⟨admits _ _ _ _ _ rfl h (by decide) rfl, admits _ _ _ _ _ rfl g (by decide) rfl, admits _ _ _ _ _ rfl g (by decide) rfl,
    admits _ _ _ _ _ rfl h (by decide) rfl, admits _ _ _ _ _ rfl h (by decide) rfl, admits _ _ _ _ _ rfl g (by decide) rfl,
    admits _ _ _ _ _ rfl h (by decide) rfl, ?_⟩
  decide +kernel

def exported : Dev := { owned with inc := { owned.inc with expRing := true, expJnl := true } }

/-- Room 0 claims domain 31. -/
def claimed : Dev := owned.modRoom 0 (fun r => { r with claims := BitVec.ofNat 128 (2 ^ 31) })

theorem other_serial : ∃ x : Word, x ≠ Config.serial := by
  rcases Decidable.em (Config.serial = 0) with h | h
  · exact ⟨1, by rw [h]; decide⟩
  · exact ⟨0, fun e => h e.symm⟩

theorem witness_LobbyKeysPowerSurrenderComplete :
    Admits (ses owned) (.nodeKey (msgWith 0x20 []) 4095 (List.replicate 32 7)) sess (msgWith 0x20 []) ∧
    Admits (ses owned) (.keyslot (msgWith 0x40 []) 15 4 (List.replicate 32 7) (List.replicate 16 7)) sess (msgWith 0x40 []) ∧
    Admits (ses owned) (.power (msgWith 0x50 []) 126 0) sess (msgWith 0x50 []) ∧ Admits (ses claimed) (.power (msgWith 0x50 []) 31 3) sess (msgWith 0x50 []) ∧
    Admits (ses owned) (.power (msgWith 0x50 []) 31 3) sess (msgWith 0x50 []) ∧ Admits (ses owned) (.devState (msgWith 0x51 []) 1) sess (msgWith 0x51 []) ∧
    Admits (ses owned) (.devState (msgWith 0x51 []) 3) sess (msgWith 0x51 []) ∧ Admits (ses owned) (.reset (msgWith 0x52 []) (.room 0)) sess (msgWith 0x52 []) ∧
    Admits (ses owned) (.reset (msgWith 0x52 []) .warm) sess (msgWith 0x52 []) ∧
    Admits (ses exported) (.surrender (msgWith 0x41 []) Config.serial) sess (msgWith 0x41 []) ∧
    (∃ x : Word, x ≠ Config.serial) ∧ owned.clk.stopped = false ∧
    claimed.refuser { slot := none, secure := false, reply := none } 31 .off false = some 1 ∧
    owned.refuser { slot := none, secure := false, reply := none } 31 .off false = none ∧
    (owned.domain 31).st.code < DomSt.off.code ∧ owned.devState = .run ∧ owned.devRefuser = 0 ∧ halted.devRefuser ≠ 0 ∧
    owned.slotOf 77 = none ∧ owned.slotOf 0 = some 0 ∧ (owned.room 0).rb = none ∧ owned.inc.expRing = false ∧
    exported.inc.expRing = true ∧ exported.inc.expJnl = true ∧ exported.flp.st = .idle ∧ (∀ k < 64, (exported.room k).rb.isSome = false) ∧
    exported.bist.shutdown = false ∧ ({ exported with bist := { exported.bist with shutdown := true } } : Dev).bist.shutdown = true ∧
    owned.keys.own ≠ .surrendering ∧ ({ dev with keys := { dev.keys with own := .surrendering } } : Dev).keys.own = .surrendering := by
  have h := owned_session
  have g : (ses exported).sessionOf 1 = some sess := by decide +kernel
  have c : (ses claimed).sessionOf 1 = some sess := by decide +kernel
  refine ⟨admits _ _ _ _ _ rfl h (by decide) rfl, admits _ _ _ _ _ rfl h (by decide) rfl, admits _ _ _ _ _ rfl h (by decide) rfl,
    admits _ _ _ _ _ rfl c (by decide) rfl, admits _ _ _ _ _ rfl h (by decide) rfl, admits _ _ _ _ _ rfl h (by decide) rfl,
    admits _ _ _ _ _ rfl h (by decide) rfl, admits _ _ _ _ _ rfl h (by decide) rfl, admits _ _ _ _ _ rfl h (by decide) rfl,
    admits _ _ _ _ _ rfl g (by decide) rfl, other_serial, ?_⟩
  decide +kernel

/-! ### Hypotheses that are met: field rings, power, resets, interfaces -/

def kfx : KfxSession := { key := [], sid := 1, nn := [], seqTx := 0, seqRx := 0, from_ := 0 }
def node (f : Node → Node) : Dev := (dev.setPort 0 { (dev.port 0) with en := true, link := true }).setNode 5 (f Node.init)
def nrec : NodeRec := { node := 5, roomId := 0, cls := 0, inSize := 8, outSize := 8, inPa := 0x300000, outPa := 0x301000 }
def box5 : Inbox := { time := 0, port := 0, granules := 1, image := [1, 2, 3, 4, 5, 6, 7, 8] }

theorem witness_FieldCyclesComplete :
    dev.clk.stopped = false ∧ dev.frc.cycleNo ≤ dev.clk.tb / 250000 ∧ dev.clk.tb / 250000 < ({ dev.frc with cycleNo := 1 } : Frc).cycleNo ∧
    (let d := { (node (fun n => { n with ses := some kfx })) with frc := { (node (fun n => { n with ses := some kfx })).frc with cycleAt := 1 } }
     (d.node 5).drop = false ∧ (d.node 5).ses = some kfx ∧ (d.node 5).ses2 = none ∧ kfx.from_ < d.frc.cycleAt) ∧
    dev.frc.taken = false ∧ dev.clk.tb < dev.frc.cycleAt + 245000 ∧ dev.frc.cycleAt + 245000 ≤ (at_ 250000 dev).clk.tb ∧
    nrec ∈ dev.plan.nodesAt dev.pkg ∧ ((node (fun n => { n with released := [1] })).node 5).released ≠ [] ∧
    dev.plan.node dev.pkg 5 = some nrec ∧ dev.frc.cycleAt + 250000 ≤ (at_ 250000 dev).clk.tb ∧
    (∀ m ∈ [0, 2], ((at_ 250000 (node (fun n => { n with sentLive := some true, missed := m }))).node 5).sentLive = some true) ∧
    2 < 3 ∧ dev.plan.nodePre.nodeTmoCyc = 3 ∧ (dev.node 5).inbox = none ∧ ((node (fun n => { n with inbox := some box5 })).node 5).inbox = some box5 := by
  decide +kernel

def frame : RingFrame :=
  { fcsOk := true, len := 64, src := 9, hsr := some 4, etherType := 0x1234, vt := 0x12, flags := 0, node := 5, seq := 1, time := 0,
    body := List.replicate 8 1, tag := List.replicate 16 0 }
def joined (f : Node → Node) : Dev := node (fun n => f { n with st := .active, ses := some kfx, sentLive := some true })

theorem witness_FieldInputFrames :
    (8 : Nat) ≤ 8 ∧ (dev.port 0).en = false ∧ ((joined id).arrive 0).2 = true ∧
    (let D := ((joined id).arrive 0).1
     frame.len ≤ (D.port 0).maxFrm ∧ (D.port 0).used + (frame.len + D.granule 0 - 1) / D.granule 0 ≤ D.poolSize 0 ∧
     (∀ q, frame.hsr = some q → D.isDup 0 frame.src q = false) ∧ frame.etherType = D.plan.nodePre.etherType ∧
     D.plan.node D.pkg (0 / 2 * 1024 + frame.node) = some nrec ∧ RingFrame.fits frame (some nrec) = true ∧ (D.node 5).ses = some kfx ∧
     (D.node 5).st = .active ∧ kfx.seqRx < frame.seq ∧ (D.node 5).sentLive.isSome = true ∧ D.clk.tb < D.frc.cycleAt + 250000 ∧
     (D.node 5).inbox = none) ∧
    ({ frame with len := 9000 } : RingFrame).len > (dev.port 0).maxFrm ∧ (0 : Nat) ≤ kfx.seqRx ∧
    (let D := ((joined id).setPort 0 { ((joined id).port 0) with used := 100000 })
     D.poolSize 0 < (D.port 0).used + 1) ∧
    (((joined id).setPort 0 { ((joined id).port 0) with discard := [(9, 4, 4999)] }).isDup 0 9 4 = true ∨ dev.plan.nodePre.hsrAgeMs = 0) ∧
    ((joined (fun n => { n with sentLive := none })).node 5).sentLive = none := by
  (repeat' with_reducible apply And.intro) <;> first | decide +kernel | (intro q h; cases h; decide +kernel)

def shake : Handshake := { nn := List.replicate 16 0, nd := List.replicate 16 1, sid := 1, port := 0 }
def locked : Dev := node (fun n => { n with lockUntil := 9000 })

theorem witness_FieldJoinsComplete :
    (∀ d ∈ [node id, locked], (d.arrive 0).2 = true ∧ (d.arrive 0).1.joinable nrec = true ∧ ((d.arrive 0).1.ring 0).handshakes < 4 ∧
      (d.arrive 0).1.plan.node 0 5 = some nrec) ∧
    ((room0 (fun r => { r with phase := .held })).joinable nrec = false) ∧ (List.replicate 16 (0 : Byte)).length = 16 ∧
    ((node id).node 5).lockUntil ≤ (node id).clk.tb ∧ locked.clk.tb < (locked.node 5).lockUntil ∧ dev.plan.node 0 6 = none ∧
    (((node (fun n => { n with hs := some shake })).arrive 0).1.node 5).hs = some shake ∧
    (∀ d ∈ [dev, normal], reg d (d.viewOfs 0 0x6010) .write = true) ∧ (dev.acc 0).keeper = true ∧ (normal.acc 0).keeper = false ∧
    (let d := ((node (fun n => { n with ses := some kfx })).modRoom 0 (fun r => { r with frc := { r.frc with nsel := 5 } }))
     reg d (d.viewOfs 0 0x6010) .write (fun D => D.plan.node D.pkg (D.room 0).frc.nsel == some nrec && (D.node 5).ses.isSome) = true) ∧
    nrec.roomId = (dev.acc 0).id := by decide +kernel

def bell : List Byte := 7 :: List.replicate 15 0
def hosted (h : HostRing) : Dev := { (node id) with frc := { (node id).frc with host := h } }
def ringRegs (rd : Nat) : HostRing := { en := true, ovf := false, size := 1, base := 0x310000, wr := 64, rd := rd }

theorem witness_FieldHostAndTimeComplete :
    ((node id).arrive 0).2 = true ∧ bell.length = 16 ∧ ((node id).arrive 0).1.bellSlot bell = some 0 ∧ leNat (List.replicate 16 (0 : Byte)) = 0 ∧
    AllOn ((node id).arrive 0).1 ∧ (((node id).arrive 0).1.room 0).frc.dbLast = none ∧
    (((node id).modRoom 0 (fun r => { r with frc := { r.frc with dbLast := some 4900, dbReply := some (0, 5) } })).room 0).frc.dbLast = some 4900 ∧
    (dev.room 0).frc.dbReply = none ∧ dev.bellReady 0 = true ∧
    (let n := (dev.bellDomains 0).headD 0
     (dev.setDomainSt n .off).bellReady 0 = false ∨ dev.bellDomains 0 = []) ∧
    (∀ rd ∈ [64, 128], ((hosted (ringRegs rd)).arrive 0).2 = true) ∧
    (let h := ringRegs 64
     let need := (16 + 20 + 63) / 64 * 64
     h.wr + need ≤ h.size * 4096 ∧ need < (if h.wr < h.rd then h.rd - h.wr else h.size * 4096 - h.wr + h.rd)) ∧
    (let h := ringRegs 128
     let need := (16 + 20 + 63) / 64 * 64
     h.wr + need ≤ h.size * 4096 ∧ (if h.wr < h.rd then h.rd - h.wr else h.size * 4096 - h.wr + h.rd) ≤ need) ∧
    dev.clk.stopped = false ∧ (dev.ring 0).closed = (dev.ring 3).closed ∧ ((node id).port 0).en = true ∧
    (∀ m ∈ [true, false], ({ dev.frc.tsync with mode := m, port := 0 } : TSync).mode = m) ∧
    reg dev (0x80000 + 7 * 256) .write (fun D => decide (8 ≤ D.granule 7)) = true ∧ ((node id).port 0).link = true ∧ (dev.port 0).link = false := by
  (repeat' with_reducible apply And.intro) <;> first | exact all_on _ (by decide +kernel) | decide +kernel

def lvl (f : Cluster → Cluster) : Dev := dev.modCluster 0 f
def cool : Dev := { dev with porch := { dev.porch with thr := 100 } }

theorem witness_PLevelsComplete :
    reg user (user.viewOfs 0 0x400) .write = true ∧ (user.acc 0).pl = 0 ∧
    (∀ d ∈ [dev, normal], reg d (d.viewOfs 0 0x400) .write (fun D => (D.clustersOf 0).all (fun c => !(D.cluster c).throttled)) = true) ∧
    (dev.acc 0).pl ≠ 0 ∧ (dev.cluster 0).plevelNext = none ∧ ((lvl (fun c => { c with plevel := 2, plevelNext := some 1 })).cluster 0).plevelNext = some 1 ∧
    0 / 16 ∉ dev.porch.frozen ∧ 0 / 16 ∈ ({ dev.porch with frozen := [0] } : Porch).frozen ∧ 31 / 16 ∉ dev.porch.hot ∧
    (20 : Int) < (cool.porch.thr : Int) ∧ (cool.cluster 31).throttled = false ∧ (cool.porch.thr : Int) ≤ 110 ∧
    (∀ k < 32, (cool.cluster k).throttled = false) ∧ levelFor 700 = 3 := by decide +kernel

theorem witness_PLevelsComplete_grade : (110 : Int) < (gradeMax : Int) ∧ (gradeMax : Int) ≤ 125 := by
  unfold gradeMax; cases Config.gradeAE <;> decide

def view404 (d : Dev) (p : Dev → Bool) : Bool := reg d (d.viewOfs 0 0x404) .write p
def entering (st : DomSt) : Dev := (domainGroup 31).foldl (fun d k => d.modDomain k (fun x => { x with entering := some st })) dev
def entering64 : Dev := (domainGroup 64).foldl (fun d k => d.modDomain k (fun x => { x with entering := some .retention })) dev
def asleep (w : Bool) : Dev := (domainGroup 31).foldl (fun d k => d.modDomain k (fun x => { x with st := .off, waking := w })) dev

theorem witness_DomainsComplete :
    (∀ d ∈ [dev, normal], view404 d (fun _ => true) = true) ∧ (dev.acc 0).pl ≠ 0 ∧ (dev.acc 0).slot < 64 ∧
    (List.range 127).any (fun n => decide (dev.usersOf n = [0]) && dev.refuser { slot := some 0, secure := true, reply := some 0 } n .retention false == none &&
      decide ((dev.domain n).st.code < DomSt.retention.code)) = true ∧
    (List.range 127).any (fun n => decide (dev.usersOf n = [0]) &&
      (dev.refuser { slot := some 0, secure := true, reply := some 0 } n .retention false).isSome) = true ∧
    (List.range 127).any (fun n => decide (dev.usersOf n ≠ [0])) = true ∧
    reg dev 0x40000 .write = true ∧ (dev.acc 0).keeper = true ∧ (0x80000000 : W32).getLsbD 31 = true ∧ (dev.domain 31).entering = none ∧
    (∀ k ∈ domainGroup 31, ((entering .off).domain k).entering = some .off ∧ ((entering .off).domain k).slice = false) ∧
    (∀ k ∈ domainGroup 31, (dev.domain k).entering = none ∧ (dev.domain k).slice = false ∧ (dev.domain k).waking = false) ∧
    ((asleep false).domain 31).st ≠ .on ∧
    (∀ m ∈ 31 :: domainDeps 31, ∀ k ∈ domainGroup m, ((asleep false).domain k).entering = none) ∧
    (∃ k ∈ domainGroup 31, ((asleep true).domain k).waking = true) ∧
    (List.range 128).any (fun n => dev.autoTarget n == none) = true := by decide +kernel

def sleeping (byMain : Bool) : Dev := { dev with devState := .retain, clk := { dev.clk with stopped := true }, porch := { dev.porch with byMain := byMain } }
def testing : Dev := { dev with devState := .off, bist := { dev.bist with shutdown := true } }
def emer : Dev := { dev with porch := { dev.porch with emCluster := 3 } }
def pkg1 : Dev := { dev with straps := { dev.straps with pkgId := 1 } }

theorem witness_DeviceStatesComplete :
    reg dev 0x40010 .write (fun D => D.devState == .run && decide (D.devRefuser = 0)) = true ∧ (dev.acc 0).keeper = true ∧
    reg (flp (fun f => { f with st := .validating })) 0x40010 .write (fun D => D.devState == .run && decide (D.devRefuser ≠ 0)) = true ∧
    reg normal 0x40010 .write = true ∧ (normal.acc 0).keeper = false ∧ dev.devState ≠ .off ∧ testing.devState = .off ∧ testing.bist.shutdown = true ∧
    dev.devState = .run ∧ (sleeping false).porch.wakeEn.getLsbD (WakeSource.bit .doorbell) = true ∧ (sleeping false).devState = .retain ∧
    dev.flp.st = .idle ∧ 32 ≤ dev.porch.emCluster ∧ emer.porch.emCluster < 32 ∧ (sleeping true).devState = .retain ∧ (sleeping true).porch.byMain = true ∧
    dev.pkg = 0 ∧ pkg1.pkg ≠ 0 ∧ pkg1.clk.stepped = false ∧ ({ pkg1.clk with stepped := true } : Clock).stepped = true := by decide +kernel

theorem witness_DeviceResetsComplete :
    ({ chans := [], failedUnits := [], firmwareOk := false, links := [], refurbish := none } : Board).firmwareOk = false ∧ Dev.reset.devState = .inReset ∧
    dev.devState ≠ .inReset ∧ ({ dev with board := { dev.board with firmwareOk := false } } : Dev).board.firmwareOk = false ∧ dev.pwrEn = .high ∧
    ({ dev with devState := .off } : Dev).pwrEn = .low := by
  decide +kernel

/-- Room 0 owns CAN 0 and 1, the MACs and the UARTs. -/
def periph (d : Dev) : Dev := { d with plan := { plan with irqs := plan.irqs ++ (List.range 8).map (fun b =>
  { source := periphSrc b, roomId := 0, prio := 1, target := 0, bank := 0, keeper := false }) } }

theorem witness_RoomResetsComplete :
    reg dev 0x20 .write (fun D => decide ((D.room 0).rb = none) && D.slotOf 0 == some 0) = true ∧ (dev.acc 0).keeper = true ∧ (dev.acc 0).id = 0 ∧
    (0xA5000001 : W32).toNat / 2 ^ 24 = 0xA5 ∧ (0xA5000001 : W32).toNat.testBit 0 = true ∧ (0xA5000002 : W32).toNat.testBit 1 = true ∧
    reg (room0 (fun r => { r with rb := some rb0 })) 0x20 .write (fun D => (D.room 0).rb == some rb0) = true ∧
    (∀ d ∈ [dev, normal], reg d (d.viewOfs 0 0x8) .write = true) ∧ (normal.acc 0).keeper = false ∧ (normal.acc 0).pl ≠ 0 ∧
    (∀ b < 8, (periph normal).ownsPeriph 0 b = true) ∧ (0x80000000 : W32).toNat % 256 = 0 ∧ (0x80000000 : W32).toNat.testBit 31 = true ∧
    (0x40000000 : W32).toNat.testBit 30 = true ∧ dev.coreRoom 0 = some 0 ∧ (dev.room 0).phase = .running ∧ dev.coreRoom 4 ≠ some 0 ∧
    dev.plan.paired (dev.idOf 0) = false ∧ (dev.rrec 0).any (fun R => R.autostart) = true ∧
    (dev.rrec 1).any (fun R => !R.autostart && decide (R.roomId ≠ 0)) = true := by decide +kernel

def canOn (f : Can → Can) : Dev := (periph dev).setCan 0 (f { Can.init with en := true, ready := true })

theorem witness_CanComplete :
    reg (periph dev) ((periph dev).periphOfs 0 0 0) .write (fun D => D.ownsPeriph 0 0 && decide (D.can 0 = (periph dev).can 0)) = true ∧
    (periph dev).ownsPeriph (((periph dev).coreSlot 0).getD 0) 0 = true ∧
    (let c := (canOn id).can 0
     (canOn id).canOnBus 0 = true ∧ canFd (slice (List.replicate 72 0) 0 72) = false ∧ c.fifo.length < 32 ∧
     ∃ i < 16, ((Sparse.get (0 : W32) c.filters (2 * i)).toNat ^^^ canId (slice (List.replicate 72 0) 0 72)) &&&
       (Sparse.get (0 : W32) c.filters (2 * i + 1)).toNat = 0) ∧ dev.canOnBus 0 = false ∧
    (let c := (canOn (fun c => { c with txreq := 1 })).can 0
     c.listen = false ∧ c.txreq.getLsbD 0 = true ∧ canFd (c.buffer 0) = false ∧ (canOn id).perFrozen 0 = false) ∧
    (let d := (canOn (fun c => { c with wake := true })).setDomainSt 105 .retention
     (d.domain 105).st = .retention ∧ (d.can 0).en = true ∧ (d.can 0).wake = true ∧ d.clk.stopped = false) ∧ (dev.domain 105).st = .on := by
  decide +kernel

/-- MAC 0 on, its rings at 0x20020000 and 0x20021000, the first descriptor of each given to it with a 1,522-byte buffer at 0x20030000. -/
def mac (flags : Nat) (f : Mac → Mac) : Dev :=
  let d := (periph dev).setMac 0 (f { Mac.init with en := true, link := true, rxBase := 0x20020000, txBase := 0x20021000 })
  let rx := spread 0x20020000 (leBytes 8 0x20030000 ++ leBytes 2 1522 ++ leBytes 2 flags)
  let tx := spread 0x20021000 (leBytes 8 0x20030000 ++ leBytes 2 64 ++ leBytes 2 flags)
  { d with mem := (d.mem.putAll rx).putAll tx }
def eth (n : Nat) : MacFrame := { bytes := List.replicate n 1, toLobby := false, ptpEvent := false }
def uart (f : Uart → Uart) : Dev := (periph dev).setUart 0 (f { Uart.init with en := true })

/-- A controller that can send is sending when a reset falls (R464). -/
theorem witness_RoomResetsComplete_wire :
    (let d := canOn (fun c => { c with txreq := 1 })
     d.perFrozen 0 = false ∧ d.canOnBus 0 = true ∧ (d.can 0).listen = false ∧ (d.can 0).txreq ≠ 0) ∧
    (let d := mac 1 (fun m => { m with txTail := 1 })
     d.perFrozen 4 = false ∧ d.macOn 0 = true ∧ (d.macFrame 0).isSome = true) ∧
    (let d := uart (fun u => { u with tx := [0x41] })
     d.perFrozen 6 = false ∧ d.perAwake 6 = true ∧ (d.uart 0).en = true ∧ (d.uart 0).bits7 = false ∧ (d.uart 0).tx = [0x41]) := by
  decide +kernel

theorem witness_MacsAndUartsComplete :
    (let d := periph dev
     reg d (d.periphOfs 0 4 0x18) .write (fun D => D.ownsPeriph 0 4) = true ∧ reg d (d.periphOfs 0 6 0x08) .write (fun D => D.ownsPeriph 0 6) = true ∧
     reg d (d.periphOfs 0 6 0x0C) .read (fun D => D.ownsPeriph 0 6) = true ∧ (∀ b ∈ [4, 6], d.ownsPeriph ((d.coreSlot 0).getD 0) b = true) ∧
     (d.acc 0).pl ≠ 0) ∧
    (∀ flags < 2, let d := mac flags id
     d.macOn 0 = true ∧ d.macMay 0 .read 0x20020000 16 = true ∧ d.macMay 0 .write 0x20030000 64 = true ∧ d.macMay 0 .write 0x20020008 8 = true ∧
     (leAt (d.bytes 0x20020000 16) 10 2).testBit 0 = decide (flags = 1) ∧ leAt (d.bytes 0x20020000 16) 0 8 = 0x20030000 ∧
     leAt (d.bytes 0x20020000 16) 8 2 = 1522) ∧
    (mac 0 (fun m => { m with rxBase := 0x50000000 })).macMay 0 .read 0x50000000 16 = false ∧ (eth 64).bytes.length ≤ 1522 ∧
    (let d := mac 1 (fun m => { m with txTail := 1 })
     (d.mac 0).txHead ≠ (d.mac 0).txTail ∧ d.macOn 0 = true ∧ d.perFrozen 4 = false ∧ d.macMay 0 .read 0x20021000 16 = true ∧
     d.macMay 0 .read (leAt (d.bytes 0x20021000 16) 0 8) (min 1522 (leAt (d.bytes 0x20021000 16) 8 2)) = true) ∧
    (dev.mac 0).txHead = (dev.mac 0).txTail ∧ ((uart id).periphSlot 6).isSome = true ∧ ((uart id).uart 0).en = true ∧
    ((uart id).domain 111).st = .on ∧ (dev.uart 0).en = false ∧ (dev.uart 0).tx = [] ∧
    ((uart (fun u => { u with tx := [1, 2] })).uart 0).tx = [1, 2] ∧ (uart id).perFrozen 6 = false ∧ (uart id).clk.stopped = false := by
  decide +kernel

/-- Every domain is On where a statement of memory written by an engine asks for it, and no room traces power
packets where one asks for that. -/
theorem witness_quietPower :
    AllOn owned ∧ AllOn (node (fun n => { n with inbox := some box5 })) ∧ AllOn ((hosted (ringRegs 64)).arrive 0).1 ∧ AllOn (mac 1 id) ∧
    ∀ k < 64, ((asleep true).room k).dbg.trcEvt.getLsbD 3 = false := by
  (repeat' with_reducible apply And.intro) <;> first | exact all_on _ (by decide +kernel) | decide +kernel

def pcieRead : PcieWait :=
  { pa := 0x100000000000, len := 4, pre := [], skip := 0, item := 4, dst := 9, signed := true, due := 6000, next := 0x100004, blk := 0, more := true, block := none, hit := none }
def waits : Dev := dev.modCore 0 (fun c => { c with wait := some pcieRead })

theorem witness_PcieComplete :
    dev.portUp 0 = false ∧ linkUp.portUp 0 = true ∧
    ((linkUp.portMay 0 .read 0x20000000 4096 = true ∧ linkUp.portMay 0 .write 0x20000000 512 = true) ∨ linkUp.portRoom 0 = none) ∧
    linkUp.portMay 0 .read 0x50000000 16 = false ∧ linkUp.portMay 0 .write 0x50000000 16 = false ∧ AllOn linkUp ∧ 0x20000000 ≠ linkUp.msiPa ∧
    linkUp.cplSlot 0x20000000 = none ∧ (63 : W32).toNat % 256 < 64 * portSpan linkUp.straps ∧ (dev.core 0).wait = none ∧
    (waits.core 0).wait = some pcieRead ∧ waits.clk.tb < pcieRead.due ∧ pcieRead.due ≤ (late waits).clk.tb ∧
    (∀ k ∈ [AccKind.read, .write], reg dev 0x108004 k = true) ∧ (strapPorts dev.straps).contains 0 = true ∧ (linkUp.pcie 0).en = true ∧
    (strapPorts dev.straps).contains 9 = false ∧ (∀ c < 128, (linkUp.core c).wait = none) := by
  (repeat' with_reducible apply And.intro) <;> first | exact all_on _ (by decide +kernel) | decide +kernel

def elv (f : Link → Link) : Dev := dev.setLink 0 (f (dev.link 0))

theorem witness_LinksComplete :
    dev.linkEn 0 = true ∧ dev.clk.stopped = false ∧ ((elv (fun x => { x with st := .down })).link 0).st = .down ∧
    ((elv (fun x => { x with st := .up })).link 0).st = .up ∧ linkWidth 0 = none ∧ linkWidth 0xFFFF = some 0 ∧ linkWidth 0xFF = some 1 ∧
    (dev.link 0).tries = 0 ∧ 1 ≠ dev.pkg ∧ dev.plan.generation = 5 ∧ (dev.link 0).busy = false ∧
    ((elv (fun x => { x with busy := true })).link 0).busy = true := by decide +kernel

theorem witness_RegisterWriteAndDecodeFaults :
    normal.mayReach 0 1 .write = none ∧ reg dev 0x10 .write = true ∧ (dev.acc 0).keeper = true ∧ (dev.acc 0).id = 0 ∧
    dev.rawCause 0 [0x5F] = none ∧ dev.rawCause 0 [0x17] = some (0, 1) ∧ (dev.canIssue 0).isSome = true ∧ (dev.wake 0).bpHit 0 = none ∧
    goes ((dev.wake 0).fetch 0 1) = true ∧ raises (((cx0 (fun x => { x with pc := 0x50000000 })).wake 0).fetch 0 1) = true ∧
    (((cx0 (fun x => { x with pc := 0x50000000 })).wake 0).fetchCheck 0 16).isSome = true ∧ (dev.wake 0).fetchCheck 0 16 = none := by
  decide +kernel

theorem witness_ConstantZeroRegister :
    ({} : Form).mode ≠ amMS ∧ ({} : Form).mode ≠ amMK ∧ ({} : Form).mode ≠ amMP ∧ ({} : Form).rsn = 0 ∧ ({} : Form).rdn = 0 ∧
    enters dev .prim 0x00 { rs := 2 } (Form.src2 { rs := 2 }) false anyLevel = true := by decide +kernel

theorem witness_BankRegisters :
    enters dev .escF0 3 { rs := 1, am := 1, sz := 1, ext := 7 } [1] false anyLevel = true ∧
    enters dev .escF0 2 { rd := 1, am := 1, sz := 1, ext := 7 } [] false anyLevel = true ∧ (dev.ctx 0).secure = true ∧
    (normal.ctx 0).secure = false := by decide +kernel

theorem sessions_inv : LobbyInv (lobby owned [sess, hand]) := by
  refine ⟨by decide, by decide, ?_, ?_⟩ <;> intro x h <;> simp [lobby] at h <;> rcases h with rfl | rfl <;> decide

theorem witness_EveryStepKeepsTheLobby : ∃ t, LobbyInv (lobby owned [sess, hand]) ∧ step (lobby owned [sess, hand]) = .next t :=
  ⟨_, sessions_inv, rfl⟩

theorem witness_SessionsOpenOnlyByProof : ∃ t, LobbyInv (lobby owned [sess, hand]) ∧ step (lobby owned [sess, hand]) = .next t ∧
    ∃ y ∈ t.lobby.sessions, y.isOpen = true := ⟨_, sessions_inv, rfl, by decide +kernel⟩

/-! ### Hypotheses that are met: engines, homes and power -/

/-- What device engines write lands at once, on the devices of the statements about them. -/
theorem witness_Unhindered :
    Unhindered owned 0 (spread 0x200000 [1]) ∧ Unhindered (box (fun b => { b with waiting := [msg] })) 0 (spread 0x42001000 (List.replicate 16 0)) ∧
    Unhindered (node (fun n => { n with inbox := some box5 })) 0 (spread 0x300000 (List.replicate 32 0)) ∧
    Unhindered ((hosted (ringRegs 64)).arrive 0).1 0 (spread 0x310040 (List.replicate 64 0)) ∧
    Unhindered (mac 1 id) 0 (spread 0x20030000 (List.replicate 64 0)) ∧ Unhindered (mac 1 id) 0 (spread 0x20020008 (List.replicate 8 0)) ∧
    Unhindered linkUp (linkUp.plan.portOwner linkUp.straps 0) (spread 0x20000000 [1, 2]) := by
  unfold Unhindered; decide +kernel

/-- An entry that a running cluster overtakes; a domain that is entering, one that is settled; the region's wait for its home. -/
theorem witness_DomainEntries :
    (∀ k ∈ domainGroup 64, ((entering64).domain k).entering = some .retention) ∧ entering64.dependent 64 .retention = true ∧
    (entering .off).dependent 31 .off = false ∧ dev.settledOn 31 = true ∧ (entering .off).entering 31 = true ∧
    (∀ r < 8, (dev.region r).waitQ = []) ∧
    ((entering .off).enterState 31 .off).refuser { slot := none, secure := false, reply := none } (32 + 31) .off true = none := by
  decide +kernel

theorem witness_BlockedRooms : dev.blocked 0 = none ∧ ({ dev with diesLost := [0, 1] } : Dev).blocked 0 = some 1 ∧ dev.spanOpen 0 0 0x1000 = false ∧
    (dev.pkg = 0 ∨ dev.per.present.getLsbD 0 = false) ∧
    ¬ (({ pkg1 with per := { pkg1.per with present := 3 } } : Dev).pkg = 0 ∨ ({ pkg1 with per := { pkg1.per with present := 3 } } : Dev).per.present.getLsbD 0 = false) ∧
    dev.keys.own ≠ .returned ∧ ({ dev with keys := { dev.keys with own := .returned } } : Dev).keys.own = .returned := by decide +kernel

/-- Handshake frames: each loss of `Dev.kfxReceive`, and one that is taken (R402, R407). -/
def hsFrame (n : Nat) : Frame := { fcsOk := true, src := 9, hsr := some 4, body := List.replicate n 0 }
def crammed (f : Port → Port) : Dev := (node id).setPort 0 (f ((node id).port 0))

theorem witness_HandshakeFrames :
    (∀ n ∈ [16, 32], ((node id).kfxReceive 0 (hsFrame n) n).2 = true) ∧ ((node id).arrive 0).2 = true ∧ (hsFrame 15).body.length ≠ 16 ∧
    (let D := ((crammed (fun x => { x with used := 100000 })).arrive 0).1
     (crammed (fun x => { x with used := 100000 })).poolSize 0 < (D.port 0).used + 1) ∧
    (((crammed (fun x => { x with maxFrm := 10 })).arrive 0).1.port 0).maxFrm < 34 + 16 + 6 ∧
    (((crammed (fun x => { x with discard := [(9, 4, 4999)] })).arrive 0).1.isDup 0 9 4 = true ∨ dev.plan.nodePre.hsrAgeMs = 0) ∧
    (((node id).kfxReceive 0 (hsFrame 16) 16).1.ring 0).handshakes < 4 ∧ (((node id).kfxReceive 0 (hsFrame 16) 16).1.joinable nrec) = true ∧
    ((hosted (ringRegs 64)).receive 0 true 20 9 (some 4)).2 = true ∧ ((hosted (ringRegs 64)).receive 0 true 20 9 (some 4)).1.frc.host.en = true ∧
    (dev.node 5).drop = false ∧ (dev.node 5).ses = none ∧ (dev.node 5).ses2 = none := by decide +kernel

/-- A request during a commit, and after it (KL-10); a room reset while its fill is pending (R97); a verdict that has not come (R99). -/
theorem witness_WaitsAtEpochs :
    ((room0 (fun r => { r with epo := { r.epo with lastAt := 5000 } })).committing 0).isSome = true ∧ (at_ 9000 (room0 (fun r => { r with epo :=
      { r.epo with lastAt := 5000 } }))).committing 0 = none ∧
    (let d := lvl (fun c => { c with plevel := 2, plevelNext := some 1, plevelLate := some (0, (dev.room 0).epo.cnt) })
     (d.room 0).phase = .running ∧ (d.cluster 0).plevelLate = some (0, (d.room 0).epo.cnt)) ∧
    dev.blocked 0 = none ∧ ((filling .running 0).room 0).zeroFill = true ∧ (filling .running 0).blocked 0 = none ∧ dev.shadowPlan = none ∧
    ({ dev with per := { dev.per with present := 3 } } : Dev).others ≠ [] := by decide +kernel

/-! ### The spec's worked examples and tables -/

/-- Worked example of chapter 04: a locked 32-bit add through a short stack-relative address. -/
theorem test_locked_add_decodes : decodeRaw [0xEB, 0xE8, 0x28, 0x9D, 0x51, 0x40] = some
    { map := .prim, op := 0x28, pre := none, whole := true,
      form := { width := .w32, lock := true, rd := 19, am := 5, rs := 10, sz := 1, ext := 0x40 } } := by decide +kernel

/-- The same example: S = (0xFFE0 + 0x40)[15:0] in the block of BK1 (R110). -/
theorem test_short_address :
    (((Ctx.init.set 10 0x1FFE0).setBk 1 0x7F0000120000).ea { am := 5, rs := 10, sz := 1, ext := 0x40 } 0) = 0x7F0000120020 := by
  decide +kernel

/-- Worked example of chapter 04: BINS of E4 into bits [19:12] of A1. -/
theorem test_bins_decodes : decodeRaw [0x18, 0xC9, 0x62, 0x0C, 0x07] = some
    { map := .prim, op := 0x18, pre := none, whole := true, form := { rd := 25, am := 1, rs := 12, sz := 2, ext := 0x070C } } := by
  decide +kernel

theorem test_bins : opBins 0x070C 0xFFFFFFFF 0x5A = 0xFFF5AFFF := by decide +kernel

/-- Table 5.2, R137: an 8-bit ADD takes and gives 8 bits and sets C and Z on the wrap. -/
theorem test_add_wraps : aluAdd 8 0xFF 1 = { val := 0, n := some false, z := some true, c := some true, v := some false } := by
  decide +kernel

/-- R139: the most negative value by −1, and a zero divisor. -/
theorem test_div_corners : (aluDiv 8 0x80 0xFF).val = 0x80 ∧ (aluDiv 8 0x80 0xFF).v = some true ∧ (aluRem 8 0x80 0xFF).val = 0 ∧
    (aluDivu 16 7 0).val = 0xFFFF ∧ (aluRemu 16 7 0).val = 7 := by decide +kernel

/-- Worked example of chapter 08: SELGT after CMP clamps a signed demand (R122). -/
theorem test_clamp : (let x := (((Ctx.init.set 17 (-3)).set 18 5).wrFlags (aluSub 64 (2 ^ 64 - 3) 5)); x.cond 0xC) = false ∧
    (((Ctx.init).wrFlags (aluSub 64 9 5)).cond 0xC) = true := by decide +kernel

/-- Worked example of chapter 05: ten registers from 0x7F00_0000_0FB0; the last is H7 at 0x7F00_0000_0FF8. -/
theorem test_stm_slots : (blockElems 0x00FF0300 0x7F0000000FB0).length = 10 ∧
    (blockElems 0x00FF0300 0x7F0000000FB0)[9]? = some (23, 0x7F0000000FF8) := by decide +kernel

/-- Worked example of chapter 06: the spill trap's H4 and H5, and H5 after SPILLW. -/
def deep : Dev := cx0 (fun x => { ((x.setPsw 6 4 0).setPsw 11 8 6) with rd := 15, scN := 40, wspN := 0x7F0000041400 })
theorem test_spill_trap : (let z := (deep.windowTrap 0 7 0 false).ctx 0; (z.get (rH 4), z.get (rH 5))) = (0x7F0000041400, 0x100028F7) := by
  decide +kernel
theorem test_spillw_counts :
    ((((deep.windowTrap 0 7 0 false).ctx 0).countBlock false).get (rH 5)) = 0x100029E7 := by decide +kernel

/-- Worked example of chapter 10: SWCALL at CWP 5 with RD 3, Z, IE and SC 12. -/
def world : Ctx := { ((((((Ctx.init.setPsw 6 4 1).setPsw 11 8 5).setPsw 7 7 1).setPsw 3 0 4).setPsw 12 12 0)) with
  rd := 3, scN := 12, wspN := 0x7F0000040600 }
theorem test_world_call : (let y := world.called 0x1000
    (y.get (rH 7), y.psw64, y.wspN) = (0x594, 0x564, 0x7F0000040800) ∧ (y.scN, y.ncwp, y.nrd, y.fill, y.rd) = (16, 5, 3, 4, 0)) := by
  decide +kernel

/-- Worked example of chapter 17: H5 of an interrupt of source 260 at priority 40 taken at PL1. -/
theorem test_interrupt_syndrome : syndrome { cls := 0xC, number := 260 } 1 40 = 0x000000680104000C := by decide +kernel

/-- Worked example of chapter 14: the bytes of TI2. -/
theorem test_ti2_decodes : (decodeRaw [0xEC, 0x11, 0xA9, 0x9B, 0x34, 0x02, 0x0D, 0x00]).any (fun r =>
    let imm := Form.imm32 r.form
    r.map == .trestle && r.op == 0x11 && r.form.rd == 21 && r.form.rs == 19 && r.form.rt == 20 && immTag imm == 1 && immF imm &&
    immN imm == 13) = true := by decide +kernel

/-- The third byte string of chapter 04: a hint prefix on BINS is code 0x04 at byte 2. -/
theorem test_stray_prefix : dev.rawCause 0 [0xE8, 0xEE, 0x18, 0xC9, 0x62, 0x0C, 0x07] = some (2, 4) := by decide +kernel

/-- Worked example of chapter 09: the walk of the first fetch of the ballast loop. -/
def walk : Dev :=
  let w : WindowRec := { roomId := 0, index := 0, perm := 7, kind := 0, mirror := 0, base := 0, size := 0x20000000000, wmark := 0x40000000,
                         mirrorBase := 0 }
  let entry := fun (m : Memory) (p : Nat × Nat) => m.putAll (spread p.1 (leBytes 8 p.2))
  let d := cx0 (fun x => { (x.setPsw 6 4 1) with ptbaseN := 0x40100001, asidN := 0x12 })
  let tables := [(0x401007F0, 0x40101001), (0x40101000, 0x40102001), (0x40102008, 0x60200097)].foldl entry d.mem
  let d := d.modRoom 0 (fun r => { r with wmarks := [(0, 0x40000000)] })
  { d with plan := { plan with windows := [w] }, mem := tables }
theorem test_first_fetch : ok (walk.translate (walk.who 0) 0x7F0000200040 .fetch) (fun r => r.2.1 == 0x60200040) = true ∧
    walk.checkRange 0 0 false false .fetch 0x60200040 1 = 0 := by decide +kernel

/-- With every miss register of the cluster taken the walk of that fetch waits. -/
theorem witness_FetchWaits :
    waitsFor (((walk.modCtx 0 (fun x => { x with pc := 0x7F0000200040 })).modCluster 0 (fun c => { c with
      miss := (List.range 16).map (fun i => (i, { miss 0 with line := i })) })).fetch 0 1) = true := by decide +kernel

/-- Worked example of chapter 01: the register block of cluster 1.0.3.2 (Table 1.7). -/
theorem test_cluster_register_block : paKind 0x43F00013C0000 = .reg ∧ paPkg 0x43F00013C0000 = 1 := by decide +kernel

/-- R388: IRQ_SWGEN pends the software source it names, one step from a state with the command in front. -/
theorem test_step_irq_swgen :
    (match step { (st dev) with pending := [.irqSwgen 0 930] } with
     | .next t => t.dev.irqPend == [930] && t.pending.isEmpty
     | _ => false) = true := by decide +kernel

/-- R389: the tick of slot 0 pends source 0, and its next falls a period later. -/
theorem test_step_tick :
    (match step { (st (ticking (fun t => { t with next := 5000 }))) with pending := [.tick 0, .tick 0] } with
     | .next t => t.dev.irqPend == [0] && (t.dev.room 0).tick.next == 6000 && t.pending == [.tick 0]
     | _ => false) = true := by decide +kernel
end Sys2Proof.Tests
end

section
/-!
SUPPORT. Register writes that wait for the core's older stores (R196, R288), and the statement about register writes that leaves them out.
-/
namespace Sys2Proof.Proofs.RegisterWrites
open Sys2Proof Sys2Proof.Machine Sys2Proof.Safety

/-! ### Older stores come first -/

section
variable {d : Dev} {core : Nat}

/-- No register access passes while a buffered store of the core waits for its line (R288). -/
theorem mayReach_eq_none_of_not_drainReady (h : d.drainReady core = false) (o : Nat) (k : AccKind) :
    d.mayReach core o k = none := by
  unfold Dev.mayReach
  split <;> simp [h]

/-- A register write then asks for the lines of the buffered stores, and does nothing else. -/
theorem writeReg_of_not_drainReady (hi : (d.canIssue core).isSome = true) (h : d.drainReady core = false) (o v : Nat) :
    d.writeReg core o v = d.askDrain core := by
  have hn : (d.canIssue core).isNone = false := by simpa [Option.isSome_iff_ne_none] using hi
  simp [Dev.writeReg, mayReach_eq_none_of_not_drainReady h, Dev.regRefused, hn, h]

end

/-- REGISTER_WRITE while a buffered store of the core waits for its line: the write waits with it. -/
theorem registerWrite_asks_of_not_drainReady {s : State} {core : Nat} (hi : (s.dev.canIssue core).isSome = true)
    (h : s.dev.drainReady core = false) (o : Nat) (val : W32) :
    Answers (exec (.registerWrite core o val) s) s (s.dev.askDrain core) := by
  rw [← writeReg_of_not_drainReady hi h o val.toNat]
  exact Laws.onDev_answers (fun d => d.writeReg core o val.toNat) s

/-! ### What an answer fixes -/

theorem settle_ctxs (s : State) : (State.settle s).dev.ctxs = s.dev.ctxs := by
  unfold State.settle
  split <;> rfl

/-- Two descriptions of one answer agree on every context. -/
theorem ctx_eq_of_answers {a : Ans} {s : State} {D D' : Dev} (h : Answers a s D) (h' : Answers a s D') (i : Nat) :
    D.ctx i = D'.ctx i := by
  have hs : State.settle { s with dev := D } = State.settle { s with dev := D' } := Host.Outcome.next.inj (h.symm.trans h')
  have hc : D.ctxs = D'.ctxs := by
    calc D.ctxs = (State.settle { s with dev := D }).dev.ctxs := (settle_ctxs { s with dev := D }).symm
      _ = (State.settle { s with dev := D' }).dev.ctxs := by rw [hs]
      _ = D'.ctxs := settle_ctxs _
  rw [Dev.ctx, hc, Dev.ctx]

/-! ### A write that waits -/

/-- A floorplan of one room on cores 0 and 1, with DRAM and the register space as its windows. -/
def waitingPlan : Plan := { Plan.empty with
  rooms := [{ roomId := 0, timed := false, sealed := false, span := false, autostart := true, plevReq := 0, plevFloor := 0,
              slots := [0, 0xFF, 0xFF, 0xFF], entryPa := 0x100000, name := 0 }]
  clusters := [{ cluster := 0, coreEn := 3, coreRoom := [0, 0, 0, 0], tlsA := 0, tslotA := 0, ctxMaskA := 1, ctxMaskB := 0 }]
  windows := [{ roomId := 0, index := 0, perm := 7, kind := 0, mirror := 0, base := 0, size := 0x40000000, wmark := 0x20000000,
                mirrorBase := 0 },
              { roomId := 0, index := 1, perm := 3, kind := 2, mirror := 0, base := regBase, size := 0x10000000, wmark := 0,
                mirrorBase := 0 }] }

/-- Core 0 runs with a store to line 0x8000 in its buffer; a snoop has taken the line since, and core 1 is fetching it back (R260). -/
def waitingDev : Dev := { Dev.reset with
  devState := .run
  plan := waitingPlan
  rooms := [(0, { Room.init with phase := .running, epo := { EpochRegs.init with next := 20000 } })]
  ctxs := [(0, { Ctx.init with pc := 0x100000 })]
  cores := [(0, { Core.init with run := .running, sbuf := [{ keep := none, nt := false, bytes := [(0x200000, 1)] }] }),
            (1, { Core.init with run := .running })]
  clusters := [(0, { Cluster.init with
    miss := [(0, { line := 0x8000, core := 1, room := 0, use := .data, wr := false, secs := [] })] })] }

def waitingState : State := { State.reset with dev := waitingDev }

/-- Core 0 can issue and its room may write ARB_STARVE: only the buffered store holds the write back. -/
theorem waitingDev_waits : (waitingDev.canIssue 0).isSome = true ∧ waitingDev.drainReady 0 = false ∧
    waitingDev.checkRange (waitingDev.who 0).slot (waitingDev.who 0).id (waitingDev.who 0).secure (waitingDev.who 0).nxf
      .write (waitingDev.regPa 0x10) 4 = 0 := by
  decide +kernel

/-- Asking for the line leaves core 0 at its instruction, while the exception of a store whose room check passes goes to vector 0x100. -/
theorem waitingDev_pc : ((waitingDev.askDrain 0).ctx 0).pc = 0x100000 ∧
    (((waitingDev.wake 0).raiseExc 0 (rowExc 0 0 .write (BitVec.ofNat 64 (regBase + 0x10)))).ctx 0).pc = 0x100 := by
  decide +kernel

/-- Refutes O55: its second clause has every register write that does not pass raise an exception, but one whose room check passes while an
older store of the core waits for its line (R196, R288) waits with it and takes no trap. -/
theorem not_registerWriteAndDecodeFaults : ¬ Obligations.RegisterWriteAndDecodeFaults := by
  unfold Obligations.RegisterWriteAndDecodeFaults
  rintro ⟨hwrite, -⟩
  obtain ⟨hissue, hdrain, hcheck⟩ := waitingDev_waits
  have hwaits := registerWrite_asks_of_not_drainReady (s := waitingState) hissue hdrain 0x10 0
  obtain ⟨e, hraises, -, hrow⟩ := (hwrite waitingState 0 0x10 0).2.1 hissue (mayReach_eq_none_of_not_drainReady hdrain _ _)
  rw [hrow 0 rfl (by norm_num) hcheck] at hraises
  have hpc := congrArg Ctx.pc (ctx_eq_of_answers hwaits hraises 0)
  obtain ⟨hasks, htraps⟩ := waitingDev_pc
  exact absurd (hasks.symm.trans (hpc.trans htraps)) (by decide)

end Sys2Proof.Proofs.RegisterWrites
end

section
/-!
SUPPORT. What the floorplan commands alone write (the register sets, the stored images, the FLP registers), with the main supply: one
lemma per operation of the device that a swap runs through, from the caches to the start of a room. Each says that the operation leaves
this part of the device as it was.
-/
namespace Sys2Proof.Proofs.FlpPart
open Sys2Proof Sys2Proof.Machine

/-- Both register sets, the store of images, the FLP registers, and MAIN_OK. -/
def flpPart (d : Dev) : Plan × Option Plan × Store × Flp × Bool :=
  (d.plan, d.shadowPlan, d.store, d.flp, d.porch.mainOk)

variable (d : Dev)

/-! ### Loops and branches -/

@[simp] theorem flpPart_each {α : Type} (l : List α) (f : Dev → α → Dev) (hf : ∀ d a, flpPart (f d a) = flpPart d) :
    flpPart (each l f d) = flpPart d := by
  induction l generalizing d with
  | nil => rfl
  | cons a t ih => exact (ih (f d a)).trans (hf d a)

@[simp] theorem flpPart_iter (f : Dev → Dev) (n : Nat) (hf : ∀ d, flpPart (f d) = flpPart d) : flpPart (iter f n d) = flpPart d := by
  induction n generalizing d with
  | zero => rfl
  | succ n ih => exact (ih (f d)).trans (hf d)

@[simp] theorem flpPart_ite (c : Prop) [Decidable c] (a b : Dev) : flpPart (if c then a else b) = if c then flpPart a else flpPart b :=
  apply_ite flpPart c a b

/-! ### Updates of one unit

`(rfl)` keeps these rewrite rules and not definitional unfoldings, so that `simp` can use them to discharge the premise of `flpPart_each`. -/

@[simp] theorem flpPart_setCore (i : Nat) (x : Core) : flpPart (d.setCore i x) = flpPart d := (rfl)
@[simp] theorem flpPart_setCtx (i : Nat) (x : Ctx) : flpPart (d.setCtx i x) = flpPart d := (rfl)
@[simp] theorem flpPart_setCluster (i : Nat) (x : Cluster) : flpPart (d.setCluster i x) = flpPart d := (rfl)
@[simp] theorem flpPart_setRegion (i : Nat) (x : Region) : flpPart (d.setRegion i x) = flpPart d := (rfl)
@[simp] theorem flpPart_setRoom (i : Nat) (x : Room) : flpPart (d.setRoom i x) = flpPart d := (rfl)
@[simp] theorem flpPart_setMbox (i : Nat) (x : Mbox) : flpPart (d.setMbox i x) = flpPart d := (rfl)
@[simp] theorem flpPart_setDomain (i : Nat) (x : Domain) : flpPart (d.setDomain i x) = flpPart d := (rfl)
@[simp] theorem flpPart_setNode (i : Nat) (x : Node) : flpPart (d.setNode i x) = flpPart d := (rfl)
@[simp] theorem flpPart_setPort (i : Nat) (x : Port) : flpPart (d.setPort i x) = flpPart d := (rfl)
@[simp] theorem flpPart_setRing (i : Nat) (x : Ring) : flpPart (d.setRing i x) = flpPart d := (rfl)
@[simp] theorem flpPart_setCan (i : Nat) (x : Can) : flpPart (d.setCan i x) = flpPart d := (rfl)
@[simp] theorem flpPart_setPciePort (i : Nat) (x : PciePort) : flpPart (d.setPciePort i x) = flpPart d := (rfl)
@[simp] theorem flpPart_setLink (i : Nat) (x : Link) : flpPart (d.setLink i x) = flpPart d := (rfl)
@[simp] theorem flpPart_emit (o : Out) : flpPart (d.emit o) = flpPart d := (rfl)
@[simp] theorem flpPart_raise (s : Nat) : flpPart (d.raise s) = flpPart d := (rfl)
@[simp] theorem flpPart_poke (l : List (Nat × Byte)) : flpPart (d.poke l) = flpPart d := (rfl)
@[simp] theorem flpPart_writeBack (line : Nat) : flpPart (d.writeBack line) = flpPart d := (rfl)
@[simp] theorem flpPart_clearResv (line : Nat) (keep : Option Nat) : flpPart (d.clearResv line keep) = flpPart d := (rfl)
@[simp] theorem flpPart_dropOps (p : Station → Bool) : flpPart (d.dropOps p) = flpPart d := (rfl)
@[simp] theorem flpPart_freeSlots (line : Nat) : flpPart (d.freeSlots line) = flpPart d := (rfl)
@[simp] theorem flpPart_irqImage (slot : Nat) : flpPart (d.irqImage slot) = flpPart d := (rfl)
@[simp] theorem flpPart_startCtx (x entry : Nat) : flpPart (d.startCtx x entry) = flpPart d := (rfl)
@[simp] theorem flpPart_reload (slot x k : Nat) : flpPart (d.reload slot x k) = flpPart d := (rfl)
@[simp] theorem flpPart_withCkpts (m : Sparse Ctx) : flpPart { d with ckpts := m } = flpPart d := (rfl)
@[simp] theorem flpPart_withHubOut (l : List HomeReq) : flpPart { d with hubOut := l } = flpPart d := (rfl)
@[simp] theorem flpPart_withHubQ (l : List HomeReq) : flpPart { d with hubQ := l } = flpPart d := (rfl)

/-! ### Channels, caches and power domains -/

@[simp] theorem flpPart_chanPush (r : Nat) (q : ChanReq) : flpPart (d.chanPush r q) = flpPart d := by
  simp [Dev.chanPush]

@[simp] theorem flpPart_chanPost (line requester room : Nat) : flpPart (d.chanPost line requester room) = flpPart d := by
  unfold Dev.chanPost; split <;> simp

@[simp] theorem flpPart_chanWrite (line requester room : Nat) : flpPart (d.chanWrite line requester room) = flpPart d := by
  simp [Dev.chanWrite]

@[simp] theorem flpPart_writeOut (line room : Nat) : flpPart (d.writeOut line room) = flpPart d := by
  simp [Dev.writeOut]

@[simp] theorem flpPart_l3Fill (r line id : Nat) : flpPart (d.l3Fill r line id) = flpPart d := by
  unfold Dev.l3Fill
  dsimp only
  split
  · simp
  · split <;> simp

@[simp] theorem flpPart_homeWrite (line id : Nat) : flpPart (d.homeWrite line id) = flpPart d := by
  unfold Dev.homeWrite; split <;> simp

@[simp] theorem flpPart_applyPend (c : Nat) : flpPart (d.applyPend c) = flpPart d := (rfl)

@[simp] theorem flpPart_wakeEffects (n : Nat) (old : DomSt) : flpPart (d.wakeEffects n old) = flpPart d := by
  simp [Dev.wakeEffects, Dev.modCan]

@[simp] theorem flpPart_tracePut (slot : Nat) (p : TracePkt) : flpPart (d.tracePut slot p) = flpPart d := by
  unfold Dev.tracePut
  dsimp only
  split_ifs <;> rfl

@[simp] theorem flpPart_tracePower (n : Nat) (old new : DomSt) (code : Nat) : flpPart (d.tracePower n old new code) = flpPart d := by
  simp [Dev.tracePower]

@[simp] theorem flpPart_setDomainCode (n : Nat) (st : DomSt) (code : Nat) : flpPart (d.setDomainCode n st code) = flpPart d := by
  simp [Dev.setDomainCode]

@[simp] theorem flpPart_setDomainSt (n : Nat) (st : DomSt) : flpPart (d.setDomainSt n st) = flpPart d := by
  simp [Dev.setDomainSt]

/-- Counting an entry writes PWR_DREQ's answer in the PWR block, never MAIN_OK. -/
@[simp] theorem flpPart_countEntry (n code : Nat) (asker : Option Nat) (abort : Bool) :
    flpPart (d.countEntry n code asker abort) = flpPart d := by
  unfold Dev.countEntry
  extract_lets d1 d2
  have h : flpPart d2 = flpPart d := by simp [d2, d1]
  split
  · exact h
  · split_ifs
    · exact h
    · exact h

@[simp] theorem flpPart_stopSlice (n : Nat) : flpPart (d.stopSlice n) = flpPart d := by
  unfold Dev.stopSlice; split_ifs <;> rfl

@[simp] theorem flpPart_abortEntry (n code : Nat) : flpPart (d.abortEntry n code) = flpPart d := by
  unfold Dev.abortEntry; split <;> simp

@[simp] theorem flpPart_wakeOne (n : Nat) : flpPart (d.wakeOne n) = flpPart d := by
  simp [Dev.wakeOne]

@[simp] theorem flpPart_wake (n : Nat) : flpPart (d.wake n) = flpPart d := by
  simp [Dev.wake]

@[simp] theorem flpPart_startWakeOne (n : Nat) : flpPart (d.startWakeOne n) = flpPart d := by
  simp [Dev.startWakeOne]

@[simp] theorem flpPart_startWake (n : Nat) : flpPart (d.startWake n) = flpPart d := by
  simp [Dev.startWake]

@[simp] theorem flpPart_sendTo (pkg : Nat) (m : CohMsg) : flpPart (d.sendTo pkg m) = flpPart d := by
  simp [Dev.sendTo, Dev.modLink]

@[simp] theorem flpPart_farLeave (c line id : Nat) (dirty : Bool) : flpPart (d.farLeave c line id dirty) = flpPart d := by
  unfold Dev.farLeave; split <;> simp

@[simp] theorem flpPart_homeSend (c line id : Nat) (dirty : Bool) : flpPart (d.homeSend c line id dirty) = flpPart d := by
  unfold Dev.homeSend; split <;> simp

@[simp] theorem flpPart_dirRefresh (line : Nat) : flpPart (d.dirRefresh line) = flpPart d := by
  unfold Dev.dirRefresh; split <;> simp

@[simp] theorem flpPart_emptySlot (c i : Nat) : flpPart (d.emptySlot c i) = flpPart d := by
  unfold Dev.emptySlot
  dsimp only
  split
  · rfl
  · split <;> simp

@[simp] theorem flpPart_flushSlots (c : Nat) : flpPart (d.flushSlots c) = flpPart d := by
  simp [Dev.flushSlots]

@[simp] theorem flpPart_takeSlots (line requester room : Nat) : flpPart (d.takeSlots line requester room) = flpPart d :=
  flpPart_each _ _ _ fun _ _ => by split <;> simp

@[simp] theorem flpPart_forwardTo (c : Nat) : flpPart (d.forwardTo c) = flpPart d := by
  simp [Dev.forwardTo]

@[simp] theorem flpPart_countIn (regions : List Nat) : flpPart (d.countIn regions) = flpPart d := by
  simp [Dev.countIn]

@[simp] theorem flpPart_l1Drop (core line : Nat) : flpPart (d.l1Drop core line) = flpPart d := by
  unfold Dev.l1Drop; split_ifs <;> rfl

@[simp] theorem flpPart_l1DropAll (c line : Nat) : flpPart (d.l1DropAll c line) = flpPart d := by
  simp [Dev.l1DropAll]

@[simp] theorem flpPart_l2Invalidate (c line : Nat) : flpPart (d.l2Invalidate c line) = flpPart d := by
  simp [Dev.l2Invalidate]

@[simp] theorem flpPart_l1Share (c line : Nat) : flpPart (d.l1Share c line) = flpPart d := by
  simp [Dev.l1Share]

@[simp] theorem flpPart_l2Share (c line : Nat) : flpPart (d.l2Share c line) = flpPart d := by
  simp [Dev.l2Share]

@[simp] theorem flpPart_snoopOthers (line : Nat) (except : Option Nat) (excl : Bool) :
    flpPart (d.snoopOthers line except excl) = flpPart d := by
  simp [Dev.snoopOthers]

@[simp] theorem flpPart_l2Evict (c line : Nat) : flpPart (d.l2Evict c line) = flpPart d := by
  unfold Dev.l2Evict; split <;> simp

@[simp] theorem flpPart_homeFill (r line requester room : Nat) : flpPart (d.homeFill r line requester room) = flpPart d := by
  simp [Dev.homeFill]

@[simp] theorem flpPart_l2Get (core line : Nat) (wr nt : Bool) : flpPart (d.l2Get core line wr nt) = flpPart d := by
  unfold Dev.l2Get
  extract_lets c id owned locked d1 others dirty d2 d3 d4
  split
  · simp
  · have h1 : flpPart d1 = flpPart d := by unfold d1; split <;> simp
    have h4 : flpPart d4 = flpPart d := by unfold d4; split <;> simp [d3, d2, h1]
    split <;> simp [h4]

@[simp] theorem flpPart_l1Fill (core line : Nat) (st : L1St) (nt : Bool) : flpPart (d.l1Fill core line st nt) = flpPart d := by
  unfold Dev.l1Fill; dsimp only; split <;> simp

@[simp] theorem flpPart_touchLine (core line : Nat) (wr nt : Bool) : flpPart (d.touchLine core line wr nt) = flpPart d := by
  unfold Dev.touchLine; dsimp only; split <;> simp

@[simp] theorem flpPart_writeLine (core line : Nat) (nt : Bool) : flpPart (d.writeLine core line nt) = flpPart d := by
  simp [Dev.writeLine]

@[simp] theorem flpPart_touchOwn (core line : Nat) (nt : Bool) : flpPart (d.touchOwn core line nt) = flpPart d := by
  simp [Dev.touchOwn]

@[simp] theorem flpPart_hintLine (core kind line : Nat) (nt : Bool) : flpPart (d.hintLine core kind line nt) = flpPart d := by
  unfold Dev.hintLine; split <;> simp

@[simp] theorem flpPart_flushL2 (c : Nat) (p : L2Line → Bool) : flpPart (d.flushL2 c p) = flpPart d := by
  simp [Dev.flushL2]

@[simp] theorem flpPart_flushL1 (core : Nat) (p : L1Line → Bool) : flpPart (d.flushL1 core p) = flpPart d := by
  simp [Dev.flushL1]

/-! ### Store buffers -/

@[simp] theorem flpPart_drainOne (core : Nat) : flpPart (d.drainOne core) = flpPart d := by
  unfold Dev.drainOne; split <;> simp

@[simp] theorem flpPart_drain (core : Nat) : flpPart (d.drain core) = flpPart d := by
  simp [Dev.drain]

@[simp] theorem flpPart_yieldStores (core : Nat) (lines : List Nat) : flpPart (d.yieldStores core lines) = flpPart d := by
  simp [Dev.yieldStores]

/-! ### Coherence transactions -/

@[simp] theorem flpPart_snooped (c line : Nat) (kind : SnoopKind) : flpPart (d.snooped c line kind).1 = flpPart d := by
  unfold Dev.snooped
  extract_lets takes d1 st slot data tag d2 d3 d4
  have h2 : flpPart d2 = flpPart d := by simp [d2, d1]
  have h3 : flpPart d3 = flpPart d := by unfold d3; clear_value slot; split <;> simp [h2]
  show flpPart d4 = flpPart d
  unfold d4
  split <;> simp [h3]

@[simp] theorem flpPart_modTxn (line : Nat) (f : Txn → Txn) : flpPart (d.modTxn line f) = flpPart d := by
  unfold Dev.modTxn; split <;> simp

@[simp] theorem flpPart_served (r stamp : Nat) : flpPart (d.served r stamp) = flpPart d := by
  simp [Dev.served]

@[simp] theorem flpPart_answerSnoop (c line room : Nat) (kind : SnoopKind) : flpPart (d.answerSnoop c line room kind) = flpPart d := by
  unfold Dev.answerSnoop
  split
  · split <;> simp
  · split <;> simp

@[simp] theorem flpPart_toChannel (t : Txn) : flpPart (d.toChannel t) = flpPart d := by
  unfold Dev.toChannel
  extract_lets push write d1
  have hp (d : Dev) (line : Nat) : flpPart (push d line) = flpPart d := by unfold push; split <;> simp
  split
  · split <;> simp
  · split <;> simp [d1, hp]

@[simp] theorem flpPart_homeRsp (region line : Nat) (held : Bool) (tag : Option (BitVec 12)) (data : List Byte) :
    flpPart (d.homeRsp region line held tag data) = flpPart d := by
  unfold Dev.homeRsp
  split
  · rfl
  · extract_lets own got d1 t' d2 d3 d4
    have h2 : flpPart d2 = flpPart d := by simp [d2, d1]
    have h3 : flpPart d3 = flpPart d := by unfold d3; split <;> simp [h2]
    have h4 : flpPart d4 = flpPart d := by unfold d4; split <;> simp [h3]
    simp [h4]

@[simp] theorem flpPart_grantSlot (c i : Nat) (v : EvSlot) : flpPart (d.grantSlot c i v) = flpPart d := by
  simp [Dev.grantSlot]

@[simp] theorem flpPart_grantStale (r line : Nat) (tag : BitVec 12) : flpPart (d.grantStale r line tag) = flpPart d := by
  unfold Dev.grantStale
  dsimp only
  split_ifs
  · split <;> simp
  · simp

@[simp] theorem flpPart_openEvd (r : Nat) (q : HomeReq) : flpPart (d.openEvd r q) = flpPart d := by
  unfold Dev.openEvd
  extract_lets t d1 d2 d3
  have h2 : flpPart d2 = flpPart d := by unfold d2; split <;> simp [d1]
  simp [d3, h2]

@[simp] theorem flpPart_openTxn (r : Nat) (q : HomeReq) : flpPart (d.openTxn r q) = flpPart d := by
  unfold Dev.openTxn
  extract_lets t d1 d2 d3
  have h3 : flpPart d3 = flpPart d := by simp [d3, d2, d1]
  split <;> simp [h3]

@[simp] theorem flpPart_grantReq (r : Nat) (q : HomeReq) : flpPart (d.grantReq r q) = flpPart d := by
  unfold Dev.grantReq
  split_ifs
  · split <;> simp
  · simp

@[simp] theorem flpPart_grantWaiting (r : Nat) : flpPart (d.grantWaiting r) = flpPart d :=
  flpPart_iter _ _ _ fun _ => by dsimp only; split <;> simp

@[simp] theorem flpPart_closeTxn (line : Nat) : flpPart (d.closeTxn line) = flpPart d := by
  unfold Dev.closeTxn; split <;> simp

@[simp] theorem flpPart_homeCmp (dest line : Nat) : flpPart (d.homeCmp dest line) = flpPart d := by
  unfold Dev.homeCmp; split <;> simp

@[simp] theorem flpPart_farHolds (t : Txn) (st : Moesi) : flpPart (d.farHolds t st) = flpPart d := by
  unfold Dev.farHolds; split <;> simp

@[simp] theorem flpPart_installGrant (dest line : Nat) : flpPart (d.installGrant dest line) = flpPart d := by
  unfold Dev.installGrant
  extract_lets own sent
  have ho (d : Dev) (c : Nat) : flpPart (own d c) = flpPart d := by simp [own]
  have hs (d : Dev) : flpPart (sent d) = flpPart d := by simp [sent]
  split
  · split <;> simp [ho]
  · split
    · rfl
    · split_ifs
      · rfl
      · split <;> simp [ho, hs]

@[simp] theorem flpPart_atHome (r : Nat) (q : HomeReq) : flpPart (d.atHome r q) = flpPart d := by
  simp [Dev.atHome]

@[simp] theorem flpPart_sendReq (q : HomeReq) : flpPart (d.sendReq q) = flpPart d := by
  unfold Dev.sendReq; split <;> simp

@[simp] theorem flpPart_hubSend (q : HomeReq) : flpPart (d.hubSend q) = flpPart d := by
  simp [Dev.hubSend]

@[simp] theorem flpPart_hubNext : flpPart d.hubNext = flpPart d := by
  unfold Dev.hubNext; split <;> simp

@[simp] theorem flpPart_toSlot (c i : Nat) (e : L2Line) : flpPart (d.toSlot c i e) = flpPart d := by
  simp [Dev.toSlot]

/-- A line that is installed, where a slot is free. -/
theorem flpPart_install {c i : Nat} {m : MissReg} {st : Moesi} {d' : Dev} (h : d.install c i m st = some d') :
    flpPart d' = flpPart d := by
  unfold Dev.install at h
  split_ifs at h
  dsimp only at h
  split at h
  · cases h; simp
  · cases h
    split <;> split <;> simp

@[simp] theorem flpPart_mergeMiss (core line : Nat) (use : MissUse) : flpPart (d.mergeMiss core line use) = flpPart d := by
  simp [Dev.mergeMiss]

@[simp] theorem flpPart_missRequest (core line : Nat) (kind : TxnKind) (use : MissUse) (age : Nat) :
    flpPart (d.missRequest core line kind use age) = flpPart d := by
  unfold Dev.missRequest
  extract_lets c room
  split
  · rfl
  · split
    · simp
    · split
      · rfl
      · dsimp only; split <;> simp

@[simp] theorem flpPart_fillHints (line : Nat) (m : MissReg) : flpPart (d.fillHints line m) = flpPart d :=
  flpPart_each _ _ _ fun _ _ => by
    split
    · split <;> simp
    · rfl

@[simp] theorem flpPart_txnFill (r : Nat) (t : Txn) : flpPart (d.txnFill r t) = flpPart d := by
  simp [Dev.txnFill]

@[simp] theorem flpPart_installData (dest line grant : Nat) (data : List Byte) :
    flpPart (d.installData dest line grant data) = flpPart d := by
  unfold Dev.installData
  split
  · split
    · simp
    · dsimp only
      split
      · rfl
      next h =>
        have := flpPart_install d (Option.ite_none_right_eq_some.1 h).2
        simp [this]
  · split
    · rfl
    · split
      · rfl
      · split
        · simp
        -- A shared and an exclusive read install their line alike.
        iterate 2
          dsimp only
          split
          · simp
          · split
            · rfl
            · split
              · rfl
              next h => simp [flpPart_install d h]
        · rfl

@[simp] theorem flpPart_engineLand (requester room : Nat) (l : List (Nat × Byte)) :
    flpPart (d.engineLand requester room l) = flpPart d := by
  refine (flpPart_each _ _ _ fun d n => ?_).trans (flpPart_poke d l)
  dsimp only
  split <;> simp

@[simp] theorem flpPart_homeAck (dest line : Nat) : flpPart (d.homeAck dest line) = flpPart d := by
  unfold Dev.homeAck
  split <;> simp

@[simp] theorem flpPart_finishTxn (line : Nat) : flpPart (d.finishTxn line) = flpPart d := by
  unfold Dev.finishTxn
  split
  · split
    · rfl
    · extract_lets d1 d2 d3 d4 d5
      have h4 : flpPart d4 = flpPart d := by
        refine (flpPart_iter _ _ _ fun d => ?_).trans (by simp [d3, d2, d1])
        dsimp only
        split <;> simp
      have h5 : flpPart d5 = flpPart d := by
        unfold d5
        split
        · split <;> simp [h4]
        · exact h4
      simp [h5]
  · rfl

@[simp] theorem flpPart_finishTxns (cs : List Nat) : flpPart (d.finishTxns cs) = flpPart d := by
  simp [Dev.finishTxns]

@[simp] theorem flpPart_finishAllTxns : flpPart d.finishAllTxns = flpPart d := by
  simp [Dev.finishAllTxns]

@[simp] theorem flpPart_quiet (cs : List Nat) : flpPart (d.quiet cs) = flpPart d := by
  simp [Dev.quiet]

/-! ### Engine writes, mailboxes and confirmation -/

@[simp] theorem flpPart_engineNow (room : Nat) (l : List (Nat × Byte)) : flpPart (d.engineNow room l) = flpPart d := by
  simp [Dev.engineNow]

@[simp] theorem flpPart_engineWrite (room pa : Nat) (bs : List Byte) : flpPart (d.engineWrite room pa bs) = flpPart d := by
  simp [Dev.engineWrite]

@[simp] theorem flpPart_deliverOne (n : Nat) : flpPart (d.deliverOne n) = flpPart d := by
  unfold Dev.deliverOne; split <;> simp

@[simp] theorem flpPart_deliver (n : Nat) : flpPart (d.deliver n) = flpPart d := by
  simp [Dev.deliver]

@[simp] theorem flpPart_releaseSends (slot epoch : Nat) : flpPart (d.releaseSends slot epoch) = flpPart d :=
  flpPart_each _ _ _ fun _ _ => by split <;> simp

@[simp] theorem flpPart_stageNode (n k : Nat) : flpPart (d.stageNode n k) = flpPart d := by
  simp [Dev.stageNode]

@[simp] theorem flpPart_snapshot (slot : Nat) : flpPart (d.snapshot slot) = flpPart d := by
  simp [Dev.snapshot]

@[simp] theorem flpPart_stream (slot c : Nat) : flpPart (d.stream slot c) = flpPart d := by
  simp [Dev.stream]

@[simp] theorem flpPart_confirmOne (slot : Nat) : flpPart (d.confirmOne slot) = flpPart d := by
  unfold Dev.confirmOne
  dsimp only
  split <;> simp

@[simp] theorem flpPart_confirmAll (slot : Nat) : flpPart (d.confirmAll slot) = flpPart d := by
  simp [Dev.confirmAll]

@[simp] theorem flpPart_confirmDue (slot : Nat) : flpPart (d.confirmDue slot) = flpPart d := by
  simp [Dev.confirmDue]

/-! ### Boundaries -/

@[simp] theorem flpPart_commit (slot : Nat) : flpPart (d.commit slot) = flpPart d :=
  (flpPart_each _ _ _ fun _ _ => by rfl).trans (by simp)

@[simp] theorem flpPart_traceCore (core slot : Nat) (p : TracePkt) : flpPart (d.traceCore core slot p) = flpPart d := by
  simp [Dev.traceCore]

@[simp] theorem flpPart_traceEvt (core slot kind typ aux : Nat) (value : Word) :
    flpPart (d.traceEvt core slot kind typ aux value) = flpPart d := by
  simp [Dev.traceEvt]

@[simp] theorem flpPart_boundary (slot : Nat) : flpPart (d.boundary slot) = flpPart d := by
  simp [Dev.boundary]

@[simp] theorem flpPart_boundaryConfirm (slot : Nat) : flpPart (d.boundaryConfirm slot) = flpPart d := by
  simp [Dev.boundaryConfirm]

/-! ### Trestles -/

@[simp] theorem flpPart_copierFirst (slot : Nat) (nodes : List Nat) : flpPart (d.copierFirst slot nodes) = flpPart d := by
  simp [Dev.copierFirst]

@[simp] theorem flpPart_logLines (slot c : Nat) (lines : List Nat) : flpPart (d.logLines slot c lines) = flpPart d := by
  simp [Dev.logLines]

@[simp] theorem flpPart_trMemWrite (slot core pa : Nat) (bs : List Byte) : flpPart (d.trMemWrite slot core pa bs) = flpPart d := by
  simp [Dev.trMemWrite]

@[simp] theorem flpPart_lsWrite (slot c at_ : Nat) (bs : List Byte) : flpPart (d.lsWrite slot c at_ bs) = flpPart d := by
  simp [Dev.lsWrite]

@[simp] theorem flpPart_trBegin (u : Nat) : flpPart (d.trBegin u) = flpPart d := by
  simp [Dev.trBegin]

/-- The oldest operation of a room completes, where it can. -/
theorem flpPart_trComplete {c slot : Nat} {d' : Dev} (h : d.trComplete c slot = some d') : flpPart d' = flpPart d := by
  unfold Dev.trComplete at h
  split at h
  · cases h
  · extract_lets d0 core src d1 st vals d2 d3 d4 d5 at h
    have h2 : flpPart d2 = flpPart d := by simp [d2, d1]
    have h3 : flpPart d3 = flpPart d := by unfold d3; clear_value st; split <;> simp [h2]
    have h4 : flpPart d4 = flpPart d := by unfold d4; clear_value st; split <;> simp [h3]
    split at h
    · cases h
    · cases h; simp [d5, h4]

@[simp] theorem flpPart_trDrain (c slot : Nat) (p : Station → Bool) : flpPart (d.trDrain c slot p) = flpPart d :=
  flpPart_iter _ _ _ fun d => by
    split
    · cases h : d.trComplete c slot with
      | none => rfl
      | some d' => exact flpPart_trComplete d h
    · rfl

@[simp] theorem flpPart_trLoad (u : Nat) (l : Option (Nat × Nat)) : flpPart (d.trLoad u l) = flpPart d := by
  simp [Dev.trLoad]

@[simp] theorem flpPart_trDrainRoom (slot : Nat) : flpPart (d.trDrainRoom slot) = flpPart d :=
  flpPart_each _ _ _ fun d c => by
    cases d.trUnit c <;> simp

@[simp] theorem flpPart_dropStations (slot : Nat) : flpPart (d.dropStations slot) = flpPart d := (rfl)

@[simp] theorem flpPart_beginStations (slot : Nat) : flpPart (d.beginStations slot) = flpPart d := by
  simp [Dev.beginStations]

@[simp] theorem flpPart_scrubTrestle (slot : Nat) : flpPart (d.scrubTrestle slot) = flpPart d := by
  simp [Dev.scrubTrestle]

@[simp] theorem flpPart_putShare (c slot : Nat) (bytes : List (Nat × Byte)) (wm : Nat) :
    flpPart (d.putShare c slot bytes wm) = flpPart d := by
  simp [Dev.putShare]

/-! ### Rollback -/

@[simp] theorem flpPart_stopCores (slot : Nat) : flpPart (d.stopCores slot) = flpPart d := by
  simp [Dev.stopCores]

@[simp] theorem flpPart_undoOne (slot c : Nat) (e : UndoEntry) : flpPart (d.undoOne slot c e) = flpPart d := by
  unfold Dev.undoOne; split <;> simp

@[simp] theorem flpPart_replay (slot : Nat) : flpPart (d.replay slot) = flpPart d := by
  have hb (k : Nat) (d : Dev) : flpPart (each (d.clustersOf slot) (fun d c =>
      each ((d.cluster c).undo.filter (fun e => e.slot == slot && e.epoch == k)) (fun d e => d.undoOne slot c e) d) d) = flpPart d := by
    simp
  simp [Dev.replay, hb]

@[simp] theorem flpPart_tlbRemoveRoom (slot : Nat) : flpPart (d.tlbRemoveRoom slot) = flpPart d := by
  simp [Dev.tlbRemoveRoom, Dev.tlbRemove]

@[simp] theorem flpPart_pcieOut (pa : Nat) (bs : List Byte) : flpPart (d.pcieOut pa bs) = flpPart d := by
  simp [Dev.pcieOut, Dev.modPciePort]

@[simp] theorem flpPart_fwdPost (slot : Nat) (c : FwdCmd) : flpPart (d.fwdPost slot c) = flpPart d := by
  unfold Dev.fwdPost; split <;> simp

@[simp] theorem flpPart_restore (slot : Nat) : flpPart (d.restore slot) = flpPart d := by
  unfold Dev.restore
  dsimp only
  split <;> simp

/-! ### A room leaves a set -/

@[simp] theorem flpPart_endHalt (slot : Nat) : flpPart (d.endHalt slot) = flpPart d := by
  simp [Dev.endHalt]

@[simp] theorem flpPart_backToCkpt (slot : Nat) : flpPart (d.backToCkpt slot) = flpPart d := by
  simp [Dev.backToCkpt]

@[simp] theorem flpPart_flushRoom (new : Plan) (slot : Nat) : flpPart (d.flushRoom new slot) = flpPart d := by
  simp [Dev.flushRoom]

@[simp] theorem flpPart_leaveSet (new : Plan) (slot : Nat) : flpPart (d.leaveSet new slot) = flpPart d := by
  simp [Dev.leaveSet]

/-! ### Field nodes and ports -/

@[simp] theorem flpPart_nodeEvent (r : NodeRec) (e : NodeEvt) : flpPart (d.nodeEvent r e) = flpPart d := by
  unfold Dev.nodeEvent
  dsimp only
  split <;> simp

@[simp] theorem flpPart_inputWrite (r : NodeRec) : flpPart (d.inputWrite r) = flpPart d := by
  unfold Dev.inputWrite; split <;> simp

@[simp] theorem flpPart_ringSend (r : Nat) (f : Nat → Nat → Out) : flpPart (d.ringSend r f) = flpPart d := by
  simp [Dev.ringSend, Dev.modRing]

@[simp] theorem flpPart_dropNode (r : NodeRec) : flpPart (d.dropNode r) = flpPart d := by
  simp [Dev.dropNode]

@[simp] theorem flpPart_frcLeave (new : Plan) : flpPart (d.frcLeave new) = flpPart d := by
  simp [Dev.frcLeave]

@[simp] theorem flpPart_frcPorts (old : Plan) : flpPart (d.frcPorts old) = flpPart d := by
  simp [Dev.frcPorts]

/-! ### A room enters a set -/

@[simp] theorem flpPart_grant (old new : Plan) (id : Nat) : flpPart (d.grant old new id) = flpPart d := by
  unfold Dev.grant; dsimp only; split_ifs <;> rfl

@[simp] theorem flpPart_arrive_ (d0 : Dev) (slot : Nat) : flpPart (d.arrive_ d0 slot) = flpPart d := by
  unfold Dev.arrive_
  extract_lets cores d1 d2
  have h1 : flpPart d1 = flpPart d := flpPart_each _ _ _ fun d _ =>
    (flpPart_setCore _ _ _).trans (flpPart_each _ _ _ fun d _ => (flpPart_each _ _ _ fun _ _ => by rfl).trans (flpPart_setCtx d _ _))
  have h2 : flpPart d2 = flpPart d := (flpPart_each _ _ _ fun _ _ => by simp).trans h1
  exact h2

@[simp] theorem flpPart_startCore (slot core : Nat) (run : CoreRun) : flpPart (d.startCore slot core run) = flpPart d := by
  simp [Dev.startCore]

@[simp] theorem flpPart_beginEpochs (slot k : Nat) : flpPart (d.beginEpochs slot k) = flpPart d := by
  simp [Dev.beginEpochs]

@[simp] theorem flpPart_retarget (c : Nat) : flpPart (d.retarget c) = flpPart d := by
  simp [Dev.retarget]

@[simp] theorem flpPart_wakeRoom (slot : Nat) : flpPart (d.wakeRoom slot) = flpPart d := by
  simp [Dev.wakeRoom]

@[simp] theorem flpPart_startRoom (slot : Nat) : flpPart (d.startRoom slot) = flpPart d := by
  simp [Dev.startRoom]

@[simp] theorem flpPart_resumeFrom (slot bnd k : Nat) : flpPart (d.resumeFrom slot bnd k) = flpPart d := by
  simp [Dev.resumeFrom]

@[simp] theorem flpPart_resetEnds (id : Nat) : flpPart (d.resetEnds id) = flpPart d := by
  simp [Dev.resetEnds]

@[simp] theorem flpPart_freshStart (d0 : Dev) (slot : Nat) : flpPart (d.freshStart d0 slot) = flpPart d := by
  unfold Dev.freshStart
  split
  · rfl
  · extract_lets was blank d1 d2 d3 d4 fresh d5
    have h5 : flpPart d5 = flpPart d := by simp [d5, d4, d3, d2, d1]
    split
    · simp [h5]
    · split_ifs <;> simp [h5]

@[simp] theorem flpPart_proceed (d0 : Dev) (slot : Nat) : flpPart (d.proceed d0 slot) = flpPart d := by
  unfold Dev.proceed
  extract_lets cls d1 r old new req d2 d3
  have h3 : flpPart d3 = flpPart d := by simp [d3, d2, d1]
  clear_value cls
  split
  · rfl
  · rfl
  · simp [h3]
  · simp

@[simp] theorem flpPart_keepLevels (slot : Nat) : flpPart (d.keepLevels slot) = flpPart d := by
  simp [Dev.keepLevels]

end Sys2Proof.Proofs.FlpPart
end

section
/-!
CERTIFICATE. The end of validation, the swap point, and the end of a zero-fill.
-/
namespace Sys2Proof.Proofs.SwapPoint
open Sys2Proof Sys2Proof.Machine Sys2Proof.Safety Sys2Proof.Proofs.FlpPart

variable {d : Dev}

/-! ### Validation (R80, R91, R99) -/

/-- The record of an incident leaves the floorplan's part of the device. -/
theorem flpPart_incident (d : Dev) (kind loc addr detail : Nat) (rooms : List Nat) (rbkNs : Nat) :
    flpPart (d.incident kind loc addr detail rooms rbkNs) = flpPart d := by
  unfold Dev.incident Dev.incidentAs
  dsimp only
  split_ifs <;> rfl

theorem outbox_incident (d : Dev) (kind loc addr detail : Nat) (rooms : List Nat) (rbkNs : Nat) :
    (d.incident kind loc addr detail rooms rbkNs).outbox = d.outbox := by
  unfold Dev.incident Dev.incidentAs
  dsimp only
  split_ifs <;> rfl

@[simp] theorem seq_journalize (l : IncLog) (r : Incident) : (l.journalize r).seq = l.seq := by
  unfold IncLog.journalize
  split_ifs <;> rfl

/-- Every record takes the next sequence number. -/
theorem seq_incident (d : Dev) (kind loc addr detail : Nat) (rooms : List Nat) (rbkNs : Nat) :
    (d.incident kind loc addr detail rooms rbkNs).inc.seq = (d.inc.seq + 1) % 2 ^ 32 := by
  unfold Dev.incident Dev.incidentAs
  dsimp only
  split_ifs <;> simp [Dev.raise]

/-- The device once its package has told its verdict to the others. -/
theorem flpVerdict_eq (d : Dev) (ready : Bool) :
    d.flpVerdict ready = { d with outbox := if d.others = [] then d.outbox else .floorplanVerdict ready :: d.outbox } := by
  unfold Dev.flpVerdict
  cases h : d.others <;> rfl

theorem validationDone_of_not_validating (peers : List PeerVerdict) (h : d.flp.st ≠ .validating) : d.validationDone peers = d := by
  simp [Dev.validationDone, h]

/-- An image that fails: the other packages are told, the shadow slot is emptied, and an incident is written. -/
theorem validationDone_of_error {code sec : Nat} (peers : List PeerVerdict) (h : d.flp.st = .validating)
    (hv : d.validate d.store.shadow d.flpMode = .error (code, sec)) :
    d.validationDone peers =
      ({ (d.flpVerdict false).flpEmpty code with flp := { d.flp with st := .idle, result := code, section_ := sec } } : Dev).incident
        0x18 3 0 (detailOf [0x0D, code, sec, 0]) [] 0 := by
  have hf : (d.flpVerdict false).flp = d.flp := by rw [flpVerdict_eq]
  simp [Dev.validationDone, h, hv, Dev.flpEmpty, hf]

/-- The device whose own validation has passed: the shadow set is filled, and the verdict told, once. -/
def passed (d : Dev) (p : Plan) : Dev :=
  { d with shadowPlan := some p
           outbox := if d.others = [] ∨ d.shadowPlan ≠ none then d.outbox else .floorplanVerdict true :: d.outbox }

theorem withShadowPlan_self {x : Option Plan} (h : d.shadowPlan = x) : ({ d with shadowPlan := x } : Dev) = d := by
  subst h; rfl

theorem fillShadow_eq_passed {p : Plan} (hp : d.shadowPlan = none ∨ d.shadowPlan = some p) :
    (if d.shadowPlan.isNone then { d.flpVerdict true with shadowPlan := some p } else d) = passed d p := by
  rcases hp with hp | hp
  · simp [passed, hp, flpVerdict_eq]
  · simp [passed, hp, withShadowPlan_self hp]

/-- An image that passes: what the other packages say decides. -/
theorem validationDone_of_ok {p : Plan} (peers : List PeerVerdict) (h : d.flp.st = .validating)
    (hv : d.validate d.store.shadow d.flpMode = .ok p) (hp : d.shadowPlan = none ∨ d.shadowPlan = some p) :
    d.validationDone peers =
      if peers.any (fun v => !v.ready && d.others.contains v.pkg) then (passed d p).flpEmpty 0x32
      else if d.others.all (fun k => peers.any (fun v => v.pkg == k)) then
        { passed d p with flp := { d.flp with st := .ready, result := 0 } }
      else passed d p := by
  have hne : (d.flp.st != .validating) = false := by simp [h]
  simp only [Dev.validationDone, hne, hv, fillShadow_eq_passed hp]
  rfl

section
variable {peers : List PeerVerdict}

theorem anyFailed_eq_true {v : PeerVerdict} (hv : v ∈ peers) (hr : v.ready = false) (hk : v.pkg ∈ d.others) :
    peers.any (fun v => !v.ready && d.others.contains v.pkg) = true :=
  List.any_eq_true.2 ⟨v, hv, by simp [hr, hk]⟩

theorem anyFailed_eq_false (h : ∀ v ∈ peers, v.pkg ∈ d.others → v.ready = true) :
    peers.any (fun v => !v.ready && d.others.contains v.pkg) = false :=
  List.any_eq_false.2 fun v hv => by
    by_cases hk : v.pkg ∈ d.others
    · simp [h v hv hk]
    · simp [hk]

theorem allReported_eq_true (h : ∀ k ∈ d.others, ∃ v ∈ peers, v.pkg = k) :
    d.others.all (fun k => peers.any (fun v => v.pkg == k)) = true := by
  simpa using h

theorem allReported_eq_false (h : ∃ k ∈ d.others, ∀ v ∈ peers, v.pkg ≠ k) :
    d.others.all (fun k => peers.any (fun v => v.pkg == k)) = false := by
  simpa using h

end

theorem validationDone_answers (peers : List PeerVerdict) (s : State) :
    Answers (exec (.validationDone peers) s) s (s.dev.validationDone peers) :=
  Laws.onDev_answers (fun d => d.validationDone peers) s

/-! ### The swap point (R95) -/

theorem lateMainFall_of_mainOk (h : d.porch.mainOk = true) : d.lateMainFall = d := by
  simp [Dev.lateMainFall, h]

/-- What the floorplan's part of a device becomes at the swap point: the set is in force, the slots rotate, STATE is Idle. -/
def swapped (d : Dev) (new : Plan) : Plan × Option Plan × Store × Flp × Bool :=
  (new, none, { d.store with lastGood := d.store.active, active := d.store.shadow, shadow := [],
                             highGen := max d.store.highGen new.generation }, { d.flp with st := .idle }, d.porch.mainOk)

theorem swapped_congr {d' : Dev} (h : flpPart d' = flpPart d) (new : Plan) : swapped d' new = swapped d new := by
  simp only [flpPart, Prod.mk.injEq] at h
  obtain ⟨-, -, hstore, hflp, hmain⟩ := h
  rw [swapped, swapped, hstore, hflp, hmain]

/-- All that leaves the old set before the rotation, and all that enters the new one after it, keeps the floorplan's part. -/
theorem flpPart_swapTo (d : Dev) (new : Plan) (h : d.porch.mainOk = true) : flpPart (d.swapTo new) = swapped d new := by
  unfold Dev.swapTo
  extract_lets changed quieted left d0 _ old scrubbed gone _ stopped _ _ _ _ active granted proceeded unclassed levelled aimed
  have hold : flpPart stopped = flpPart d :=
    (flpPart_each _ _ _ fun _ _ => by rfl).trans (by simp [scrubbed, d0, left, quieted])
  have hrotate : flpPart active = swapped d new := (by rfl : flpPart active = swapped stopped new).trans (swapped_congr hold new)
  have hnew : flpPart aimed = swapped d new := by
    rw [← hrotate]
    simp [aimed, levelled, unclassed, proceeded, granted]
  have hmain : aimed.porch.mainOk = d.porch.mainOk := congrArg (fun x => x.2.2.2.2) hnew
  rw [lateMainFall_of_mainOk (hmain.trans h), hnew]

theorem swapPoint_of_not_ready (h : d.shadowPlan = none ∨ d.swapReady = false) : d.swapPoint = d := by
  unfold Dev.swapPoint
  split
  · rfl
  next new hs => simp [h.resolve_left (by simp [hs])]

theorem swapPoint_of_ready {new : Plan} (hs : d.shadowPlan = some new) (hr : d.swapReady = true) : d.swapPoint = d.swapTo new := by
  simp [Dev.swapPoint, hs, hr]

theorem swapPoint_answers (s : State) : Answers (exec .swapPoint s) s s.dev.swapPoint :=
  Laws.onDev_answers (fun d => d.swapPoint) s

/-! ### The end of a zero-fill (R97) -/

section
variable {i : Nat} {x : Room} (h : x.roomId = (d.room i).roomId)
include h

/-- A write of a room's registers that keeps its ID leaves what may block a room. -/
theorem idOf_setRoom (j : Nat) : (d.setRoom i x).idOf j = d.idOf j := by
  unfold Dev.idOf
  rw [Laws.room_setRoom]
  split_ifs with hj
  · rw [h, hj]
  · rfl

theorem lsShare_setRoom (c j : Nat) : (d.setRoom i x).lsShare c j = d.lsShare c j := by
  unfold Dev.lsShare
  rw [idOf_setRoom h]
  rfl

theorem slotsOnDie_setRoom (die : Nat) : (d.setRoom i x).slotsOnDie die = d.slotsOnDie die := by
  unfold Dev.slotsOnDie
  simp only [idOf_setRoom h]
  rfl

theorem blocked_setRoom (j : Nat) : (d.setRoom i x).blocked j = d.blocked j := by
  unfold Dev.blocked
  simp only [lsShare_setRoom h, slotsOnDie_setRoom h]
  rfl

end

/-- A room that nothing blocks, that no zero-fill holds and that starts by itself, starts at the next package epoch boundary. -/
theorem scheduleStart_of_free {slot : Nat} {R : RoomRec} (hR : d.rrec slot = some R) (hb : d.blocked slot = none)
    (hz : (d.room slot).zeroFill = false) (ha : R.autostart = true) :
    d.scheduleStart slot =
      d.setRoom slot { d.room slot with phase := .starting, readyAt := nextPkg d.clk.tb, reason := 0 } := by
  simp [Dev.scheduleStart, hR, hb, hz, ha]

/-- The device with a room's zero-fill marked complete. -/
def filled (d : Dev) (slot : Nat) : Dev := d.setRoom slot { d.room slot with zeroFill := false }

theorem room_filled (d : Dev) (slot k : Nat) :
    (filled d slot).room k = if k = slot then { d.room slot with zeroFill := false } else d.room k :=
  Laws.room_setRoom _ _ _ _

theorem zeroFillDone_of_no_fill {slot : Nat} (h : (d.room slot).zeroFill = false) : d.zeroFillDone slot = d := by
  simp [Dev.zeroFillDone, h]

theorem zeroFillDone_of_fill {slot : Nat} (h : (d.room slot).zeroFill = true) :
    d.zeroFillDone slot = if (d.room slot).phase = .held ∧ (d.room slot).reason = 8 then (filled d slot).scheduleStart slot
      else filled d slot := by
  simp [Dev.zeroFillDone, h, filled]

/-- A room that was held for its zero-fill starts, where nothing else holds it. -/
theorem zeroFillDone_starts {slot : Nat} {R : RoomRec} (hz : (d.room slot).zeroFill = true) (hp : (d.room slot).phase = .held)
    (hr : (d.room slot).reason = 8) (hR : d.rrec slot = some R) (ha : R.autostart = true) (hb : d.blocked slot = none) :
    d.zeroFillDone slot = (filled d slot).setRoom slot
      { d.room slot with zeroFill := false, phase := .starting, readyAt := nextPkg d.clk.tb, reason := 0 } := by
  have hroom := room_filled d slot slot
  rw [if_pos rfl] at hroom
  have hb' : (filled d slot).blocked slot = none := (blocked_setRoom (by rfl) slot).trans hb
  rw [zeroFillDone_of_fill hz, if_pos ⟨hp, hr⟩, scheduleStart_of_free (d := filled d slot) hR hb' (by rw [hroom]) ha, hroom]
  rfl

/-- A room that was not held for its zero-fill goes on as it is. -/
theorem zeroFillDone_goes_on {slot : Nat} (hz : (d.room slot).zeroFill = true)
    (h : (d.room slot).phase ≠ .held ∨ (d.room slot).reason ≠ 8) : d.zeroFillDone slot = filled d slot := by
  rw [zeroFillDone_of_fill hz, if_neg fun ⟨hp, hr⟩ => h.elim (· hp) (· hr)]

theorem zeroFillDone_answers (slot : Nat) (s : State) : Answers (exec (.zeroFillDone slot) s) s (s.dev.zeroFillDone slot) :=
  Laws.onDev_answers (fun d => d.zeroFillDone slot) s

/-! ### The statement -/

/-- The clauses of validation that fails. -/
theorem validation_fails (s : State) (peers : List PeerVerdict) {code sec : Nat} (h : s.dev.flp.st = .validating)
    (hv : s.dev.validate s.dev.store.shadow s.dev.flpMode = .error (code, sec)) :
    ∃ X : Dev, Answers (exec (.validationDone peers) s) s X ∧ X.store = { s.dev.store with shadow := [] } ∧ X.shadowPlan = none ∧
      X.flp = { s.dev.flp with st := .idle, result := code, section_ := sec } ∧ X.plan = s.dev.plan ∧
      X.inc.seq = (s.dev.inc.seq + 1) % 2 ^ 32 ∧
      X.outbox = if s.dev.others = [] then s.dev.outbox else .floorplanVerdict false :: s.dev.outbox := by
  have hkept := flpPart_incident ({ (s.dev.flpVerdict false).flpEmpty code with
    flp := { s.dev.flp with st := .idle, result := code, section_ := sec } } : Dev) 0x18 3 0 (detailOf [0x0D, code, sec, 0]) [] 0
  refine ⟨_, validationDone_answers peers s, ?_⟩
  rw [validationDone_of_error peers h hv]
  rw [flpVerdict_eq] at hkept ⊢
  simp only [flpPart, Dev.flpEmpty, Prod.mk.injEq] at hkept
  obtain ⟨hplan, hshadow, hstore, hflp, -⟩ := hkept
  exact ⟨hstore, hshadow, hflp, hplan, seq_incident _ _ _ _ _ _ _, outbox_incident _ _ _ _ _ _ _⟩

/-- Settles O36: validation by its verdicts, the swap by the floorplan's part of the device, the zero-fill by the room's state. -/
theorem swapCompletes : Obligations.SwapCompletes := by
  unfold Obligations.SwapCompletes
  refine ⟨fun s peers => ⟨fun h => ?_, fun h => ?_⟩, fun s h => ?_, fun s new hs hr hm => ?_, fun s slot => ⟨fun hz => ?_, ?_, ?_⟩⟩
  · have ha := validationDone_answers peers s
    rwa [validationDone_of_not_validating peers h] at ha
  · cases hv : s.dev.validate s.dev.store.shadow s.dev.flpMode with
    | error e => exact validation_fails s peers h hv
    | ok p =>
      intro hp
      have ha := validationDone_answers peers s
      rw [validationDone_of_ok peers h hv hp] at ha
      refine ⟨fun hall => ?_, fun hready hmiss => ?_, fun v hv hfail hpkg => ?_⟩
      · rw [anyFailed_eq_false fun v hv hk => (hall _ hk).2 v hv rfl, allReported_eq_true fun k hk => (hall k hk).1] at ha
        exact ha
      · rw [anyFailed_eq_false hready, allReported_eq_false hmiss] at ha
        exact ha
      · rw [anyFailed_eq_true hv hfail hpkg] at ha
        exact ha
  · have ha := swapPoint_answers s
    rwa [swapPoint_of_not_ready h] at ha
  · have hpart := flpPart_swapTo s.dev new hm
    simp only [flpPart, swapped, Prod.mk.injEq] at hpart
    obtain ⟨hplan, hshadow, hstore, hflp, -⟩ := hpart
    have ha := swapPoint_answers s
    rw [swapPoint_of_ready hs hr] at ha
    exact ⟨_, ha, hplan, hshadow, hflp, hstore⟩
  · have ha := zeroFillDone_answers slot s
    rwa [zeroFillDone_of_no_fill hz] at ha
  · intro R hz hp hr hR hauto hb
    have ha := zeroFillDone_answers slot s
    rw [zeroFillDone_starts hz hp hr hR hauto hb] at ha
    refine ⟨_, ha, rfl, fun k => ?_⟩
    rw [Laws.room_setRoom, room_filled]
    split_ifs <;> rfl
  · intro hz h
    have ha := zeroFillDone_answers slot s
    rw [zeroFillDone_goes_on hz h] at ha
    exact ⟨_, ha, rfl, fun k => room_filled _ _ _⟩

end Sys2Proof.Proofs.SwapPoint
end

section
/-!
SUPPORT. What a loop over the device keeps and what it establishes.
-/
namespace Sys2Proof.Proofs.Loops
open Sys2Proof Sys2Proof.Machine

/-- What every round of a loop keeps, the loop keeps. -/
theorem each_keeps {α β : Type} (g : Dev → β) (l : List α) (f : Dev → α → Dev) (h : ∀ d a, g (f d a) = g d) (d : Dev) :
    g (each l f d) = g d := by
  induction l generalizing d with
  | nil => rfl
  | cons a l ih => exact (ih (f d a)).trans (h d a)

/-- What one round of a loop establishes and every round keeps, holds after the loop. -/
theorem each_establishes {α : Type} (P : Dev → Prop) {l : List α} {f : Dev → α → Dev} {a : α} (ha : a ∈ l) (hset : ∀ d, P (f d a))
    (hkeep : ∀ d b, P d → P (f d b)) (d : Dev) : P (each l f d) := by
  have hafter (l : List α) (d : Dev) (hd : P d) : P (each l f d) := by
    induction l generalizing d with
    | nil => exact hd
    | cons b l ih => exact ih _ (hkeep d b hd)
  induction l generalizing d with
  | nil => cases ha
  | cons b l ih =>
    rcases List.mem_cons.1 ha with rfl | ha
    · exact hafter l _ (hset d)
    · exact ih ha _

end Sys2Proof.Proofs.Loops
end

section
/-!
SUPPORT. What one command makes of the Lobby's sessions: a session is greeted, opened, heard or discarded, or some of them close. Both
statements about every step follow from it.
-/
namespace Sys2Proof.Proofs.LobbySessions
open Sys2Proof Sys2Proof.Machine Sys2Proof.Safety

/-! ### One session takes the place of the one of its ID -/

/-- The sessions with `x` in the place of the one of its ID. -/
def put (l : List Session) (x : Session) : List Session := l.map (fun y => if y.sid == x.sid then x else y)

@[simp] theorem sessions_putSession (s : State) (x : Session) : (s.putSession x).lobby.sessions = put s.lobby.sessions x := rfl

theorem sids_put (l : List Session) (x : Session) : (put l x).map Session.sid = l.map Session.sid := by
  simp only [put, List.map_map]
  refine List.map_congr_left fun y _ => ?_
  by_cases h : y.sid = x.sid <;> simp [h]

theorem mem_put {l : List Session} {x y : Session} (h : y ∈ put l x) : y = x ∨ y ∈ l := by
  obtain ⟨z, hz, rfl⟩ := List.mem_map.1 h
  by_cases h : z.sid = x.sid <;> simp [h, hz]

theorem put_of_not_mem {l : List Session} {x : Session} (h : x.sid ∉ l.map Session.sid) : put l x = l :=
  (List.map_congr_left fun y hy => by
    have hne : y.sid ≠ x.sid := fun e => h (e ▸ List.mem_map_of_mem hy)
    simp [hne]).trans (List.map_id' l)

theorem openCount_cons (x : Session) (l : List Session) : openCount (x :: l) = openCount l + if x.isOpen then 1 else 0 := by
  simp only [openCount, ← List.countP_eq_length_filter, List.countP_cons]

/-- An exchange of one open session for another opens none. -/
theorem openCount_put_le {l : List Session} {x : Session} (h : ∀ y ∈ l, y.sid = x.sid → y.isOpen = true) :
    openCount (put l x) ≤ openCount l := by
  simp only [openCount, put, ← List.countP_eq_length_filter, List.countP_map]
  refine List.countP_mono_left fun y hy hopen => ?_
  by_cases he : y.sid = x.sid
  · exact h y hy he
  · simpa [he] using hopen

/-- At most one session has an ID, so that at most one more is open. -/
theorem openCount_put_le_succ {l : List Session} (x : Session) (h : (l.map Session.sid).Nodup) :
    openCount (put l x) ≤ openCount l + 1 := by
  induction l with
  | nil => simp [put, openCount]
  | cons y l ih =>
    obtain ⟨hy, hl⟩ := List.nodup_cons.1 h
    by_cases he : y.sid = x.sid
    · have hput : put (y :: l) x = x :: l := by
        calc put (y :: l) x = x :: put l x := by simp [put, he]
          _ = x :: l := by rw [put_of_not_mem (he ▸ hy)]
      rw [hput, openCount_cons, openCount_cons]
      split_ifs <;> omega
    · have hput : put (y :: l) x = y :: put l x := by simp [put, he]
      have := ih hl
      rw [hput, openCount_cons, openCount_cons]
      omega

/-! ### What the operations of the Lobby leave of the sessions -/

theorem sessions_close (s : State) (sid : Nat) :
    (s.close sid).lobby.sessions = s.lobby.sessions.filter (fun x => x.sid != sid) := by
  unfold State.close
  split
  · next h => exact (List.filter_eq_self.2 fun x hx => by simpa using List.find?_eq_none.1 h x hx).symm
  · rfl

theorem sessionOf_eq_some {s : State} {sid : Nat} {x : Session} (h : s.sessionOf sid = some x) :
    x ∈ s.lobby.sessions ∧ x.sid = sid ∧ x.isOpen = true := by
  unfold State.sessionOf at h
  split at h
  · cases h
  next y hy =>
    split_ifs at h
    obtain rfl := Option.some.inj h
    have := List.find?_some hy
    simp only [Bool.and_eq_true, beq_iff_eq] at this
    exact ⟨List.mem_of_find?_eq_some hy, this⟩

/-- What one command makes of the sessions, before some of them close. -/
inductive Becomes (i : Instr) (s : State) : List Session → Prop
  | same : Becomes i s s.lobby.sessions
  | greeted (x : Session) (hopen : x.isOpen = false) (hdisc : x.discarded = 0) (hseq : x.lastSeq = 0) :
      Becomes i s (s.lobby.sessions.filter (fun y => y.sid != x.sid) ++ [x])
  | opened (x : Session) (mac key : List Byte) (at_ : Nat) (hi : i = .proof x.sid mac) (hx : x ∈ s.lobby.sessions)
      (hopen : x.isOpen = false) (hroom : openCount s.lobby.sessions < 8)
      (hmac : mac = Config.hmac256 (s.dev.keySlot x.slot).key (ascii "KSES-C" ++ x.proofBytes)) :
      Becomes i s (put s.lobby.sessions
        { x with isOpen := true, key := key, role := (s.dev.keySlot x.slot).role, lastAt := at_ })
  | discarded (x : Session) (hx : x ∈ s.lobby.sessions) (hopen : x.isOpen = true) (hdisc : x.discarded + 1 < 16) :
      Becomes i s (put s.lobby.sessions { x with discarded := x.discarded + 1 })
  | heard (x : Session) (m : LobbyMsg) (cmd roles tb stream : Nat) (hi : lobbyRow i = some (m, cmd, roles))
      (hx : x ∈ s.lobby.sessions) (hsid : x.sid = m.sid) (hopen : x.isOpen = true) (hacc : x.accepts cmd m = true) :
      Becomes i s (put s.lobby.sessions (x.after m tb stream))

theorem becomes_hello (i : Instr) (s : State) (ch : Channel) (slot : Nat) (nc : List Byte) :
    Becomes i s (s.hello ch slot nc).lobby.sessions := by
  unfold State.hello
  extract_lets d k
  split
  · exact .same
  split
  · exact .same
  · split
    · exact .same
    split
    · exact .same
    split
    · exact .same
    · dsimp only
      exact .greeted { isOpen := false, discarded := 0, lastSeq := 0, .. } rfl rfl rfl
  · exact .same

theorem becomes_proof (s : State) (sid : Nat) (mac : List Byte) :
    ∃ l, Becomes (.proof sid mac) s l ∧ (s.proof sid mac).lobby.sessions.Sublist l := by
  unfold State.proof
  split
  · exact ⟨_, .same, List.Sublist.refl _⟩
  next x hx =>
    have hfound := List.find?_some hx
    simp only [Bool.and_eq_true, beq_iff_eq, Bool.not_eq_true'] at hfound
    obtain ⟨rfl, hopen⟩ := hfound
    extract_lets d k d1 key d2 f d3
    split_ifs with _ hfull hmac
    · exact ⟨_, .same, List.Sublist.refl _⟩
    · exact ⟨_, .same, List.filter_sublist⟩
    · exact ⟨_, .opened x mac _ _ rfl (List.mem_of_find?_eq_some hx) hopen (by omega) (beq_iff_eq.1 hmac), List.Sublist.refl _⟩
    · exact ⟨_, .same, List.filter_sublist⟩

theorem becomes_idleClose (i : Instr) (s : State) (sid : Nat) :
    ∃ l, Becomes i s l ∧ (s.idleClose sid).lobby.sessions.Sublist l := by
  refine ⟨_, .same, ?_⟩
  unfold State.idleClose
  split
  · exact List.Sublist.refl _
  · split_ifs
    · rw [sessions_close]; exact List.filter_sublist
    · exact List.Sublist.refl _

theorem becomes_lobbyCmd {i : Instr} {m : LobbyMsg} {cmd roles : Nat} (hi : lobbyRow i = some (m, cmd, roles)) (s : State)
    (body : Dev → Session → Rep) :
    ∃ l, Becomes i s l ∧ (s.lobbyCmd m cmd roles body).lobby.sessions.Sublist l := by
  unfold State.lobbyCmd
  split
  · exact ⟨_, .same, List.Sublist.refl _⟩
  next x hx =>
    obtain ⟨hmem, hsid, hopen⟩ := sessionOf_eq_some hx
    by_cases hacc : x.accepts cmd m = true
    · exact ⟨_, .heard x m cmd roles s.dev.clk.tb _ hi hmem hsid hopen hacc, by simp only [hacc]; exact List.Sublist.refl _⟩
    · simp only [hacc, Bool.not_false, if_true, State.discard]
      split_ifs with hlast
      · exact ⟨_, .same, by rw [sessions_close]; exact List.filter_sublist⟩
      · exact ⟨_, .discarded x hmem hopen (by omega), List.Sublist.refl _⟩

theorem sessions_settle_sublist (s : State) : (State.settle s).lobby.sessions.Sublist s.lobby.sessions := by
  rcases (Laws.lobby_settle s).2 with h | h
  · rw [h]
  · rw [h]; exact List.nil_sublist _

theorem sessions_surrender_sublist (s : State) (m : LobbyMsg) (serial : Word) :
    ∃ body, (s.surrender m serial).lobby.sessions.Sublist (s.lobbyCmd m 0x41 rolesOwner body).lobby.sessions := by
  refine ⟨fun d x => x.rep (d, d.surrenderStatus serial), ?_⟩
  unfold State.surrender
  dsimp only
  split
  · split_ifs
    · exact List.filter_sublist
    · exact List.Sublist.refl _
  · exact List.Sublist.refl _

/-- A session's command, SURRENDER included, is settled after sessions that the shared operation of the Lobby leaves. -/
theorem exec_message {i : Instr} {m : LobbyMsg} {cmd roles : Nat} (hi : lobbyRow i = some (m, cmd, roles)) (s : State) :
    ∃ t body, exec i s = .next (State.settle t) ∧ t.lobby.sessions.Sublist (s.lobbyCmd m cmd roles body).lobby.sessions := by
  by_cases hs : ∃ serial, i = .surrender m serial
  · obtain ⟨serial, rfl⟩ := hs
    cases hi
    obtain ⟨body, hb⟩ := sessions_surrender_sublist s m serial
    exact ⟨_, body, rfl, hb⟩
  · obtain ⟨body, hb⟩ := Laws.exec_on_lobby i s m cmd roles hi fun n h => hs ⟨n, h⟩
    exact ⟨_, body, hb, List.Sublist.refl _⟩

/-- Whatever the command, the sessions after it are some of those that one of the five changes makes. -/
theorem exec_becomes {i : Instr} {s t : State} (h : exec i s = .next t) :
    ∃ l, Becomes i s l ∧ t.lobby.sessions.Sublist l := by
  cases hi : lobbyRow i with
  | some row =>
    obtain ⟨u, body, hu, hsub⟩ := exec_message (m := row.1) (cmd := row.2.1) (roles := row.2.2) hi s
    obtain ⟨l, hl, hlobby⟩ := becomes_lobbyCmd (m := row.1) (cmd := row.2.1) (roles := row.2.2) hi s body
    obtain rfl := Host.Outcome.next.inj (h.symm.trans hu)
    exact ⟨l, hl, (sessions_settle_sublist u).trans (hsub.trans hlobby)⟩
  | none =>
    rcases Laws.exec_in_device i s hi with ⟨D, hD⟩ | ⟨ch, slot, nc, rfl⟩ | ⟨sid, mac, rfl⟩ | ⟨sid, rfl⟩
    · obtain rfl := Host.Outcome.next.inj (h.symm.trans hD)
      exact ⟨_, .same, sessions_settle_sublist _⟩
    · obtain rfl := Host.Outcome.next.inj h
      exact ⟨_, becomes_hello _ s ch slot nc, List.Sublist.refl _⟩
    · obtain rfl := Host.Outcome.next.inj h
      exact becomes_proof s sid mac
    · obtain rfl := Host.Outcome.next.inj h
      exact becomes_idleClose _ s sid

/-- A step runs the command at the front of the queue, or lets one nanosecond pass. -/
theorem step_cases {s t : State} (h : step s = .next t) :
    t = s.idle ∨ ∃ i rest, s.pending = i :: rest ∧ exec i { s with pending := rest } = .next t := by
  unfold step at h
  split at h
  · exact .inl (Host.Outcome.next.inj h).symm
  next i rest hp => exact .inr ⟨i, rest, hp, h⟩

/-! ### The invariant -/

/-- Sessions that close break nothing. -/
theorem lobbyInv_of_sublist {s t : State} (h : LobbyInv s) (hsub : t.lobby.sessions.Sublist s.lobby.sessions) : LobbyInv t where
  ids := h.ids.sublist (hsub.map _)
  open8 := ((hsub.filter _).length_le).trans h.open8
  discarded x hx := h.discarded x (hsub.subset hx)
  seq x hx := h.seq x (hsub.subset hx)

/-- The state with these sessions. -/
def withSessions (s : State) (l : List Session) : State := { s with lobby := { s.lobby with sessions := l } }

/-- Only one session has an ID. -/
theorem eq_of_sid_eq {s : State} (h : LobbyInv s) {x y : Session} (hx : x ∈ s.lobby.sessions) (hy : y ∈ s.lobby.sessions)
    (hsid : y.sid = x.sid) : y = x := List.inj_on_of_nodup_map h.ids hy hx hsid

/-- An exchange keeps the invariant where the new session has room, a count below sixteen and a number of 32 bits. -/
theorem lobbyInv_put {s : State} (h : LobbyInv s) {x : Session} (hopen : openCount (put s.lobby.sessions x) ≤ 8)
    (hdisc : x.discarded < 16) (hseq : x.lastSeq < 2 ^ 32) : LobbyInv (withSessions s (put s.lobby.sessions x)) where
  ids := (sids_put s.lobby.sessions x).symm ▸ h.ids
  open8 := hopen
  discarded y hy := (mem_put hy).elim (fun e => e ▸ hdisc) (h.discarded y)
  seq y hy := (mem_put hy).elim (fun e => e ▸ hseq) (h.seq y)

/-- An exchange of an open session keeps the number of open ones. -/
theorem openCount_put_of_open {s : State} (h : LobbyInv s) {x y : Session} (hx : x ∈ s.lobby.sessions) (hopen : x.isOpen = true)
    (hsid : y.sid = x.sid) : openCount (put s.lobby.sessions y) ≤ 8 :=
  (openCount_put_le fun _ hz e => eq_of_sid_eq h hx hz (e.trans hsid) ▸ hopen).trans h.open8

theorem accepts_seq {x : Session} {cmd : Nat} {m : LobbyMsg} (h : x.accepts cmd m = true) :
    x.lastSeq < m.seq ∧ m.seq < 2 ^ 32 ∧ m.mac = msgMac x.key m.sid m.seq cmd 0 0 m.payload := by
  simp only [Session.accepts, Bool.and_eq_true, decide_eq_true_eq, beq_iff_eq] at h
  obtain ⟨⟨⟨hlast, hseq⟩, -⟩, hmac⟩ := h
  exact ⟨hlast, hseq, hmac⟩

theorem lobbyInv_becomes {i : Instr} {s : State} {l : List Session} (h : LobbyInv s) (hl : Becomes i s l) :
    LobbyInv (withSessions s l) := by
  cases hl with
  | same => exact h
  | greeted x hopen hdisc hseq =>
    have hold : LobbyInv (withSessions s (s.lobby.sessions.filter (fun y => y.sid != x.sid))) :=
      lobbyInv_of_sublist h List.filter_sublist
    have hnew {y : Session} (hy : y ∈ s.lobby.sessions.filter (fun y => y.sid != x.sid) ++ [x]) :
        y ∈ s.lobby.sessions.filter (fun y => y.sid != x.sid) ∨ y = x := by simpa using hy
    refine ⟨?_, ?_, fun y hy => ?_, fun y hy => ?_⟩
    · show ((s.lobby.sessions.filter (fun y => y.sid != x.sid) ++ [x]).map Session.sid).Nodup
      have hids := hold.ids
      simp only [List.map_append, List.map_cons, List.map_nil]
      refine List.nodup_append.2 ⟨hids, List.nodup_singleton _, fun a ha b hb => ?_⟩
      obtain ⟨y, hy, rfl⟩ := List.mem_map.1 ha
      obtain rfl := List.mem_singleton.1 hb
      simpa using (List.mem_filter.1 hy).2
    · have := hold.open8
      simpa [withSessions, hopen] using this
    · rcases hnew hy with hy | rfl
      · exact hold.discarded y hy
      · omega
    · rcases hnew hy with hy | rfl
      · exact hold.seq y hy
      · omega
  | opened x mac key at_ _ hx _ hroom _ =>
    exact lobbyInv_put h ((openCount_put_le_succ _ h.ids).trans hroom) (h.discarded x hx) (h.seq x hx)
  | discarded x hx hopen hdisc => exact lobbyInv_put h (openCount_put_of_open h hx hopen rfl) hdisc (h.seq x hx)
  | heard x m cmd roles tb stream _ hx _ hopen hacc =>
    exact lobbyInv_put h (openCount_put_of_open h hx hopen rfl) (h.discarded x hx) (accepts_seq hacc).2.1

/-- Settles O58: every change of the sessions keeps the invariant, and so does closing some of them. -/
theorem everyStepKeepsTheLobby : Obligations.EveryStepKeepsTheLobby := by
  unfold Obligations.EveryStepKeepsTheLobby
  intro s t h hstep
  rcases step_cases hstep with rfl | ⟨i, rest, -, hexec⟩
  · exact lobbyInv_of_sublist h (List.Sublist.refl _)
  · obtain ⟨l, hl, hsub⟩ := exec_becomes hexec
    have hs : LobbyInv { s with pending := rest } := lobbyInv_of_sublist h (List.Sublist.refl _)
    exact lobbyInv_of_sublist (lobbyInv_becomes hs hl) hsub

/-! ### Where an open session comes from -/

/-- An open session of before that no message has changed. -/
theorem open_before {s : State} {y : Session} (hy : y ∈ s.lobby.sessions) (hopen : y.isOpen = true)
    {P : Session → Prop} :
    ∃ x ∈ s.lobby.sessions, x.isOpen = true ∧ x.sid = y.sid ∧ x.key = y.key ∧ x.role = y.role ∧ x.lastSeq ≤ y.lastSeq ∧
      (x.lastSeq < y.lastSeq → P x) :=
  ⟨y, hy, hopen, rfl, rfl, rfl, le_rfl, fun h => absurd h (lt_irrefl _)⟩

/-- Settles O59: of the five changes only a right PROOF opens a session, and only an accepted message raises its number. -/
theorem sessionsOpenOnlyByProof : Obligations.SessionsOpenOnlyByProof := by
  unfold Obligations.SessionsOpenOnlyByProof
  intro s t _ hstep y hy hyo
  rcases step_cases hstep with rfl | ⟨i, rest, hp, hexec⟩
  · exact .inl (open_before (s := s) hy hyo)
  obtain ⟨l, hl, hsub⟩ := exec_becomes hexec
  cases hl with
  | same => exact .inl (open_before (s := s) (hsub.subset hy) hyo)
  | greeted x hopen =>
    rcases List.mem_append.1 (hsub.subset hy) with hy | hy
    · exact .inl (open_before (s := s) (List.mem_filter.1 hy).1 hyo)
    · obtain rfl := List.mem_singleton.1 hy
      simp [hopen] at hyo
  | opened x mac key at_ hi hx hopen _ hmac =>
    rcases mem_put (hsub.subset hy) with rfl | hy
    · exact .inr ⟨mac, rest, hi ▸ hp, x, hx, hopen, rfl, rfl, hmac, rfl⟩
    · exact .inl (open_before (s := s) hy hyo)
  | discarded x hx hopen =>
    rcases mem_put (hsub.subset hy) with rfl | hy
    · exact .inl ⟨x, hx, hopen, rfl, rfl, rfl, le_rfl, fun h => absurd h (lt_irrefl _)⟩
    · exact .inl (open_before (s := s) hy hyo)
  | heard x m cmd roles tb stream hi hx hsid hopen hacc =>
    rcases mem_put (hsub.subset hy) with rfl | hy
    · obtain ⟨hlast, -, hmac⟩ := accepts_seq hacc
      exact .inl ⟨x, hx, hopen, rfl, rfl, rfl, hlast.le, fun _ => ⟨i, rest, m, cmd, roles, hp, hi, hsid.symm, rfl, hmac⟩⟩
    · exact .inl (open_before (s := s) hy hyo)

end Sys2Proof.Proofs.LobbySessions
end

section
/-!
SUPPORT. The shared operation of the Lobby in its four cases (no session, a message to discard, a role that is not permitted, a command
to act on), and what it makes of the commands of Table 22.2.
-/
namespace Sys2Proof.Proofs.LobbyMessages
open Sys2Proof Sys2Proof.Machine Sys2Proof.Safety Sys2Proof.Proofs.LobbySessions

section
variable {s : State} {x : Session} {m : LobbyMsg} {cmd roles : Nat} (body : Dev → Session → Machine.Rep)

/-! ### The four cases -/

theorem lobbyCmd_of_no_session (h : s.sessionOf m.sid = none) : s.lobbyCmd m cmd roles body = s := by
  simp only [State.lobbyCmd, h]

theorem lobbyCmd_of_not_accepted (h : s.sessionOf m.sid = some x) (hacc : x.accepts cmd m = false) :
    s.lobbyCmd m cmd roles body = s.discard x := by
  simp [State.lobbyCmd, h, hacc]

/-- The state that an accepted message leaves, with the answer `r` on its way. -/
def answered (s : State) (x : Session) (cmd : Nat) (m : LobbyMsg) (r : Machine.Rep) : State :=
  { s.putSession (x.after m s.dev.clk.tb r.stream) with dev := r.d.emit (x.reply cmd m r) }

theorem lobbyCmd_of_not_permitted (h : s.sessionOf m.sid = some x) (hacc : x.accepts cmd m = true)
    (hrole : roles.testBit x.role = false) :
    s.lobbyCmd m cmd roles body = answered s x cmd m { d := s.dev, status := 1, stream := x.stream } := by
  simp [State.lobbyCmd, answered, h, hacc, hrole]

theorem lobbyCmd_of_permitted (h : s.sessionOf m.sid = some x) (hacc : x.accepts cmd m = true)
    (hrole : roles.testBit x.role = true) : s.lobbyCmd m cmd roles body = answered s x cmd m (body s.dev x) := by
  simp [State.lobbyCmd, answered, h, hacc, hrole]

theorem discard_of_lt (h : x.discarded < 15) : s.discard x = s.putSession { x with discarded := x.discarded + 1 } := by
  rw [State.discard, if_neg (by omega)]

theorem discard_of_le (h : 15 ≤ x.discarded) : s.discard x = s.close x.sid := by
  rw [State.discard, if_pos (by omega)]

end

/-! ### The commands -/

section
variable {i : Instr} {s : State} {x : Session} {m : LobbyMsg} {cmd roles : Nat}

theorem surrender_of_refused {serial : Word}
    (h : ∀ x, s.sessionOf m.sid = some x → x.accepts 0x41 m = true → rolesOwner.testBit x.role = true → s.dev.surrenderStatus serial ≠ 0) :
    s.surrender m serial = s.lobbyCmd m 0x41 rolesOwner (fun d x => x.rep (d, d.surrenderStatus serial)) := by
  unfold State.surrender
  dsimp only
  split
  next x hx =>
    refine if_neg fun hc => ?_
    simp only [Bool.and_eq_true, beq_iff_eq] at hc
    obtain ⟨⟨hacc, hrole⟩, hst⟩ := hc
    exact h x hx hacc hrole hst
  · rfl

/-- Every command is the shared operation, but for a SURRENDER that the device may act on. -/
theorem exec_eq_lobbyCmd (hi : lobbyRow i = some (m, cmd, roles)) (s : State)
    (h : (∀ n, i ≠ .surrender m n) ∨
      ∀ x, s.sessionOf m.sid = some x → x.accepts cmd m = true → roles.testBit x.role = false) :
    ∃ body, exec i s = .next (State.settle (s.lobbyCmd m cmd roles body)) := by
  by_cases hs : ∃ serial, i = .surrender m serial
  · obtain ⟨serial, rfl⟩ := hs
    have hdenied := h.resolve_left fun hne => hne serial rfl
    cases hi
    refine ⟨_, congrArg (fun t => Host.Outcome.next (State.settle t)) (surrender_of_refused fun x hx hacc hrole => ?_)⟩
    exact absurd ((hdenied x hx hacc).symm.trans hrole) (by decide)
  · exact Laws.exec_on_lobby i s m cmd roles hi fun n h => hs ⟨n, h⟩

/-- What makes a message valid (R85). -/
theorem accepts_iff : x.accepts cmd m = true ↔ x.lastSeq < m.seq ∧ m.seq < 2 ^ 32 ∧ m.payload.length ≤ 1280 ∧
    m.mac = msgMac x.key m.sid m.seq cmd 0 0 m.payload := by
  simp [Session.accepts, and_assoc]

/-- A command that the device acts on answers with what its body makes of the device and the session. -/
theorem replies_of_admits {body : Dev → Session → Machine.Rep} (h : Admits s i x m) (hi : lobbyRow i = some (m, cmd, roles))
    (hexec : exec i s = onLobby m cmd roles body s) : Replies i s x m (body s.dev x) := by
  obtain ⟨cmd', roles', hrow, hs, hacc, hrole⟩ := h
  cases hi.symm.trans hrow
  exact ⟨cmd, roles, hi, by rw [hexec, onLobby, lobbyCmd_of_permitted body hs hacc hrole]; rfl⟩

end

/-- Settles O38: the four cases of the shared operation, one by one. -/
theorem lobbyMessagesComplete : Obligations.LobbyMessagesComplete := by
  unfold Obligations.LobbyMessagesComplete
  intro s i m cmd roles hi
  refine ⟨fun hnone => ?_, fun x hx => ?_⟩
  · obtain ⟨body, hb⟩ := exec_eq_lobbyCmd hi s (.inr fun x hx => by simp [hnone] at hx)
    rw [hb, lobbyCmd_of_no_session body hnone]
  intro ok
  have hok : ok ↔ x.accepts cmd m = true := accepts_iff.symm
  have hrejects (h : ¬ ok) : ∃ body, exec i s = .next (State.settle (s.lobbyCmd m cmd roles body)) ∧
      s.lobbyCmd m cmd roles body = s.discard x := by
    have hacc : x.accepts cmd m = false := by simpa using fun hacc => h (hok.2 hacc)
    obtain ⟨body, hb⟩ := exec_eq_lobbyCmd hi s (.inr fun y hy hyacc => by
      obtain rfl := Option.some.inj (hx.symm.trans hy)
      exact absurd (hyacc.symm.trans hacc) (by decide))
    exact ⟨body, hb, lobbyCmd_of_not_accepted body hx hacc⟩
  refine ⟨fun h hd => ?_, fun h hd => ?_, fun h hrole => ?_, fun h hrole hi' => ?_⟩
  · obtain ⟨body, hb, hdiscard⟩ := hrejects h
    rw [hb, hdiscard, discard_of_lt hd]
  · obtain ⟨body, hb, hdiscard⟩ := hrejects h
    exact ⟨_, hb, by rw [hdiscard, discard_of_le hd, sessions_close]⟩
  · obtain ⟨body, hb⟩ := exec_eq_lobbyCmd hi s (.inr fun y hy _ => by
      obtain rfl := Option.some.inj (hx.symm.trans hy)
      exact hrole)
    exact ⟨cmd, roles, hi, by rw [hb, lobbyCmd_of_not_permitted body hx (hok.1 h) hrole]; rfl⟩
  · obtain ⟨body, hb⟩ := exec_eq_lobbyCmd hi s (.inl hi')
    exact ⟨_, cmd, roles, hi, by rw [hb, lobbyCmd_of_permitted body hx (hok.1 h) hrole]; rfl⟩

end Sys2Proof.Proofs.LobbyMessages
end

section
/-!
SUPPORT. What the Lobby commands that read answer, case by case: READ_INC, READ_TRACE, registers of halted contexts, PC samples, and the
debug bus master's peek of one range.
-/
namespace Sys2Proof.Proofs.LobbyReads
open Sys2Proof Sys2Proof.Machine Sys2Proof.Safety Sys2Proof.Proofs.LobbyMessages

variable {d : Dev} {sid slot : Nat}

/-! ### READ_INC and READ_TRACE (R480, R520) -/

theorem readInc_of_gt {role first count : Nat} {jnl : Bool} (h : 10 < count) : d.readInc role jnl first count = .error 7 := by
  rw [Dev.readInc, if_pos h]

/-- The device after an owner has read: what it has read is marked. -/
def afterRead (d : Dev) (role : Nat) (jnl : Bool) (first count : Nat) : Dev :=
  if role == 4 then { d with inc := d.inc.ownerRead jnl first count } else d

theorem afterRead_frame (d : Dev) (role : Nat) (jnl : Bool) (first count : Nat) :
    afterRead d role jnl first count = { d with inc := (afterRead d role jnl first count).inc } := by
  unfold afterRead
  split <;> rfl

theorem afterRead_of_ne {role : Nat} (h : role ≠ 4) (jnl : Bool) (first count : Nat) : afterRead d role jnl first count = d := by
  simp [afterRead, h]

theorem readInc_of_le {role first count : Nat} {jnl : Bool} (h : count ≤ 10) :
    d.readInc role jnl first count = .ok (afterRead d role jnl first count,
      (if jnl then ((d.inc.journal.drop first).take count).map Prod.fst
       else (List.range count).filterMap (fun i =>
        (d.inc.ring.find? (fun p => p.1 == (first + i) % 8192)).map (fun p => p.2.1))).flatMap Incident.bytes) := by
  rw [Dev.readInc, if_neg (by omega)]
  rfl

theorem readTrace_of_no_room {first count : Nat} (h : d.rrec slot = none) : d.readTrace sid slot first count = .error 6 := by
  simp [Dev.readTrace, h]

theorem readTrace_of_outside {first count : Nat} (h : (d.rrec slot).isSome = true)
    (hout : 40 < count ∨ d.traceKib slot * 32 < first + count) : d.readTrace sid slot first count = .error 7 := by
  have hn : (d.rrec slot).isNone = false := by simpa [Option.isSome_iff_ne_none] using h
  rw [Dev.readTrace, hn, if_neg (by decide), if_pos (by simpa using hout)]

theorem readTrace_of_inside {first count : Nat} (h : (d.rrec slot).isSome = true) (hcount : count ≤ 40)
    (hin : first + count ≤ d.traceKib slot * 32) :
    d.readTrace sid slot first count = .ok (d, (List.range count).flatMap (fun i =>
      d.packetFor slot sid (d.bytes (d.traceBase slot + first * 32 + i * 32) 32))) := by
  have hn : (d.rrec slot).isNone = false := by simpa [Option.isSome_iff_ne_none] using h
  rw [Dev.readTrace, hn, if_neg (by decide), if_neg (by simp; omega)]

/-! ### Registers and PCs (R483) -/

section
variable {core bank need : Nat} {r : RegName}

theorem haltedCtx_of_no_room (h : d.coreSlot core = none) : d.haltedCtx sid core bank r need = .error 6 := by
  simp only [Dev.haltedCtx, h]

theorem haltedCtx_of_closed (h : d.coreSlot core = some slot)
    (hl : d.sessLevel slot sid (RegName.world r (d.ctx (core * 4 + bank))) < need) : d.haltedCtx sid core bank r need = .error 2 := by
  simp only [Dev.haltedCtx, h, hl, if_true]

theorem haltedCtx_of_running (h : d.coreSlot core = some slot)
    (hl : need ≤ d.sessLevel slot sid (RegName.world r (d.ctx (core * 4 + bank)))) (hh : (d.core core).halted = none) :
    d.haltedCtx sid core bank r need = .error 4 := by
  simp [Dev.haltedCtx, h, Nat.not_lt.2 hl, hh]

theorem haltedCtx_of_halted (h : d.coreSlot core = some slot)
    (hl : need ≤ d.sessLevel slot sid (RegName.world r (d.ctx (core * 4 + bank)))) (hh : (d.core core).halted.isSome = true)
    (hb : bank ∈ d.banks core) : d.haltedCtx sid core bank r need = .ok (core * 4 + bank) := by
  have hn : (d.core core).halted.isNone = false := by simpa [Option.isSome_iff_ne_none] using hh
  simp [Dev.haltedCtx, h, Nat.not_lt.2 hl, hn, hb]

theorem regRd_of_error {st : Nat} (h : d.haltedCtx sid core bank r 1 = .error st) : d.regRd sid core bank r = .error st := by
  simp only [Dev.regRd, h]

theorem regRd_of_ok {cx : Nat} (h : d.haltedCtx sid core bank r 1 = .ok cx) :
    d.regRd sid core bank r = .ok (d, leBytes 8 (RegName.read r (d.ctx cx)).toNat) := by
  simp only [Dev.regRd, h]

theorem pcSample_of_closed (h : d.coreSlot core = some slot) (hl : d.sessLevel slot sid (d.worldOf core) = 0) :
    d.pcSample sid core = .error 2 := by
  simp [Dev.pcSample, h, hl]

theorem pcSample_of_runs (h : d.coreSlot core = some slot) (hl : 1 ≤ d.sessLevel slot sid (d.worldOf core))
    (hp : (d.room slot).phase = .running) (hh : (d.core core).halted = none)
    (hrun : (d.core core).run = .running ∨ (d.core core).run = .idle) :
    d.pcSample sid core = .ok (d, leBytes 8 (d.ctx (d.curCtx core)).pc.toNat) := by
  simpa [Dev.pcSample, h, Nat.not_lt.2 hl, hp, hh] using or_iff_not_imp_left.1 hrun

end

/-! ### The debug bus master (R489, R490, Table 22.6) -/

section
variable {pa len need : Nat} {wr : Bool}

theorem dbgByte_of_closed {w : WindowRec} (hv : d.inViewPage (d.idOf slot) pa = false)
    (hw : d.plan.windowAt (d.idOf slot) pa = some w)
    (hl : d.sessLevel slot sid (decide (pa - w.base < d.wmark slot w)) < need) : d.dbgByte slot sid need wr pa = 2 := by
  simp [Dev.dbgByte, hv, hw, hl]

theorem mem_dbgBytes {n : Nat} : n ∈ [(pa, len)].flatMap (fun p =>
    (List.range p.2).map (fun i => d.dbgByte slot sid need wr (p.1 + i))) ↔
      ∃ i < len, d.dbgByte slot sid need wr (pa + i) = n := by
  simp

theorem dbgCheck_of_closed (h : ∃ i < len, d.dbgByte slot sid need wr (pa + i) = 2) :
    d.dbgCheck slot sid need wr [(pa, len)] = 2 := by
  rw [Dev.dbgCheck]
  exact if_pos (List.contains_iff_mem.2 (mem_dbgBytes.2 h))

theorem dbgCheck_of_open (h : ∀ i < len, d.dbgByte slot sid need wr (pa + i) = 0) :
    d.dbgCheck slot sid need wr [(pa, len)] = 0 := by
  have hnot {n : Nat} (hn : n ≠ 0) : ¬ ([(pa, len)].flatMap (fun p =>
      (List.range p.2).map (fun i => d.dbgByte slot sid need wr (p.1 + i)))).contains n = true := fun hc => by
    obtain ⟨i, hi, he⟩ := mem_dbgBytes.1 (List.contains_iff_mem.1 hc)
    exact hn (he.symm.trans (h i hi))
  rw [Dev.dbgCheck]
  exact (if_neg (hnot (by decide))).trans (if_neg (hnot (by decide)))

/-- A peek of a range by its PA passes the room and the length, and then its level, alignment and target decide. -/
theorem memRd_pa (h : (d.rrec slot).isSome = true) (hlen : 0 < len) (hmax : len ≤ 1280) :
    d.memRd sid slot (.pa pa) len false =
      if d.dbgCheck slot sid 1 false [(pa, len)] ≠ 0 then .error (d.dbgCheck slot sid 1 false [(pa, len)])
      else if paKind pa = .reg ∧ regAligned (pa, len) = false then .error 5
      else if paKind pa = .pcie then .error 4
      else .ok ((d.dbgRead1 slot sid false (pa, len)).2, (d.dbgRead1 slot sid false (pa, len)).1) := by
  have hn : (d.rrec slot).isNone = false := by simpa [Option.isSome_iff_ne_none] using h
  have hl : (len == 0 || decide (1280 < len)) = false := by simp; omega
  simp [Dev.memRd, hn, hl, Dev.dbgPieces]

theorem memRd_of_closed (h : (d.rrec slot).isSome = true) (hlen : 0 < len) (hmax : len ≤ 1280)
    (hc : ∃ i < len, d.dbgByte slot sid 1 false (pa + i) = 2) : d.memRd sid slot (.pa pa) len false = .error 2 := by
  simp [memRd_pa h hlen hmax, dbgCheck_of_closed hc]

theorem memRd_of_pcie (h : (d.rrec slot).isSome = true) (hlen : 0 < len) (hmax : len ≤ 1280)
    (ho : ∀ i < len, d.dbgByte slot sid 1 false (pa + i) = 0) (hk : paKind pa = .pcie) :
    d.memRd sid slot (.pa pa) len false = .error 4 := by
  simp [memRd_pa h hlen hmax, dbgCheck_of_open ho, hk]

/-- A peek of DRAM changes nothing and reads the newest bytes. -/
theorem memRd_of_dram (h : (d.rrec slot).isSome = true) (hlen : 0 < len) (hmax : len ≤ 1280)
    (ho : ∀ i < len, d.dbgByte slot sid 1 false (pa + i) = 0) (hk : paKind pa = .dram) :
    d.memRd sid slot (.pa pa) len false = .ok (d, d.bytes pa len) := by
  simp [memRd_pa h hlen hmax, dbgCheck_of_open ho, hk, Dev.dbgRead1]

end

/-! ### The statement -/

section
variable {s : State} {x : Session} {m : LobbyMsg}

theorem readInc_replies {jnl : Bool} {first count : Nat} (h : Admits s (.readInc m jnl first count) x m) :
    Replies (.readInc m jnl first count) s x m (x.repOr s.dev (s.dev.readInc x.role jnl first count)) :=
  replies_of_admits (body := fun d x => x.repOr d (d.readInc x.role jnl first count)) h rfl rfl

theorem readTrace_replies {first count : Nat} (h : Admits s (.readTrace m slot first count) x m) :
    Replies (.readTrace m slot first count) s x m (x.repOr s.dev (s.dev.readTrace x.sid slot first count)) :=
  replies_of_admits (body := fun d x => x.repOr d (d.readTrace x.sid slot first count)) h rfl rfl

theorem regRd_replies {core bank : Nat} {r : RegName} (h : Admits s (.regRd m core bank r) x m) :
    Replies (.regRd m core bank r) s x m (x.repOr s.dev (s.dev.regRd x.sid core bank r)) :=
  replies_of_admits (body := fun d x => x.repOr d (d.regRd x.sid core bank r)) h rfl rfl

theorem pcSample_replies {core : Nat} (h : Admits s (.pcSample m core) x m) :
    Replies (.pcSample m core) s x m (x.repOr s.dev (s.dev.pcSample x.sid core)) :=
  replies_of_admits (body := fun d x => x.repOr d (d.pcSample x.sid core)) h rfl rfl

theorem memRd_replies {a : DebugAddr} {len : Nat} {consume : Bool} (h : Admits s (.memRd m slot a len consume) x m) :
    Replies (.memRd m slot a len consume) s x m (x.repOr s.dev (s.dev.memRd x.sid slot a len consume)) :=
  replies_of_admits (body := fun d x => x.repOr d (d.memRd x.sid slot a len consume)) h rfl rfl

end

/-- Settles O39: each command that reads replies with its own answer, which the lemmas above give case by case. -/
theorem lobbyReadsComplete : Obligations.LobbyReadsComplete := by
  unfold Obligations.LobbyReadsComplete
  refine ⟨fun s m x h => ?_, fun s m x jnl first count h => ⟨fun hc => ?_, fun hc => ?_⟩,
    fun s m x slot first count h => ⟨fun hr => ?_, fun hr hout => ?_, fun hr hc hin => ?_⟩,
    fun s m x core bank r h => ⟨fun hcs => ?_, fun slot hcs => ⟨fun hl => ?_, fun hl hh => ?_, fun hl hh hb => ?_⟩⟩,
    fun s m x core slot h hcs => ⟨fun hl => ?_, fun hl hp hh hrun => ?_⟩,
    fun s m x slot pa len h hr hlen hmax => ⟨fun hc => ?_, fun ho hk => ?_, fun ho hk => ?_⟩,
    fun d slot sid need wr pa w hv hw hl => dbgByte_of_closed hv hw hl⟩
  · exact replies_of_admits (body := fun d x => x.repOr d (.ok (d, s.statusBytes))) h rfl rfl
  · have hrep := readInc_replies h
    rwa [readInc_of_gt hc] at hrep
  · have hrep := readInc_replies h
    rw [readInc_of_le hc] at hrep
    exact ⟨_, afterRead_frame _ _ _ _ _, fun hrole => afterRead_of_ne hrole _ _ _, hrep⟩
  · have hrep := readTrace_replies h
    rwa [readTrace_of_no_room hr] at hrep
  · have hrep := readTrace_replies h
    rwa [readTrace_of_outside hr hout] at hrep
  · have hrep := readTrace_replies h
    rwa [readTrace_of_inside hr hc hin] at hrep
  · have hrep := regRd_replies h
    rwa [regRd_of_error (haltedCtx_of_no_room hcs)] at hrep
  · have hrep := regRd_replies h
    rwa [regRd_of_error (haltedCtx_of_closed hcs (Nat.lt_one_iff.2 hl))] at hrep
  · have hrep := regRd_replies h
    rwa [regRd_of_error (haltedCtx_of_running hcs hl hh)] at hrep
  · have hrep := regRd_replies h
    rwa [regRd_of_ok (haltedCtx_of_halted hcs hl hh hb)] at hrep
  · have hrep := pcSample_replies h
    rwa [pcSample_of_closed hcs hl] at hrep
  · have hrep := pcSample_replies h
    rwa [pcSample_of_runs hcs hl hp hh hrun] at hrep
  · have hrep := memRd_replies h
    rwa [memRd_of_closed hr hlen hmax hc] at hrep
  · have hrep := memRd_replies h
    rwa [memRd_of_dram hr hlen hmax ho hk] at hrep
  · have hrep := memRd_replies h
    rwa [memRd_of_pcie hr hlen hmax ho hk] at hrep

end Sys2Proof.Proofs.LobbyReads
end

section
/-!
SUPPORT. How a session opens and closes: HELLO, PROOF and the idle limit, and the two commands before any session, OWN and IDENT.
-/
namespace Sys2Proof.Proofs.LobbyOpening
open Sys2Proof Sys2Proof.Machine Sys2Proof.Safety Sys2Proof.Proofs.LobbySessions Sys2Proof.Proofs.Loops

variable {d : Dev} {s : State}

/-! ### Bytes and tables -/

@[simp] theorem length_leBytes (n x : Nat) : (leBytes n x).length = n := by
  induction n generalizing x with
  | zero => rfl
  | succ n ih => simp [leBytes, ih]

theorem slice_drop (l : List Byte) (a b n : Nat) : slice (l.drop a) b n = slice l (a + b) n := by
  simp [slice, List.drop_drop]

theorem leAt_drop (l : List Byte) (a b n : Nat) : leAt (l.drop a) b n = leAt l (a + b) n := by
  rw [leAt, slice_drop]; rfl

/-- A table made from a list of numbers holds, at each of them, what it was made with. -/
theorem Sparse_get_zip {α : Type} (x : α) (f : Nat → α) {l : List Nat} {k : Nat} (h : k ∈ l) :
    Sparse.get x (l.zip (l.map f)) k = f k := by
  induction l with
  | nil => cases h
  | cons a l ih =>
    by_cases hk : a = k
    · simp [Sparse.get, hk]
    · simpa [Sparse.get, Ne.symm hk] using ih ((List.mem_cons.1 h).resolve_left (Ne.symm hk))

/-! ### Levels and key slots -/

section
variable (d) (sid role : Nat)

@[simp] theorem keys_grantLevels : (d.grantLevels sid role).keys = d.keys :=
  each_keeps Dev.keys _ _ (fun d a => by dsimp only; split <;> rfl) d

@[simp] theorem outbox_grantLevels : (d.grantLevels sid role).outbox = d.outbox :=
  each_keeps Dev.outbox _ _ (fun d a => by dsimp only; split <;> rfl) d

@[simp] theorem clk_grantLevels : (d.grantLevels sid role).clk = d.clk :=
  each_keeps Dev.clk _ _ (fun d a => by dsimp only; split <;> rfl) d

end

theorem keySlot_of_keys {d d' : Dev} (h : d'.keys = d.keys) (n : Nat) : d'.keySlot n = d.keySlot n := by
  rw [Dev.keySlot, h]; rfl

@[simp] theorem keySlot_setKeySlot (n : Nat) (k : KeySlot) : (d.setKeySlot n k).keySlot n = k := Laws.Sparse_get_insert_same _ _ _ _

@[simp] theorem clk_setKeySlot (n : Nat) (k : KeySlot) : (d.setKeySlot n k).clk = d.clk := rfl
@[simp] theorem outbox_setKeySlot (n : Nat) (k : KeySlot) : (d.setKeySlot n k).outbox = d.outbox := rfl

/-! ### HELLO (R84) -/

section
variable {ch : Channel} {slot : Nat} {nc : List Byte}

/-- The handshake that HELLO begins under a session ID. -/
def handshake (d : Dev) (ch : Channel) (slot : Nat) (nc : List Byte) (sid : Nat) : Session :=
  { sid := sid, slot := slot, ch := ch, nc := nc, nd := d.nonce.1, isOpen := false, key := [], lastSeq := 0, sent := 0, discarded := 0,
    lastAt := d.clk.tb, role := (d.keySlot slot).role, stream := 0 }

section
variable (hup : s.dev.lobbyUp = true) (hch : s.dev.chReach ch = true) (hnc : nc.length = 16)
  (hown : s.dev.keys.own = .owned)
include hup hch hnc hown

theorem hello_of_full (h : 8 ≤ openCount s.lobby.sessions) : s.hello ch slot nc = s := by
  simp [State.hello, hup, hch, hnc, hown, h]

theorem hello_of_closed (hslot : slot < 16) (hroom : openCount s.lobby.sessions < 8)
    (h : (s.dev.keySlot slot).key = [] ∨ s.dev.clk.tb < (s.dev.keySlot slot).lockUntil) :
    s.hello ch slot nc = { s with dev := s.dev.emit (.refuse ch) } := by
  simp [State.hello, hup, hch, hnc, Nat.not_lt.2 (Nat.le_of_lt_succ hslot), hown, Nat.not_le.2 hroom, h]

theorem hello_of_free {sid : Nat} (hslot : slot < 16) (hroom : openCount s.lobby.sessions < 8) (hkey : (s.dev.keySlot slot).key ≠ [])
    (hlock : (s.dev.keySlot slot).lockUntil ≤ s.dev.clk.tb) (hsid : s.lobby.freshSid = some sid) :
    s.hello ch slot nc = { s with
      dev := s.dev.nonce.2.emit (.challenge ch s.dev.nonce.1 sid (s.dev.keySlot slot).salt)
      lobby := { sessions := s.lobby.sessions.filter (fun y => y.sid != sid) ++ [handshake s.dev ch slot nc sid],
                 nextSid := (sid + 1) % 2 ^ 32 } } := by
  simp [State.hello, hup, hch, hnc, Nat.not_lt.2 (Nat.le_of_lt_succ hslot), hown, Nat.not_le.2 hroom, hkey, Nat.not_lt.2 hlock, hsid]
  rfl

end

/-- The next session ID is taken where no session has it. -/
theorem freshSid_of_unused {l : Lobby} (h : l.nextSid < 2 ^ 32) (hu : ∀ y ∈ l.sessions, y.sid ≠ l.nextSid) :
    l.freshSid = some l.nextSid := by
  have hmod : (l.nextSid + 0) % 2 ^ 32 = l.nextSid := Nat.mod_eq_of_lt h
  have hfree : l.sessions.all (fun x => !(x.isOpen && x.sid == l.nextSid)) = true :=
    List.all_eq_true.2 fun y hy => by simp [hu y hy]
  rw [Lobby.freshSid, List.range_succ_eq_map, List.map_cons, hmod]
  exact List.find?_cons_of_pos hfree

theorem length_nonce (d : Dev) : d.nonce.1.length = 16 := by
  simp [Dev.nonce]

end

/-! ### PROOF (R84, R86) -/

section
variable {x : Session} {sid : Nat} {mac : List Byte}

/-- The device after a right PROOF: the slot's count is cleared, levels are granted, ACCEPT goes out. -/
def accepted (d : Dev) (x : Session) (sid : Nat) : Dev :=
  let k := d.keySlot x.slot
  ((d.setKeySlot x.slot { k with fails := 0 }).grantLevels sid k.role).emit
    (.accept x.ch (Config.hmac256 k.key (ascii "KSES-D" ++ x.proofBytes)))

/-- The session that a right PROOF opens. -/
def openedBy (d : Dev) (x : Session) (sid : Nat) : Session :=
  let k := d.keySlot x.slot
  { x with isOpen := true, key := Config.hkdf256 k.key (x.nc ++ x.nd) (ascii "KSES" ++ leBytes 4 sid) 32, role := k.role,
           lastAt := d.clk.tb }

theorem proof_of_right (hx : s.lobby.sessions.find? (fun y => y.sid == sid && !y.isOpen) = some x) (hup : s.dev.lobbyUp = true)
    (hch : s.dev.chReach x.ch = true) (hroom : openCount s.lobby.sessions < 8)
    (hmac : mac = Config.hmac256 (s.dev.keySlot x.slot).key (ascii "KSES-C" ++ x.proofBytes)) :
    s.proof sid mac = { s.putSession (openedBy s.dev x sid) with dev := accepted s.dev x sid } := by
  simp [State.proof, hx, hup, hch, Nat.not_le.2 hroom, hmac, openedBy, accepted]

theorem keySlot_accepted (d : Dev) (x : Session) (sid : Nat) :
    (accepted d x sid).keySlot x.slot = { d.keySlot x.slot with fails := 0 } :=
  (keySlot_of_keys (keys_grantLevels _ _ _) _).trans (keySlot_setKeySlot _ _)

theorem outbox_accepted (d : Dev) (x : Session) (sid : Nat) : (accepted d x sid).outbox =
    .accept x.ch (Config.hmac256 (d.keySlot x.slot).key (ascii "KSES-D" ++ x.proofBytes)) :: d.outbox :=
  congrArg (List.cons _) (outbox_grantLevels _ _ _)

/-- The opened session takes the place of its handshake. -/
theorem sessions_opened (hx : s.lobby.sessions.find? (fun y => y.sid == sid && !y.isOpen) = some x) :
    put s.lobby.sessions (openedBy s.dev x sid) =
      s.lobby.sessions.map (fun y => if y.sid = sid then openedBy s.dev x sid else y) := by
  have hfound := List.find?_some hx
  simp only [Bool.and_eq_true, beq_iff_eq] at hfound
  obtain ⟨rfl, -⟩ := hfound
  simp [put, openedBy]

/-- The key slot after one more failed PROOF. -/
def failedSlot (d : Dev) (n : Nat) : KeySlot :=
  let k := d.keySlot n
  { k with fails := k.fails + 1, lockUntil := if k.fails + 1 < 5 then k.lockUntil else d.clk.tb + lockNs (k.fails + 1) }

theorem proof_of_wrong (hx : s.lobby.sessions.find? (fun y => y.sid == sid && !y.isOpen) = some x) (hup : s.dev.lobbyUp = true)
    (hch : s.dev.chReach x.ch = true) (hroom : openCount s.lobby.sessions < 8)
    (hmac : mac ≠ Config.hmac256 (s.dev.keySlot x.slot).key (ascii "KSES-C" ++ x.proofBytes)) :
    s.proof sid mac =
      { s.dropSession sid with dev := (s.dev.setKeySlot x.slot (failedSlot s.dev x.slot)).emit (.refuse x.ch) } := by
  simp [State.proof, hx, hup, hch, Nat.not_le.2 hroom, hmac, failedSlot]

/-- From the fifth failure on a slot is locked for 60 s, doubled at each further one, and for 61,440 s at most (R86). -/
theorem lockNs_of_le {n : Nat} (h : 5 ≤ n) : lockNs n = min (60 * 2 ^ (n - 5)) 61440 * 1000000000 := by
  rw [lockNs, if_neg (by omega), Nat.min_comm]
  rcases Nat.le_total (n - 5) 10 with hle | hge
  · rw [Nat.min_eq_left hle]
  · have hpow : 2 ^ 10 ≤ 2 ^ (n - 5) := Nat.pow_le_pow_right (by decide) hge
    rw [Nat.min_eq_right hge, Nat.min_eq_right (by omega : 61440 ≤ 60 * 2 ^ (n - 5))]
    rfl

theorem failedSlot_eq (d : Dev) (n : Nat) : failedSlot d n =
    { d.keySlot n with
      fails := (d.keySlot n).fails + 1
      lockUntil := if (d.keySlot n).fails + 1 < 5 then (d.keySlot n).lockUntil
        else d.clk.tb + min (60 * 2 ^ ((d.keySlot n).fails + 1 - 5)) 61440 * 1000000000 } := by
  unfold failedSlot
  dsimp only
  split_ifs with h
  · rfl
  · rw [lockNs_of_le (Nat.not_lt.1 h)]

end

/-! ### The idle limit (R85) -/

section
variable {x : Session} {sid : Nat}

theorem idleClose_of_lt (hx : s.lobby.sessions.find? (fun y => y.sid == sid && y.isOpen) = some x)
    (h : s.dev.clk.tb < x.lastAt + 300000000000) : s.idleClose sid = s := by
  simp [State.idleClose, hx, Nat.not_le.2 h]

theorem idleClose_of_le (hx : s.lobby.sessions.find? (fun y => y.sid == sid && y.isOpen) = some x)
    (h : x.lastAt + 300000000000 ≤ s.dev.clk.tb) : s.idleClose sid = s.close sid := by
  simp [State.idleClose, hx, h]

end

/-! ### OWN and IDENT (R82, R525) -/

section
variable {pub nonce ct tag : List Byte}

/-- What the device opens of an OWN. -/
abbrev ownText (pub nonce ct tag : List Byte) : Option (List Byte) :=
  Config.gcmOpen (Config.hkdf256 (Config.ecdhDevice pub) [] [] 32) nonce [] ct tag

theorem own_of_not_unowned (h : d.keys.own ≠ .unowned) : d.own pub nonce ct tag = d := by
  simp [Dev.own, h]

theorem own_of_none (h : ownText pub nonce ct tag = none) : d.own pub nonce ct tag = d := by
  simp [Dev.own, h]

/-- A slot of the plaintext. -/
theorem ownSlots_eq (p : List Byte) : ownSlots (p.drop 96) = (List.range 16).map (fun k =>
    { role := leAt p (96 + 49 * k) 1, key := slice p (97 + 49 * k) 32, salt := slice p (129 + 49 * k) 16, fails := 0, lockUntil := 0 }) := by
  have h1 (k : Nat) : 96 + (49 * k + 1) = 97 + 49 * k := by omega
  have h2 (k : Nat) : 96 + (49 * k + 33) = 129 + 49 * k := by omega
  simp [ownSlots, slice_drop, leAt_drop, h1, h2]

/-- A role of the plaintext is none of Table 3.3. -/
theorem anyBadRole_iff (p : List Byte) :
    (ownSlots (p.drop 96)).any (fun k => decide (4 < k.role)) = true ↔ ∃ k < 16, 4 < leAt p (96 + 49 * k) 1 := by
  simp [ownSlots_eq]

theorem own_of_bad {p : List Byte} (h : ownText pub nonce ct tag = some p)
    (hp : p.length ≠ 880 ∨ ∃ k < 16, 4 < leAt p (96 + 49 * k) 1) : d.own pub nonce ct tag = d := by
  have hbad : (p.length != 880 || (ownSlots (p.drop 96)).any (fun k => decide (4 < k.role))) = true := by
    rw [Bool.or_eq_true, anyBadRole_iff]
    simpa using hp
  simp [Dev.own, h, hbad]

/-- The device that OWN leaves. -/
def ownedBy (d : Dev) (p : List Byte) : Dev :=
  { d with keys := { d.keys with
      own := .owned, ownerHash := Config.sha384 (p.take 96), slots := (List.range 16).zip (ownSlots (p.drop 96)), tapOff := true } }

theorem own_of_good {p : List Byte} (hup : d.lobbyUp = true) (hu : d.keys.own = .unowned) (h : ownText pub nonce ct tag = some p)
    (hp : p.length = 880) (hroles : ∀ k < 16, leAt p (96 + 49 * k) 1 ≤ 4) : d.own pub nonce ct tag = ownedBy d p := by
  have hgood : (p.length != 880 || (ownSlots (p.drop 96)).any (fun k => decide (4 < k.role))) = false := by
    rw [Bool.eq_false_iff]
    rw [Ne, Bool.or_eq_true, anyBadRole_iff]
    rintro (hlen | ⟨k, hk, hrole⟩)
    · simp [hp] at hlen
    · exact absurd (hroles k hk) (by omega)
  simp [Dev.own, hup, hu, h, hgood, ownedBy]

theorem keySlot_ownedBy (d : Dev) (p : List Byte) {k : Nat} (hk : k < 16) :
    (ownedBy d p).keySlot k = { role := leAt p (96 + 49 * k) 1, key := slice p (97 + 49 * k) 32, salt := slice p (129 + 49 * k) 16,
                                fails := 0, lockUntil := 0 } := by
  show Sparse.get KeySlot.empty ((List.range 16).zip (ownSlots (p.drop 96))) k = _
  rw [ownSlots_eq, Sparse_get_zip _ _ (List.mem_range.2 hk)]

end

section
variable {ch : Channel}

/-- The last IDENT of a channel. -/
abbrev lastIdent (d : Dev) (ch : Channel) : Option (Nat × Nat) := d.keys.identAt.find? (fun p => p.1 == Channel.number ch)

theorem identify_of_recent {p : Nat × Nat} (h : lastIdent d ch = some p) (ht : d.clk.tb < p.2 + 100000000) : d.identify ch = d := by
  simp [Dev.identify, h, Nat.not_le.2 ht]

theorem identify_of_due (hup : d.lobbyUp = true) (hch : d.chReach ch = true)
    (h : ∀ p, lastIdent d ch = some p → p.2 + 100000000 ≤ d.clk.tb) :
    d.identify ch =
      ({ d with keys := { d.keys with identAt := Sparse.insert d.keys.identAt (Channel.number ch) d.clk.tb } }).emit (.ident ch d.identity) := by
  cases hl : lastIdent d ch with
  | none => simp [Dev.identify, hup, hch, hl]
  | some p => simp [Dev.identify, hup, hch, hl, h p hl]

end

/-! ### The statement -/

/-- Settles O37: HELLO, PROOF, the idle limit, OWN and IDENT, each by its cases. -/
theorem sessionsOpenAndClose : Obligations.SessionsOpenAndClose := by
  unfold Obligations.SessionsOpenAndClose
  refine ⟨fun s ch slot nc hup hch hnc hslot hown => ⟨fun hfull => ?_, fun hroom hclosed => ?_, fun hroom hkey hlock hnext hu => ?_⟩,
    fun s sid mac x hx hup hch hroom => ⟨fun hmac => ?_, fun hmac => ?_⟩,
    fun s sid x hx => ⟨fun h => ?_, fun h => ?_⟩,
    fun s pub nonce ct tag hup => ⟨fun hown => ?_, fun hown => ?_⟩,
    fun s ch hup hch => ⟨fun p hp ht => ?_, fun h => ?_⟩⟩
  · exact congrArg Host.Outcome.next (hello_of_full hup hch hnc hown hfull)
  · exact congrArg Host.Outcome.next (hello_of_closed hup hch hnc hown hslot hroom hclosed)
  · have hhello := hello_of_free hup hch hnc hown hslot hroom hkey hlock (freshSid_of_unused hnext hu)
    have hkept : s.lobby.sessions.filter (fun y => y.sid != s.lobby.nextSid) = s.lobby.sessions :=
      List.filter_eq_self.2 fun y hy => by simpa using hu y hy
    rw [hkept] at hhello
    exact ⟨handshake s.dev ch slot nc s.lobby.nextSid, s.dev.nonce.2, rfl, rfl, rfl, rfl, length_nonce _, rfl, rfl, rfl,
      congrArg Host.Outcome.next hhello⟩
  · refine ⟨_, congrArg Host.Outcome.next (proof_of_right hx hup hch hroom hmac), ?_, sessions_opened hx, outbox_accepted _ _ _⟩
    exact keySlot_accepted s.dev x sid
  · refine ⟨_, congrArg Host.Outcome.next (proof_of_wrong hx hup hch hroom hmac), rfl, rfl, ?_⟩
    exact (keySlot_setKeySlot _ _).trans (failedSlot_eq _ _)
  · exact congrArg Host.Outcome.next (idleClose_of_lt hx h)
  · exact ⟨_, congrArg Host.Outcome.next (idleClose_of_le hx h), sessions_close s sid⟩
  · have ha := Laws.onDev_answers (fun d => d.own pub nonce ct tag) s
    rwa [own_of_not_unowned hown] at ha
  · have ha := Laws.onDev_answers (fun d => d.own pub nonce ct tag) s
    split
    next hnone => rwa [own_of_none hnone] at ha
    next p hp =>
      refine ⟨fun hbad => ?_, fun hlen hroles => ?_⟩
      · rwa [own_of_bad hp hbad] at ha
      · rw [own_of_good hup hown hp hlen hroles] at ha
        exact ⟨_, ha, rfl, rfl, rfl, fun k hk => keySlot_ownedBy _ _ hk⟩
  · have ha := Laws.onDev_answers (fun d => d.identify ch) s
    rwa [identify_of_recent hp ht] at ha
  · have ha := Laws.onDev_answers (fun d => d.identify ch) s
    rw [identify_of_due hup hch h] at ha
    exact ⟨_, ha, rfl, rfl⟩

end Sys2Proof.Proofs.LobbyOpening
end

section
/-!
SUPPORT. The Lobby commands that store keys, move power domains, stop the device, reset it, and surrender it: what each makes of the
device, case by case.
-/
namespace Sys2Proof.Proofs.LobbyKeys
open Sys2Proof Sys2Proof.Machine Sys2Proof.Safety Sys2Proof.Proofs.Loops Sys2Proof.Proofs.LobbySessions Sys2Proof.Proofs.LobbyMessages

variable {d : Dev}

/-! ### NODE_KEY and KEYSLOT (R81) -/

theorem nodeKeyCmd_of_bad {node : Nat} {key : List Byte} (h : 4096 ≤ node ∨ key.length ≠ 32) : d.nodeKeyCmd node key = (d, 7) := by
  rw [Dev.nodeKeyCmd, if_pos (by simpa using h)]

theorem nodeKeyCmd_of_good {node : Nat} {key : List Byte} (hnode : node < 4096) (hkey : key.length = 32) :
    d.nodeKeyCmd node key = ({ d with keys := { d.keys with nodeKeys := Sparse.insert d.keys.nodeKeys node key } }, 0) := by
  rw [Dev.nodeKeyCmd, if_neg (by simp [hkey]; omega)]

theorem keySlotCmd_of_good {slot role : Nat} {key salt : List Byte} (hslot : slot < 16) (hrole : role < 5) (hkey : key.length = 32)
    (hsalt : salt.length = 16) :
    d.keySlotCmd slot role key salt = (d.setKeySlot slot { d.keySlot slot with role := role, key := key, salt := salt }, 0) := by
  rw [Dev.keySlotCmd, if_neg (by simp [hkey, hsalt]; omega)]

theorem keySlot_setKeySlot_ite (n j : Nat) (k : KeySlot) : (d.setKeySlot n k).keySlot j = if j = n then k else d.keySlot j :=
  Laws.Sparse_get_insert _ _ _ _ _

/-! ### POWER (R448) -/

/-- The Lobby as the one that asks for a domain state: no room's, and no register reports. -/
def lobbyAsker : Asker := { slot := none, secure := false, reply := none }

theorem domStOf_ne_on : ∀ {st : BitVec 2}, st ≠ 0 → domStOf st.toNat ≠ .on := by
  decide

theorem powerCmd_of_ge {n : Nat} {st : DomSt} (h : 127 ≤ n) : d.powerCmd n st = (d, 7) := by
  simp [Dev.powerCmd, h]

section
variable {n : Nat} (hn : n < 127) (hrun : d.clk.stopped = false)
include hn hrun

theorem powerCmd_on : d.powerCmd n .on = (d.startWake n, 0) := by
  simp [Dev.powerCmd, Dev.request, Nat.not_le.2 hn, hrun, Dev.answer]

theorem powerCmd_of_refused {st : DomSt} {code : Nat} (hst : st ≠ .on) (h : d.refuser lobbyAsker n st false = some code) :
    d.powerCmd n st = (d.countEntry n code none false, 4) := by
  rw [lobbyAsker] at h
  simp [Dev.powerCmd, Dev.request, Nat.not_le.2 hn, hrun, hst, h]

theorem powerCmd_of_entered {st : DomSt} (hst : st ≠ .on) (h : d.refuser lobbyAsker n st false = none)
    (hdeep : (d.domain n).st.code < st.code) : d.powerCmd n st = (d.beginEntry n st none, 0) := by
  rw [lobbyAsker] at h
  simp [Dev.powerCmd, Dev.request, Nat.not_le.2 hn, hrun, hst, h, DomSt.deeper, hdeep]

end

/-- A refusal that is counted changes no domain's state. -/
theorem domainSt_countEntry (n code k : Nat) : ((d.countEntry n code none false).domain k).st = (d.domain k).st := by
  show ((d.setDomain n _).domain k).st = _
  rw [Laws.domain_setDomain]
  split_ifs with h
  · rw [h]
  · rfl

theorem mem_domainGroup (n : Nat) : n ∈ domainGroup n := by
  unfold domainGroup
  split_ifs with h
  · simp only [Bool.and_eq_true, decide_eq_true_eq] at h
    simp only [List.mem_cons, List.not_mem_nil, or_false]
    omega
  · exact List.mem_singleton_self n

theorem entering_startSlice (n k : Nat) : ((d.startSlice n).domain k).entering = (d.domain k).entering := by
  unfold Dev.startSlice
  dsimp only
  split_ifs
  · rfl
  · rfl
  · rw [Laws.modDomain_eq, Laws.domain_setDomain]
    split_ifs with h
    · rw [h]; rfl
    · rfl

/-- An entry that begins is under way at the domain that was named. -/
theorem entering_beginEntry {n : Nat} {st : DomSt} (h : st ≠ .gated) : ((d.beginEntry n st none).domain n).entering = some st := by
  rw [Dev.beginEntry, if_neg (by simpa using h)]
  refine (entering_startSlice n n).trans ?_
  refine each_establishes (fun d => (d.domain n).entering = some st) (mem_domainGroup n) (fun d => ?_) (fun d k hd => ?_) _
  · rw [Laws.modDomain_eq, Laws.domain_setDomain_same]
  · rw [Laws.modDomain_eq, Laws.domain_setDomain]
    split_ifs
    · rfl
    · exact hd

/-! ### DEV_STATE (R453) -/

/-- What a device state fixes: the state and the clocks. -/
def stopPart (d : Dev) : DevSt × Clock := (d.devState, d.clk)

theorem stopPart_eq_iff {d d' : Dev} : stopPart d = stopPart d' ↔ d.devState = d'.devState ∧ d.clk = d'.clk := Prod.mk.injEq .. ▸ Iff.rfl

theorem stopPart_startSlice (n : Nat) : stopPart (d.startSlice n) = stopPart d := by
  unfold Dev.startSlice
  dsimp only
  split_ifs <;> rfl

theorem stopPart_incident (kind loc addr detail : Nat) (rooms : List Nat) (rbkNs : Nat) :
    stopPart (d.incident kind loc addr detail rooms rbkNs) = stopPart d := by
  unfold Dev.incident Dev.incidentAs
  dsimp only
  split_ifs <;> rfl

theorem stopPart_writeRecs (slot ns : Nat) : stopPart (d.writeRecs slot ns) = stopPart d :=
  each_keeps stopPart _ _ (fun _ _ => stopPart_incident _ _ _ _ _ _) d

/-- A device that stops is in the state asked for, and its timebase stands still. -/
theorem stopDevice_stops (d : Dev) (st : DevSt) : (d.stopDevice st).devState = st ∧ (d.stopDevice st).clk.stopped = true := by
  unfold Dev.stopDevice
  extract_lets d1 d2 d3 deep d4 d5 clk store d6
  have h : stopPart (each (List.range 127) (fun d n => d.startSlice n) d6) = stopPart d6 :=
    each_keeps stopPart _ _ (fun _ _ => stopPart_startSlice _) d6
  have h6 : d6.devState = st ∧ d6.clk.stopped = true := ⟨rfl, rfl⟩
  split_ifs
  · obtain ⟨hst, hclk⟩ := stopPart_eq_iff.1 h
    rwa [hst, hclk]
  · exact h6

theorem stopPart_powerLost (d : Dev) (mem chan : Memory) (e : Bool) (b : Bist) :
    stopPart { d with mem := mem, chan := chan, endSessions := e, bist := b } = stopPart d := rfl

/-- What D-Off does after the device has stopped changes neither, and empties memory. -/
theorem stopPart_toOff (d : Dev) : stopPart d.toOff = stopPart (d.stopDevice .off) ∧ d.toOff.mem = [] := by
  unfold Dev.toOff
  extract_lets d1 d2 d3
  have h2 : stopPart d2 = stopPart d1 := each_keeps stopPart _ _ (fun _ _ => stopPart_writeRecs _ _) d1
  have h3 : stopPart d3 = stopPart d2 := by
    refine each_keeps stopPart _ _ (fun d r => ?_) d2
    rfl
  exact ⟨(stopPart_powerLost d3 _ _ _ _).trans (h3.trans h2), rfl⟩

theorem toOff_stops (d : Dev) : d.toOff.devState = .off ∧ d.toOff.clk.stopped = true ∧ d.toOff.mem = [] := by
  obtain ⟨hpart, hmem⟩ := stopPart_toOff d
  obtain ⟨hst, hclk⟩ := stopPart_eq_iff.1 hpart
  rw [hst, hclk, hmem]
  exact ⟨(stopDevice_stops d .off).1, (stopDevice_stops d .off).2, rfl⟩

theorem devStateCmd_of_bad {cmd : Nat} (h1 : cmd ≠ 1) (h2 : cmd ≠ 2) : d.devStateCmd cmd = (d, 7) := by
  simp [Dev.devStateCmd, h1, h2]

section
variable {cmd : Nat} (hcmd : cmd = 1 ∨ cmd = 2) (hrun : d.devState = .run)
include hcmd hrun

theorem devStateCmd_of_refused (h : d.devRefuser ≠ 0) :
    d.devStateCmd cmd = ({ d with porch := { d.porch with result := d.devRefuser } }, 4) := by
  rcases hcmd with rfl | rfl <;> simp [Dev.devStateCmd, Dev.devCommand, hrun, h]

/-- The device whose last command nothing refused. -/
def unrefused (d : Dev) : Dev := { d with porch := { d.porch with result := 0 } }

/-- The device that DEV_STATE stops. -/
def stoppedBy (d : Dev) (cmd : Nat) : Dev := if cmd = 1 then (unrefused d).stopDevice .retain else (unrefused d).toOff

theorem devStateCmd_of_stops (h : d.devRefuser = 0) : d.devStateCmd cmd = (stoppedBy d cmd, 0) := by
  rcases hcmd with rfl | rfl <;> simp [Dev.devStateCmd, Dev.devCommand, hrun, h, stoppedBy, unrefused]

end

theorem stoppedBy_stops (d : Dev) (cmd : Nat) : (stoppedBy d cmd).devState = (if cmd = 1 then .retain else .off) ∧
    (stoppedBy d cmd).clk.stopped = true ∧ (cmd = 2 → (stoppedBy d cmd).mem = []) := by
  by_cases h : cmd = 1
  · obtain ⟨hst, hclk⟩ := stopDevice_stops (unrefused d) .retain
    rw [stoppedBy, if_pos h, if_pos h]
    exact ⟨hst, hclk, fun h2 => absurd (h.symm.trans h2) (by decide)⟩
  · obtain ⟨hst, hclk, hmem⟩ := toOff_stops (unrefused d)
    rw [stoppedBy, if_neg h, if_neg h]
    exact ⟨hst, hclk, fun _ => hmem⟩

/-! ### RESET (R461) -/

theorem resetCmd_of_no_room {id : Nat} (h : d.slotOf id = none) : d.resetCmd (.room id) = (d, 6) := by
  simp [Dev.resetCmd, h]

theorem rb_tellReset (slot cause : Nat) : ((d.tellReset slot cause).room slot).rb = (d.room slot).rb := by
  unfold Dev.tellReset
  split_ifs <;> rfl

theorem resetCmd_of_room {id slot : Nat} (h : d.slotOf id = some slot) (hrb : (d.room slot).rb = none) :
    d.resetCmd (.room id) = ((d.tellReset slot 4).resetRoom slot 4, 0) := by
  simp [Dev.resetCmd, h, Dev.requestReset, Dev.resetHere, rb_tellReset, hrb]

/-! ### SURRENDER (R521 to R523) -/

section
variable {serial : Word}

theorem surrenderStatus_of_serial (h : serial ≠ Config.serial) : d.surrenderStatus serial = 7 := by
  simp [Dev.surrenderStatus, h]

theorem surrenderStatus_of_unread (h : serial = Config.serial) (hread : d.inc.expRing = false ∨ d.inc.expJnl = false) :
    d.surrenderStatus serial = 4 := by
  simp [Dev.surrenderStatus, h, hread]

/-- A swap, a rollback or a shutdown test runs. -/
def busy (d : Dev) : Prop := d.flp.st ≠ .idle ∨ (∃ k < 64, (d.room k).rb.isSome = true) ∨ d.bist.shutdown = true

theorem surrenderStatus_of_read (h : serial = Config.serial) (hring : d.inc.expRing = true) (hjnl : d.inc.expJnl = true) :
    (busy d → d.surrenderStatus serial = 3) ∧ (¬ busy d → d.surrenderStatus serial = 0) := by
  have hbusy : (d.flp.st != .idle || (List.range 64).any (fun s => (d.room s).rb.isSome) || d.bist.shutdown) = true ↔ busy d := by
    simp [busy, or_assoc]
  rw [Dev.surrenderStatus, if_neg (by simp [h]), if_neg (by simp [hring, hjnl])]
  exact ⟨fun hb => if_pos (hbusy.2 hb), fun hb => if_neg fun hc => hb (hbusy.1 hc)⟩

end

/-- The keys are gone, and the device is Surrendering. -/
theorem keys_surrendered (d : Dev) : d.surrendered.keys.own = .surrendering ∧ d.surrendered.keys.slots = [] ∧
    d.surrendered.keys.ownerHash = [] ∧ d.surrendered.keys.nodeKeys = [] := ⟨rfl, rfl, rfl, rfl⟩

/-- The images are gone; the factory slot and HIGH_GEN stay. -/
theorem store_surrendered (d : Dev) : d.surrendered.store.active = [] ∧ d.surrendered.store.shadow = [] ∧
    d.surrendered.store.lastGood = [] ∧ d.surrendered.store.factory = d.store.factory ∧ d.surrendered.store.highGen = d.store.highGen :=
  ⟨rfl, rfl, rfl, rfl, rfl⟩

theorem journal_surrendered (d : Dev) : d.surrendered.inc.journal = [] := rfl

/-- Every room of a device that is cleared is absent. -/
theorem rooms_surrendered (d : Dev) : d.surrendered.rooms.all (fun p => p.2.phase == .absent) = true := by
  show (d.rooms.map (fun p => (p.1, p.2.kept))).all (fun p => p.2.phase == .absent) = true
  simp only [List.all_map]
  exact List.all_eq_true.2 fun p _ => by rfl

/-- `X` is Returned and has no image; memory, contexts and the mark that ends the sessions are those of `d`. -/
def Gone (d X : Dev) : Prop :=
  X.keys.own = .returned ∧ X.devState = .noImage ∧ X.mem = d.mem ∧ X.chan = d.chan ∧ X.ctxs = d.ctxs ∧ X.endSessions = d.endSessions

/-- A Returned device boots without an image, whether its firmware verifies or not. -/
theorem boot_of_returned (h : d.keys.own = .returned) (kind oldGen : Nat) : Gone d (d.boot kind oldGen) := by
  have hs : ((d.keys.own : OwnState) == .surrendering) = false := by simp [h]
  have hr : ((d.keys.own : OwnState) == .returned) = true := by simp [h]
  unfold Dev.boot
  dsimp only
  split
  · exact ⟨h, rfl, rfl, rfl, rfl, rfl⟩
  · rw [if_neg (by exact Bool.eq_false_iff.1 hs), if_pos (by exact hr)]
    exact ⟨h, rfl, rfl, rfl, rfl, rfl⟩

theorem surrenderDone_of_not_surrendering (h : d.keys.own ≠ .surrendering) : d.surrenderDone = d := by
  simp [Dev.surrenderDone, h]

/-- The device that is Returned, before its boot. -/
def returnedOf (d : Dev) : Dev :=
  { ({ d with keys := { d.keys with own := .returned }, mem := [], chan := [] } : Dev).cleared false with endSessions := true }

theorem surrenderDone_of_surrendering (h : d.keys.own = .surrendering) : d.surrenderDone = (returnedOf d).boot 3 0 := by
  simp [Dev.surrenderDone, h, returnedOf]

theorem gone_surrenderDone (h : d.keys.own = .surrendering) : Gone (returnedOf d) d.surrenderDone :=
  surrenderDone_of_surrendering h ▸ boot_of_returned (d := returnedOf d) rfl 3 0

theorem settle_of_ended {s : State} (h : s.dev.endSessions = true) :
    State.settle s = { s with dev := { s.dev with endSessions := false }, lobby := { s.lobby with sessions := [] } } := by
  rw [State.settle, if_pos h]

theorem settle_of_not_ended {s : State} (h : s.dev.endSessions = false) : State.settle s = s := by
  rw [State.settle, if_neg (by simp [h])]

/-! ### The statement -/

section
variable {s : State} {x : Session} {m : LobbyMsg}

theorem nodeKey_replies {node : Nat} {key : List Byte} (h : Admits s (.nodeKey m node key) x m) :
    Replies (.nodeKey m node key) s x m (x.rep (s.dev.nodeKeyCmd node key)) :=
  replies_of_admits (body := fun d x => x.rep (d.nodeKeyCmd node key)) h rfl rfl

theorem keyslot_replies {slot role : Nat} {key salt : List Byte} (h : Admits s (.keyslot m slot role key salt) x m) :
    Replies (.keyslot m slot role key salt) s x m (x.rep (s.dev.keySlotCmd slot role key salt)) :=
  replies_of_admits (body := fun d x => x.rep (d.keySlotCmd slot role key salt)) h rfl rfl

theorem power_replies {domain : Nat} {st : BitVec 2} (h : Admits s (.power m domain st) x m) :
    Replies (.power m domain st) s x m (x.rep (s.dev.powerCmd domain (domStOf st.toNat))) :=
  replies_of_admits (body := fun d x => x.rep (d.powerCmd domain (domStOf st.toNat))) h rfl rfl

theorem devState_replies {cmd : BitVec 2} (h : Admits s (.devState m cmd) x m) :
    Replies (.devState m cmd) s x m (x.rep (s.dev.devStateCmd cmd.toNat)) :=
  replies_of_admits (body := fun d x => x.rep (d.devStateCmd cmd.toNat)) h rfl rfl

theorem reset_replies {t : ResetTarget} (h : Admits s (.reset m t) x m) :
    Replies (.reset m t) s x m (x.rep (s.dev.resetCmd t)) :=
  replies_of_admits (body := fun d x => x.rep (d.resetCmd t)) h rfl rfl

/-- A SURRENDER that is refused answers with its STATUS and does nothing else. -/
theorem surrender_replies_of_refused {serial : Word} {st : Nat} (h : Admits s (.surrender m serial) x m)
    (hst : s.dev.surrenderStatus serial = st) (hne : st ≠ 0) :
    Replies (.surrender m serial) s x m { d := s.dev, status := st, stream := x.stream } := by
  subst hst
  exact replies_of_admits (body := fun d x => x.rep (d, d.surrenderStatus serial)) h rfl
    (congrArg (fun t => Host.Outcome.next (State.settle t)) (surrender_of_refused fun _ _ _ _ => hne))

/-- A SURRENDER that is acted on: the reply is out, the other sessions close, and the steps of Table 24.3 run. -/
theorem exec_surrender {serial : Word} (h : Admits s (.surrender m serial) x m) (hst : s.dev.surrenderStatus serial = 0) :
    ∃ t D, exec (.surrender m serial) s = .next t ∧ t.dev = Dev.surrendered D ∧ D.store = s.dev.store ∧
      ∀ y ∈ t.lobby.sessions, y.sid = m.sid := by
  obtain ⟨cmd, roles, hrow, hs, hacc, hrole⟩ := h
  cases hrow
  have hsur : s.surrender m serial =
      let t := s.lobbyCmd m 0x41 rolesOwner (fun d x => x.rep (d, d.surrenderStatus serial))
      { t with dev := t.dev.surrendered, lobby := { t.lobby with sessions := t.lobby.sessions.filter (fun y => y.sid == m.sid) } } := by
    simp only [State.surrender, hs, hacc, hst]
    exact if_pos (by rw [Bool.true_and, show rolesOwner.testBit x.role = true from hrole]; rfl)
  have hdev := lobbyCmd_of_permitted (fun d x => x.rep (d, d.surrenderStatus serial)) hs hacc hrole
  refine ⟨_, s.dev.emit (x.reply 0x41 m (x.rep (s.dev, s.dev.surrenderStatus serial))),
    congrArg Host.Outcome.next (settle_of_not_ended (by rw [hsur]; rfl)), ?_, rfl, fun y hy => ?_⟩
  · rw [hsur]
    exact congrArg (fun t => Dev.surrendered (State.dev t)) hdev
  · rw [hsur] at hy
    simpa using (List.mem_filter.1 hy).2

end

/-- Settles O41: each command by its cases; SURRENDER by what a cleared device is, and its end by what a Returned device boots to. -/
theorem lobbyKeysPowerSurrenderComplete : Obligations.LobbyKeysPowerSurrenderComplete := by
  unfold Obligations.LobbyKeysPowerSurrenderComplete
  refine ⟨fun s m x node key h => ⟨fun hbad => ?_, fun hnode hkey => ?_⟩,
    fun s m x slot role key salt h hslot hrole hkey hsalt => ?_,
    fun s m x domain st h => ⟨fun hge => ?_, fun hlt hrun => ⟨fun hon => ?_, fun hne code href => ?_, fun hdeep href hcode => ?_⟩⟩,
    fun s m x cmd h => ⟨fun h1 h2 => ?_, fun hcmd hrun => ⟨fun href => ?_, fun href => ?_⟩⟩,
    fun s m x id h => ⟨fun hnone => ?_, fun slot hslot hrb => ?_⟩, fun s m x h => ?_,
    fun s m x serial h => ⟨fun hne => ?_, fun heq hread => ?_, fun heq hring hjnl hbusy => ?_, fun heq hring hjnl hidle => ?_⟩,
    fun s => ⟨fun hne => ?_, fun hsur => ?_⟩⟩
  · have hrep := nodeKey_replies h
    rwa [nodeKeyCmd_of_bad hbad] at hrep
  · have hrep := nodeKey_replies h
    rw [nodeKeyCmd_of_good hnode hkey] at hrep
    exact ⟨_, hrep, rfl, rfl, fun n => Laws.Sparse_get_insert _ _ _ _ _⟩
  · have hrep := keyslot_replies h
    rw [keySlotCmd_of_good hslot hrole hkey hsalt] at hrep
    exact ⟨_, hrep, rfl, rfl, fun n => keySlot_setKeySlot_ite _ _ _⟩
  · have hrep := power_replies h
    rwa [powerCmd_of_ge hge] at hrep
  · have hrep := power_replies h
    subst hon
    have hst : domStOf (0 : BitVec 2).toNat = .on := rfl
    rwa [hst, powerCmd_on hlt hrun] at hrep
  · have hrep := power_replies h
    have hst := domStOf_ne_on hne
    rw [powerCmd_of_refused hlt hrun hst href] at hrep
    exact ⟨_, hrep, rfl, fun n => domainSt_countEntry _ _ _⟩
  · have hrep := power_replies h
    have hst : domStOf st.toNat ≠ .on ∧ domStOf st.toNat ≠ .gated := by rcases hdeep with rfl | rfl <;> decide
    rw [powerCmd_of_entered hlt hrun hst.1 href hcode] at hrep
    exact ⟨_, hrep, rfl, entering_beginEntry hst.2⟩
  · have hrep := devState_replies h
    rwa [devStateCmd_of_bad (fun e => h1 (BitVec.eq_of_toNat_eq e)) (fun e => h2 (BitVec.eq_of_toNat_eq e))] at hrep
  · have hrep := devState_replies h
    rwa [devStateCmd_of_refused (hcmd.imp (congrArg BitVec.toNat) (congrArg BitVec.toNat)) hrun href] at hrep
  · have hrep := devState_replies h
    rw [devStateCmd_of_stops (hcmd.imp (congrArg BitVec.toNat) (congrArg BitVec.toNat)) hrun href] at hrep
    obtain ⟨hst, hclk, hmem⟩ := stoppedBy_stops s.dev cmd.toNat
    have hone : cmd.toNat = 1 ↔ cmd = 1 := ⟨fun e => BitVec.eq_of_toNat_eq e, congrArg BitVec.toNat⟩
    simp only [hone] at hst
    exact ⟨_, hrep, rfl, hst, hclk, fun e => hmem (congrArg BitVec.toNat e)⟩
  · have hrep := reset_replies h
    rwa [resetCmd_of_no_room hnone] at hrep
  · have hrep := reset_replies h
    rwa [resetCmd_of_room hslot hrb] at hrep
  · exact reset_replies h
  · exact surrender_replies_of_refused h (surrenderStatus_of_serial hne) (by decide)
  · exact surrender_replies_of_refused h (surrenderStatus_of_unread heq hread) (by decide)
  · exact surrender_replies_of_refused h ((surrenderStatus_of_read heq hring hjnl).1 hbusy) (by decide)
  · obtain ⟨t, D, ht, hdev, hstore, hsids⟩ := exec_surrender h ((surrenderStatus_of_read heq hring hjnl).2 hidle)
    rw [← hstore]
    obtain ⟨hown, hslots, howner, hnodes⟩ := keys_surrendered D
    obtain ⟨hactive, hshadow, hlast, hfactory, hgen⟩ := store_surrendered D
    rw [← hdev] at hown hslots howner hnodes hactive hshadow hlast hfactory hgen
    exact ⟨t, ht, hown, hslots, howner, hnodes, hactive, hshadow, hlast, hfactory, hgen, hdev ▸ journal_surrendered D,
      hdev ▸ rooms_surrendered D, hsids⟩
  · have ha := Laws.onDev_answers (fun d => d.surrenderDone) s
    rwa [surrenderDone_of_not_surrendering hne] at ha
  · obtain ⟨hown, hst, hmem, hchan, hctxs, hend⟩ := gone_surrenderDone hsur
    have ha : exec .surrenderComplete s = .next (State.settle { s with dev := s.dev.surrenderDone }) := rfl
    rw [settle_of_ended (by exact hend)] at ha
    exact ⟨_, ha, hown, hst, hmem, hchan, hctxs, rfl⟩

end Sys2Proof.Proofs.LobbyKeys
end

section
/-!
SUPPORT. What the floorplan's part of the device keeps where a cancelled swap resumes its rooms and a supply event that waited for it
takes effect (Tables 3.9 and 20.9): rooms suspended, nodes left, clusters put to sleep, the device stopped.
-/
namespace Sys2Proof.Proofs.FlpStop
open Sys2Proof Sys2Proof.Machine Sys2Proof.Proofs.FlpPart

variable (d : Dev)

/-! ### Domains that sleep -/

@[simp] theorem flpPart_setMac (i : Nat) (x : Mac) : flpPart (d.setMac i x) = flpPart d := (rfl)
@[simp] theorem flpPart_setUart (i : Nat) (x : Uart) : flpPart (d.setUart i x) = flpPart d := (rfl)
@[simp] theorem flpPart_loseLocalStore (c : Nat) : flpPart (d.loseLocalStore c) = flpPart d := (rfl)

@[simp] theorem flpPart_clearPeriph (b : Nat) : flpPart (d.clearPeriph b) = flpPart d := by
  unfold Dev.clearPeriph; split_ifs <;> simp

@[simp] theorem flpPart_cleanL2 (c : Nat) : flpPart (d.cleanL2 c) = flpPart d := by
  simp [Dev.cleanL2]

@[simp] theorem flpPart_cleanL3 (r : Nat) : flpPart (d.cleanL3 r) = flpPart d := by
  simp [Dev.cleanL3]

@[simp] theorem flpPart_settleCluster (c : Nat) : flpPart (d.settleCluster c) = flpPart d := by
  simp [Dev.settleCluster]

@[simp] theorem flpPart_clusterOff (c : Nat) : flpPart (d.clusterOff c) = flpPart d := by
  simp [Dev.clusterOff]

@[simp] theorem flpPart_enterEffects (n : Nat) (st : DomSt) : flpPart (d.enterEffects n st) = flpPart d := by
  cases st with
  | on => rfl
  | gated => rfl
  | retention => simp [Dev.enterEffects]
  | off => simp [Dev.enterEffects, Dev.modCan]

@[simp] theorem flpPart_forceCluster (c : Nat) (st : DomSt) : flpPart (d.forceCluster c st) = flpPart d := by
  simp [Dev.forceCluster, Dev.enterState]

@[simp] theorem flpPart_startSlice (n : Nat) : flpPart (d.startSlice n) = flpPart d := by
  unfold Dev.startSlice
  dsimp only
  split_ifs <;> rfl

/-! ### Rooms that stop and resume -/

@[simp] theorem flpPart_suspendRoom (slot : Nat) : flpPart (d.suspendRoom slot) = flpPart d := by
  simp [Dev.suspendRoom]

@[simp] theorem flpPart_leaveAll (l : List NodeRec) : flpPart (d.leaveAll l) = flpPart d := by
  simp [Dev.leaveAll]

@[simp] theorem flpPart_resumeStopped (slot : Nat) : flpPart (d.resumeStopped slot) = flpPart d := by
  simp [Dev.resumeStopped]

@[simp] theorem flpPart_undrain : flpPart d.undrain = flpPart d := by
  simp [Dev.undrain]

/-! ### The device stops

It sets the clean-stop mark of the store; all else of the floorplan's part stays. -/

/-- The register sets, the image in the shadow slot, and the FLP registers. -/
def setsPart (d : Dev) : Plan × Option Plan × List Byte × Flp := (d.plan, d.shadowPlan, d.store.shadow, d.flp)

variable {d}

theorem setsPart_of_flpPart {d d' : Dev} (h : flpPart d' = flpPart d) : setsPart d' = setsPart d :=
  congrArg (fun p => (p.1, p.2.1, p.2.2.1.shadow, p.2.2.2.1)) h

theorem setsPart_marked (d : Dev) (st : DevSt) (clk : Clock) (b : Bool) :
    setsPart { d with devState := st, clk := clk, store := { d.store with cleanStop := b } } = setsPart d := rfl

theorem setsPart_stopDevice (d : Dev) (st : DevSt) : setsPart (d.stopDevice st) = setsPart d := by
  unfold Dev.stopDevice
  extract_lets d1 d2 d3 deep d4 d5 clk store d6
  have h5 : flpPart d5 = flpPart d := by simp [d5, d4, d3, d2, d1]
  clear_value d5
  have h6 : setsPart d6 = setsPart d := (setsPart_marked d5 _ _ _).trans (setsPart_of_flpPart h5)
  split_ifs
  · exact (setsPart_of_flpPart (by simp)).trans h6
  · exact h6

theorem setsPart_withPorch (d : Dev) (p : Porch) : setsPart { d with porch := p } = setsPart d := rfl

theorem setsPart_setCluster (d : Dev) (i : Nat) (x : Cluster) : setsPart (d.setCluster i x) = setsPart d := rfl

/-- The emergency operating point stops rooms and clusters; without a cluster for it the device goes to D-Retain. -/
theorem setsPart_emergency (d : Dev) : setsPart d.emergency = setsPart d := by
  unfold Dev.emergency
  extract_lets c out d1 d2 porch d3
  have h1 : flpPart d1 = flpPart d := flpPart_each _ _ _ fun _ _ => by simp
  have h2 : flpPart d2 = flpPart d := (flpPart_each _ _ _ fun _ _ => by simp).trans h1
  clear_value d2
  split_ifs
  · exact (setsPart_setCluster _ _ _).trans ((setsPart_withPorch d2 _).trans (setsPart_of_flpPart h2))
  · exact (setsPart_withPorch _ _).trans (setsPart_stopDevice d .retain)

theorem setsPart_lateMainFall (d : Dev) : setsPart d.lateMainFall = setsPart d := by
  unfold Dev.lateMainFall
  split_ifs
  · exact setsPart_emergency d
  · rfl

end Sys2Proof.Proofs.FlpStop
end

section
/-!
SUPPORT. The floorplan commands of room 0's keeper (R90 to R92, R94): FLP_CMD by the one that writes it, and LOAD, REVERT, SWAP, CANCEL and
START_ROOM by the state they meet.
-/
namespace Sys2Proof.Proofs.FlpCommands
open Sys2Proof Sys2Proof.Machine Sys2Proof.Safety Sys2Proof.Proofs.Loops Sys2Proof.Proofs.FlpPart Sys2Proof.Proofs.FlpStop

variable {d : Dev}

/-! ### FLP_CMD (R90) -/

theorem flpWrite_of_other {a : Acc} (h : a.keeper = false ∨ a.id ≠ 0) (o v : Nat) : d.flpWrite a o v = d := by
  unfold Dev.flpWrite
  exact if_pos (by simpa using h)

theorem flpWrite_of_keeper {a : Acc} (hk : a.keeper = true) (hid : a.id = 0) (v : Nat) : d.flpWrite a 0 v = d.flpCmd v := by
  simp [Dev.flpWrite, hk, hid]

theorem regWrite_flpCmd (a : Acc) (v : Nat) : d.regWrite a 0x10000 v = d.flpWrite a 0 v := by
  simp [Dev.regWrite]

section
variable {s : State} {core : Nat} {D : Dev}

theorem flpCore_of_reaches (h : Reaches s.dev core 0x10000 .write D) {v : Nat} (hv : v < 2 ^ 32) :
    s.dev.flpCore core v = D.flpWrite (s.dev.acc core) 0 v :=
  (Laws.writeReg_of_reaches h hv).2.trans (regWrite_flpCmd _ _)

/-- A write of FLP_CMD by any other context passes without an effect. -/
theorem flpCore_answers_of_other (h : Reaches s.dev core 0x10000 .write D) (ha : (s.dev.acc core).keeper = false ∨ (s.dev.acc core).id ≠ 0)
    {v : Nat} (hv : v < 2 ^ 32) : Answers (onDev (fun d => d.flpCore core v) s) s D := by
  have hans := Laws.onDev_answers (fun d => d.flpCore core v) s
  rwa [flpCore_of_reaches h hv, flpWrite_of_other ha] at hans

/-- Room 0's keeper has its command carried out. -/
theorem flpCore_answers (h : Reaches s.dev core 0x10000 .write D) (hk : (s.dev.acc core).keeper = true) (hid : (s.dev.acc core).id = 0)
    {v : Nat} (hv : v < 2 ^ 32) : Answers (onDev (fun d => d.flpCore core v) s) s (D.flpCmd v) := by
  have hans := Laws.onDev_answers (fun d => d.flpCore core v) s
  rwa [flpCore_of_reaches h hv, flpWrite_of_keeper hk hid] at hans

end

theorem flpCmd_start {id : Nat} (h : id < 256) : d.flpCmd (5 + id % 256 * 2 ^ 24) = d.startRoomCmd id 0 := by
  have hcode : (5 + id % 256 * 2 ^ 24) % 16 = 5 := by omega
  have hid : field (5 + id % 256 * 2 ^ 24) 31 24 = id := by
    simp only [field, Nat.shiftRight_eq_div_pow]
    omega
  simp only [Dev.flpCmd, hcode, hid]

theorem flpCmd_unassigned {v : Nat} (h : v % 16 ∉ [1, 2, 3, 4, 5]) : d.flpCmd v = d.flpResult 0x33 := by
  simp only [List.mem_cons, List.not_mem_nil, or_false, not_or] at h
  obtain ⟨h1, h2, h3, h4, h5⟩ := h
  unfold Dev.flpCmd
  split
  · contradiction
  · contradiction
  · contradiction
  · contradiction
  · contradiction
  · rfl

/-! ### Whose command it is (R99) -/

theorem flpOwn_of_own (h : d.pkg = 0 ∨ d.per.present.getLsbD 0 = false) (f : Dev → Dev) : d.flpOwn f = f d := by
  rw [Dev.flpOwn, if_neg (by simpa [or_iff_not_imp_left] using h)]

theorem flpOwn_of_other (h : ¬ (d.pkg = 0 ∨ d.per.present.getLsbD 0 = false)) (f : Dev → Dev) : d.flpOwn f = d.flpResult 0x33 := by
  rw [Dev.flpOwn, if_pos (by simpa [not_or] using h)]

/-- What is told to the other packages is an output and nothing else. -/
theorem flpPart_flpTell (d : Dev) (o : Out) : flpPart (d.flpTell o) = flpPart d := by
  unfold Dev.flpTell
  split_ifs <;> rfl

theorem room_flpTell (d : Dev) (o : Out) (k : Nat) : (d.flpTell o).room k = d.room k := by
  unfold Dev.flpTell
  split_ifs <;> rfl

/-! ### LOAD and REVERT (R91) -/

theorem clamp_eq {lo hi : Nat} (h : lo ≤ hi) (x : Nat) : clamp lo hi x = max lo (min hi x) := by
  unfold clamp
  split_ifs <;> omega

/-- An image in the shadow slot begins its validation. -/
theorem flpPart_flpShadow (d : Dev) (image : List Byte) (origin : Nat) (reverting : Bool) :
    flpPart (d.flpShadow image origin reverting) = (d.plan, none, { d.store with shadow := image },
      { d.flp with st := .validating, result := 0, origin := origin, reverting := reverting }, d.porch.mainOk) :=
  flpPart_flpTell _ _

theorem loadKeeper_of_not_idle (h : d.flp.st ≠ .idle) : d.loadKeeper = d.flpResult 0x31 := by
  simp [Dev.loadKeeper, h]

theorem loadKeeper_of_no_source (h : d.flp.st = .idle) (hs : d.flpSource d.flp.src d.flp.bytes = false) :
    d.loadKeeper = { d with flp := { d.flp with result := 0x30, origin := 0 } } := by
  simp [Dev.loadKeeper, h, hs]

theorem loadKeeper_of_source (h : d.flp.st = .idle) (hs : d.flpSource d.flp.src d.flp.bytes = true) :
    d.loadKeeper = d.flpShadow (d.bytes d.flp.src d.flp.bytes) 0 false := by
  simp [Dev.loadKeeper, h, hs]

theorem revert_of_not_idle {origin : Nat} (h : d.flp.st ≠ .idle) : d.revert origin = d.flpResult 0x31 := by
  simp [Dev.revert, h]

theorem revert_of_idle {origin : Nat} (h : d.flp.st = .idle) : d.revert origin = d.flpShadow d.store.lastGood origin true := by
  simp [Dev.revert, h]

/-! ### SWAP (R94) -/

theorem swap_of_not_ready {origin : Nat} (h : d.flp.st ≠ .ready) : d.swap origin = d.flpResult 0x31 := by
  unfold Dev.swap
  split
  next hst _ => exact absurd hst h
  · rfl

/-- The class that a room has for the swap, wherever an operation writes no other field of it. -/
def classOf (d : Dev) (k : Nat) : Option SwapClass := (d.room k).swapClass

theorem classOf_setRoom (d : Dev) (i : Nat) (x : Room) (k : Nat) :
    classOf (d.setRoom i x) k = if k = i then x.swapClass else classOf d k := by
  unfold classOf
  rw [Laws.room_setRoom]
  split_ifs <;> rfl

/-- A write of a room that keeps its class keeps every room's. -/
theorem classOf_setRoom_of_eq {i : Nat} {x : Room} (h : x.swapClass = (d.room i).swapClass) (k : Nat) :
    classOf (d.setRoom i x) k = classOf d k := by
  rw [classOf_setRoom]
  split_ifs with hk
  · rw [h, hk]; rfl
  · rfl

section
variable (d) (k : Nat)

theorem classOf_each {α : Type} (l : List α) (f : Dev → α → Dev) (h : ∀ d a, classOf (f d a) k = classOf d k) (d : Dev) :
    classOf (each l f d) k = classOf d k := each_keeps (fun d => classOf d k) l f h d

theorem classOf_tracePut (slot : Nat) (p : TracePkt) : classOf (d.tracePut slot p) k = classOf d k := by
  unfold Dev.tracePut
  extract_lets g size unread full bs d1 d2 thr unread'
  have h2 : classOf d2 k = classOf d k := classOf_setRoom_of_eq (by rfl) k
  split
  · rfl
  split
  · exact classOf_setRoom_of_eq (by rfl) k
  split
  · exact h2
  · exact h2

theorem classOf_tracePower (n : Nat) (old new : DomSt) (code : Nat) : classOf (d.tracePower n old new code) k = classOf d k :=
  classOf_each k _ _ (fun d s => by
    dsimp only
    split
    · exact classOf_tracePut d k _ _
    · rfl) d

theorem classOf_setDomainCode (n : Nat) (st : DomSt) (code : Nat) : classOf (d.setDomainCode n st code) k = classOf d k := by
  have hd := classOf_each k (domainGroup n) (fun d j => d.modDomain j (fun x =>
    { x with st := st, entering := none, asker := none, waking := false, since := d.clk.tb, slice := false })) (fun _ _ => by rfl) d
  unfold Dev.setDomainCode
  dsimp only
  split
  · exact hd
  · exact (classOf_tracePower _ k _ _ _ _).trans hd

theorem classOf_countEntry (n code : Nat) (asker : Option Nat) (abort : Bool) :
    classOf (d.countEntry n code asker abort) k = classOf d k := by
  unfold Dev.countEntry
  extract_lets d1 d2
  have h1 : classOf d1 k = classOf d k := by
    unfold d1
    split
    · exact classOf_each k _ _ (fun _ _ => by rfl) d
    · rfl
  have h2 : classOf d2 k = classOf d k := h1
  split
  · exact h2
  · split
    · exact (classOf_setRoom_of_eq (by rfl) k).trans h2
    · exact h2

theorem classOf_abortEntry (n code : Nat) : classOf (d.abortEntry n code) k = classOf d k := by
  unfold Dev.abortEntry
  split
  · rfl
  · refine (classOf_setDomainCode _ k _ _ _).trans ((classOf_countEntry _ k _ _ _ _).trans ?_)
    unfold Dev.stopSlice
    split <;> rfl

theorem classOf_wakeOne (n : Nat) : classOf (d.wakeOne n) k = classOf d k := by
  unfold Dev.wakeOne
  split
  · exact classOf_each k _ _ (fun _ _ => by rfl) d
  · have hon : classOf ((d.abortEntry n 8).setDomainSt n .on) k = classOf d k :=
      (classOf_setDomainCode _ k _ _ _).trans (classOf_abortEntry _ k _ _)
    dsimp only
    unfold Dev.wakeEffects
    split
    · exact hon
    · split
      · exact hon
      · exact hon

theorem classOf_startWakeOne (n : Nat) : classOf (d.startWakeOne n) k = classOf d k := by
  unfold Dev.startWakeOne
  split
  · rfl
  split
  · exact classOf_wakeOne d k n
  · exact classOf_each k _ _ (fun _ _ => by rfl) d

theorem classOf_startWake (n : Nat) : classOf (d.startWake n) k = classOf d k := by
  unfold Dev.startWake
  split
  · rfl
  · exact (classOf_each k _ _ (fun d j => classOf_startWakeOne d k j) _).trans (classOf_startWakeOne d k n)

theorem classOf_swapHoldOf (slot : Nat) : classOf (d.swapHoldOf slot) k = classOf d k := by
  unfold Dev.swapHoldOf
  dsimp only
  split
  · rfl
  · split
    · exact classOf_setRoom_of_eq (by rfl) k
    · rfl

theorem flpPart_swapHoldOf (slot : Nat) : flpPart (d.swapHoldOf slot) = flpPart d := by
  unfold Dev.swapHoldOf
  dsimp only
  split
  · rfl
  · split <;> rfl

end

/-- One round of a SWAP over the slots: the slot's room takes its class, and a room that was substituted lately holds the swap. -/
def classRound (cls : List (Option SwapClass)) (d : Dev) (slot : Nat) : Dev :=
  (if (d.room slot).phase == .absent && (cls.getD slot none).isNone then d
   else d.modRoom slot (fun r => { r with swapClass := cls.getD slot none })).swapHoldOf slot

theorem flpPart_classRound (cls : List (Option SwapClass)) (d : Dev) (slot : Nat) : flpPart (classRound cls d slot) = flpPart d := by
  refine (flpPart_swapHoldOf _ _).trans ?_
  split <;> rfl

/-- A round gives its own slot the class of the list, where it has one. -/
theorem classOf_classRound_same {cls : List (Option SwapClass)} {slot : Nat} {c : SwapClass} (h : cls.getD slot none = some c) (d : Dev) :
    classOf (classRound cls d slot) slot = some c := by
  refine (classOf_swapHoldOf _ slot slot).trans ?_
  rw [h, if_neg (by simp), Laws.modRoom_eq, classOf_setRoom, if_pos rfl]

theorem classOf_classRound_ne {cls : List (Option SwapClass)} {slot k : Nat} (h : k ≠ slot) (d : Dev) :
    classOf (classRound cls d slot) k = classOf d k := by
  refine (classOf_swapHoldOf _ k slot).trans ?_
  split
  · rfl
  · rw [Laws.modRoom_eq, classOf_setRoom, if_neg h]

theorem classOf_rounds {cls : List (Option SwapClass)} {k : Nat} {c : SwapClass} (hk : k < 64) (h : cls.getD k none = some c) (d : Dev) :
    classOf (each (List.range 64) (classRound cls) d) k = some c :=
  each_establishes (fun d => classOf d k = some c) (List.mem_range.2 hk) (classOf_classRound_same h)
    (fun d j hd => by
      by_cases hj : k = j
      · exact hj ▸ classOf_classRound_same h d
      · exact (classOf_classRound_ne hj d).trans hd) d

/-- A SWAP in Ready arms the swap and gives every slot its class; aborted entries and wakes leave both. -/
theorem swap_of_ready {origin : Nat} {new : Plan} (h : d.flp.st = .ready) (hs : d.shadowPlan = some new) :
    flpPart (d.swap origin) =
        (d.plan, some new, d.store, { d.flp with st := .armed, result := 0, origin := origin }, d.porch.mainOk) ∧
      ∀ k < 64, ∀ c, d.swapClassOf new k = some c → classOf (d.swap origin) k = some c := by
  unfold Dev.swap
  split
  next new' _ hs' =>
    obtain rfl := Option.some.inj (hs.symm.trans hs')
    extract_lets cls d1 flp d2 d3 d4
    have h1 : flpPart d1 = flpPart d := flpPart_flpTell _ _
    simp only [flpPart, Prod.mk.injEq] at h1
    obtain ⟨hplan, hshadow, hstore, hflp, hmain⟩ := h1
    have h2 : flpPart d2 =
        (d.plan, some new, d.store, { d.flp with st := .armed, result := 0, origin := origin }, d.porch.mainOk) := by
      simp only [flpPart, d2, flp, hplan, hshadow, hstore, hflp, hmain, hs]
    have h3 : flpPart d3 = flpPart d2 := flpPart_each _ _ _ (flpPart_classRound cls)
    have h4 : flpPart d4 = flpPart d3 := flpPart_each _ _ _ fun _ _ => by simp
    refine ⟨(flpPart_each _ _ _ fun _ _ => by simp).trans (h4.trans (h3.trans h2)), fun k hk c hc => ?_⟩
    have hcls : cls.getD k none = some c := by simp [cls, List.getD, hk, hc]
    have hk4 : classOf d4 k = classOf d3 k := classOf_each k _ _ (fun d n => by
      split
      · exact classOf_abortEntry d k n _
      · rfl) d3
    exact (classOf_each k _ _ (fun d n => classOf_startWake d k n) d4).trans (hk4.trans (classOf_rounds hk hcls d2))
  next hno => exact absurd hs (hno new h)

/-! ### CANCEL (R91) -/

theorem cancel_of_other {origin : Nat} (h1 : d.flp.st ≠ .ready) (h2 : d.flp.st ≠ .armed) (h3 : d.flp.st ≠ .draining) :
    d.cancel origin = d := by
  simp [Dev.cancel, h1, h2, h3]

/-- A swap that is given up: Idle, and the shadow slot and its register set are empty. -/
theorem setsPart_cancel {origin : Nat} (h : d.flp.st = .ready ∨ d.flp.st = .armed ∨ d.flp.st = .draining) :
    setsPart (d.cancel origin) = (d.plan, none, [], { d.flp with st := .idle, result := 0, origin := origin }) := by
  rw [Dev.cancel, if_pos (by simpa [or_assoc] using h)]
  refine (setsPart_lateMainFall _).trans ((setsPart_of_flpPart (flpPart_undrain _)).trans ?_)
  have hpart := flpPart_flpTell (d.flpEmpty 0) (.floorplanCmd 3 0)
  simp only [flpPart, Prod.mk.injEq] at hpart
  obtain ⟨hplan, hshadow, hstore, hflp, -⟩ := hpart
  simp only [setsPart, hplan, hshadow, hstore, hflp]
  rfl

/-! ### START_ROOM (R92) -/

section
variable {id origin : Nat}

theorem startRoomCmd_of_swapping (h : d.flp.st = .draining ∨ d.flp.st = .swapping) : d.startRoomCmd id origin = d.flpResult 0x31 := by
  rw [Dev.startRoomCmd, if_pos (by simpa using h)]

/-- The device with the result of a START_ROOM. -/
def startResult (d : Dev) (result origin : Nat) : Dev := { d with flp := { d.flp with result := result, origin := origin } }

section
variable (h1 : d.flp.st ≠ .draining) (h2 : d.flp.st ≠ .swapping)
include h1 h2

theorem startRoomCmd_of_no_room (hs : d.slotOf id = none) : d.startRoomCmd id origin = startResult d 0x33 origin := by
  have hs' : ({ d with flp := { d.flp with origin := origin } } : Dev).slotOf id = none := hs
  rw [Dev.startRoomCmd, if_neg (by simp [h1, h2])]
  simp only [hs']
  rfl

variable {slot : Nat} (hs : d.slotOf id = some slot)
include hs

/-- A room that is there: running already, held for a loss, or held for AUTOSTART = 0, when it starts at the next boundary. -/
theorem startRoomCmd_of_room : d.startRoomCmd id origin =
    if (d.room slot).phase != .held then startResult d 0 origin
    else if (d.room slot).reason != 7 then startResult d 0x34 origin
    else ((startResult d 0 origin).flpTell (.floorplanCmd 5 id)).modRoom slot (fun r =>
      { r with phase := .starting, readyAt := nextPkg d.clk.tb, reason := 0 }) := by
  have hs' : ({ d with flp := { d.flp with origin := origin } } : Dev).slotOf id = some slot := hs
  rw [Dev.startRoomCmd, if_neg (by simp [h1, h2])]
  simp only [hs']
  rfl

theorem startRoomCmd_of_running (hp : (d.room slot).phase ≠ .held) : d.startRoomCmd id origin = startResult d 0 origin := by
  rw [startRoomCmd_of_room h1 h2 hs, if_pos (by simpa using hp)]

theorem startRoomCmd_of_lost (hp : (d.room slot).phase = .held) (hr : (d.room slot).reason ≠ 7) :
    d.startRoomCmd id origin = startResult d 0x34 origin := by
  rw [startRoomCmd_of_room h1 h2 hs, if_neg (by simpa using hp), if_pos (by simpa using hr)]

theorem startRoomCmd_of_held (hp : (d.room slot).phase = .held) (hr : (d.room slot).reason = 7) :
    (d.startRoomCmd id origin).flp = { d.flp with result := 0, origin := origin } ∧
      ∀ k, (d.startRoomCmd id origin).room k = if k = slot then
        { d.room k with phase := .starting, readyAt := nextPkg d.clk.tb, reason := 0 } else d.room k := by
  rw [startRoomCmd_of_room h1 h2 hs, if_neg (by simpa using hp), if_neg (by simpa using hr), Laws.modRoom_eq, room_flpTell]
  refine ⟨?_, fun k => ?_⟩
  · exact congrArg (fun p => p.2.2.2.1) (flpPart_flpTell (startResult d 0 origin) (.floorplanCmd 5 id))
  · rw [Laws.room_setRoom, room_flpTell]
    split_ifs with hk
    · subst hk; rfl
    · rfl

end

end

/-! ### The statement -/

section
variable {s : State} {core : Nat} {D : Dev}

/-- A command that ends with a result of its own. -/
theorem fails_of_eq {i : Instr} {X : Dev} {result : Nat} (h : Answers (exec i s) s X) (hX : X = D.flpResult result) :
    Answers (exec i s) s { D with flp := { D.flp with result := result } } := by
  rwa [hX] at h

/-- What LOAD and REVERT leave once an image is in the shadow slot. -/
theorem validates_of_eq {i : Instr} {X : Dev} {image : List Byte} {reverting : Bool} (h : Answers (exec i s) s X)
    (hX : X = D.flpShadow image 0 reverting) :
    ∃ X : Dev, Answers (exec i s) s X ∧ X.store = { D.store with shadow := image } ∧ X.shadowPlan = none ∧
      X.flp = { D.flp with st := .validating, result := 0, origin := 0, reverting := reverting } ∧ X.plan = D.plan := by
  have hpart := flpPart_flpShadow D image 0 reverting
  simp only [flpPart, Prod.mk.injEq] at hpart
  obtain ⟨hplan, hshadow, hstore, hflp, -⟩ := hpart
  exact ⟨_, hX ▸ h, hstore, hshadow, hflp, hplan⟩

end

/-- Settles O35: FLP_CMD by who writes it, then each command by the state it meets. -/
theorem floorplanByTheKeeper : Obligations.FloorplanByTheKeeper := by
  unfold Obligations.FloorplanByTheKeeper
  intro s core D h a f src len own fails
  refine ⟨fun ha i hi => ?_, fun ha id val => ⟨?_, ?_⟩, fun hk hid => ?_⟩
  · have hother {v : Nat} (hv : v < 2 ^ 32) := flpCore_answers_of_other h ha hv
    simp only [List.mem_cons, List.not_mem_nil, or_false] at hi
    rcases hi with rfl | rfl | rfl | rfl
    · exact hother (v := 1) (by decide)
    · exact hother (v := 2) (by decide)
    · exact hother (v := 3) (by decide)
    · exact hother (v := 4) (by decide)
  · exact flpCore_answers_of_other h ha (v := 5 + id % 256 * 2 ^ 24) (by omega)
  · exact flpCore_answers_of_other h ha val.isLt
  have hcmd {v : Nat} (hv : v < 2 ^ 32) := flpCore_answers h hk hid hv
  have hload : Answers (exec (.load (.core core)) s) s (D.flpOwn Dev.loadKeeper) := hcmd (v := 1) (by decide)
  have hswap : Answers (exec (.swap (.core core)) s) s (D.flpOwn (fun d => d.swap 0)) := hcmd (v := 2) (by decide)
  have hcancel : Answers (exec (.cancel (.core core)) s) s (D.cancel 0) := hcmd (v := 3) (by decide)
  have hrevert : Answers (exec (.revert (.core core)) s) s (D.revert 0) := hcmd (v := 4) (by decide)
  have hstart (id : Nat) (hlt : id < 256) : Answers (exec (.startRoom (.core core) id) s) s (D.startRoomCmd id 0) := by
    rw [← flpCmd_start hlt]
    exact hcmd (v := 5 + id % 256 * 2 ^ 24) (by omega)
  have hsrc : D.flpSource D.flp.src D.flp.bytes = D.flpSource src len := by
    rw [show D.flp.bytes = len from clamp_eq (by decide) _]; rfl
  refine ⟨fun hown => ⟨?_, ?_⟩, fun hst => ⟨fun hown => ?_, ?_⟩, fun hst hown => ?_, fun h1 h2 h3 => ?_, fun val hval => ?_,
    fun hst hown hs => ?_, fun hst hown hs => ?_, fun hst => ?_, fun new hst hown hs => ?_, fun hst => ?_, fun id hlt => ⟨fun hst => ?_, ?_⟩⟩
  · exact fails_of_eq hload (flpOwn_of_other hown _)
  · exact fails_of_eq hswap (flpOwn_of_other hown _)
  · exact fails_of_eq hload ((flpOwn_of_own hown _).trans (loadKeeper_of_not_idle hst))
  · exact fails_of_eq hrevert (revert_of_not_idle hst)
  · exact fails_of_eq hswap ((flpOwn_of_own hown _).trans (swap_of_not_ready hst))
  · rw [cancel_of_other h1 h2 h3] at hcancel
    exact hcancel
  · exact fails_of_eq (i := .badCommand core val) (hcmd val.isLt) (flpCmd_unassigned hval)
  · have hX := (flpOwn_of_own hown _).trans (loadKeeper_of_source hst (hsrc.trans hs))
    rw [show D.flp.bytes = len from clamp_eq (by decide) _] at hX
    exact validates_of_eq hload hX
  · rw [flpOwn_of_own hown, loadKeeper_of_no_source hst (hsrc.trans hs)] at hload
    exact hload
  · exact validates_of_eq hrevert (revert_of_idle hst)
  · rw [flpOwn_of_own hown] at hswap
    obtain ⟨hpart, hclass⟩ := swap_of_ready (origin := 0) hst hs
    simp only [flpPart, Prod.mk.injEq] at hpart
    obtain ⟨hplan, hshadow, -, hflp, -⟩ := hpart
    exact ⟨_, hswap, hflp, hplan, hshadow, hclass⟩
  · have hpart := setsPart_cancel (origin := 0) hst
    simp only [setsPart, Prod.mk.injEq] at hpart
    obtain ⟨hplan, hshadow, hstore, hflp⟩ := hpart
    exact ⟨_, hcancel, hflp, hshadow, hstore, hplan⟩
  · exact fails_of_eq (hstart id hlt) (startRoomCmd_of_swapping hst)
  · intro h1 h2
    have hstart := hstart id hlt
    refine ⟨fun hs => ?_, fun slot hs => ⟨fun hp => ?_, fun hp hr => ?_, fun hp hr => ?_⟩⟩
    · rw [startRoomCmd_of_no_room h1 h2 hs] at hstart
      exact ⟨_, hstart, rfl, fun k => rfl⟩
    · rw [startRoomCmd_of_running h1 h2 hs hp] at hstart
      exact ⟨_, hstart, rfl, fun k => rfl⟩
    · rw [startRoomCmd_of_lost h1 h2 hs hp hr] at hstart
      exact ⟨_, hstart, rfl, fun k => rfl⟩
    · obtain ⟨hflp, hroom⟩ := startRoomCmd_of_held (origin := 0) h1 h2 hs hp hr
      exact ⟨_, hstart, hflp, hroom⟩

end Sys2Proof.Proofs.FlpCommands
end

section
/-!
SUPPORT. Fields of the PSW under an update, the register that a number names in each window, and what a written result and the step past
an instruction leave (R101, R102, R195).
-/
namespace Sys2Proof.Proofs.Windows
open Sys2Proof Sys2Proof.Machine Sys2Proof.Laws

variable {x y z : Ctx}

/-! ### Fields of the PSW -/

theorem field_eq_of_testBit {a b hi lo : Nat} (h : ∀ i, lo ≤ i → i ≤ hi → a.testBit i = b.testBit i) : field a hi lo = field b hi lo := by
  refine Nat.eq_of_testBit_eq fun i => ?_
  rw [testBit_field, testBit_field]
  by_cases hi' : i < hi + 1 - lo
  · rw [h (lo + i) (by omega) (by omega)]
  · simp [hi']

/-- A field of the PSW is read back as written. -/
theorem field_setPsw_same {hi lo : Nat} (v : Nat) (h : lo ≤ hi) (hh : hi < 32) :
    field (x.setPsw hi lo v).psn hi lo = v % 2 ^ (hi + 1 - lo) := by
  refine Nat.eq_of_testBit_eq fun i => ?_
  rw [testBit_field, testBit_setPsw _ _ _ _ _ h hh, Nat.testBit_mod_two_pow]
  by_cases hi' : i < hi + 1 - lo
  · rw [if_pos ⟨by omega, by omega⟩, Nat.add_sub_cancel_left]
  · simp [hi']

/-- A bit of the PSW outside the field written. -/
theorem testBit_setPsw_apart {hi lo i : Nat} (v : Nat) (h : lo ≤ hi) (hh : hi < 32) (hi' : i < lo ∨ hi < i) :
    (x.setPsw hi lo v).psn.testBit i = x.psn.testBit i := by
  rw [testBit_setPsw _ _ _ _ _ h hh, if_neg (by omega)]

/-- A field of the PSW beside the one written. -/
theorem field_setPsw_apart {hi lo hi' lo' : Nat} (v : Nat) (h : lo ≤ hi) (hh : hi < 32) (hsep : hi' < lo ∨ hi < lo') :
    field (x.setPsw hi lo v).psn hi' lo' = field x.psn hi' lo' :=
  field_eq_of_testBit fun _ _ _ => testBit_setPsw_apart v h hh (by omega)

theorem cwp_lt (x : Ctx) : x.cwp < 16 := Nat.mod_lt _ (by decide)

/-! ### Which register a number names (R100, R102) -/

theorem phys_of_common {n : Nat} (h : n < 8) : x.phys n = n := if_pos h

theorem get_zero (x : Ctx) : x.get 0 = 0 := rfl

/-- Only C0 is physical register 0. -/
theorem phys_ne_zero {n : Nat} (h : n ≠ 0) : x.phys n ≠ 0 := by
  unfold Ctx.phys trapBase ringReg
  split_ifs <;> omega

/-- The E registers of a window outside a trap are the caller's A registers, its H and A registers its own block. -/
theorem phys_of_e (h : x.tw = false) {n : Nat} (h8 : 8 ≤ n) (h16 : n < 16) : x.phys n = ringReg (x.cwp + 15) n := by
  rw [Ctx.phys, if_neg (by omega), h, if_neg (by decide), if_pos h16]

theorem phys_of_block (h : x.tw = false) {n : Nat} (h16 : 16 ≤ n) : x.phys n = ringReg x.cwp (n - 16) := by
  rw [Ctx.phys, if_neg (by omega), h, if_neg (by decide), if_neg (by omega)]

/-- Level, trap window and current window fix what every number names. -/
theorem phys_congr (htw : y.tw = x.tw) (hcwp : y.cwp = x.cwp) (hpl : y.pl = x.pl) (n : Nat) : y.phys n = x.phys n := by
  unfold Ctx.phys
  rw [htw, hcwp, hpl]

theorem get_congr {m n : Nat} (hphys : y.phys m = x.phys n) (hregs : y.regs = x.regs) : y.get m = x.get n := by
  unfold Ctx.get Ctx.getP
  rw [hphys, hregs]

/-! ### Rotation (R102, Table 6.2) -/

theorem cwp_setCwp (v : Nat) : (x.setPsw 11 8 v).cwp = v % 16 := field_setPsw_same v (by decide) (by decide)

theorem tw_setCwp (v : Nat) : (x.setPsw 11 8 v).tw = x.tw := testBit_setPsw_apart v (by decide) (by decide) (by decide)

theorem pl_setCwp (v : Nat) : (x.setPsw 11 8 v).pl = x.pl := field_setPsw_apart v (by decide) (by decide) (by decide)

theorem cwp_rotate (x : Ctx) : x.rotate.cwp = (x.cwp + 1) % 16 := (cwp_setCwp _).trans (Nat.mod_mod _ _)

theorem tw_rotate (x : Ctx) : x.rotate.tw = x.tw := tw_setCwp _

theorem pl_rotate (x : Ctx) : x.rotate.pl = x.pl := pl_setCwp _

theorem cwp_rotateBack (x : Ctx) : x.rotateBack.cwp = (x.cwp + 15) % 16 := (cwp_setCwp _).trans (Nat.mod_mod _ _)

/-- The E registers after a rotation forward are the A registers before it. -/
theorem phys_rotate_e (h : x.tw = false) {k : Nat} (hk : k < 8) : x.rotate.phys (8 + k) = x.phys (24 + k) := by
  rw [phys_of_e ((tw_rotate x).trans h) (by omega) (by omega), phys_of_block h (by omega), cwp_rotate]
  unfold ringReg
  omega

theorem phys_rotate_rotateBack (x : Ctx) (n : Nat) : x.rotate.rotateBack.phys n = x.phys n := by
  have hlt := cwp_lt x
  have hcwp : x.rotate.rotateBack.cwp = x.cwp := by
    rw [cwp_rotateBack, cwp_rotate]
    omega
  exact phys_congr ((tw_setCwp _).trans (tw_rotate x)) hcwp ((pl_setCwp _).trans (pl_rotate x)) n

theorem get_rotate_e (h : x.tw = false) {k : Nat} (hk : k < 8) : x.rotate.get (8 + k) = x.get (24 + k) :=
  get_congr (phys_rotate_e h hk) rfl

theorem get_rotate_common (x : Ctx) {k : Nat} (hk : k < 8) : x.rotate.get k = x.get k :=
  get_congr ((phys_of_common hk).trans (phys_of_common hk).symm) rfl

theorem get_rotate_rotateBack (x : Ctx) (n : Nat) : x.rotate.rotateBack.get n = x.get n :=
  get_congr (phys_rotate_rotateBack x n) rfl

theorem rd_rotate_rotateBack (h : x.rd ≤ 14) : x.rotate.rotateBack.rd = x.rd := by
  change min 15 (x.rd + 1) - 1 = x.rd
  omega

/-! ### Written results (R101, R195) -/

theorem getP_wr (x : Ctx) (n p : Nat) (v : Word) : (x.wr n v).getP p = if p = x.phys n ∧ p ≠ 0 then v else x.getP p :=
  getP_setP_ite (x.cancelReg (x.phys n)) _ _ _

theorem psn_wr (x : Ctx) (n : Nat) (v : Word) : (x.wr n v).psn = x.psn :=
  congrArg BitVec.toNat (psw_setP (x.cancelReg (x.phys n)) _ _)

theorem getP_wrFlags (x : Ctx) (r : Res) (p : Nat) : (x.wrFlags r).getP p = x.getP p := by
  rw [wrFlags_eq, getP_putFlag, getP_putFlag, getP_putFlag, getP_putFlag]
  rfl

theorem getP_wrRes (x : Ctx) (n : Nat) (r : Res) (p : Nat) :
    (x.wrRes n r).getP p = if p = x.phys n ∧ p ≠ 0 then BitVec.ofNat 64 r.val else x.getP p := by
  rw [Ctx.wrRes, getP_wrFlags, getP_wr]

theorem flags_wrRes (x : Ctx) (n : Nat) (r : Res) :
    (x.wrRes n r).n = r.n.getD x.n ∧ (x.wrRes n r).z = r.z.getD x.z ∧ (x.wrRes n r).c = r.c.getD x.c ∧ (x.wrRes n r).v = r.v.getD x.v := by
  simp only [Ctx.n, Ctx.z, Ctx.c, Ctx.v, bit, Ctx.wrRes, testBit_wrFlags, psn_wr]
  exact ⟨rfl, rfl, rfl, rfl⟩

/-- Above the flags a result leaves the PSW as it is. -/
theorem testBit_wrRes {i : Nat} (x : Ctx) (n : Nat) (r : Res) (h : 4 ≤ i) : (x.wrRes n r).psn.testBit i = x.psn.testBit i := by
  rw [Ctx.wrRes, testBit_wrFlags, psn_wr, if_neg (by omega), if_neg (by omega), if_neg (by omega), if_neg (by omega)]

/-- Two changes of the PSW and nothing else, one after the other. -/
theorem onlyPsw_trans (h : y = { x with psw := y.psw }) (h' : z = { y with psw := z.psw }) : z = { x with psw := z.psw } := by
  calc
    z = { y with psw := z.psw } := h'
    _ = { x with psw := z.psw } := by rw [h]

theorem wrFlags_frame (x : Ctx) (r : Res) : x.wrFlags r = { x.cancelFlags r with psw := (x.wrFlags r).psw } := by
  rw [wrFlags_eq]
  exact onlyPsw_trans (onlyPsw_trans (onlyPsw_trans (putFlag_frame _ _ _) (putFlag_frame _ _ _)) (putFlag_frame _ _ _)) (putFlag_frame _ _ _)

theorem wr_frame (x : Ctx) (n : Nat) (v : Word) : x.wr n v = { x with regs := (x.wr n v).regs, long := (x.wr n v).long } := by
  unfold Ctx.wr Ctx.wrP Ctx.setP
  split <;> rfl

theorem wrRes_frame (x : Ctx) (n : Nat) (r : Res) :
    x.wrRes n r = { x with regs := (x.wrRes n r).regs, psw := (x.wrRes n r).psw, long := (x.wrRes n r).long } := by
  rw [Ctx.wrRes, wrFlags_frame, Ctx.cancelFlags, wr_frame]

/-- A write to C0 is discarded. -/
theorem getP_wr_zero (x : Ctx) (v : Word) (p : Nat) : (x.wr 0 v).getP p = x.getP p := by
  rw [getP_wr, if_neg fun h => h.2 h.1]

theorem getP_wrRes_zero (x : Ctx) (r : Res) (p : Nat) : (x.wrRes 0 r).getP p = x.getP p := by
  rw [Ctx.wrRes, getP_wrFlags, getP_wr_zero]

/-- A written register is read back by its number, but for C0. -/
theorem get_wr_same (x : Ctx) (n : Nat) (v : Word) : (x.wr n v).get n = if n = 0 then 0 else v := by
  have hphys : (x.wr n v).phys n = x.phys n := by
    have h := psn_wr x n v
    exact phys_congr (congrArg (bit · 12) h) (congrArg (field · 11 8) h) (congrArg (field · 5 4) h) n
  rw [Ctx.get, hphys, getP_wr]
  split_ifs with h h0 h0
  · subst h0; exact absurd rfl h.2
  · rfl
  · subst h0; rfl
  · exact absurd ⟨rfl, phys_ne_zero h0⟩ h

/-! ### Going past an instruction -/

theorem testBit_past {i : Nat} (x : Ctx) (next : Word) (h : i < 16 ∨ 21 < i) : (x.past next).psn.testBit i = x.psn.testBit i :=
  testBit_setPsw_apart (x := x) 0 (by decide) (by decide) h

theorem flags_past (x : Ctx) (next : Word) :
    (x.past next).n = x.n ∧ (x.past next).z = x.z ∧ (x.past next).c = x.c ∧ (x.past next).v = x.v :=
  ⟨testBit_past x next (by decide), testBit_past x next (by decide), testBit_past x next (by decide), testBit_past x next (by decide)⟩

theorem getP_past (x : Ctx) (next : Word) (p : Nat) : (x.past next).getP p = x.getP p := rfl

theorem get_past (x : Ctx) (next : Word) (n : Nat) : (x.past next).get n = x.get n :=
  get_congr (phys_congr (testBit_past x next (by decide))
    (field_setPsw_apart (x := x) 0 (by decide) (by decide) (by decide))
    (field_setPsw_apart (x := x) 0 (by decide) (by decide) (by decide)) n) rfl

/-- Settles O8: accessors and rotation by the physical register that each number names, a result by what it writes and its frame. -/
theorem registersAndWindows : Obligations.RegistersAndWindows := by
  unfold Obligations.RegistersAndWindows
  refine ⟨fun x p q v => ⟨getP_zero x, fun hp => ?_, fun hq => ?_, setP_zero x v⟩, fun x htw => ?_, fun x n r => ?_⟩
  · rw [getP_setP_ite, if_pos ⟨rfl, hp⟩]
  · rw [getP_setP_ite, if_neg fun h => hq h.1]
  · exact ⟨fun k hk => get_rotate_e htw hk, fun k hk => get_rotate_common x hk, cwp_rotate x, rfl, fun n _ => get_rotate_rotateBack x n,
      rd_rotate_rotateBack⟩
  · obtain ⟨hn, hz, hc, hv⟩ := flags_wrRes x n r
    exact ⟨getP_wrRes x n r, hn, hz, hc, hv, fun i hi => testBit_wrRes x n r hi, wrRes_frame x n r⟩

end Sys2Proof.Proofs.Windows
end

section
/-!
SUPPORT. The integer instructions of one cycle, and what is left of them when they name C0 (R101, R137, R138).
-/
namespace Sys2Proof.Proofs.ConstantZero
open Sys2Proof Sys2Proof.Machine Sys2Proof.Safety Sys2Proof.Laws Sys2Proof.Proofs.Windows

/-- The integer instructions of one cycle that write RD, with their opcodes and operations (R137, R138). -/
def aluRows : List ((Nat → Form → Instr) × Nat × (Nat → Nat → Nat → Res)) :=
  [(.add, 0x00, aluAdd), (.sub, 0x01, aluSub), (.and, 0x02, aluAnd), (.or, 0x03, aluOr), (.xor, 0x04, aluXor),
    (.andn, 0x05, aluAndn), (.shl, 0x08, aluShl), (.shr, 0x09, aluShr), (.sar, 0x0A, aluSar), (.rol, 0x0B, aluRol),
    (.ror, 0x0C, aluRor), (.mov, 0x0D, aluMov), (.neg, 0x0E, aluNeg), (.not, 0x0F, aluNot), (.mul, 0x10, aluMul),
    (.mulh, 0x11, aluMulh), (.mulhu, 0x12, aluMulhu)]

/-- Each of them is the shared operation with its own opcode and function. -/
theorem exec_aluRow {r : (Nat → Form → Instr) × Nat × (Nat → Nat → Nat → Res)} (hr : r ∈ aluRows) (core : Nat) (f : Form) (s : State) :
    exec (r.1 core f) s = onDev (fun d => d.alu core r.2.1 f r.2.2) s := by
  unfold aluRows at hr
  fin_cases hr <;> rfl

/-- What the shared operation leaves: RD and the flags written, the next PC (R137, R138). -/
theorem alu_answers {s : State} {core op : Nat} {f : Form} {e : Env} (g : Nat → Nat → Nat → Res)
    (h : s.dev.enter core .prim op f none f.src2 false anyLevel = .ok e) :
    ∃ X : Dev, Answers (onDev (fun d => d.alu core op f g) s) s (X.afterIssue core none) ∧
      WritesOnly e.d e.cx ((e.x.wrRes f.rdn (g f.width.bits e.ops.1 e.ops.2)).past e.next) X :=
  onDev_put (room := fun _ => none) h _ _ rfl

/-- Settles O56: a result into C0 writes its flags alone, whichever operation gives it. -/
theorem constantZeroRegister : Obligations.ConstantZeroRegister := by
  unfold Obligations.ConstantZeroRegister
  refine ⟨get_zero, getP_wr_zero, fun x f next hs hk hp hrs => ?_, fun r hr s core f e hrd h => ?_⟩
  · simp [Ctx.ea, hs, hk, hp, hrs, get_zero]
  · obtain ⟨X, hX, hw⟩ := alu_answers r.2.2 h
    obtain ⟨hn, hz, hc, hv⟩ := flags_wrRes e.x f.rdn (r.2.2 f.width.bits e.ops.1 e.ops.2)
    obtain ⟨hn', hz', hc', hv'⟩ := flags_past (e.x.wrRes f.rdn (r.2.2 f.width.bits e.ops.1 e.ops.2)) e.next
    refine ⟨X, exec_aluRow (r := r) hr core f s ▸ hX, fun p => ?_, ?_, ?_⟩
    · rw [hw.ctx, getP_past, hrd, getP_wrRes_zero]
    · rw [hw.ctx]
      rfl
    · simp only [hw.ctx, hn', hz', hc', hv', hn, hz, hc, hv]

end Sys2Proof.Proofs.ConstantZero
end

section
/-!
SUPPORT. Bank registers: what a write keeps of a value, and which set each operation reaches (R108, R109).
-/
namespace Sys2Proof.Proofs.Banks
open Sys2Proof Sys2Proof.Machine Sys2Proof.Safety Sys2Proof.Laws Sys2Proof.Proofs.Windows

variable {x : Ctx}

/-! ### One set for each world -/

theorem bk_of_secure (h : x.secure = true) (n : Nat) : x.bk n = Sparse.get 0 x.bkS n := by rw [Ctx.bk, if_pos h]

theorem bk_of_normal (h : x.secure = false) (n : Nat) : x.bk n = Sparse.get 0 x.bkN n := by rw [Ctx.bk, h, if_neg (by decide)]

theorem secure_setBk (x : Ctx) (n : Nat) (v : Word) : (x.setBk n v).secure = x.secure := by
  unfold Ctx.secure Ctx.psn
  rw [psw_setBk]

/-- A bank register is read back without its low sixteen bits, and the others of the world stay. -/
theorem bk_setBk (x : Ctx) (n m : Nat) (v : Word) :
    (x.setBk n v).bk m = if m = n then v &&& 0xFFFFFFFFFFFF0000 else x.bk m := by
  cases h : x.secure
  · rw [bk_of_normal ((secure_setBk x n v).trans h), bk_of_normal h, ← Sparse_get_set]
    simp [Ctx.setBk, h]
  · rw [bk_of_secure ((secure_setBk x n v).trans h), bk_of_secure h, ← Sparse_get_set]
    simp [Ctx.setBk, h]

/-- Writing a bank register leaves the other world's set. -/
theorem bkN_setBk_of_secure (n : Nat) (v : Word) (h : x.secure = true) : (x.setBk n v).bkN = x.bkN := by
  simp [Ctx.setBk, h]

theorem bkS_setBk_of_normal (n : Nat) (v : Word) (h : x.secure = false) : (x.setBk n v).bkS = x.bkS := by
  simp [Ctx.setBk, h]

theorem secure_past (x : Ctx) (next : Word) : (x.past next).secure = x.secure := testBit_past x next (by decide)

theorem bk_past (x : Ctx) (next : Word) (n : Nat) : (x.past next).bk n = x.bk n := by
  rw [Ctx.bk, secure_past]
  rfl

theorem translate_of_not_canonical {va : Word} (d : Dev) (w : Who) (k : AccKind) (h : canonical va = false) :
    d.translate w va k = .error (1, 0) := by
  simp [Dev.translate, h]

/-! ### The bank registers at context start and between the worlds -/

theorem bk_of_empty (hN : x.bkN = []) (hS : x.bkS = []) (n : Nat) : x.bk n = 0 := by
  rw [Ctx.bk, hN, hS, ite_self]
  rfl

theorem bk_startCtx (d : Dev) (cx entry n : Nat) : ((d.startCtx cx entry).ctx cx).bk n = 0 := by
  simp only [Dev.startCtx, ctx_setCtx_same]
  exact bk_of_empty rfl rfl n

theorem bkN_wr (x : Ctx) (n : Nat) (v : Word) : (x.wr n v).bkN = x.bkN := bkN_setP (x.cancelReg (x.phys n)) _ _

theorem bkS_wr (x : Ctx) (n : Nat) (v : Word) : (x.wr n v).bkS = x.bkS := bkS_setP (x.cancelReg (x.phys n)) _ _

theorem secure_setPsw_apart {hi lo : Nat} (v : Nat) (h : lo ≤ hi) (hh : hi < 32) (h6 : 6 < lo ∨ hi < 6) :
    (x.setPsw hi lo v).secure = x.secure := testBit_setPsw_apart v h hh h6

theorem secure_setPsw (x : Ctx) (b : Bool) : (x.setPsw 6 6 (b2n b)).secure = b := testBit_setPsw_bit x 6 6 b (by decide)

/-- SWCALL leaves the context in the secure world (R240). -/
theorem secure_called (x : Ctx) (next : Word) : (x.called next).secure = true := by
  unfold Ctx.called
  rw [secure_setPsw_apart _ (by decide) (by decide) (by decide), secure_setPsw_apart _ (by decide) (by decide) (by decide),
    secure_setPsw_apart _ (by decide) (by decide) (by decide)]
  exact secure_setPsw _ true

/-- SWRET leaves it in the normal world (R242). -/
theorem secure_returned (x : Ctx) : x.returned.secure = false := by
  unfold Ctx.returned
  rw [secure_setPsw_apart _ (by decide) (by decide) (by decide)]
  exact secure_setPsw _ false

theorem banks_called (x : Ctx) (next : Word) : (x.called next).bkN = x.bkN ∧ (x.called next).bkS = x.bkS :=
  ⟨(bkN_wr _ _ _).trans (bkN_wr _ _ _), (bkS_wr _ _ _).trans (bkS_wr _ _ _)⟩

theorem banks_returned (x : Ctx) : x.returned.bkN = x.bkN ∧ x.returned.bkS = x.bkS := ⟨rfl, rfl⟩

/-- Settles O57: the two rows by what they write into their own context, the rest by what each operation does to the two sets. -/
theorem bankRegisters : Obligations.BankRegisters := by
  unfold Obligations.BankRegisters
  refine ⟨fun s core f e h => ?_, fun s core f e h => ?_, fun d w va k h => translate_of_not_canonical d w k h, fun x n => rfl,
    fun x n v => ⟨bkN_setBk_of_secure n v, bkS_setBk_of_normal n v⟩, fun x next => ?_, fun x => ?_, bk_startCtx⟩
  · obtain ⟨X, hX, hw⟩ := onDev_put (room := fun _ => none) h (fun e => e.put (e.x.setBk f.raw (e.x.get f.rsn))) _ rfl
    refine ⟨X, hX, fun n => ?_⟩
    rw [hw.ctx, bk_past, bk_setBk]
  · obtain ⟨X, hX, hw⟩ := onDev_put (room := fun _ => none) h (fun e => e.put (e.x.wr f.rdn (e.x.bk f.raw))) _ rfl
    refine ⟨X, hX, ?_⟩
    rw [hw.ctx, get_past, get_wr_same]
  · obtain ⟨hN, hS⟩ := banks_called x next
    exact ⟨hN, hS, secure_called x next⟩
  · obtain ⟨hN, hS⟩ := banks_returned x
    exact ⟨hN, hS, secure_returned x⟩

end Sys2Proof.Proofs.Banks
end

section
/-!
SUPPORT. What `Dev.enter` answers, check by check: the body is reached, or an exception of Table 5.2 stands in the instruction's place; and
what the debug unit does at the end of an instruction (R128, R129, R135, R486, R488).
-/
namespace Sys2Proof.Proofs.Issuing
open Sys2Proof Sys2Proof.Machine Sys2Proof.Laws

/-- Bytes that the fetch of an instruction asks for (R129): the opcode alone of an instruction without operands. -/
def fetchLen (m : OpMap) (op : Nat) (f : Form) : Nat := if ((opRule m op).map OpRule.bare).getD false then m.bytes else f.length m.bytes

section
variable {d d1 d2 : Dev} {core : Nat} {m : OpMap} {op : Nat} {f : Form} {room : Option Nat} {srcs : List Nat} {flags : Bool}
  {priv : Ctx → Bool} {slot : Nat} {ps : List Piece} {w : Dev}

/-- What a body works with when the instruction of `core` reaches it in device `d2`, its tagged sources written. -/
def bodyEnv (d2 : Dev) (core slot cx : Nat) (m : OpMap) (op : Nat) (f : Form) (srcs : List Nat) (flags : Bool) : Env :=
  let x := ((d2.ctx cx).settle srcs flags).phantom (btKindOf m op f)
  { d := d2.setCtx cx x, core := core, slot := slot, cx := cx, x := x, f := f, w := (d2.setCtx cx x).who core,
    next := x.pc + BitVec.ofNat 64 (fetchLen m op f) }

/-! ### Where issue begins -/

theorem enter_of_ready (hw : w = d.wake (core / 4)) (hslot : d.canIssue core = some slot) (hbp : w.bpHit core = none)
    (hcause : firstCause m op f room = none) (hfetch : w.fetch core (fetchLen m op f) = .ok d1 ps)
    (hpriv : priv (w.ctx (w.curCtx core)) = true)
    (htag : d1.tagWait core slot (w.curCtx core) (srcs.map (w.ctx (w.curCtx core)).phys) = some d2) :
    d.enter core m op f room srcs flags priv = .ok (bodyEnv d2 core slot (w.curCtx core) m op f srcs flags) := by
  subst hw
  unfold fetchLen at hfetch
  simp only [Dev.enter, hslot, hbp, hcause, hfetch, hpriv, htag, Bool.not_true, Bool.false_eq_true, if_false]
  rfl

theorem ready_of_enter {e : Env} (hw : w = d.wake (core / 4)) (h : d.enter core m op f room srcs flags priv = .ok e) :
    ∃ slot d1 ps d2, d.canIssue core = some slot ∧ w.bpHit core = none ∧ firstCause m op f room = none ∧
      w.fetch core (fetchLen m op f) = .ok d1 ps ∧ priv (w.ctx (w.curCtx core)) = true ∧
      d1.tagWait core slot (w.curCtx core) (srcs.map (w.ctx (w.curCtx core)).phys) = some d2 ∧
      e = bodyEnv d2 core slot (w.curCtx core) m op f srcs flags := by
  subst hw
  unfold Dev.enter at h
  split at h
  · cases h
  · next slot hslot =>
    dsimp only at h
    split at h
    · cases h
    · next hbp =>
      split at h
      · split at h <;> cases h
      · next hcause =>
        split at h
        · cases h
        · cases h
        · next d1 ps hfetch =>
          split at h
          · cases h
          · next hpriv =>
            split at h
            · cases h
            · next d2 htag =>
              cases h
              exact ⟨slot, d1, ps, d2, hslot, hbp, hcause, hfetch, by simpa using hpriv, htag, rfl⟩

/-! ### Exceptions in place of an instruction -/

theorem enter_of_cause_fetched {i code : Nat} (hw : w = d.wake (core / 4)) (hslot : d.canIssue core = some slot) (hbp : w.bpHit core = none)
    (hcause : firstCause m op f room = some (i, code)) (hfetch : w.fetch core (i + 1) = .ok d1 ps) :
    d.enter core m op f room srcs flags priv = .error (d1.raiseExc core { cls := 1, code := code }) := by
  subst hw
  simp only [Dev.enter, hslot, hbp, hcause, hfetch]

theorem enter_of_cause_faulted {i code : Nat} {x : Exc} (hw : w = d.wake (core / 4)) (hslot : d.canIssue core = some slot)
    (hbp : w.bpHit core = none) (hcause : firstCause m op f room = some (i, code)) (hfetch : w.fetch core (i + 1) = .exc x) :
    d.enter core m op f room srcs flags priv = .error ((w.faultWalk core x).raiseExc core x) := by
  subst hw
  simp only [Dev.enter, hslot, hbp, hcause, hfetch]

theorem enter_of_faulted {x : Exc} (hw : w = d.wake (core / 4)) (hslot : d.canIssue core = some slot) (hbp : w.bpHit core = none)
    (hcause : firstCause m op f room = none) (hfetch : w.fetch core (fetchLen m op f) = .exc x) :
    d.enter core m op f room srcs flags priv = .error ((w.faultWalk core x).raiseExc core x) := by
  subst hw
  unfold fetchLen at hfetch
  simp only [Dev.enter, hslot, hbp, hcause, hfetch]

theorem enter_of_not_permitted (hw : w = d.wake (core / 4)) (hslot : d.canIssue core = some slot) (hbp : w.bpHit core = none)
    (hcause : firstCause m op f room = none) (hfetch : w.fetch core (fetchLen m op f) = .ok d1 ps)
    (hpriv : priv (w.ctx (w.curCtx core)) = false) :
    d.enter core m op f room srcs flags priv = .error (d1.raiseExc core { cls := 2 }) := by
  subst hw
  unfold fetchLen at hfetch
  simp only [Dev.enter, hslot, hbp, hcause, hfetch, hpriv, Bool.not_false, if_true]

/-- An instruction that does not reach its body leaves the device as `enter` gives it. -/
theorem issue_of_left (h : d.enter core m op f room srcs flags priv = .error d1) (body : Env → IRes) :
    d.issue core m op f room srcs flags priv body = d1 := by
  rw [Dev.issue, h]

end

/-! ### The end of an instruction -/

theorem afterIssue_of_not_stepping {d : Dev} {core : Nat} (h : (d.core core).stepping = none) :
    d.afterIssue core none = d.setCore core { d.core core with bpSkip := false } := by
  have hends : (d.setCore core { d.core core with bpSkip := false }).stepEnds core = false := by
    rw [Dev.stepEnds, core_setCore_same, h]
  rw [Dev.afterIssue, modCore_eq, hends, if_neg (by decide)]

/-- Settles O3: the body is reached exactly where no earlier check answers; each check that answers gives its own exception. -/
theorem issuingAnInstruction : Obligations.IssuingAnInstruction := by
  unfold Obligations.IssuingAnInstruction
  refine ⟨fun d core m op f room srcs flags priv e => ⟨ready_of_enter rfl, ?_⟩,
    fun d core m op f room srcs flags priv body slot hslot hbp =>
      ⟨fun i code d1 ps hcause hfetch => issue_of_left (enter_of_cause_fetched rfl hslot hbp hcause hfetch) body,
        fun i code x hcause hfetch => issue_of_left (enter_of_cause_faulted rfl hslot hbp hcause hfetch) body,
        fun x hcause hfetch => issue_of_left (enter_of_faulted rfl hslot hbp hcause hfetch) body,
        fun d1 ps hcause hfetch hpriv => issue_of_left (enter_of_not_permitted rfl hslot hbp hcause hfetch hpriv) body⟩,
    fun d core => ⟨afterIssue_of_not_stepping, fun b => rfl⟩⟩
  rintro ⟨slot, d1, ps, d2, hslot, hbp, hcause, hfetch, hpriv, htag, rfl⟩
  exact enter_of_ready rfl hslot hbp hcause hfetch hpriv htag

end Sys2Proof.Proofs.Issuing
end

section
/-!
SUPPORT. Integer instructions beside the one-cycle ones that write RD: comparisons, the operations that enter a station, and their
completion (R137, R138, R193 to R195).
-/
namespace Sys2Proof.Proofs.Integers
open Sys2Proof Sys2Proof.Machine Sys2Proof.Safety Sys2Proof.Laws Sys2Proof.Proofs.Windows Sys2Proof.Proofs.ConstantZero

section
variable {s : State} {core op : Nat} {f : Form} {e : Env}

/-- A comparison leaves every register (R137). -/
theorem aluFlags_answers (g : Nat → Nat → Nat → Res) (h : s.dev.enter core .prim op f none f.src2 false anyLevel = .ok e) :
    ∃ X : Dev, Answers (onDev (fun d => d.aluFlags core op f g) s) s (X.afterIssue core none) ∧
      WritesOnly e.d e.cx ((e.x.wrFlags (g f.width.bits e.ops.1 e.ops.2)).past e.next) X ∧ ∀ p, (X.ctx e.cx).getP p = e.x.getP p := by
  obtain ⟨X, hX, hw⟩ := onDev_put (room := fun _ => none) h
    (fun e => e.put (e.x.wrFlags (g f.width.bits e.ops.1 e.ops.2))) _ rfl
  exact ⟨X, hX, hw, fun p => by rw [hw.ctx, getP_past, getP_wrFlags]⟩

theorem aluLong_answers (g : Nat → Nat → Nat → Res) (h : s.dev.enter core .prim op f none f.src2 false anyLevel = .ok e) :
    ∃ X : Dev, Answers (onDev (fun d => d.aluLong core op f g) s) s (X.afterIssue core none) ∧
      WritesOnly e.d e.cx ((e.x.issueLong f.rdn (g f.width.bits e.ops.1 e.ops.2)).past e.next) X :=
  onDev_put (room := fun _ => none) h _ _ rfl

theorem fpLong_answers (g : Word → Word → Word) (h : s.dev.enter core .prim op f none [f.rdn, f.rsn] false anyLevel = .ok e) :
    ∃ X : Dev, Answers (onDev (fun d => d.fpLong core op f g) s) s (X.afterIssue core none) ∧
      WritesOnly e.d e.cx ((e.x.issueLong f.rdn { val := (g (e.x.get f.rdn) (e.x.get f.rsn)).toNat }).past e.next) X :=
  onDev_put (room := fun _ => none) h _ _ rfl

end

/-! ### The completion of a long operation (R194, R195) -/

theorem getP_finishLong (x : Ctx) (o : LongOp) (p : Nat) :
    (x.finishLong o).getP p = if o.wr = true ∧ p = o.dst ∧ p ≠ 0 then o.val else x.getP p := by
  rw [finishLong_eq, getP_putFlag, getP_putFlag, getP_putFlag, getP_putFlag]
  cases o.wr
  · simp
  · simpa using getP_setP_ite x o.dst p o.val

theorem testBit_finishLong (x : Ctx) (o : LongOp) (i : Nat) :
    (x.finishLong o).psn.testBit i =
      if i = 0 then o.v.getD (x.psn.testBit i) else if i = 1 then o.c.getD (x.psn.testBit i)
      else if i = 2 then o.z.getD (x.psn.testBit i) else if i = 3 then o.n.getD (x.psn.testBit i) else x.psn.testBit i := by
  have hpsn : (if o.wr then x.setP o.dst o.val else x).psn = x.psn := by
    split_ifs
    · exact congrArg BitVec.toNat (psw_setP x _ _)
    · rfl
  simp only [finishLong_eq, testBit_putFlag _ _ _ _ (show (0 : Nat) < 32 by decide), testBit_putFlag _ _ _ _ (show (1 : Nat) < 32 by decide),
    testBit_putFlag _ _ _ _ (show (2 : Nat) < 32 by decide), testBit_putFlag _ _ _ _ (show (3 : Nat) < 32 by decide), hpsn]
  by_cases h0 : i = 0
  · subst h0; rfl
  by_cases h1 : i = 1
  · subst h1; rfl
  by_cases h2 : i = 2
  · subst h2; rfl
  · simp only [h0, h1, h2, if_false]

theorem flags_finishLong (x : Ctx) (o : LongOp) :
    (x.finishLong o).n = o.n.getD x.n ∧ (x.finishLong o).z = o.z.getD x.z ∧ (x.finishLong o).c = o.c.getD x.c ∧
      (x.finishLong o).v = o.v.getD x.v := by
  simp only [Ctx.n, Ctx.z, Ctx.c, Ctx.v, bit, testBit_finishLong]
  exact ⟨rfl, rfl, rfl, rfl⟩

theorem longOpComplete_answers {s : State} {ctx idx : Nat} {o : LongOp} (h : (s.dev.ctx ctx).long[idx]? = some o) :
    Answers (exec (.longOpComplete ctx idx) s) s
      (s.dev.setCtx ctx { (s.dev.ctx ctx).finishLong o with long := (s.dev.ctx ctx).long.eraseIdx idx }) := by
  change execLongOpComplete ctx idx s = _
  simp only [execLongOpComplete, onDev, h]

/-- Settles O4: each family by its shared operation, the completion by the flags and the register that it still owes. -/
theorem integerInstructionsComplete : Obligations.IntegerInstructionsComplete := by
  unfold Obligations.IntegerInstructionsComplete
  refine ⟨fun r hr s core f e h => exec_aluRow (r := r) hr core f s ▸ alu_answers r.2.2 h, fun r hr s core f e h => ?_,
    fun r hr s core f e h => ?_, fun r hr s core f e h => ?_, fun s ctx idx o h => ?_⟩
  · fin_cases hr <;> exact aluFlags_answers _ h
  · fin_cases hr <;> exact aluLong_answers _ h
  · fin_cases hr <;> exact fpLong_answers _ h
  · exact ⟨longOpComplete_answers h, getP_finishLong _ o, flags_finishLong _ o⟩

end Sys2Proof.Proofs.Integers
end

section
/-!
SUPPORT. Bit operations, conditional moves and LEA: each puts one context (R140, R141, Tables 5.5 and 5.6).
-/
namespace Sys2Proof.Proofs.BitRows
open Sys2Proof Sys2Proof.Machine Sys2Proof.Safety Sys2Proof.Laws

theorem bitOp_answers {s : State} {core op : Nat} {f : Form} {e : Env} (z : Bool) (g : Nat → Nat → Nat)
    (h : s.dev.enter core .prim op f none [f.rsn] false anyLevel = .ok e) :
    ∃ X : Dev, Answers (onDev (fun d => d.bitOp core op f z g) s) s (X.afterIssue core none) ∧
      WritesOnly e.d e.cx ((e.x.wrRes f.rdn
        { val := g f.width.bits (f.width.cut (e.x.get f.rsn))
          z := if z then some (g f.width.bits (f.width.cut (e.x.get f.rsn)) == 0) else none }).past e.next) X :=
  onDev_put (room := fun _ => none) h _ _ rfl

/-- Settles O6: the one-source operations by the operation they share, the others each by the context that it puts. -/
theorem bitOperationsAndMovesComplete : Obligations.BitOperationsAndMovesComplete := by
  unfold Obligations.BitOperationsAndMovesComplete
  refine ⟨fun r hr s core f e h => ?_, fun s core f e h => onDev_put (room := fun _ => none) h _ _ rfl,
    fun s core f e h => onDev_put (room := fun _ => none) h _ _ rfl, fun s core f e h => onDev_put (room := fun _ => none) h _ _ rfl,
    fun s core f e h => onDev_put (room := fun _ => none) h _ _ rfl, fun s core cc f e h => onDev_put (room := fun _ => none) h _ _ rfl,
    fun s core cc f e h => onDev_put (room := fun _ => none) h _ _ rfl, fun s core f e h => onDev_put (room := fun _ => none) h _ _ rfl⟩
  fin_cases hr <;> exact bitOp_answers _ _ h

end Sys2Proof.Proofs.BitRows
end

section
/-!
SUPPORT. The elements of a block transfer: the registers of the mask with their slots, and the order in which LDM takes them (R157, R158).
-/
namespace Sys2Proof.Proofs.BlockOrder
open Sys2Proof Sys2Proof.Machine

/-! ### Set bits of a mask, ascending -/

theorem bitsOf_succ (x n : Nat) : bitsOf x (n + 1) = bitsOf x n ++ if x.testBit n then [n] else [] := by
  unfold bitsOf
  rw [List.range_succ, List.filter_append]
  cases h : x.testBit n <;> simp [h]

/-- The position of a set bit is the number of set bits below it. -/
theorem getElem?_bitsOf (x n k r : Nat) : (bitsOf x n)[k]? = some r ↔ r < n ∧ x.testBit r = true ∧ k = (bitsOf x r).length := by
  induction n with
  | zero => simp [bitsOf]
  | succ n ih =>
    rw [bitsOf_succ]
    by_cases hk : k < (bitsOf x n).length
    · rw [List.getElem?_append_left hk, ih]
      constructor
      · rintro ⟨hr, hb, hp⟩
        exact ⟨by omega, hb, hp⟩
      · rintro ⟨hr, hb, hp⟩
        refine ⟨lt_of_le_of_ne (by omega) ?_, hb, hp⟩
        rintro rfl
        omega
    · have hnone : ¬ (r < n ∧ x.testBit r = true ∧ k = (bitsOf x r).length) := by
        rw [← ih, List.getElem?_eq_none (by omega)]
        simp
      rw [List.getElem?_append_right (by omega)]
      cases hb : x.testBit n
      · refine ⟨by simp, fun ⟨hr, hbr, hp⟩ => (hnone ⟨lt_of_le_of_ne (by omega) ?_, hbr, hp⟩).elim⟩
        rintro rfl
        rw [hb] at hbr
        cases hbr
      · simp only [if_true, List.getElem?_singleton]
        constructor
        · intro h
          split_ifs at h with h0
          cases h
          exact ⟨Nat.lt_succ_self _, hb, by omega⟩
        · rintro ⟨hr, hbr, hp⟩
          have hrn : r = n := by
            by_contra hne
            exact hnone ⟨by omega, hbr, hp⟩
          subst hrn
          rw [if_pos (by omega)]

theorem mem_bitsOf {x n r : Nat} : r ∈ bitsOf x n ↔ r < n ∧ x.testBit r = true := by
  unfold bitsOf
  rw [List.mem_filter, List.mem_range]

theorem pairwise_bitsOf (x n : Nat) : (bitsOf x n).Pairwise (· < ·) := List.pairwise_lt_range.filter _

/-! ### The elements -/

/-- An element is a register of the mask, in the slot of its position. -/
theorem getElem?_blockElems (mask : Nat) (base : Word) (k r : Nat) (va : Word) :
    (blockElems mask base)[k]? = some (r, va) ↔ (bitsOf mask 32)[k]? = some r ∧ va = base + BitVec.ofNat 64 (8 * k) := by
  unfold blockElems
  rw [List.getElem?_zip_eq_some, List.getElem?_map]
  refine and_congr_right fun h => ?_
  obtain ⟨hlt, -⟩ := List.getElem?_eq_some_iff.1 h
  simp [List.getElem?_range hlt, eq_comm]

theorem fst_blockElems (mask : Nat) (base : Word) : (blockElems mask base).map Prod.fst = bitsOf mask 32 :=
  List.map_fst_zip (by simp)

theorem pairwise_blockElems (mask : Nat) (base : Word) : ((blockElems mask base).map Prod.fst).Pairwise (· < ·) :=
  fst_blockElems mask base ▸ pairwise_bitsOf mask 32

/-! ### The order of LDM (R158) -/

theorem ldmElems_perm (mask : Nat) (base : Word) (rs : Nat) : (ldmElems mask base rs).Perm (blockElems mask base) := by
  unfold ldmElems
  refine (List.Perm.of_eq ?_).trans (List.filter_append_perm (fun p => p.1 != rs) _)
  simp [bne]

theorem ldmElems_pairwise (mask : Nat) (base : Word) (rs : Nat) :
    ((ldmElems mask base rs).map Prod.fst).Pairwise (fun a b => (a < b ∨ b = rs) ∧ a ≠ rs) := by
  have hasc := List.pairwise_map.1 (pairwise_blockElems mask base)
  unfold ldmElems
  refine List.pairwise_map.2 (List.pairwise_append.2 ⟨?_, ?_, fun p hp q hq => ?_⟩)
  · refine (hasc.filter _).imp_of_mem fun hp _ hlt => ⟨.inl hlt, ?_⟩
    simpa using (List.mem_filter.1 hp).2
  · refine (hasc.filter _).imp_of_mem fun hp hq hlt => ?_
    have hpr := (List.mem_filter.1 hp).2
    have hqr := (List.mem_filter.1 hq).2
    simp only [beq_iff_eq] at hpr hqr
    omega
  · exact ⟨.inr (by simpa using (List.mem_filter.1 hq).2), by simpa using (List.mem_filter.1 hp).2⟩

/-- Settles O17: an element's position is the number of registers of the mask below it; LDM parts the ascending list at its base register. -/
theorem blockTransferOrder : Obligations.BlockTransferOrder := by
  unfold Obligations.BlockTransferOrder
  refine ⟨fun mask base r va h => ?_, fun mask base r hr hb => ?_, pairwise_blockElems,
    fun mask base rs => ⟨ldmElems_perm mask base rs, ldmElems_pairwise mask base rs⟩⟩
  · obtain ⟨k, hk⟩ := List.mem_iff_getElem?.1 h
    obtain ⟨hbit, hva⟩ := (getElem?_blockElems mask base k r va).1 hk
    obtain ⟨hr, hb, hpos⟩ := (getElem?_bitsOf mask 32 k r).1 hbit
    exact ⟨hr, hb, by rw [hva, hpos]; rfl⟩
  · have hmem : r ∈ (blockElems mask base).map Prod.fst := fst_blockElems mask base ▸ mem_bitsOf.2 ⟨hr, hb⟩
    obtain ⟨⟨_, va⟩, hp, rfl⟩ := List.mem_map.1 hmem
    exact ⟨va, hp⟩

end Sys2Proof.Proofs.BlockOrder
end

section
/-!
SUPPORT. What an instruction answers by how its body comes out: a trap in its place, an exception, a wait, or the next device with the PC
in place (R136).
-/
namespace Sys2Proof.Proofs.Outcomes
open Sys2Proof Sys2Proof.Machine Sys2Proof.Safety Sys2Proof.Laws

variable {s : State} {core : Nat} {m : OpMap} {op : Nat} {f : Form} {srcs : List Nat} {flags : Bool} {priv : Ctx → Bool} {e : Env}

/-- A window trap or a double fault in the place of the instruction. -/
theorem trap_answers (h : s.dev.enter core m op f none srcs flags priv = .ok e) (body : Env → IRes) {D : Dev} (hb : body e = .trap D) :
    Answers (onDev (fun d => d.issue core m op f none srcs flags priv body) s) s (D.afterIssue core none) :=
  (enter_ok h).sameCore ▸ onDev_leave (room := fun _ => none) h body hb

theorem placed_answers (h : s.dev.enter core m op f none srcs flags priv = .ok e) (body : Env → IRes) {D : Dev}
    {acc : List (Word × Nat × AccKind)} (hb : body e = .placed D acc) :
    Answers (onDev (fun d => d.issue core m op f none srcs flags priv body) s) s (D.afterIssue core (D.dataHit core e.x acc)) :=
  (enter_ok h).sameCore ▸ onDev_leave (room := fun _ => none) h body hb

theorem pause_answers (h : s.dev.enter core m op f none srcs flags priv = .ok e) (body : Env → IRes) {D : Dev} (hb : body e = .pause D) :
    Answers (onDev (fun d => d.issue core m op f none srcs flags priv body) s) s D :=
  onDev_leave (room := fun _ => none) h body hb

theorem exc_answers (h : s.dev.enter core m op f none srcs flags priv = .ok e) (body : Env → IRes) {x : Exc} (hb : body e = .exc x) :
    Answers (onDev (fun d => d.issue core m op f none srcs flags priv body) s) s ((e.d.faultWalk core x).raiseExc core x) :=
  (enter_ok h).sameCore ▸ onDev_leave (room := fun _ => none) h body hb

/-- A body that is done in device `D` with its context changed by `g`. -/
theorem doneMod_answers (h : s.dev.enter core m op f none srcs flags priv = .ok e) (body : Env → IRes) {D : Dev} {g : Ctx → Ctx}
    {acc : List (Word × Nat × AccKind)} (hb : body e = .done (D.modCtx e.cx g) e.next false acc) :
    ∃ X : Dev, Answers (onDev (fun d => d.issue core m op f none srcs flags priv body) s) s
        (X.afterIssue core (X.dataHit core e.x acc)) ∧ WritesOnly D e.cx ((g (D.ctx e.cx)).past e.next) X := by
  obtain ⟨X, hX, hw⟩ := onDev_done (room := fun _ => none) h body _ acc hb
  rw [modCtx_eq, ctx_setCtx_same] at hw
  exact ⟨X, hX, writesOnly_of_setCtx hw⟩

/-- A body that goes on at the next instruction in device `D`. -/
theorem finish_answers (h : s.dev.enter core m op f none srcs flags priv = .ok e) (body : Env → IRes) {D : Dev}
    (hb : body e = e.finish D) :
    ∃ X : Dev, Answers (onDev (fun d => d.issue core m op f none srcs flags priv body) s) s (X.afterIssue core none) ∧
      WritesOnly D e.cx ((D.ctx e.cx).past e.next) X :=
  onDev_done (room := fun _ => none) h body D [] hb

/-- A body that keeps BLK as its context has it. -/
theorem doneKeep_answers (h : s.dev.enter core m op f none srcs flags priv = .ok e) (body : Env → IRes) {y : Ctx} {pc : Word}
    (hb : body e = .done (e.d.setCtx e.cx y) pc true []) :
    ∃ X, Answers (onDev (fun d => d.issue core m op f none srcs flags priv body) s) s (X.afterIssue core none) ∧
      WritesOnly e.d e.cx { y with pc := pc } X := by
  obtain ⟨X, hleave, hw⟩ := leave_done (d := s.dev.wake (core / 4)) (m := m) (op := op) (e := e) (e.d.setCtx e.cx y) pc true []
  rw [if_pos rfl, ctx_setCtx_same] at hw
  refine ⟨X, ?_, writesOnly_of_setCtx hw⟩
  have hX := onDev_leave (room := fun _ => none) h body hb
  rw [hleave, (enter_ok h).sameCore] at hX
  exact hX

end Sys2Proof.Proofs.Outcomes
end

section
/-!
SUPPORT. Control transfers: what the predictor learns and what a rotation marks touch nothing else, and each transfer by where it goes
(R150, R151, R207, R208, R210, Tables 5.9 and 6.2).
-/
namespace Sys2Proof.Proofs.Transfers
open Sys2Proof Sys2Proof.Machine Sys2Proof.Safety Sys2Proof.Laws Sys2Proof.Proofs.Outcomes

/-! ### The predictor -/

theorem resolve_frame (x : Ctx) (k : BtKind) (taken : Bool) (target : Word) :
    x.resolve k taken target = { x with btable := (x.resolve k taken target).btable } := by
  unfold Ctx.resolve Ctx.setBtWays
  split
  · rfl
  · dsimp only
    split
    · rfl
    · split <;> rfl

theorem pushRet_frame (x : Ctx) (a : Word) : x.pushRet a = { x with rstack := (x.pushRet a).rstack } := by
  unfold Ctx.pushRet
  split <;> rfl

theorem popRet_frame (x : Ctx) : x.popRet = { x with rstack := x.popRet.rstack } := by
  unfold Ctx.popRet
  split <;> rfl

/-- A call and a return change the return stack and the branch table (R207, R208). -/
theorem resolve_pushRet_frame (x : Ctx) (a : Word) (k : BtKind) (taken : Bool) (target : Word) :
    (x.pushRet a).resolve k taken target =
      { x with btable := ((x.pushRet a).resolve k taken target).btable, rstack := ((x.pushRet a).resolve k taken target).rstack } := by
  rw [resolve_frame, pushRet_frame]

theorem resolve_popRet_frame (x : Ctx) (k : BtKind) (taken : Bool) (target : Word) :
    x.popRet.resolve k taken target =
      { x with btable := (x.popRet.resolve k taken target).btable, rstack := (x.popRet.resolve k taken target).rstack } := by
  rw [resolve_frame, popRet_frame]

/-! ### Tagged operations that a rotation marks (R518) -/

section
variable {d d' A D X : Dev}

theorem onlyTags_markRotated (d : Dev) (cx : Nat) : OnlyTags d (d.markRotated cx) := by
  unfold Dev.markRotated
  split
  · refine ⟨fun c => ?_, fun r => ?_, rfl⟩
    · rw [modCluster_eq, cluster_setCluster]
      split_ifs with hc
      · subst hc; rfl
      · rfl
    · rw [modCluster_eq, unit_room_setCluster]
  · exact OnlyTags.refl d

theorem guessed_setCtx (e : Env) (d : Dev) (y : Ctx) (pc : Word) : e.guessed (d.setCtx e.cx y) pc = (e.guessed d pc).setCtx e.cx y := by
  unfold Env.guessed
  split <;> rfl

theorem onlyTags_guessed (e : Env) (pc : Word) (h : OnlyTags d d') : OnlyTags (e.guessed d pc) (e.guessed d' pc) := by
  unfold Env.guessed
  split
  · refine ⟨fun c => ?_, fun r => ?_, ?_⟩
    · rw [modCore_eq, unit_cluster_setCore, modCore_eq, unit_cluster_setCore, ← h.clusters c]
    · rw [modCore_eq, unit_room_setCore, modCore_eq, unit_room_setCore, ← h.rooms r]
    · rw [h.rest]
      rfl
  · exact h

/-- Writing over a context written just before, with tagged operations changed in between. -/
theorem writesOnly_of_onlyTags_setCtx {cx : Nat} {y z : Ctx} (h : OnlyTags (A.setCtx cx y) D) (hw : WritesOnly D cx z X) :
    WritesOnly A cx z X := by
  refine writesOnly_of_setCtx (y := y) ⟨hw.ctx, fun j hj => ?_, fun c => ?_, fun r => ?_, ?_⟩
  · rw [hw.others j hj, h.ctx]
  · rw [hw.clusters c, h.clusters c]
  · rw [hw.rooms r, h.rooms r]
  · rw [hw.rest, h.rest]

end

/-! ### Where a transfer goes -/

section
variable {s : State} {core : Nat} {m : OpMap} {op : Nat} {f : Form} {room : Option Nat} {srcs : List Nat} {flags : Bool}
  {priv : Ctx → Bool} {e : Env}

theorem target_of_enter {d : Dev} (h : d.enter core m op f room srcs flags priv = .ok e) :
    e.target = if f.am = 6 then e.next + f.imm else e.x.get f.rsn + f.imm := by
  have hmode : (f.mode == amMP) = decide (f.am = 6) := by
    rw [Bool.eq_iff_iff, beq_iff_eq, decide_eq_true_eq]
    exact BitVec.toNat_inj (y := (6 : BitVec 3))
  rw [Env.target, (enter_ok h).form, hmode]
  simp only [decide_eq_true_eq]

/-- A transfer that goes on at `pc` with its context as `y`, in a device where only tagged operations have changed besides. -/
theorem transfer_answers (h : s.dev.enter core m op f none srcs flags priv = .ok e) (body : Env → IRes) (D : Dev) (y : Ctx) (pc : Word)
    (hD : OnlyTags (e.d.setCtx e.cx y) D) (hb : body e = .done (e.guessed D pc) pc false []) :
    ∃ X, Answers (onDev (fun d => d.issue core m op f none srcs flags priv body) s) s (X.afterIssue core none) ∧
      WritesOnly (e.guessed e.d pc) e.cx (y.past pc) X := by
  obtain ⟨X, hX, hw⟩ := onDev_done_at h body _ pc hb
  have htags := onlyTags_guessed e pc hD
  rw [guessed_setCtx] at htags
  rw [guessed_ctx, hD.ctx, ctx_setCtx_same] at hw
  exact ⟨X, hX, writesOnly_of_onlyTags_setCtx htags hw⟩

theorem bcc_taken {cc : Nat} (h : cc = 14 ∨ e.x.cond cc = true) : ∃ k, e.bcc cc = e.jump e.x k e.target := by
  unfold Env.bcc
  by_cases h14 : cc = 14
  · exact ⟨.direct, by rw [if_pos (beq_iff_eq.2 h14)]⟩
  · exact ⟨.conditional, by rw [if_neg (by simpa using h14), if_pos (h.resolve_left h14)]⟩

theorem bcc_not_taken {cc : Nat} (h : ¬ (cc = 14 ∨ e.x.cond cc = true)) :
    e.bcc cc = e.finish (e.guessed (e.d.setCtx e.cx (e.x.resolve .conditional false e.target)) e.next) := by
  obtain ⟨h14, hc⟩ := not_or.1 h
  unfold Env.bcc
  rw [if_neg (by simpa using h14), if_neg hc]

theorem callw_of_trapWindow (h : e.x.tw = true) : e.callw = e.call := by
  unfold Env.callw
  exact if_pos h

theorem callw_of_full (h : e.x.tw = false) (hrd : e.x.rd = 15) :
    e.callw = .trap (if e.x.sc e.x.secure == 0xFFFFF then e.d.doubleFault e.core 0x9 0 ((e.x.cwp + 1) % 16) 0
      else e.d.windowTrap e.core ((e.x.cwp + 1) % 16) 0 false) := by
  unfold Env.callw
  simp only [h, hrd]
  rfl

theorem callw_of_room (h : e.x.tw = false) (hrd : e.x.rd ≠ 15) :
    e.callw = .done (e.guessed ((e.d.setCtx e.cx (((e.x.rotate.wr (rH 0) e.next).pushRet e.next).resolve
      (xferKind e.f) true e.target)).markRotated e.cx) e.target) e.target false [] := by
  unfold Env.callw
  simp only [h, beq_eq_false_iff_ne.2 hrd]
  rfl

theorem needsFill_iff (x : Ctx) : x.needsFill = true ↔ x.rd ≤ 1 ∧ 0 < x.sc x.secure := by
  simp [Ctx.needsFill]

theorem retw_of_trapWindow (h : e.x.tw = true) : e.retw = e.ret := by
  unfold Env.retw
  exact if_pos h

theorem retw_of_fill (h : e.x.tw = false) (hf : e.x.needsFill = true) : e.retw = .trap (e.d.windowTrap e.core e.x.fillBlock 1 true) := by
  unfold Env.retw
  simp only [h, hf]
  rfl

theorem retw_of_room (h : e.x.tw = false) (hf : ¬ e.x.needsFill = true) :
    e.retw = .done (e.guessed ((e.d.setCtx e.cx (e.x.popRet.resolve .ret true (e.x.get (rH 0))).rotateBack).markRotated e.cx)
      (e.x.get (rH 0))) (e.x.get (rH 0)) false [] := by
  unfold Env.retw
  simp only [h, hf]
  rfl

end

/-! ### CALL and RET, also as CALLW and RETW in a trap window (Table 6.2) -/

section
variable {s : State} {core : Nat} {m : OpMap} {op : Nat} {f : Form} {srcs : List Nat} {flags : Bool} {priv : Ctx → Bool} {e : Env}

theorem call_answers (h : s.dev.enter core m op f none srcs flags priv = .ok e) (body : Env → IRes) (hb : body e = e.call) :
    ∃ (X : Dev) (y : Ctx), Answers (onDev (fun d => d.issue core m op f none srcs flags priv body) s) s (X.afterIssue core none) ∧
      WritesOnly (e.guessed e.d e.target) e.cx (y.past e.target) X ∧
      y = { e.x.wr (rH 0) e.next with btable := y.btable, rstack := y.rstack } := by
  obtain ⟨X, hX, hw⟩ := onDev_jump h body _ _ _ hb
  exact ⟨X, _, hX, hw, resolve_pushRet_frame _ _ _ _ _⟩

theorem ret_answers (h : s.dev.enter core m op f none srcs flags priv = .ok e) (body : Env → IRes) (hb : body e = e.ret) :
    ∃ (X : Dev) (y : Ctx), Answers (onDev (fun d => d.issue core m op f none srcs flags priv body) s) s (X.afterIssue core none) ∧
      WritesOnly (e.guessed e.d (e.x.get (rH 0))) e.cx (y.past (e.x.get (rH 0))) X ∧
      y = { e.x with btable := y.btable, rstack := y.rstack } := by
  obtain ⟨X, hX, hw⟩ := onDev_jump h body _ _ _ hb
  exact ⟨X, _, hX, hw, resolve_popRet_frame _ _ _ _⟩

end

/-! ### The statement -/

section
variable {s : State} {core : Nat} {f : Form} {e : Env}

theorem bcc_answers {cc : BitVec 4} (h : s.dev.enter core .prim (0x30 + cc.toNat) f none [] (cc.toNat != 14) anyLevel = .ok e) :
    let pc := if cc.toNat = 14 ∨ e.x.cond cc.toNat = true then e.target else e.next
    ∃ (X : Dev) (y : Ctx), Answers (exec (.bcc core cc f) s) s (X.afterIssue core none) ∧
      WritesOnly (e.guessed e.d pc) e.cx (y.past pc) X ∧ y = { e.x with btable := y.btable } := by
  intro pc
  by_cases ht : cc.toNat = 14 ∨ e.x.cond cc.toNat = true
  · have hpc : pc = e.target := if_pos ht
    obtain ⟨k, hk⟩ := bcc_taken ht
    obtain ⟨X, hX, hw⟩ := onDev_jump h (fun e => e.bcc cc.toNat) _ _ _ hk
    rw [hpc]
    exact ⟨X, _, hX, hw, resolve_frame _ _ _ _⟩
  · have hpc : pc = e.next := if_neg ht
    obtain ⟨X, hX, hw⟩ := transfer_answers h (fun e => e.bcc cc.toNat) _ _ _ (OnlyTags.refl _) (bcc_not_taken ht)
    rw [hpc]
    exact ⟨X, _, hX, hw, resolve_frame _ _ _ _⟩

theorem callw_answers_of_room (h : s.dev.enter core .prim 0x42 f none (Form.xferSrc f) false anyLevel = .ok e) (htw : e.x.tw = false)
    (hrd : e.x.rd ≠ 15) :
    ∃ (X : Dev) (y : Ctx), Answers (exec (.callw core f) s) s (X.afterIssue core none) ∧
      WritesOnly (e.guessed e.d e.target) e.cx (y.past e.target) X ∧
      y = { e.x.rotate.wr (rH 0) e.next with btable := y.btable, rstack := y.rstack } := by
  obtain ⟨X, hX, hw⟩ := transfer_answers h Env.callw _ _ _ (onlyTags_markRotated _ _) (callw_of_room htw hrd)
  exact ⟨X, _, hX, hw, resolve_pushRet_frame _ _ _ _ _⟩

theorem retw_answers_of_room (h : s.dev.enter core .prim 0x44 {} none [rH 0] false anyLevel = .ok e) (htw : e.x.tw = false)
    (hf : ¬ e.x.needsFill = true) :
    ∃ (X : Dev) (y : Ctx), Answers (exec (.retw core) s) s (X.afterIssue core none) ∧
      WritesOnly (e.guessed e.d (e.x.get (rH 0))) e.cx (y.rotateBack.past (e.x.get (rH 0))) X ∧
      y = { e.x with btable := y.btable, rstack := y.rstack } := by
  obtain ⟨X, hX, hw⟩ := transfer_answers h Env.retw _ _ _ (onlyTags_markRotated _ _) (retw_of_room htw hf)
  exact ⟨X, _, hX, hw, resolve_popRet_frame _ _ _ _⟩

end

/-- Settles O14: each transfer by the jump that it makes, a rotation that needs room first by the trap in its place. -/
theorem transfersComplete : Obligations.TransfersComplete := by
  unfold Obligations.TransfersComplete
  refine ⟨fun s core cc f e h => bcc_answers h, fun s core f e h => ?_, fun s core f e h => call_answers h Env.call rfl,
    fun s core e h => ret_answers h Env.ret rfl, fun s core m op f room srcs flags priv e h => target_of_enter h, fun s core f e h => ?_,
    fun s core e h => ?_⟩
  · obtain ⟨X, hX, hw⟩ := onDev_jump h (fun e => e.jump e.x (xferKind f) e.target) _ _ _ rfl
    exact ⟨X, _, hX, hw, resolve_frame _ _ _ _⟩
  · have hcore := (enter_ok h).sameCore
    refine ⟨callw_answers_of_room h, fun htw hrd hsc => ?_, fun htw hrd hsc => ?_,
      fun htw => call_answers h Env.callw (callw_of_trapWindow htw)⟩
    · refine trap_answers h Env.callw ?_
      rw [callw_of_full htw hrd, if_neg (by simpa using hsc), hcore]
    · refine trap_answers h Env.callw ?_
      rw [callw_of_full htw hrd, if_pos (by simpa using hsc), hcore]
  · refine ⟨fun htw hroom => retw_answers_of_room h htw ?_, fun htw hrd hsc => ?_,
      fun htw => ret_answers h Env.retw (retw_of_trapWindow htw)⟩
    · rw [needsFill_iff]
      omega
    · refine trap_answers h Env.retw ?_
      rw [retw_of_fill htw ((needsFill_iff _).2 ⟨hrd, hsc⟩), (enter_ok h).sameCore]

end Sys2Proof.Proofs.Transfers
end

section
/-!
SUPPORT. SYSCALL and ERET: the entry of the service vector, where an ERET goes, and the context that it leaves (R105, R153, R175, R176,
R380).
-/
namespace Sys2Proof.Proofs.ServiceCalls
open Sys2Proof Sys2Proof.Machine Sys2Proof.Safety Sys2Proof.Laws Sys2Proof.Proofs.Windows Sys2Proof.Proofs.Outcomes

/-! ### SYSCALL -/

theorem rd_finishLong (x : Ctx) (o : LongOp) : (x.finishLong o).rd = x.rd := by
  have hset : (if o.wr then x.setP o.dst o.val else x).rd = x.rd := by
    split_ifs
    · exact rd_setP x _ _
    · rfl
  rw [finishLong_eq, putFlag_frame, putFlag_frame, putFlag_frame, putFlag_frame]
  exact hset

theorem rd_settle (x : Ctx) (regs : List Nat) (flags : Bool) : (x.settle regs flags).rd = x.rd := by
  have hfold : ∀ (l : List LongOp) (y : Ctx), (l.foldl Ctx.finishLong y).rd = y.rd := by
    intro l
    induction l with
    | nil => exact fun y => rfl
    | cons o t ih => exact fun y => (ih _).trans (rd_finishLong y o)
  exact hfold _ x

/-- A ring trap in a window with room whose vector can be fetched is taken (R380). -/
theorem ringTrap_taken {d : Dev} {core : Nat} {ent : Entry} {syn va ret : Word}
    (hrd : ((d.settleFlags core).ctx (d.curCtx core)).rd ≤ 14)
    (hheld : (d.settleFlags core).vectorHeld core (((d.settleFlags core).ctx (d.curCtx core)).rotate.ringEntry ent 0 0 0 0) = false)
    (hfetch : ((d.settleFlags core).enterTrap core (((d.settleFlags core).ctx (d.curCtx core)).rotate.ringEntry ent syn va ret
      ((d.settleFlags core).ctx (d.curCtx core)).psw64)).fetchCheck core 1 = none) :
    d.ringTrap core ent syn va ret = .taken ((d.settleFlags core).enterTrap core
      (((d.settleFlags core).ctx (d.curCtx core)).rotate.ringEntry ent syn va ret ((d.settleFlags core).ctx (d.curCtx core)).psw64)) := by
  have hcur : (d.settleFlags core).curCtx core = d.curCtx core := rfl
  unfold Dev.ringTrap
  simp only [hcur, hheld, hrd, Dev.enterRing, hfetch, Bool.false_eq_true, if_false, if_true]

theorem syscall_of_trapWindow {e : Env} (h : e.x.tw = true) : e.syscall = .trap (e.d.doubleFault e.core 8 0 0 0) := by
  unfold Env.syscall
  exact if_pos h

theorem syscall_of_taken {e : Env} {D : Dev} (h : e.x.tw = false)
    (ht : (e.d.setCtx e.cx (e.x.setPsw 21 16 0)).ringTrap e.core (e.x.excEntry 0x1C0)
      (syndrome { cls := 8, number := e.f.raw } e.x.pl 0) 0 e.next = .taken D) :
    e.syscall = .trap D := by
  unfold Env.syscall
  simp only [h, ht]
  rfl

/-! ### Where an ERET goes -/

theorem eret_of_fill {e : Env} (hc : e.chains = none) (htw : e.x.tw = false) (hrd : e.x.rd ≤ 1) (hsc : 0 < e.x.sc e.x.secure) :
    e.eret = .trap (e.d.windowTrap e.core e.x.fillBlock 2 true) := by
  have hfill : (!e.x.tw && e.x.needsFill) = true := by simp [Ctx.needsFill, htw, hrd, hsc]
  simp only [Env.eret, hc, hfill, if_true]

theorem eret_of_room {e : Env} (hc : e.chains = none) (hroom : e.x.tw = true ∨ 2 ≤ e.x.rd ∨ e.x.sc e.x.secure = 0) :
    e.eret = .done (e.d.setCtx e.cx e.x.eretTo) (e.x.get (rH 6)) true [] := by
  have hfill : (!e.x.tw && e.x.needsFill) = false := by
    rcases hroom with h | h | h <;> simp [Ctx.needsFill, h]
    omega
  simp only [Env.eret, hc, hfill, Bool.false_eq_true, if_false]

/-! ### What an ERET takes from H7 -/

section
variable (x : Ctx) (h7 : Nat)

theorem field_eq_div_mod (hi lo : Nat) : field h7 hi lo = h7 / 2 ^ lo % 2 ^ (hi + 1 - lo) := by
  rw [field, Nat.shiftRight_eq_div_pow]

/-- The world that ERET restores: the saved one only at PL2 (R153). -/
def eretSecure : Bool := if x.pl = 2 then h7.testBit 6 else x.secure

/-- The level that ERET restores: no higher than the current one, and PL2 in the secure world alone. -/
def eretLevel : Nat := min (h7 / 16 % 4) (if x.pl = 2 ∧ h7.testBit 6 = false then 1 else x.pl)

theorem eretPsw_eq (hpl : x.pl = 1 ∨ x.pl = 2) :
    x.eretPsw h7 = (((((((x.setPsw 3 0 (field h7 3 0)).setPsw 7 7 (b2n (bit h7 7))).setPsw 29 24 (field h7 29 24)).setPsw 21 16
      (min 32 (field h7 21 16))).setPsw 5 4 (eretLevel x h7)).setPsw 6 6 (b2n (eretSecure x h7)))) := by
  unfold Ctx.eretPsw eretLevel eretSecure bit
  rw [field_eq_div_mod h7 5 4]
  rcases hpl with h | h <;> cases hb : h7.testBit 6 <;> simp [h, min_assoc]

theorem flag_eretPsw (hpl : x.pl = 1 ∨ x.pl = 2) {i : Nat} (hi : i < 4) : (x.eretPsw h7).psn.testBit i = h7.testBit i := by
  rw [eretPsw_eq x h7 hpl, testBit_setPsw_apart _ (by decide) (by decide) (by omega), testBit_setPsw_apart _ (by decide) (by decide) (by omega),
    testBit_setPsw_apart _ (by decide) (by decide) (by omega), testBit_setPsw_apart _ (by decide) (by decide) (by omega),
    testBit_setPsw_apart _ (by decide) (by decide) (by omega), testBit_setPsw _ _ _ _ _ (by decide) (by decide), testBit_field,
    if_pos ⟨by omega, by omega⟩]
  simp [hi]

theorem fields_eretPsw (hpl : x.pl = 1 ∨ x.pl = 2) :
    (x.eretPsw h7).ie = h7.testBit 7 ∧ (x.eretPsw h7).ipl = h7 / 2 ^ 24 % 64 ∧ (x.eretPsw h7).blk = min 32 (h7 / 2 ^ 16 % 64) ∧
      (x.eretPsw h7).secure = eretSecure x h7 ∧ (x.eretPsw h7).pl = eretLevel x h7 ∧ (x.eretPsw h7).cwp = x.cwp ∧
      (x.eretPsw h7).tw = x.tw := by
  have hlevel : eretLevel x h7 < 4 := by
    unfold eretLevel
    omega
  simp only [Ctx.ie, Ctx.ipl, Ctx.blk, Ctx.secure, Ctx.pl, Ctx.cwp, Ctx.tw, bit, eretPsw_eq x h7 hpl]
  simp (disch := decide) only [testBit_setPsw_apart, field_setPsw_apart, field_setPsw_same, testBit_setPsw_bit, field_eq_div_mod h7,
    if_true]
  refine ⟨trivial, ?_, ?_, trivial, ?_, trivial, trivial⟩ <;> omega

theorem eretPsw_writes : ∃ pl secure, x.eretPsw h7 = ((((((x.setPsw 3 0 (field h7 3 0)).setPsw 7 7 (b2n (bit h7 7))).setPsw 29 24
    (field h7 29 24)).setPsw 21 16 (min 32 (field h7 21 16))).setPsw 5 4 pl).setPsw 6 6 secure) := ⟨_, _, rfl⟩

theorem regs_eretPsw : (x.eretPsw h7).regs = x.regs := by
  obtain ⟨pl, secure, h⟩ := eretPsw_writes x h7
  rw [h, regs_setPsw, regs_setPsw, regs_setPsw, regs_setPsw, regs_setPsw, regs_setPsw]

end

/-! ### The context that an ERET leaves -/

section
variable (x : Ctx)

theorem psw_eretCopies (secure : Bool) (h4 h5 : Word) : (x.eretCopies secure h4 h5).psw = x.psw := by
  unfold Ctx.eretCopies
  simp

theorem regs_eretCopies (secure : Bool) (h4 h5 : Word) : (x.eretCopies secure h4 h5).regs = x.regs := by
  unfold Ctx.eretCopies
  simp

theorem resv_eretCopies (secure : Bool) (h4 h5 : Word) : (x.eretCopies secure h4 h5).resv = x.resv := by
  unfold Ctx.eretCopies
  simp

/-- The trap window that an ERET leaves stays the current one: a PL2 window hands a double fault on to PL1 (R175). -/
def staysInWindow (x y : Ctx) : Bool :=
  x.pl == 2 && (if x.pl == 2 then x.rec2 else x.rec1) == EntryRec.doubleFault && bit (x.get (rH 7)).toNat 12 && y.pl == 1

/-- From the context `y` with the PSW of H7 on: the trap window of `x` is left, with the copies of R175. -/
def leaveWindow (x y : Ctx) : Ctx :=
  let z := y.setPsw 12 12 (b2n (staysInWindow x y))
  let z := if (if x.pl == 2 then x.rec2 else x.rec1) == EntryRec.windowTrap
    then z.eretCopies (x.pl == 2) (x.get (rH 4)) (x.get (rH 5)) else z
  if x.pl == 2 then { z with rec2 := .none } else { z with rec1 := .none }

/-- A context without its reservation (R149). -/
def dropResv (x : Ctx) : Ctx := { x with resv := none }

theorem psn_dropResv : (dropResv x).psn = x.psn := rfl
theorem rd_dropResv : (dropResv x).rd = x.rd := rfl
theorem regs_dropResv : (dropResv x).regs = x.regs := rfl
theorem resv_dropResv : (dropResv x).resv = none := rfl

theorem psn_rotateBack : x.rotateBack.psn = (x.setPsw 11 8 ((x.cwp + 15) % 16)).psn := rfl
theorem rd_rotateBack : x.rotateBack.rd = x.rd - 1 := rfl
theorem regs_rotateBack : x.rotateBack.regs = x.regs := rfl
theorem resv_rotateBack : x.rotateBack.resv = x.resv := rfl

/-- The context with the PSW of H7 and no reservation. -/
def restored (x : Ctx) : Ctx := dropResv (x.eretPsw (x.get (rH 7)).toNat)

theorem psn_restored : (restored x).psn = (x.eretPsw (x.get (rH 7)).toNat).psn := psn_dropResv _

theorem regs_restored : (restored x).regs = x.regs := (regs_dropResv _).trans (regs_eretPsw x _)

theorem rd_restored : (restored x).rd = x.rd := by
  obtain ⟨pl, secure, h⟩ := eretPsw_writes x (x.get (rH 7)).toNat
  rw [restored, rd_dropResv, h, rd_setPsw, rd_setPsw, rd_setPsw, rd_setPsw, rd_setPsw, rd_setPsw]

/-- In a ring window an ERET rotates back. -/
theorem eretTo_of_ring (h : x.tw = false) : x.eretTo = (restored x).rotateBack := by
  unfold Ctx.eretTo
  exact if_pos (by rw [h]; rfl)

theorem eretTo_of_trapWindow (h : x.tw = true) : x.eretTo = leaveWindow x (restored x) := by
  unfold Ctx.eretTo
  exact if_neg (by rw [h]; decide)

variable (y : Ctx)

theorem psn_leaveWindow : (leaveWindow x y).psn = (y.setPsw 12 12 (b2n (staysInWindow x y))).psn := by
  refine congrArg BitVec.toNat ?_
  unfold leaveWindow
  generalize y.setPsw 12 12 (b2n (staysInWindow x y)) = z
  dsimp only
  split_ifs <;> simp [psw_eretCopies]

theorem regs_leaveWindow : (leaveWindow x y).regs = y.regs := by
  unfold leaveWindow
  have hz : (y.setPsw 12 12 (b2n (staysInWindow x y))).regs = y.regs := rfl
  generalize y.setPsw 12 12 (b2n (staysInWindow x y)) = z at hz
  dsimp only
  split_ifs <;> simp [regs_eretCopies, hz]

theorem resv_leaveWindow : (leaveWindow x y).resv = y.resv := by
  unfold leaveWindow
  have hz : (y.setPsw 12 12 (b2n (staysInWindow x y))).resv = y.resv := rfl
  generalize y.setPsw 12 12 (b2n (staysInWindow x y)) = z at hz
  dsimp only
  split_ifs <;> simp [resv_eretCopies, hz]

theorem rec2_leaveWindow (h : x.pl = 2) : (leaveWindow x y).rec2 = .none := by
  unfold leaveWindow
  simp [h]

theorem rec1_leaveWindow (h : x.pl ≠ 2) : (leaveWindow x y).rec1 = .none := by
  unfold leaveWindow
  simp [h]

theorem staysInWindow_of_ne (h : x.pl ≠ 2) : staysInWindow x y = false := by
  simp [staysInWindow, h]

/-- Outside CWP and TW the PSW is that of H7. -/
theorem testBit_eretTo {i : Nat} (hi : i < 8 ∨ 12 < i) :
    x.eretTo.psn.testBit i = (x.eretPsw (x.get (rH 7)).toNat).psn.testBit i := by
  cases h : x.tw
  · rw [eretTo_of_ring x h, psn_rotateBack, testBit_setPsw_apart _ (by decide) (by decide) (by omega), psn_restored]
  · rw [eretTo_of_trapWindow x h, psn_leaveWindow, testBit_setPsw_apart _ (by decide) (by decide) (by omega), psn_restored]

theorem field_eretTo {hi lo : Nat} (h : hi < 8 ∨ 12 < lo) :
    field x.eretTo.psn hi lo = field (x.eretPsw (x.get (rH 7)).toNat).psn hi lo :=
  field_eq_of_testBit fun _ _ _ => testBit_eretTo x (by omega)

theorem regs_eretTo : x.eretTo.regs = x.regs := by
  cases h : x.tw
  · rw [eretTo_of_ring x h, regs_rotateBack, regs_restored]
  · rw [eretTo_of_trapWindow x h, regs_leaveWindow, regs_restored]

theorem resv_eretTo : x.eretTo.resv = none := by
  cases h : x.tw
  · rw [eretTo_of_ring x h, resv_rotateBack, restored, resv_dropResv]
  · rw [eretTo_of_trapWindow x h, resv_leaveWindow, restored, resv_dropResv]

variable (hpl : x.pl = 1 ∨ x.pl = 2)
include hpl

theorem fields_eretTo :
    x.eretTo.ie = (x.get (rH 7)).toNat.testBit 7 ∧ x.eretTo.ipl = (x.get (rH 7)).toNat / 2 ^ 24 % 64 ∧
      x.eretTo.blk = min 32 ((x.get (rH 7)).toNat / 2 ^ 16 % 64) ∧ x.eretTo.secure = eretSecure x (x.get (rH 7)).toNat ∧
      x.eretTo.pl = eretLevel x (x.get (rH 7)).toNat := by
  obtain ⟨hie, hipl, hblk, hsec, hlevel, -, -⟩ := fields_eretPsw x (x.get (rH 7)).toNat hpl
  exact ⟨(testBit_eretTo x (by decide)).trans hie, (field_eretTo x (by decide)).trans hipl, (field_eretTo x (by decide)).trans hblk,
    (testBit_eretTo x (by decide)).trans hsec, (field_eretTo x (by decide)).trans hlevel⟩

theorem flag_eretTo {i : Nat} (hi : i < 4) : x.eretTo.psn.testBit i = (x.get (rH 7)).toNat.testBit i :=
  (testBit_eretTo x (by omega)).trans (flag_eretPsw x _ hpl hi)

theorem cwp_restored : (restored x).cwp = x.cwp := by
  obtain ⟨-, -, -, -, -, hcwp, -⟩ := fields_eretPsw x (x.get (rH 7)).toNat hpl
  rw [Ctx.cwp, psn_restored]
  exact hcwp

theorem tw_restored : (restored x).tw = x.tw := by
  obtain ⟨-, -, -, -, -, -, htw⟩ := fields_eretPsw x (x.get (rH 7)).toNat hpl
  rw [Ctx.tw, psn_restored]
  exact htw

theorem eretTo_rotates (h : x.tw = false) : x.eretTo.cwp = (x.cwp + 15) % 16 ∧ x.eretTo.rd = x.rd - 1 ∧ x.eretTo.tw = false := by
  rw [eretTo_of_ring x h, cwp_rotateBack, cwp_restored x hpl, rd_rotateBack, rd_restored, Ctx.tw, psn_rotateBack]
  exact ⟨rfl, rfl, (tw_setCwp _).trans ((tw_restored x hpl).trans h)⟩

theorem eretTo_leaves (h : x.tw = true) :
    x.eretTo.cwp = x.cwp ∧ (x.pl = 1 → x.eretTo.tw = false ∧ x.eretTo.rec1 = .none) ∧ (x.pl = 2 → x.eretTo.rec2 = .none) := by
  rw [eretTo_of_trapWindow x h, Ctx.cwp, Ctx.tw, psn_leaveWindow]
  refine ⟨?_, fun h1 => ⟨?_, rec1_leaveWindow _ _ (by omega)⟩, rec2_leaveWindow x _⟩
  · rw [field_setPsw_apart _ (by decide) (by decide) (by decide)]
    exact cwp_restored x hpl
  · rw [staysInWindow_of_ne _ _ (by omega)]
    exact testBit_setPsw_bit _ 12 12 false (by decide)

end

/-! ### The statement -/

section
variable {s : State} {core : Nat} {f : Form} {e : Env}

theorem syscall_answers (h : s.dev.enter core .prim 0x45 f none [] true anyLevel = .ok e) (hcur : e.d.curCtx core = e.cx) :
    let D := (e.d.setCtx e.cx (e.x.setPsw 21 16 0)).settleFlags core
    let x := D.ctx e.cx
    let X := D.enterTrap core (x.rotate.ringEntry (e.x.excEntry 0x1C0) (syndrome { cls := 8, number := f.raw } e.x.pl 0) 0 e.next
      x.psw64)
    (e.x.tw = false → e.x.rd ≤ 14 → D.vectorHeld core (x.rotate.ringEntry (e.x.excEntry 0x1C0) 0 0 0 0) = false →
      X.fetchCheck core 1 = none → Answers (exec (.syscall core f) s) s (X.afterIssue core none)) ∧
    (e.x.tw = true → Answers (exec (.syscall core f) s) s ((e.d.doubleFault core 8 0 0 0).afterIssue core none)) := by
  have hE := enter_ok h
  rw [← hcur]
  refine ⟨fun htw hrd hheld hfetch => ?_, fun htw => ?_⟩
  · have hroom : ((Dev.settleFlags (e.d.setCtx (e.d.curCtx core) (e.x.setPsw 21 16 0)) core).ctx (e.d.curCtx core)).rd ≤ 14 := by
      rw [Dev.settleFlags, modCtx_eq, curCtx_setCtx, ctx_setCtx_same, ctx_setCtx_same, rd_settle]
      exact hrd
    have ht := ringTrap_taken (d := e.d.setCtx (e.d.curCtx core) (e.x.setPsw 21 16 0)) hroom hheld hfetch
    have hs : e.syscall = .trap _ := syscall_of_taken htw (by rw [hE.sameCore, hE.form, ← hcur]; exact ht)
    exact trap_answers h Env.syscall hs
  · exact trap_answers h Env.syscall (by rw [syscall_of_trapWindow htw, hE.sameCore])

end

/-- Settles O16: SYSCALL as a ring trap of its level, ERET by the window it leaves, and the restored context field by field. -/
theorem syscallAndEret : Obligations.SyscallAndEret := by
  unfold Obligations.SyscallAndEret
  refine ⟨fun s core f e h hcur => syscall_answers h hcur, fun s core e h hc => ⟨fun hroom => ?_, fun htw hrd hsc => ?_⟩, fun x hpl => ?_⟩
  · exact doneKeep_answers h Env.eret (eret_of_room hc hroom)
  · refine trap_answers h Env.eret ?_
    rw [eret_of_fill hc htw hrd hsc, (enter_ok h).sameCore]
  · obtain ⟨hie, hipl, hblk, hsec, hlevel⟩ := fields_eretTo x hpl
    exact ⟨flag_eretTo x hpl (by decide), flag_eretTo x hpl (by decide), flag_eretTo x hpl (by decide), flag_eretTo x hpl (by decide),
      hie, hipl, hblk, hsec, hlevel, eretTo_rotates x hpl, eretTo_leaves x hpl,
      fun p => by rw [Ctx.getP, regs_eretTo]; rfl, resv_eretTo x⟩

end Sys2Proof.Proofs.ServiceCalls
end

section
/-!
SUPPORT. ST and the store buffer: where a store goes by the kind of memory it reaches, and what a buffered store changes when it is written
(R143, R196, R270, R287, R334).
-/
namespace Sys2Proof.Proofs.StoreRows
open Sys2Proof Sys2Proof.Machine Sys2Proof.Safety Sys2Proof.Laws Sys2Proof.Proofs.Outcomes Sys2Proof.Proofs.LobbyOpening

/-! ### A store of an item -/

section
variable {e : Env} {d d1 : Dev} {va : Word} {bs : List Byte} {ps t : List Piece} {nt : Bool} {keep : Option Nat} {pa m : Nat}

theorem storeItem_of_fits (place : Ctx → Ctx) (ha : d.access e.w va bs.length .write .item .data = .ok d1 ps)
    (hf : e.undoFits d1 ps bs = true) :
    e.storeItem d va bs nt keep place = .ok (e.storeAt (d1.modCtx e.cx place) ps bs nt keep) 0 := by
  simp only [Env.storeItem, ha, hf, if_true]

theorem storeItem_of_full (place : Ctx → Ctx) (ha : d.access e.w va bs.length .write .item .data = .ok d1 ps)
    (hf : e.undoFits d1 ps bs = false) : e.storeItem d va bs nt keep place = .miss d := by
  simp only [Env.storeItem, ha, hf, Bool.false_eq_true, if_false]

theorem storeAt_dram (h : paKind pa = .dram) : e.storeAt d ((pa, m) :: t) bs nt keep = d.bufStore e.w ((pa, m) :: t) bs nt keep := by
  simp only [Env.storeAt, h]

theorem storeAt_pcie (h : paKind pa = .pcie) :
    e.storeAt d ((pa, m) :: t) bs nt keep = ((d.drain e.core).wake 100).pcieOut pa bs := by
  simp only [Env.storeAt, h]

theorem storeAt_reg (h : paKind pa = .reg) :
    e.storeAt d ((pa, m) :: t) bs nt keep = (d.drain e.core).regStore (d.acc e.core) pa bs.length (leNat bs) := by
  simp only [Env.storeAt, h]

/-- The trace area is written by the device, and what lies nowhere is discarded: only the older stores go out (R143). -/
theorem storeAt_other (h : paKind pa = .hamper ∨ paKind pa = .none) : e.storeAt d ((pa, m) :: t) bs nt keep = d.drain e.core := by
  rcases h with h | h <;> simp only [Env.storeAt, h]

end

section
variable {s : State} {core : Nat} {f : Form} {e : Env} {d1 : Dev} {ps : List Piece}

/-- ST that passes its checks puts its bytes where the PC already stands past it. -/
theorem st_answers (h : s.dev.enter core .prim 0x22 f none (f.rdn :: Form.eaSrc f) false anyLevel = .ok e)
    (ha : e.d.access e.w (e.x.ea f e.next) f.width.bytes .write .item .data = .ok d1 ps)
    (hf : e.undoFits d1 ps (leBytes f.width.bytes (e.x.get f.rdn).toNat) = true) :
    let X := e.storeAt (d1.setCtx e.cx ((d1.ctx e.cx).past e.next)) ps (leBytes f.width.bytes (e.x.get f.rdn).toNat) f.hint (some e.cx)
    Answers (exec (.st core f) s) s (X.afterIssue core (X.dataHit core e.x [(e.x.ea f e.next, f.width.bytes, .write)])) := by
  refine placed_answers h Env.store ?_
  rw [← length_leBytes f.width.bytes (e.x.get f.rdn).toNat] at ha
  simp only [Env.store, (enter_ok h).form, storeItem_of_fits _ ha hf]
  rfl

theorem st_waits (h : s.dev.enter core .prim 0x22 f none (f.rdn :: Form.eaSrc f) false anyLevel = .ok e)
    (ha : e.d.access e.w (e.x.ea f e.next) f.width.bytes .write .item .data = .ok d1 ps)
    (hf : e.undoFits d1 ps (leBytes f.width.bytes (e.x.get f.rdn).toNat) = false) : Answers (exec (.st core f) s) s e.d := by
  refine pause_answers h Env.store ?_
  rw [← length_leBytes f.width.bytes (e.x.get f.rdn).toNat] at ha
  simp only [Env.store, (enter_ok h).form, storeItem_of_full _ ha hf]

end

/-! ### The store buffer -/

theorem Stored_getP {d d' : Dev} (h : Stored d d') (j p : Nat) : (d'.ctx j).getP p = (d.ctx j).getP p := by
  rw [h.ctxs j]
  rfl

/-- Bytes that a write of memory does not name read as before. -/
theorem byte_of_putAll {d X : Dev} {l : List (Nat × Byte)} (h : X.mem = d.mem.putAll l) (a : Nat) (ha : ∀ q ∈ l, q.1 ≠ a) :
    X.byte a = d.byte a := by
  rw [Dev.byte, h]
  exact Memory_get_putAll_of_not_mem l d.mem a ha

section
variable {d : Dev} {core : Nat} {b : StoreEntry} {rest : List StoreEntry}

theorem naturalWrite_of_ready (hs : (d.core core).sbuf = b :: rest)
    (hr : (linesOf b.bytes).all (fun n => d.lineReady core n true .data) = true) : d.naturalWrite core = d.drainOne core := by
  simp only [Dev.naturalWrite, hs, hr, if_true]

theorem naturalWrite_of_taken (hs : (d.core core).sbuf = b :: rest)
    (hr : (linesOf b.bytes).all (fun n => d.lineReady core n true .data) = false) :
    d.naturalWrite core = d.askLines core (linesOf b.bytes) true .data := by
  simp only [Dev.naturalWrite, hs, hr, Bool.false_eq_true, if_false]

theorem storeBufferWrite_answers {s : State} (h : core < 128) : Answers (exec (.storeBufferWrite core) s) s (s.dev.naturalWrite core) := by
  have hw : (if core < 128 then s.dev.naturalWrite core else s.dev) = s.dev.naturalWrite core := if_pos h
  exact hw ▸ onDev_answers (fun d => if core < 128 then d.naturalWrite core else d) s

end

/-- Settles O11: ST by the kind of memory it reaches, the buffer by what it holds, the write of its oldest store by whether its lines are
there. -/
theorem storesComplete : Obligations.StoresComplete := by
  unfold Obligations.StoresComplete
  refine ⟨fun s core f e d1 pa m t h => ?_, fun d w ps bs nt keep hon => ?_, fun s core b rest hc hon hs => ?_⟩
  · intro n va ps bs D lands ha
    refine ⟨fun hf => ?_, fun hf => st_waits h ha hf⟩
    have hst := st_answers h ha hf
    have hcore := (enter_ok h).sameCore
    refine ⟨fun hk => ?_, fun hk => ?_, fun hk => ?_, fun hk => ?_⟩
    · rw [storeAt_dram hk] at hst
      exact hst
    · rw [storeAt_other hk, hcore] at hst
      exact hst
    · rw [storeAt_pcie hk, hcore] at hst
      exact hst
    · rw [storeAt_reg hk, hcore, length_leBytes] at hst
      exact hst
  · obtain ⟨hst, hroom, hfull⟩ := bufStore_law w ps bs nt keep hon
    refine ⟨yieldStores_none, hst.rooms, hst.plan, hst.on, fun j p => ⟨Stored_getP hst j p, ?_, ?_⟩, hroom, fun b rest hq hlen => ?_⟩
    · rw [hst.ctxs j]
    · rw [hst.ctxs j]
    · obtain ⟨hmem, hbuf⟩ := hfull b rest hq hlen
      exact ⟨hmem, hbuf, byte_of_putAll hmem⟩
  · have hw := storeBufferWrite_answers (s := s) hc
    refine ⟨fun hr => by rwa [naturalWrite_of_taken hs hr] at hw, fun hr => ?_⟩
    rw [naturalWrite_of_ready hs hr] at hw
    obtain ⟨hst, hmem, hbuf⟩ := drainOne_cons hon hs
    exact ⟨_, hw, hmem, byte_of_putAll hmem, by rw [hbuf, if_pos rfl], fun k hk => by rw [hbuf, if_neg hk], Stored_getP hst⟩

end Sys2Proof.Proofs.StoreRows
end

section
/-!
SUPPORT. Which room a core serves: the floorplan and the straps fix it, and nothing that an instruction does on its way to its body changes
either, so that what it works with names the slot that it issued in.
-/
namespace Sys2Proof.Proofs.Seats
open Sys2Proof Sys2Proof.Machine Sys2Proof.Laws

/-- The active floorplan and the straps, which hold the package number. -/
def seat (d : Dev) : Plan × Straps := (d.plan, d.straps)

theorem coreSlot_of_seat {d d' : Dev} (h : seat d' = seat d) (core : Nat) : d'.coreSlot core = d.coreSlot core := by
  simp only [seat, Prod.mk.injEq] at h
  obtain ⟨hplan, hstraps⟩ := h
  simp only [Dev.coreSlot, Dev.coreRoom, Dev.slotOf, Dev.pkg, hplan, hstraps]

variable (d : Dev)

/-! ### Loops and branches -/

@[simp] theorem seat_each {α : Type} (l : List α) (f : Dev → α → Dev) (hf : ∀ d a, seat (f d a) = seat d) :
    seat (each l f d) = seat d := by
  induction l generalizing d with
  | nil => rfl
  | cons a t ih => exact (ih (f d a)).trans (hf d a)

@[simp] theorem seat_iter (f : Dev → Dev) (n : Nat) (hf : ∀ d, seat (f d) = seat d) : seat (iter f n d) = seat d := by
  induction n generalizing d with
  | zero => rfl
  | succ n ih => exact (ih (f d)).trans (hf d)

@[simp] theorem seat_ite (c : Prop) [Decidable c] (a b : Dev) : seat (if c then a else b) = if c then seat a else seat b :=
  apply_ite seat c a b

/-! ### Updates of one unit

`(rfl)` keeps these rewrite rules and not definitional unfoldings, so that `simp` can use them to discharge the premise of `seat_each`. -/

@[simp] theorem seat_setCore (i : Nat) (x : Core) : seat (d.setCore i x) = seat d := (rfl)
@[simp] theorem seat_setCtx (i : Nat) (x : Ctx) : seat (d.setCtx i x) = seat d := (rfl)
@[simp] theorem seat_setCluster (i : Nat) (x : Cluster) : seat (d.setCluster i x) = seat d := (rfl)
@[simp] theorem seat_setRegion (i : Nat) (x : Region) : seat (d.setRegion i x) = seat d := (rfl)
@[simp] theorem seat_setDomain (i : Nat) (x : Domain) : seat (d.setDomain i x) = seat d := (rfl)
@[simp] theorem seat_setCan (i : Nat) (x : Can) : seat (d.setCan i x) = seat d := (rfl)
@[simp] theorem seat_setLink (i : Nat) (x : Link) : seat (d.setLink i x) = seat d := (rfl)
@[simp] theorem seat_emit (o : Out) : seat (d.emit o) = seat d := (rfl)
@[simp] theorem seat_raise (s : Nat) : seat (d.raise s) = seat d := (rfl)
@[simp] theorem seat_poke (l : List (Nat × Byte)) : seat (d.poke l) = seat d := (rfl)
@[simp] theorem seat_writeBack (line : Nat) : seat (d.writeBack line) = seat d := (rfl)
@[simp] theorem seat_clearResv (line : Nat) (keep : Option Nat) : seat (d.clearResv line keep) = seat d := (rfl)
@[simp] theorem seat_dropOps (p : Station → Bool) : seat (d.dropOps p) = seat d := (rfl)

/-! ### Channels, caches and power domains -/

@[simp] theorem seat_chanPush (r : Nat) (q : ChanReq) : seat (d.chanPush r q) = seat d := by
  simp [Dev.chanPush]

@[simp] theorem seat_chanPost (line requester room : Nat) : seat (d.chanPost line requester room) = seat d := by
  unfold Dev.chanPost; split <;> simp

@[simp] theorem seat_chanWrite (line requester room : Nat) : seat (d.chanWrite line requester room) = seat d := by
  simp [Dev.chanWrite]

@[simp] theorem seat_writeOut (line room : Nat) : seat (d.writeOut line room) = seat d := by
  simp [Dev.writeOut]

@[simp] theorem seat_l3Fill (r line id : Nat) : seat (d.l3Fill r line id) = seat d := by
  unfold Dev.l3Fill
  dsimp only
  split
  · simp
  · split <;> simp

@[simp] theorem seat_homeWrite (line id : Nat) : seat (d.homeWrite line id) = seat d := by
  unfold Dev.homeWrite; split <;> simp

@[simp] theorem seat_applyPend (c : Nat) : seat (d.applyPend c) = seat d := (rfl)

@[simp] theorem seat_wakeEffects (n : Nat) (old : DomSt) : seat (d.wakeEffects n old) = seat d := by
  simp [Dev.wakeEffects, Dev.modCan]

@[simp] theorem seat_tracePut (slot : Nat) (p : TracePkt) : seat (d.tracePut slot p) = seat d := by
  unfold Dev.tracePut
  dsimp only
  split_ifs <;> rfl

@[simp] theorem seat_tracePower (n : Nat) (old new : DomSt) (code : Nat) : seat (d.tracePower n old new code) = seat d := by
  simp [Dev.tracePower]

@[simp] theorem seat_setDomainCode (n : Nat) (st : DomSt) (code : Nat) : seat (d.setDomainCode n st code) = seat d := by
  simp [Dev.setDomainCode]

@[simp] theorem seat_setDomainSt (n : Nat) (st : DomSt) : seat (d.setDomainSt n st) = seat d := by
  simp [Dev.setDomainSt]

@[simp] theorem seat_countEntry (n code : Nat) (asker : Option Nat) (abort : Bool) :
    seat (d.countEntry n code asker abort) = seat d := by
  unfold Dev.countEntry
  extract_lets d1 d2
  have h : seat d2 = seat d := by simp [d2, d1]
  split
  · exact h
  · split_ifs
    · exact h
    · exact h

@[simp] theorem seat_stopSlice (n : Nat) : seat (d.stopSlice n) = seat d := by
  unfold Dev.stopSlice; split_ifs <;> rfl

@[simp] theorem seat_abortEntry (n code : Nat) : seat (d.abortEntry n code) = seat d := by
  unfold Dev.abortEntry; split <;> simp

@[simp] theorem seat_wakeOne (n : Nat) : seat (d.wakeOne n) = seat d := by
  simp [Dev.wakeOne]

@[simp] theorem seat_wake (n : Nat) : seat (d.wake n) = seat d := by
  simp [Dev.wake]

@[simp] theorem seat_sendTo (pkg : Nat) (m : CohMsg) : seat (d.sendTo pkg m) = seat d := by
  simp [Dev.sendTo, Dev.modLink]

@[simp] theorem seat_farLeave (c line id : Nat) (dirty : Bool) : seat (d.farLeave c line id dirty) = seat d := by
  unfold Dev.farLeave; split <;> simp

@[simp] theorem seat_homeSend (c line id : Nat) (dirty : Bool) : seat (d.homeSend c line id dirty) = seat d := by
  unfold Dev.homeSend; split <;> simp

@[simp] theorem seat_dirRefresh (line : Nat) : seat (d.dirRefresh line) = seat d := by
  unfold Dev.dirRefresh; split <;> simp

@[simp] theorem seat_takeSlots (line requester room : Nat) : seat (d.takeSlots line requester room) = seat d :=
  seat_each _ _ _ fun _ _ => by split <;> simp

@[simp] theorem seat_forwardTo (c : Nat) : seat (d.forwardTo c) = seat d := by
  simp [Dev.forwardTo]

@[simp] theorem seat_countIn (regions : List Nat) : seat (d.countIn regions) = seat d := by
  simp [Dev.countIn]

@[simp] theorem seat_l1Drop (core line : Nat) : seat (d.l1Drop core line) = seat d := by
  unfold Dev.l1Drop; split_ifs <;> rfl

@[simp] theorem seat_l1DropAll (c line : Nat) : seat (d.l1DropAll c line) = seat d := by
  simp [Dev.l1DropAll]

@[simp] theorem seat_l2Invalidate (c line : Nat) : seat (d.l2Invalidate c line) = seat d := by
  simp [Dev.l2Invalidate]

@[simp] theorem seat_l1Share (c line : Nat) : seat (d.l1Share c line) = seat d := by
  simp [Dev.l1Share]

@[simp] theorem seat_l2Share (c line : Nat) : seat (d.l2Share c line) = seat d := by
  simp [Dev.l2Share]

@[simp] theorem seat_snoopOthers (line : Nat) (except : Option Nat) (excl : Bool) :
    seat (d.snoopOthers line except excl) = seat d := by
  simp [Dev.snoopOthers]

@[simp] theorem seat_l2Evict (c line : Nat) : seat (d.l2Evict c line) = seat d := by
  unfold Dev.l2Evict; split <;> simp

@[simp] theorem seat_homeFill (r line requester room : Nat) : seat (d.homeFill r line requester room) = seat d := by
  simp [Dev.homeFill]

@[simp] theorem seat_l2Get (core line : Nat) (wr nt : Bool) : seat (d.l2Get core line wr nt) = seat d := by
  unfold Dev.l2Get
  extract_lets c id owned locked d1 others dirty d2 d3 d4
  split
  · simp
  · have h1 : seat d1 = seat d := by unfold d1; split <;> simp
    have h4 : seat d4 = seat d := by unfold d4; split <;> simp [d3, d2, h1]
    split <;> simp [h4]

@[simp] theorem seat_l1Fill (core line : Nat) (st : L1St) (nt : Bool) : seat (d.l1Fill core line st nt) = seat d := by
  unfold Dev.l1Fill; dsimp only; split <;> simp

@[simp] theorem seat_touchLine (core line : Nat) (wr nt : Bool) : seat (d.touchLine core line wr nt) = seat d := by
  unfold Dev.touchLine; dsimp only; split <;> simp

@[simp] theorem seat_writeLine (core line : Nat) (nt : Bool) : seat (d.writeLine core line nt) = seat d := by
  simp [Dev.writeLine]

/-! ### Store buffers -/

@[simp] theorem seat_drainOne (core : Nat) : seat (d.drainOne core) = seat d := by
  unfold Dev.drainOne; split <;> simp

@[simp] theorem seat_drain (core : Nat) : seat (d.drain core) = seat d := by
  simp [Dev.drain]

@[simp] theorem seat_yieldStores (core : Nat) (lines : List Nat) : seat (d.yieldStores core lines) = seat d := by
  simp [Dev.yieldStores]

/-! ### Undo logs and Trestles -/

@[simp] theorem seat_logLines (slot c : Nat) (lines : List Nat) : seat (d.logLines slot c lines) = seat d := by
  rw [logLines_frame]
  rfl

@[simp] theorem seat_trMemWrite (slot core pa : Nat) (bs : List Byte) : seat (d.trMemWrite slot core pa bs) = seat d := by
  simp [Dev.trMemWrite]

@[simp] theorem seat_lsWrite (slot c at_ : Nat) (bs : List Byte) : seat (d.lsWrite slot c at_ bs) = seat d := by
  simp [Dev.lsWrite]

@[simp] theorem seat_trBegin (u : Nat) : seat (d.trBegin u) = seat d := by
  simp [Dev.trBegin]

/-- The oldest operation of a room completes, where it can. -/
theorem seat_trComplete {c slot : Nat} {d' : Dev} (h : d.trComplete c slot = some d') : seat d' = seat d := by
  unfold Dev.trComplete at h
  split at h
  · cases h
  · extract_lets d0 core src d1 st vals d2 d3 d4 d5 at h
    have h2 : seat d2 = seat d := by simp [d2, d1]
    have h3 : seat d3 = seat d := by unfold d3; clear_value st; split <;> simp [h2]
    have h4 : seat d4 = seat d := by unfold d4; clear_value st; split <;> simp [h3]
    split at h
    · cases h
    · cases h; simp [d5, h4]

@[simp] theorem seat_trDrain (c slot : Nat) (p : Station → Bool) : seat (d.trDrain c slot p) = seat d :=
  seat_iter _ _ _ fun d => by
    split
    · cases h : d.trComplete c slot with
      | none => rfl
      | some d' => exact seat_trComplete d h
    · rfl

/-! ### Fetches and accesses -/

@[simp] theorem seat_setAD (w : Who) (a e : Nat) : seat (d.setAD w a e) = seat d := by
  simp [Dev.setAD]

theorem seat_translate {w : Who} {va : Word} {k : AccKind} {d' : Dev} {pa level : Nat} (h : d.translate w va k = .ok (d', pa, level)) :
    seat d' = seat d := by
  unfold Dev.translate at h
  extract_lets x root v asid hit finish walk at h
  have hfinish : ∀ D e new, seat (finish D e new).1 = seat D := fun D e new => seat_setCore D _ _
  have hwalk : ∀ r, walk () = .ok r → seat r.1 = seat d := by
    intro r hr
    unfold walk at hr
    split at hr
    · cases hr
    · extract_lets e row upd D0 D1 size at hr
      have hD1 : seat D1 = seat d := by
        unfold D1 D0
        clear_value upd
        split <;> simp
      split at hr
      · cases hr
      · split at hr
        · cases hr
        · cases hr
          exact (hfinish _ _ _).trans hD1
  clear_value hit
  split at h
  · cases h
  · split at h
    · split at h
      · split at h
        · cases h
        · cases h
          rfl
      · cases h
    · split at h
      · extract_lets row at h
        split at h
        · cases h
        · split at h
          · exact hwalk _ h
          · cases h
            exact hfinish d _ false
      · exact hwalk _ h

theorem seat_checkPiece {w : Who} {va : Word} {n : Nat} {k : AccKind} {t : Target} {p : Word × Nat} {q : Dev × Piece}
    (h : d.checkPiece w va n k t p = .ok q) : seat q.1 = seat d := by
  unfold Dev.checkPiece at h
  split at h
  · cases h
  · next D pa level ht =>
    dsimp only at h
    split_ifs at h
    cases h
    exact seat_translate d ht

theorem seat_checkAccess {w : Who} {va : Word} {n : Nat} {k : AccKind} {t : Target} {q : Dev × List Piece}
    (h : d.checkAccess w va n k t = .ok q) : seat q.1 = seat d := by
  unfold Dev.checkAccess at h
  dsimp only at h
  split at h
  · split at h
    · cases h
    · next hp =>
      cases h
      exact seat_checkPiece d hp
  · split at h
    · cases h
    · next hp =>
      split at h
      · cases h
      · next hq =>
        cases h
        exact (seat_checkPiece _ hq).trans (seat_checkPiece d hp)
  · cases h
    rfl

theorem seat_access {w : Who} {va : Word} {n : Nat} {k : AccKind} {t : Target} {use : MissUse} {d' : Dev} {ps : List Piece}
    (h : d.access w va n k t use = .ok d' ps) : seat d' = seat d := by
  unfold Dev.access at h
  dsimp only at h
  split_ifs at h
  split at h
  · cases h
  · next hc =>
    split_ifs at h
    cases h
    exact seat_checkAccess d hc

@[simp] theorem seat_touch (core : Nat) (ps : List Piece) (wr nt : Bool) : seat (d.touch core ps wr nt) = seat d :=
  seat_each _ _ _ fun _ _ => seat_each _ _ _ fun _ _ => seat_touchLine _ _ _ _ _

@[simp] theorem seat_fetchTouch (core n : Nat) (ps : List Piece) : seat (d.fetchTouch core n ps) = seat d := by
  simp [Dev.fetchTouch]

theorem seat_fetch {core n : Nat} {d' : Dev} {ps : List Piece} (h : d.fetch core n = .ok d' ps) : seat d' = seat d := by
  unfold Dev.fetch at h
  split at h
  · next ha =>
    cases h
    exact (seat_fetchTouch _ _ _ _).trans (seat_access d ha)
  · next hne => exact absurd h (hne _ _)

theorem seat_tagWait {core slot ctx : Nat} {ps : List Nat} {d' : Dev} (h : d.tagWait core slot ctx ps = some d') : seat d' = seat d := by
  unfold Dev.tagWait at h
  dsimp only at h
  split_ifs at h
  · cases h
    exact seat_trDrain _ _ _ _
  · cases h
    rfl

/-- An instruction works in the slot of its core's room: what it works with names the slot that it issued in. -/
theorem slot_of_enter {core : Nat} {m : OpMap} {op : Nat} {f : Form} {room : Option Nat} {srcs : List Nat} {flags : Bool}
    {priv : Ctx → Bool} {e : Env} (h : d.enter core m op f room srcs flags priv = .ok e) : e.w.slot = e.slot := by
  obtain ⟨slot, d1, ps, d2, hslot, -, -, hfetch, -, htag, rfl⟩ := Issuing.ready_of_enter rfl h
  have hseat : seat d2 = seat d := (seat_tagWait _ htag).trans ((seat_fetch _ hfetch).trans (seat_wake d _))
  have hcore : d.coreSlot core = some slot := by
    unfold Dev.canIssue Dev.canRun at hslot
    split_ifs at hslot
    split at hslot
    · cases hslot
    · next hs =>
      dsimp only at hslot
      split_ifs at hslot
      exact hs.trans hslot
  change (d2.coreSlot core).getD 0 = slot
  rw [coreSlot_of_seat hseat, hcore]
  rfl

end Sys2Proof.Proofs.Seats
end

section
/-!
SUPPORT. LLK, STC and the read-modify-writes: what each leaves once its access passes, and the A of a misaligned item or of one outside DRAM
(R144, R145, R148, R149).
-/
namespace Sys2Proof.Proofs.Atomics
open Sys2Proof Sys2Proof.Machine Sys2Proof.Safety Sys2Proof.Laws Sys2Proof.Proofs.Outcomes

theorem quiet_touchOwn {d : Dev} (core line : Nat) (nt : Bool) (h : AllOn d) : Quiet d (d.touchOwn core line nt) :=
  (quiet_touchLine core line true nt h).bind (fun h => quiet_setCore h core _ rfl)

theorem WritesOnly_byte {D X : Dev} {cx : Nat} {y : Ctx} (h : WritesOnly D cx y X) (a : Nat) : X.byte a = D.byte a := by
  have hmem : X.mem = D.mem := by rw [h.rest]
  rw [Dev.byte, hmem]
  rfl

/-! ### Items that are not aligned, or not in DRAM (R144) -/

theorem misaligned_of_ne {va : Word} {n : Nat} (wr : Bool) (h : va.toNat % n ≠ 0) :
    misaligned va n wr = some { cls := 3, kind := 0, wr := wr, va := va } :=
  if_neg (by simpa using h)

/-- An exception before translation has made no walk. -/
theorem faultWalk_of_start_none {d : Dev} {core : Nat} {x : Exc} (h : x.start = none) : d.faultWalk core x = d := by
  unfold Dev.faultWalk
  rw [h]

section
variable {d D : Dev} {w : Who} {va : Word} {n pa level : Nat} {k : AccKind} {use : MissUse}

/-- The page of a VA has at least 4 KiB. -/
theorem exists_pageBits (d : Dev) (w : Who) (va : Word) : ∃ c, d.pageBits w va = 12 + c := by
  unfold Dev.pageBits
  dsimp only
  split
  · cases (d.core w.core).tlbFind w.id w.secure ((d.ctx w.ctx).asid w.secure) (va.toNat % 2 ^ 48) with
    | none => exact ⟨0, rfl⟩
    | some t =>
      cases h : t.size
      · exact ⟨0, by simp [h, PageSize.bits]⟩
      · exact ⟨4, by simp [h, PageSize.bits]⟩
      · exact ⟨9, by simp [h, PageSize.bits]⟩
      · exact ⟨18, by simp [h, PageSize.bits]⟩
  · exact ⟨34, rfl⟩

/-- Bytes inside 4 KiB lie in one page, whatever its size. -/
theorem pieces_of_within (c : Nat) (h : va.toNat % 4096 + n ≤ 4096) : pieces va n (12 + c) = [(va, n)] := by
  have hp : 2 ^ (12 + c) = 4096 * 2 ^ c := pow_add 2 12 c
  have hmod : va.toNat % (4096 * 2 ^ c) = va.toNat % 4096 + 4096 * (va.toNat / 4096 % 2 ^ c) := Nat.mod_mul
  have hlt : va.toNat / 4096 % 2 ^ c < 2 ^ c := Nat.mod_lt _ (Nat.two_pow_pos c)
  unfold pieces
  rw [hp, hmod]
  exact if_pos (by omega)

theorem exists_pages (d : Dev) (w : Who) (va : Word) (k : AccKind) :
    ∃ c, (match d.translate w va k with
      | .ok (d, _, _) => d.pageBits w va
      | .error _ => 12) = 12 + c := by
  split
  · exact exists_pageBits _ w va
  · exact ⟨0, rfl⟩

theorem pagesOf_of_within (h : va.toNat % 4096 + n ≤ 4096) : d.pagesOf w va n k = [(va, n)] := by
  obtain ⟨c, hc⟩ := exists_pages d w va k
  unfold Dev.pagesOf
  exact (congrArg (pieces va n) hc).trans (pieces_of_within c h)

/-- An atomic item that translates to a PA outside DRAM fails its check (R144). -/
theorem checkAccess_of_not_dram (h : va.toNat % 4096 + n ≤ 4096) (ht : d.translate w va k = .ok (D, pa, level)) (hk : paKind pa ≠ .dram) :
    d.checkAccess w va n k .atomic = .error { cls := 3, kind := 1, wr := k.writes, va := va, start := some va } := by
  obtain ⟨c, hc⟩ := exists_pageBits D w va
  have hkind : (paKind pa != .dram) = true := by simpa using hk
  simp only [Dev.checkAccess, ht, hc, pieces_of_within c h, Dev.checkPiece, hkind]
  rfl

/-- A walk that does not wait has the undo entry of its update. -/
theorem undoReady_of_not_waits (h : d.walkWaits w va k = false) :
    d.undoReady w.slot (w.core / 4) (([va].filterMap (fun a => (d.walkPlan w a k).2)).flatMap (fun a => spread a (List.replicate 8 0))) = true := by
  cases hu : (d.walkPlan w va k).2 with
  | none => simp [hu, Dev.undoReady, Dev.toLog, linesOf]
  | some a =>
    simp only [Dev.walkWaits, hu, Bool.or_eq_false_iff, Bool.not_eq_false'] at h
    simpa [hu] using h.2.2

theorem access_of_not_dram (h : va.toNat % 4096 + n ≤ 4096) (hw : d.walkWaits w va k = false)
    (hh : d.heldSpan w.slot (d.pasOf w va n k) = false) (ht : d.translate w va k = .ok (D, pa, level)) (hk : paKind pa ≠ .dram) :
    d.access w va n k .atomic use = .exc { cls := 3, kind := 1, wr := k.writes, va := va, start := some va } := by
  have hpages : (d.pagesOf w va n k).map Prod.fst = [va] := by rw [pagesOf_of_within h]; rfl
  simp only [Dev.access, hpages, undoReady_of_not_waits hw, hh, checkAccess_of_not_dram h ht hk]
  simp [hw]

end

/-! ### Items that pass their checks (R145, R148, R149) -/

section
variable {s : State} {core : Nat} {f : Form} {e : Env} {d1 : Dev} {ps : List Piece}

/-- LLK reads its item and reserves the line (R148). -/
theorem llk_answers (h : s.dev.enter core .prim 0x24 f none (Form.eaSrc f) false anyLevel = .ok e)
    (hal : (e.x.ea f e.next).toNat % f.width.bytes = 0)
    (ha : e.d.access e.w (e.x.ea f e.next) f.width.bytes .link .atomic .data = .ok d1 ps) :
    let p := d1.loadDram core ps false
    ∃ X : Dev, Answers (exec (.llk core f) s) s (X.afterIssue core (X.dataHit core e.x [(e.x.ea f e.next, f.width.bytes, .read)])) ∧
      WritesOnly p.1 e.cx
        (Ctx.past { (p.1.ctx e.cx).wr f.rdn (BitVec.ofNat 64 p.2) with resv := some ((ps.headD (0, 0)).1 / 64) } e.next) X := by
  refine doneMod_answers h Env.llk
    (g := fun y => { y.wr f.rdn (BitVec.ofNat 64 (d1.loadDram core ps false).2) with resv := some ((ps.headD (0, 0)).1 / 64) }) ?_
  simp only [Env.llk, (enter_ok h).form, (enter_ok h).sameCore, misaligned_of_aligned hal, ha]

/-- STC with its reservation standing stores behind the core's others; Z tells (R149). -/
theorem stc_answers (h : s.dev.enter core .prim 0x25 f none (f.rdn :: Form.eaSrc f) false anyLevel = .ok e)
    (hal : (e.x.ea f e.next).toNat % f.width.bytes = 0)
    (ha : e.d.access e.w (e.x.ea f e.next) f.width.bytes .write .atomic .data = .ok d1 ps)
    (hr : ((d1.yieldStores core [(ps.headD (0, 0)).1 / 64]).ctx e.cx).resv = some ((ps.headD (0, 0)).1 / 64))
    (hf : e.undoFits (d1.yieldStores core [(ps.headD (0, 0)).1 / 64]) ps (leBytes f.width.bytes (e.x.get f.rdn).toNat) = true) :
    let D := (d1.yieldStores core [(ps.headD (0, 0)).1 / 64]).bufStore e.w ps (leBytes f.width.bytes (e.x.get f.rdn).toNat) false (some e.cx)
    ∃ X : Dev, Answers (exec (.stc core f) s) s (X.afterIssue core (X.dataHit core e.x [(e.x.ea f e.next, f.width.bytes, .write)])) ∧
      WritesOnly D e.cx (Ctx.past { (D.ctx e.cx).wrFlags { val := 0, z := some true } with resv := none } e.next) X := by
  refine doneMod_answers h Env.stc (g := fun y => { y.wrFlags { val := 0, z := some true } with resv := none }) ?_
  simp only [Env.stc, (enter_ok h).form, (enter_ok h).sameCore, misaligned_of_aligned hal, ha, hr, hf]
  simp

/-- STC without its reservation takes the line and stores nothing; Z tells (R149). -/
theorem stc_answers_unreserved (h : s.dev.enter core .prim 0x25 f none (f.rdn :: Form.eaSrc f) false anyLevel = .ok e)
    (hal : (e.x.ea f e.next).toNat % f.width.bytes = 0)
    (ha : e.d.access e.w (e.x.ea f e.next) f.width.bytes .write .atomic .data = .ok d1 ps)
    (hr : ((d1.yieldStores core [(ps.headD (0, 0)).1 / 64]).ctx e.cx).resv ≠ some ((ps.headD (0, 0)).1 / 64)) :
    let D := (d1.yieldStores core [(ps.headD (0, 0)).1 / 64]).touchOwn core ((ps.headD (0, 0)).1 / 64) false
    ∃ X : Dev, Answers (exec (.stc core f) s) s (X.afterIssue core none) ∧
      WritesOnly D e.cx (Ctx.past { (D.ctx e.cx).wrFlags { val := 0, z := some false } with resv := none } e.next) X := by
  refine doneMod_answers h Env.stc (acc := [])
    (g := fun y => { y.wrFlags { val := 0, z := some false } with resv := none }) ?_
  have hb : (((d1.yieldStores core [(ps.headD (0, 0)).1 / 64]).ctx e.cx).resv == some ((ps.headD (0, 0)).1 / 64)) = false := by
    simpa using hr
  simp only [Env.stc, (enter_ok h).form, (enter_ok h).sameCore, misaligned_of_aligned hal, ha, hb]
  simp

/-- A read-modify-write of an item by its opcode (R145). -/
theorem rmw_answers {op : Nat} (h : s.dev.enter core .prim op f none (f.rdn :: Form.eaSrc f) false anyLevel = .ok e)
    (hal : (e.x.ea f e.next).toNat % f.width.bytes = 0)
    (ha : e.d.access e.w (e.x.ea f e.next) f.width.bytes .rmw .atomic .data = .ok d1 ps)
    (hf : e.undoFits d1 ps (List.replicate f.width.bytes 0) = true) (hd : f.lock = true → d1.drainReady core = true) :
    let Y := d1.yieldStores core (dramLines ps)
    let Z := if f.lock = true ∨ Y.partialHit core ps = true then Y.drain core else Y
    let old := leNat (Z.seenBytes core ps)
    let bs := leBytes f.width.bytes (rmwOp op f.width.bits old (f.width.cut (e.x.get f.rdn)))
    let D := if f.lock then Z.storeNow e.w ps bs f.hint (some e.cx) else Z.bufStore e.w ps bs f.hint (some e.cx)
    ∃ X : Dev, Answers (onDev (fun d => d.rmw core op f) s) s
        (X.afterIssue core (X.dataHit core e.x [(e.x.ea f e.next, f.width.bytes, .rmw)])) ∧
      WritesOnly D e.cx (((D.ctx e.cx).wr f.rdn (BitVec.ofNat 64 old)).past e.next) X := by
  intro Y Z old bs D
  refine doneMod_answers h (fun e => e.rmw op) (g := fun y => y.wr f.rdn (BitVec.ofNat 64 old)) ?_
  have hlock : (f.lock && !d1.drainReady core) = false := by
    cases hl : f.lock with
    | false => rfl
    | true => rw [hd hl]; rfl
  have hZ : e.rmwRead d1 ps = (Z, old) := by
    simp only [Env.rmwRead, (enter_ok h).form, (enter_ok h).sameCore, Bool.or_eq_true]
    rfl
  simp only [Env.rmw, (enter_ok h).form, (enter_ok h).sameCore, misaligned_of_aligned hal, ha, hf, hlock, hZ]
  rfl

end

/-! ### Items that fail their checks (R144) -/

/-- A body raises what its item's alignment or access raises. -/
structure Checks (e : Env) (k : AccKind) (wr : Bool) (r : IRes) : Prop where
  unaligned : ∀ x, misaligned (e.x.ea e.f e.next) e.f.width.bytes wr = some x → r = .exc x
  refused : ∀ x, misaligned (e.x.ea e.f e.next) e.f.width.bytes wr = none →
    e.d.access e.w (e.x.ea e.f e.next) e.f.width.bytes k .atomic .data = .exc x → r = .exc x

theorem checks_llk (e : Env) : Checks e .link false e.llk where
  unaligned x h := by simp only [Env.llk, h]
  refused x h ha := by simp only [Env.llk, h, ha]

theorem checks_stc (e : Env) : Checks e .write true e.stc where
  unaligned x h := by simp only [Env.stc, h]
  refused x h ha := by simp only [Env.stc, h, ha]

theorem checks_rmw (e : Env) (op : Nat) : Checks e .rmw true (e.rmw op) where
  unaligned x h := by simp only [Env.rmw, h]
  refused x h ha := by simp only [Env.rmw, h, ha]

section
variable {s : State} {core op : Nat} {f : Form} {srcs : List Nat} {e : Env} {k : AccKind} {body : Env → IRes} {wr : Bool}

theorem unaligned_answers (h : s.dev.enter core .prim op f none srcs false anyLevel = .ok e) (hb : Checks e k wr (body e))
    (hal : (e.x.ea f e.next).toNat % f.width.bytes ≠ 0) :
    Answers (onDev (fun d => d.issue core .prim op f none srcs false anyLevel body) s) s
      (e.d.raiseExc core { cls := 3, kind := 0, wr := wr, va := e.x.ea f e.next }) := by
  have hx := exc_answers h body (hb.unaligned _ (by rw [(enter_ok h).form]; exact misaligned_of_ne wr hal))
  rwa [faultWalk_of_start_none rfl] at hx

theorem outside_answers (h : s.dev.enter core .prim op f none srcs false anyLevel = .ok e) (hb : Checks e k wr (body e)) (hwr : k.writes = wr)
    {D : Dev} {pa level : Nat} (hal : (e.x.ea f e.next).toNat % f.width.bytes = 0)
    (hin : (e.x.ea f e.next).toNat % 4096 + f.width.bytes ≤ 4096) (hw : e.d.walkWaits e.w (e.x.ea f e.next) k = false)
    (hh : e.d.heldSpan e.slot (e.d.pasOf e.w (e.x.ea f e.next) f.width.bytes k) = false)
    (ht : e.d.translate e.w (e.x.ea f e.next) k = .ok (D, pa, level)) (hk : paKind pa ≠ .dram) :
    let x : Exc := { cls := 3, kind := 1, wr := wr, va := e.x.ea f e.next, start := some (e.x.ea f e.next) }
    Answers (onDev (fun d => d.issue core .prim op f none srcs false anyLevel body) s) s ((e.d.faultWalk core x).raiseExc core x) := by
  subst hwr
  rw [← Seats.slot_of_enter _ h] at hh
  refine exc_answers h body (hb.refused _ ?_ ?_)
  · rw [(enter_ok h).form]
    exact misaligned_of_aligned hal
  · rw [(enter_ok h).form]
    exact access_of_not_dram hin hw hh ht hk

end

/-- Settles O12: LLK, STC and the read-modify-writes by their bodies, and both failures by the check that all of them share. -/
theorem atomicsComplete : Obligations.AtomicsComplete := by
  unfold Obligations.AtomicsComplete
  refine ⟨fun s core f e d1 ps h => llk_answers h, fun s core f e d1 ps h => ?_, fun r hr s core f e d1 ps h => ?_, fun r hr s core f e h => ?_⟩
  · intro n va line bs D0 hal ha
    refine ⟨yieldStores_none, stc_answers h hal ha, fun hres => ?_⟩
    obtain ⟨X, hX, hw⟩ := stc_answers_unreserved h hal ha hres
    refine ⟨X, hX, hw, fun hon a => ?_⟩
    have hq := quiet_touchOwn core line false (yieldStores_law hon core [line]).1.on
    rw [WritesOnly_byte hw a, Dev.byte, hq.mem]
    rfl
  · fin_cases hr <;> exact rmw_answers h
  · fin_cases hr
    · exact ⟨unaligned_answers h (checks_llk e), fun D pa level => outside_answers h (checks_llk e) rfl⟩
    · exact ⟨unaligned_answers h (checks_stc e), fun D pa level => outside_answers h (checks_stc e) rfl⟩
    all_goals exact ⟨unaligned_answers h (checks_rmw e _), fun D pa level => outside_answers h (checks_rmw e _) rfl⟩

end Sys2Proof.Proofs.Atomics
end

section
/-!
SUPPORT. PFH and STIM: what a hint does of its access, and that acting on its line moves caches alone (R146, R147).
-/
namespace Sys2Proof.Proofs.Hints
open Sys2Proof Sys2Proof.Machine Sys2Proof.Safety Sys2Proof.Laws Sys2Proof.Proofs.Outcomes Sys2Proof.Proofs.Atomics

/-! ### A hint's line -/

/-- What a hint does of its line, whichever kind it names, moves lines between caches. -/
theorem quiet_hintLine {d : Dev} (core kind line : Nat) (nt : Bool) (h : AllOn d) : Quiet d (d.hintLine core kind line nt) := by
  unfold Dev.hintLine
  split
  · exact quiet_touchLine core line false nt h
  · exact quiet_touchOwn core line nt h
  · exact quiet_l2Get core line false nt h
  · exact quiet_l2Get core line true nt h
  · exact quiet_modL1 core (fun l => l.filter (fun e => e.line != line) ++ l.filter (fun e => e.line == line)) h

theorem hintLine_keeps {D d1 X : Dev} {core kind line cx : Nat} {nt : Bool} {p : Word} (hon : AllOn d1)
    (hD : D = d1.hintLine core kind line nt) (hw : WritesOnly D cx ((D.ctx cx).past p) X) :
    (∀ a, X.byte a = d1.byte a) ∧ ∀ j q, (X.ctx j).getP q = (d1.ctx j).getP q := by
  have hq : Quiet d1 D := hD ▸ quiet_hintLine core kind line nt hon
  refine ⟨fun a => (WritesOnly_byte hw a).trans (hq.byte a), fun j q => ?_⟩
  have hX : (X.ctx j).getP q = (D.ctx j).getP q := by
    by_cases hj : j = cx
    · subst hj
      rw [hw.ctx]
      rfl
    · rw [hw.others j hj]
  exact hX.trans (hq.getP j q)

/-! ### PFH -/

/-- What a hint does once its check has come out: none where it is dropped. -/
def hinted (e : Env) (chk : Except Exc (Dev × List Piece)) : Option Dev :=
  if e.d.walkWaits e.w (e.x.ea e.f e.next) .read then none
  else match chk with
    | .ok (d, [(pa, n)]) =>
      if paKind pa == .dram && !d.heldSpan e.slot [(pa, n)] then d.hint e.core e.f.rdn (pa / 64) e.f.hint else none
    | _ => none

theorem pfh_eq (e : Env) : e.pfh = e.finish ((hinted e (e.d.checkAccess e.w (e.x.ea e.f e.next) 1 .read .any)).getD e.d) := by
  unfold Env.pfh hinted
  rfl

section
variable {e : Env} {chk : Except Exc (Dev × List Piece)} {d1 : Dev} {pa m : Nat}

theorem hinted_of_waits (h : e.d.walkWaits e.w (e.x.ea e.f e.next) .read = true) : hinted e chk = none := if_pos h

theorem hinted_of_error {x : Exc} : hinted e (.error x) = none := by
  unfold hinted
  split <;> rfl

theorem hinted_of_dropped
    (h : paKind pa ≠ .dram ∨ d1.heldSpan e.slot [(pa, m)] = true ∨ d1.hint e.core e.f.rdn (pa / 64) e.f.hint = none) :
    hinted e (.ok (d1, [(pa, m)])) = none := by
  unfold hinted
  split
  · rfl
  · dsimp only
    rcases h with h | h | h
    · simp [h]
    · simp [h]
    · simp [h]

theorem hinted_of_reached (hw : e.d.walkWaits e.w (e.x.ea e.f e.next) .read = false) (hk : paKind pa = .dram)
    (hh : d1.heldSpan e.slot [(pa, m)] = false) :
    hinted e (.ok (d1, [(pa, m)])) = d1.hint e.core e.f.rdn (pa / 64) e.f.hint := by
  simp [hinted, hw, hk, hh]

end

section
variable {s : State} {core : Nat} {f : Form} {e : Env}

theorem pfh_dropped_answers (h : s.dev.enter core .prim 0x26 f none (Form.eaSrc f) false anyLevel = .ok e)
    (hd : hinted e (e.d.checkAccess e.w (e.x.ea e.f e.next) 1 .read .any) = none) :
    ∃ X : Dev, Answers (exec (.pfh core f) s) s (X.afterIssue core none) ∧ WritesOnly e.d e.cx (e.x.past e.next) X := by
  have hb : Env.pfh e = e.finish e.d := by rw [pfh_eq, hd]; rfl
  exact (enter_ok h).ctx ▸ finish_answers h Env.pfh hb

theorem pfh_answers {D : Dev} (h : s.dev.enter core .prim 0x26 f none (Form.eaSrc f) false anyLevel = .ok e)
    (hd : hinted e (e.d.checkAccess e.w (e.x.ea e.f e.next) 1 .read .any) = some D) :
    ∃ X : Dev, Answers (exec (.pfh core f) s) s (X.afterIssue core none) ∧ WritesOnly D e.cx ((D.ctx e.cx).past e.next) X := by
  refine finish_answers h Env.pfh ?_
  rw [pfh_eq, hd]
  rfl

end

/-- Settles O13: a hint by what its check gives, a stimulus by whether its port writes. -/
theorem hintsAndStimulusComplete : Obligations.HintsAndStimulusComplete := by
  unfold Obligations.HintsAndStimulusComplete
  refine ⟨fun s core f e h => ?_, fun s core f e h => ?_⟩
  · intro va chk
    have hf : e.f = f := (enter_ok h).form
    have hc : e.core = core := (enter_ok h).sameCore
    subst hf hc
    refine ⟨fun hdrop => pfh_dropped_answers h ?_, fun d1 pa m D hw hchk hk hh hD => ?_⟩
    · rcases hdrop with hw | ⟨x, hx⟩ | ⟨d1, pa, m, hchk, hno⟩
      · exact hinted_of_waits hw
      · exact (congrArg (hinted e) hx).trans hinted_of_error
      · exact (congrArg (hinted e) hchk).trans (hinted_of_dropped hno)
    · have hd : hinted e chk = some D := (congrArg (hinted e) hchk).trans ((hinted_of_reached hw hk hh).trans hD)
      obtain ⟨X, hX, hwr⟩ := pfh_answers h hd
      exact ⟨X, hX, hwr, fun hon hline => hintLine_keeps hon hline hwr⟩
  · have hf : e.f = f := (enter_ok h).form
    have hc : e.core = core := (enter_ok h).sameCore
    subst hf hc
    refine ⟨fun hoff => ?_, fun hon => finish_answers h Env.stim (if_pos hon)⟩
    have hb : Env.stim e = e.finish e.d := if_neg (by simpa using hoff)
    exact (enter_ok h).ctx ▸ finish_answers h Env.stim hb

end Sys2Proof.Proofs.Hints
end

section
/-!
SUPPORT. System instructions: where each leaves its context and its core, and the end of an IDLE's wait (R161, R162, R165, R167, R181, R211,
R212, R286, R391).
-/
namespace Sys2Proof.Proofs.SystemRows
open Sys2Proof Sys2Proof.Machine Sys2Proof.Safety Sys2Proof.Laws Sys2Proof.Proofs.Outcomes Sys2Proof.Proofs.Atomics

/-! ### Several cores at once -/

section
variable (d : Dev) (l : List Nat) (g : Core → Core)

theorem ctx_eachCore (j : Nat) : (each l (fun d c => d.modCore c g) d).ctx j = d.ctx j :=
  Loops.each_keeps (fun d => d.ctx j) l (fun d c => d.modCore c g) (fun _ _ => rfl) d

theorem mem_eachCore : (each l (fun d c => d.modCore c g) d).mem = d.mem :=
  Loops.each_keeps (fun d => d.mem) l (fun d c => d.modCore c g) (fun _ _ => rfl) d

/-- A change that is settled once made reaches the cores listed, however often a core is listed. -/
theorem core_eachCore (hg : ∀ c, g (g c) = g c) (k : Nat) :
    (each l (fun d c => d.modCore c g) d).core k = if k ∈ l then g (d.core k) else d.core k := by
  induction l generalizing d with
  | nil => rfl
  | cons a t ih =>
    have hstep : (each (a :: t) (fun d c => d.modCore c g) d).core k = if k ∈ t then g ((d.modCore a g).core k) else (d.modCore a g).core k :=
      ih (d.modCore a g)
    rw [hstep, modCore_eq, core_setCore]
    by_cases hk : k = a
    · subst hk
      simp [hg]
    · simp [hk]

end

/-! ### CTXSW and the fences -/

section
variable {s : State} {core op : Nat} {f : Form} {e : Env} {D : Dev} {r : IRes}

theorem drained_of_ready (h : e.d.drainReady e.core = true) (r : IRes) : e.drained r = r := if_pos h

theorem drained_of_not_ready (h : e.d.drainReady e.core = false) (r : IRes) : e.drained r = .pause (e.d.askDrain e.core) :=
  if_neg (by simp [h])

/-- CTXSW into a bank that the context's world may run. -/
theorem ctxsw_of_permitted (h : e.x.secure = true ∨ (e.d.ctx (e.core * 4 + e.f.raw % 4)).secure = false) :
    e.ctxsw = e.drained (.placed (((e.d.setCtx e.cx { e.x.setPsw 21 16 0 with pc := e.next, resv := none }).drain e.core).modCore e.core
      (fun c => { c with cur := e.f.raw % 4 })) []) :=
  if_neg (by rcases h with h | h <;> simp [h])

theorem ctxsw_of_refused (h : e.x.secure = false) (h' : (e.d.ctx (e.core * 4 + e.f.raw % 4)).secure = true) :
    e.ctxsw = .exc { cls := 2 } :=
  if_pos (by simp [h, h'])

/-- The bank made current is the core's context from then on. -/
theorem curCtx_modCore (d : Dev) (core b : Nat) : (d.modCore core (fun c => { c with cur := b })).curCtx core = core * 4 + b := by
  rw [Dev.curCtx, modCore_eq, core_setCore_same]

theorem fence_waits {body : Env → IRes} (h : s.dev.enter core .prim op f none [] false anyLevel = .ok e)
    (hb : body e = e.drained (e.finish (e.d.drain e.core))) (hd : e.d.drainReady core = false) :
    Answers (onDev (fun d => d.issue core .prim op f none [] false anyLevel body) s) s (e.d.askDrain core) := by
  obtain rfl := (enter_ok h).sameCore
  exact pause_answers h body (hb.trans (drained_of_not_ready hd _))

/-- A fence empties its core's store buffer into memory (R162). -/
theorem fence_answers {body : Env → IRes} (h : s.dev.enter core .prim op f none [] false anyLevel = .ok e)
    (hb : body e = e.drained (e.finish (e.d.drain e.core))) (hd : e.d.drainReady core = true) :
    ∃ X : Dev, Answers (onDev (fun d => d.issue core .prim op f none [] false anyLevel body) s) s (X.afterIssue core none) ∧
      WritesOnly (e.d.drain core) e.cx (((e.d.drain core).ctx e.cx).past e.next) X ∧
      (AllOn e.d → ((e.d.drain core).core core).sbuf = [] ∧
        (e.d.drain core).mem = (e.d.core core).sbuf.foldl (fun m b => m.putAll (e.d.mirrored b.bytes)) e.d.mem) := by
  obtain rfl := (enter_ok h).sameCore
  obtain ⟨X, hX, hw⟩ := finish_answers h body (hb.trans (drained_of_ready hd _))
  refine ⟨X, hX, hw, fun hon => ?_⟩
  obtain ⟨-, hmem, hbuf⟩ := drain_law hon e.core
  exact ⟨by rw [hbuf, if_pos rfl], hmem⟩

end

/-! ### BPFLUSH and TWAIT -/

section
variable {s : State} {core : Nat} {e : Env}

theorem bpflush_answers_keeper (h : s.dev.enter core .prim 0x5A {} none [] false anyLevel = .ok e) (hk : e.x.keeper = true) :
    ∃ X : Dev, Answers (exec (.bpflush core) s) s (X.afterIssue core none) ∧
      WritesOnly e.d.draw.2 e.cx (Ctx.past { e.x with btable := [], rstack := .empty, secret := e.d.draw.1 } e.next) X := by
  have hb : e.bpflush = e.finish (e.d.draw.2.setCtx e.cx { e.x with btable := [], rstack := .empty, secret := e.d.draw.1 }) := if_pos hk
  obtain ⟨X, hX, hw⟩ := finish_answers h Env.bpflush hb
  rw [ctx_setCtx_same] at hw
  exact ⟨X, hX, writesOnly_of_setCtx hw⟩

theorem bpflush_answers (h : s.dev.enter core .prim 0x5A {} none [] false anyLevel = .ok e) (hk : e.x.keeper = false) :
    ∃ X : Dev, Answers (exec (.bpflush core) s) s (X.afterIssue core none) ∧
      WritesOnly e.d e.cx (Ctx.past { e.x with btable := [], rstack := .empty } e.next) X :=
  onDev_put (room := fun _ => none) h Env.bpflush _ (if_neg (Bool.eq_false_iff.mp hk))

theorem twait_of_idle
    (ht : (e.d.trDrain (e.core / 4) e.slot (fun t => t.ctx == e.cx)).trPending e.cx (fun _ => true) = false)
    (hc : ((e.d.trDrain (e.core / 4) e.slot (fun t => t.ctx == e.cx)).room e.slot).fwd.out.any (fun c => c.ctx == e.cx && c.tagOn) = false) :
    e.twait = e.finish (e.d.trDrain (e.core / 4) e.slot (fun t => t.ctx == e.cx)) :=
  if_neg (by simp only [ht, hc]; decide)

end

/-! ### The end of IDLE's wait (R165) -/

section
variable {d : Dev} {core slot : Nat}

/-- The core runs again, past the IDLE at which it stood. -/
def woken (d : Dev) (core : Nat) : Dev :=
  let d := each (d.haltSet core) (fun d c => d.modCore c (fun k => { k with run := .running })) (d.wake (core / 4))
  d.modCtx (d.curCtx core) (fun y => y.past (y.pc + 1))

theorem idleEnd_of_no_source (hs : d.coreSlot core = some slot) (h : d.nextIrq core true = none) : d.idleEnd core = d := by
  simp [Dev.idleEnd, hs, h]

theorem idleEnd_of_source (hs : d.coreSlot core = some slot) (hirq : d.nextIrq core true ≠ none) (hph : (d.room slot).phase = .running)
    (hrun : (d.core core).run = .idle) (hstep : (d.core core).stepping = none) (hhalt : (d.core core).halted = none)
    (hlead : d.leads core = true) (hdue : d.boundaryDue slot = false) :
    d.idleEnd core = match (woken d core).nextIrq core false with
      | some i => ((woken d core).takeIrq core i ((woken d core).ctx ((woken d core).curCtx core)).pc).ends core
      | none => (woken d core).afterIssue core none := by
  have hsome : (d.nextIrq core true).isSome = true := Option.isSome_iff_ne_none.mpr hirq
  simp only [Dev.idleEnd, hs, hph, hrun, hstep, hhalt, hlead, hdue, hsome]
  rfl

end

/-- Settles O19: each row by its body, and the end of IDLE's wait by what is pending. -/
theorem systemInstructionsComplete : Obligations.SystemInstructionsComplete := by
  unfold Obligations.SystemInstructionsComplete
  refine ⟨fun s core f e h => ?ctxsw, fun r hr s core e h => ?fence, fun s core e h => ?bpflush, fun s core e h => ?bpbar,
    fun s core e h => ?idle, fun s core e h => ?twait, fun s core e h => ?nop, fun s core slot hs => ?idleEnd⟩
  case ctxsw =>
    obtain rfl := (enter_ok h).sameCore
    obtain rfl := (enter_ok h).form
    refine ⟨fun hp => ⟨fun hd => ⟨?_, curCtx_modCore _ _ _⟩, fun hd => ?_⟩, fun hn hsec => ?_⟩
    · exact onDev_leave (room := fun d => d.bankCause e.core e.f) h Env.ctxsw ((ctxsw_of_permitted hp).trans (drained_of_ready hd _))
    · exact onDev_leave (room := fun d => d.bankCause e.core e.f) h Env.ctxsw ((ctxsw_of_permitted hp).trans (drained_of_not_ready hd _))
    · have hx := onDev_leave (room := fun d => d.bankCause e.core e.f) h Env.ctxsw (ctxsw_of_refused hn hsec)
      rwa [Dev.leave, faultWalk_of_start_none rfl] at hx
  case fence =>
    obtain rfl := (enter_ok h).sameCore
    fin_cases hr
    · exact ⟨fence_waits h rfl, fence_answers h rfl⟩
    · exact ⟨fence_waits h rfl, fence_answers h rfl⟩
  case bpflush =>
    cases hk : e.x.keeper with
    | false =>
      obtain ⟨X, hX, hw⟩ := bpflush_answers h hk
      exact ⟨X, _, hX, fun _ => ⟨hw, rfl⟩, fun hk' => absurd hk' Bool.false_ne_true⟩
    | true =>
      obtain ⟨X, hX, hw⟩ := bpflush_answers_keeper h hk
      exact ⟨X, { e.x with btable := [], rstack := .empty, secret := e.d.draw.1 }, hX,
        fun hk' => absurd hk'.symm Bool.false_ne_true, fun _ => ⟨hw, rfl⟩⟩
  case bpbar => exact onDev_put (room := fun _ => none) h _ _ rfl
  case idle =>
    obtain rfl := (enter_ok h).sameCore
    refine ⟨_, pause_answers h Env.idle rfl, ctx_eachCore _ _ _, mem_eachCore _ _ _, core_eachCore _ _ _ (fun _ => rfl)⟩
  case twait =>
    obtain rfl := (enter_ok h).sameCore
    exact fun ht hc => finish_answers h Env.twait (twait_of_idle ht hc)
  case nop => exact (enter_ok h).ctx ▸ finish_answers h _ rfl
  case idleEnd =>
    refine ⟨fun hnone => ?_, fun hirq hph hrun hstep hhalt hlead hdue => ?_⟩
    · have ha := onDev_answers (fun d => d.idleEnd core) s
      rwa [idleEnd_of_no_source hs hnone] at ha
    · have ha := onDev_answers (fun d => d.idleEnd core) s
      rw [idleEnd_of_source hs hirq hph hrun hstep hhalt hlead hdue] at ha
      refine ⟨fun hnone => ?_, fun i hi => ?_⟩
      · have hn : (woken s.dev core).nextIrq core false = none := hnone
        rwa [hn] at ha
      · have hn : (woken s.dev core).nextIrq core false = some i := hi
        rwa [hn] at ha

end Sys2Proof.Proofs.SystemRows
end

section
/-!
SUPPORT. Block transfers: one element of an STM or an LDM, the elements before it, the wait of an LDM for a completion, the two whole-block
transfers, and the fields of H5 that they move (R157 to R160, R174, R183).
-/
namespace Sys2Proof.Proofs.BlockRows
open Sys2Proof Sys2Proof.Machine Sys2Proof.Safety Sys2Proof.Laws Sys2Proof.Proofs.Outcomes Sys2Proof.Proofs.StoreRows
open Sys2Proof.Proofs.LobbyOpening Sys2Proof.Proofs.Windows

/-! ### Elements in order -/

/-- A transfer that goes on past each element from `k` up to `j` stands at element `j`. -/
theorem transfer_reaches {F : List (Nat × Word) → Nat → Dev → IRes} {l : List (Nat × Word)} {ds : Nat → Dev} {k : Nat} (n : Nat)
    (hlen : k + n ≤ l.length)
    (h : ∀ i q a t, k ≤ i → i < k + n → l[i]? = some (q, a) → F ((q, a) :: t) i (ds i) = F t (i + 1) (ds (i + 1))) :
    F (l.drop k) k (ds k) = F (l.drop (k + n)) (k + n) (ds (k + n)) := by
  induction n with
  | zero => rfl
  | succ n ih =>
    have hlt : k + n < l.length := by omega
    rw [ih (by omega) (fun i q a t hi hj => h i q a t hi (by omega)), List.drop_eq_getElem_cons hlt]
    exact h (k + n) _ _ _ (by omega) (by omega) (List.getElem?_eq_getElem hlt)

/-- The same, with the element where it stands in view. -/
theorem transfer_at {F : List (Nat × Word) → Nat → Dev → IRes} {l : List (Nat × Word)} {ds : Nat → Dev} {k j r : Nat} {va : Word}
    (hkj : k ≤ j) (hj : l[j]? = some (r, va))
    (h : ∀ i q a t, k ≤ i → i < j → l[i]? = some (q, a) → F ((q, a) :: t) i (ds i) = F t (i + 1) (ds (i + 1))) :
    F (l.drop k) k (ds k) = F ((r, va) :: l.drop (j + 1)) j (ds j) := by
  obtain ⟨n, rfl⟩ := Nat.exists_eq_add_of_le hkj
  obtain ⟨hlt, hget⟩ := List.getElem?_eq_some_iff.mp hj
  rw [transfer_reaches n hlt.le h, List.drop_eq_getElem_cons hlt, hget]

theorem drop_eq_nil_iff_last {α : Type} {l : List α} {j : Nat} {a : α} (hj : l[j]? = some a) : l.drop (j + 1) = [] ↔ l.length = j + 1 := by
  have hlt := (List.getElem?_eq_some_iff.mp hj).1
  rw [List.drop_eq_nil_iff]
  omega

theorem blk_pc_of_goesOn {e : Env} {d : Dev} {k : Nat} (h : e.goesOn d k = true) : (d.ctx e.cx).blk = k ∧ (d.ctx e.cx).pc = e.x.pc := by
  simp only [Env.goesOn, Bool.and_eq_true, beq_iff_eq] at h
  exact ⟨h.2, h.1.2⟩

/-! ### STM -/

section
variable {s : State} {core : Nat} {f : Form} {brk : Option Nat} {e : Env} {d d' : Dev} {k r : Nat} {va : Word} {t : List (Nat × Word)}

/-- What follows a stored element: a break, a comparator, or the next element. -/
theorem stmFrom_of_stores (h : StoresElem e k r va d d') :
    e.stmFrom brk ((r, va) :: t) k d = if d'.breaksAt e.core k brk then .pause d'
      else if (e.hits va 8 .write).isSome then .placed d' [(va, 8, .write)] else e.stmFrom brk t (k + 1) d' := by
  obtain ⟨d1, ps, ha, hfit, hd', hgo⟩ := h
  have hst : e.storeItem d va (leBytes 8 (e.x.get r).toNat) e.f.hint none (fun y => y.setPsw 21 16 (k + 1)) = .ok d' 0 := by
    rw [hd']
    exact storeItem_of_fits _ (by rw [length_leBytes]; exact ha) hfit
  simp only [Env.stmFrom, hst, hgo, Bool.not_true, Bool.false_or]

theorem StoresElem_goesOn (h : StoresElem e k r va d d') : e.goesOn d' (k + 1) = true := by
  obtain ⟨-, -, -, -, -, hgo⟩ := h
  exact hgo

theorem stmFrom_goes_on (h : StoresElem e k r va d d') (hb : d'.breaksAt e.core k brk = false) (hh : e.hits va 8 .write = none) :
    e.stmFrom brk ((r, va) :: t) k d = e.stmFrom brk t (k + 1) d' := by
  rw [stmFrom_of_stores h, hb, hh]
  rfl

theorem stm_of_none_left (h : (blockElems e.f.raw (e.x.get e.f.rsn)).length ≤ e.x.blk) : e.stm brk = e.finish e.d := if_pos h

theorem stm_of_some_left (h : ¬ (blockElems e.f.raw (e.x.get e.f.rsn)).length ≤ e.x.blk) (ha : (e.x.get e.f.rsn).toNat % 8 = 0) :
    e.stm brk = e.stmFrom brk ((blockElems e.f.raw (e.x.get e.f.rsn)).drop e.x.blk) e.x.blk e.d := by
  simp only [Env.stm, if_neg h, misaligned_of_aligned ha]

end

/-! ### LDM -/

section
variable {brk : Option Nat} {base : Word} {all : List (Nat × Word)} {e : Env} {d d' d1 : Dev} {k r pa m : Nat} {va : Word}
  {t : List (Nat × Word)} {ps : List Piece}

theorem ldmFrom_of_loads (h : LoadsElem e k r va d d') :
    e.ldmFrom brk base all ((r, va) :: t) k d = if d'.breaksAt e.core k brk then .pause d'
      else if (e.hits va 8 .read).isSome then .placed d' [(va, 8, .read)] else e.ldmFrom brk base all t (k + 1) d' := by
  obtain ⟨d1, ps, d2, v, ha, hload, rfl, hgo⟩ := h
  have hitem : e.loadItem d va 8 e.f.hint .item = .ok d2 v := by
    simp only [Env.loadItem, ha, hload]
  simp only [Env.ldmFrom, hitem, hgo, Bool.not_true, Bool.false_or]

theorem LoadsElem_goesOn (h : LoadsElem e k r va d d') : e.goesOn d' (k + 1) = true := by
  obtain ⟨-, -, -, -, -, -, -, hgo⟩ := h
  exact hgo

theorem ldmFrom_goes_on (h : LoadsElem e k r va d d') (hb : d'.breaksAt e.core k brk = false) (hh : e.hits va 8 .read = none) :
    e.ldmFrom brk base all ((r, va) :: t) k d = e.ldmFrom brk base all t (k + 1) d' := by
  rw [ldmFrom_of_loads h, hb, hh]
  rfl

theorem ldm_of_none_left (h : (ldmElems e.f.raw (e.x.get e.f.rsn) e.f.rsn).length ≤ e.x.blk) : e.ldm brk = e.finish e.d := if_pos h

theorem ldm_of_some_left (h : ¬ (ldmElems e.f.raw (e.x.get e.f.rsn) e.f.rsn).length ≤ e.x.blk) (ha : (e.x.get e.f.rsn).toNat % 8 = 0) :
    e.ldm brk = e.ldmFrom brk (e.x.get e.f.rsn) (ldmElems e.f.raw (e.x.get e.f.rsn) e.f.rsn)
      ((ldmElems e.f.raw (e.x.get e.f.rsn) e.f.rsn).drop e.x.blk) e.x.blk e.d := by
  simp only [Env.ldm, if_neg h, misaligned_of_aligned ha]

/-- An element in PCIe memory behind a link that is up: the read is on the bus (R425). -/
theorem loadItem_of_pcie (ha : d.access e.w va 8 .read .item .data = .ok d1 ((pa, m) :: ps)) (hk : paKind pa = .pcie)
    (hup : (d1.wake 100).portUp ((d1.wake 100).portAt pa) = true) :
    e.loadItem d va 8 e.f.hint .item = .bus ((d1.wake 100).emit (.pcieRead pa 8)) pa 8 [] 0 8 := by
  simp only [Env.loadItem, ha, Env.loadAt, hk, Dev.pcieRead, hup, if_true]

/-- The transfer then stands waiting, with what the completion is to do. -/
theorem ldmFrom_waits (ha : d.access e.w va 8 .read .item .data = .ok d1 ((pa, m) :: ps)) (hk : paKind pa = .pcie)
    (hup : (d1.wake 100).portUp ((d1.wake 100).portAt pa) = true) :
    ∃ (D : Dev) (w : PcieWait), e.ldmFrom brk base all ((r, va) :: t) k d = .pause (D.startWait e.core w) ∧ w.pa = pa ∧ w.len = 8 ∧
      w.dst = e.x.phys r ∧ w.next = (if t.isEmpty then e.next else e.x.pc) ∧ w.blk = if t.isEmpty then 0 else k + 1 := by
  simp only [Env.ldmFrom, loadItem_of_pcie ha hk hup]
  exact ⟨_, _, rfl, rfl, rfl, rfl, rfl, rfl⟩

theorem wait_startWait (d : Dev) (core : Nat) (w : PcieWait) : ((d.startWait core w).core core).wait = some w := by
  rw [Dev.startWait, modCore_eq, core_setCore_same]

end

/-! ### SPILLW and FILLW -/

section
variable {e E : Env}

/-- Waiting for H5 changes the device and the context, and nothing else of what the transfer works with. -/
theorem blockSrc_frame (h : e.blockSrc = some E) : E = { e with d := E.d, x := E.x } := by
  unfold Env.blockSrc at h
  split at h
  · cases h
    rfl
  · dsimp only at h
    split at h
    · cases h
    · cases h
      rfl

theorem blockSrc_of_ring (h : e.x.tw = false) : e.blockSrc = some e := if_pos (by rw [h]; rfl)

theorem blockSrc_of_trap {d : Dev} (h : e.x.tw = true) (ht : e.d.tagWait e.core e.slot e.cx [e.x.phys (rH 5)] = some d) :
    e.blockSrc = some { e with d := d.setCtx e.cx ((d.ctx e.cx).settle [rH 5] false), x := (d.ctx e.cx).settle [rH 5] false } := by
  simp only [Env.blockSrc, h, ht]
  rfl

/-- A block load with nothing owed is done. -/
theorem filled_of_all {d : Dev} {b : Nat} {ret : Bool} {l : List FillPart} {next : Word} {done : Dev → IRes} {hit : Option Bp}
    (h : ∀ q ∈ l, q.owed = 0) : e.filled d b ret l next done hit = done (d.modCtx e.cx (fun y => y.loadParts b l [])) := by
  have hf : l.find? (fun p => p.owed != 0) = none := List.find?_eq_none.mpr fun q hq => by simp [h q hq]
  simp only [Env.filled, hf]

/-- A block load with something owed waits for it. -/
theorem filled_of_owed {d : Dev} {b : Nat} {ret : Bool} {l : List FillPart} {next : Word} {done : Dev → IRes} {hit : Option Bp}
    (h : ∃ q ∈ l, q.owed ≠ 0) : ∃ w : PcieWait, e.filled d b ret l next done hit = .pause (d.startWait e.core w) ∧ w.next = next ∧
      w.block = some { block := b, ret := ret, parts := l } := by
  obtain ⟨q, hq, ho⟩ := h
  cases hf : l.find? (fun p => p.owed != 0) with
  | none => exact absurd (List.find?_eq_none.mp hf q hq) (by simpa using ho)
  | some p =>
    simp only [Env.filled, hf]
    exact ⟨_, rfl, rfl, rfl⟩

end

/-! ### RD and SC of H5 (R174) -/

/-- RD and SC replaced in a register: they read back modulo their widths, and the bits around them stay. -/
theorem moved_fields (h rd sc : Nat) :
    let n := setField (setField h 7 4 rd) 27 8 sc
    n / 16 % 16 = rd % 16 ∧ n / 256 % 2 ^ 20 = sc % 2 ^ 20 ∧ n % 16 = h % 16 ∧ n / 2 ^ 28 = h / 2 ^ 28 := by
  dsimp only
  rw [setField_eq _ 27 8 _ (by decide), setField_eq _ 7 4 _ (by decide)]
  norm_num
  omega

theorem get_set_same (x : Ctx) {n : Nat} (hn : n ≠ 0) (v : Word) : (x.set n v).get n = v := by
  have hpsn : (x.set n v).psn = x.psn := congrArg BitVec.toNat (psw_setP x _ _)
  have hphys : (x.set n v).phys n = x.phys n :=
    phys_congr (congrArg (bit · 12) hpsn) (congrArg (field · 11 8) hpsn) (congrArg (field · 5 4) hpsn) n
  rw [Ctx.get, hphys, Ctx.set, getP_setP_ite, if_pos ⟨rfl, phys_ne_zero hn⟩]

theorem countBlock_fields {x : Ctx} {fill : Bool} (hw : x.inWindowTrap = true)
    (hkind : (x.get (rH 5)).toNat / 2 ^ 28 % 4 = if fill then 2 else 1) :
    let h5 := (x.get (rH 5)).toNat
    let n := ((x.countBlock fill).get (rH 5)).toNat
    n / 16 % 16 = (h5 / 16 % 16 + (if fill then 1 else 15)) % 16 ∧
    n / 256 % 2 ^ 20 = (h5 / 256 % 2 ^ 20 + (if fill then 2 ^ 20 - 1 else 1)) % 2 ^ 20 ∧
    n % 16 = h5 % 16 ∧ n / 2 ^ 28 = h5 / 2 ^ 28 := by
  have hk : field (x.get (rH 5)).toNat 29 28 = if fill then 2 else 1 := by
    rw [field, Nat.shiftRight_eq_div_pow]
    exact hkind
  have hlt : (x.get (rH 5)).toNat < 2 ^ 64 := (x.get (rH 5)).isLt
  have hget (rd sc : Nat) : ((x.set (rH 5) (BitVec.ofNat 64 (setField (setField (x.get (rH 5)).toNat 7 4 rd) 27 8 sc))).get (rH 5)).toNat =
      setField (setField (x.get (rH 5)).toNat 7 4 rd) 27 8 sc := by
    rw [get_set_same x (by decide), BitVec.toNat_ofNat,
      Nat.mod_eq_of_lt (setField_lt (by decide) (by decide) (setField_lt (by decide) (by decide) hlt))]
  have hrd : field (x.get (rH 5)).toNat 7 4 = (x.get (rH 5)).toNat / 16 % 16 :=
    congrArg (· % 16) (Nat.shiftRight_eq_div_pow _ 4)
  have hsc : field (x.get (rH 5)).toNat 27 8 = (x.get (rH 5)).toNat / 256 % 2 ^ 20 :=
    congrArg (· % 2 ^ 20) (Nat.shiftRight_eq_div_pow _ 8)
  simp only [Ctx.countBlock, hw, hk, beq_self_eq_true, Bool.and_self, if_true, hget, hrd, hsc]
  have hm := moved_fields (x.get (rH 5)).toNat
  cases fill
  · exact hm _ _
  · exact hm _ _

/-! ### The rows -/

section
variable {s : State} {core : Nat} {f : Form} {brk : Option Nat} {e : Env} {m : OpMap} {op : Nat} {srcs : List Nat} {priv : Ctx → Bool}

/-- What a body answers that stands just past an element: it stops there, halts there, or completes with its last one. -/
theorem element_answers {D : Dev} {body : Env → IRes} {rest : Nat → Dev → IRes} {j : Nat} {va : Word} {kind : AccKind}
    (h : s.dev.enter core m op f none srcs false priv = .ok e)
    (hb : body e = if D.breaksAt e.core j brk then .pause D
      else if (e.hits va 8 kind).isSome then .placed D [(va, 8, kind)] else rest (j + 1) D) (last : Prop)
    (hlast : last → rest (j + 1) D = .placed (D.modCtx e.cx (fun y => y.past e.next)) []) :
    let ends := fun (X : Dev) => Answers (onDev (fun d => d.issue core m op f none srcs false priv body) s) s X
    (D.breaksAt core j brk = true → ends D) ∧
    (D.breaksAt core j brk = false → e.hits va 8 kind ≠ none → ends (D.afterIssue core (D.dataHit core e.x [(va, 8, kind)]))) ∧
    (D.breaksAt core j brk = false → e.hits va 8 kind = none → last →
      ends ((D.modCtx e.cx (fun y => y.past e.next)).afterIssue core none)) := by
  obtain rfl := (enter_ok h).sameCore
  refine ⟨fun hbrk => ?_, fun hbrk hhit => ?_, fun hbrk hhit hl => ?_⟩
  · exact pause_answers h body (by rw [hb, if_pos hbrk])
  · exact placed_answers h body (by rw [hb, hbrk, if_neg Bool.false_ne_true, if_pos (Option.isSome_iff_ne_none.mpr hhit)])
  · have hend : body e = .placed (D.modCtx e.cx (fun y => y.past e.next)) [] := by rw [hb, hbrk, hhit, ← hlast hl]; rfl
    exact placed_answers h body hend

end

section
variable {s : State} {core : Nat} {f : Form} {brk : Option Nat} {e : Env} {ds : Nat → Dev} {j r : Nat} {va : Word}

theorem not_le_of_getElem? {α : Type} {l : List α} {k j : Nat} {a : α} (hkj : k ≤ j) (hj : l[j]? = some a) : ¬ l.length ≤ k := by
  have hlt := (List.getElem?_eq_some_iff.mp hj).1
  omega

/-- An STM stands at element `j` once it has gone on past the elements before it. -/
theorem stm_at (ha : (e.x.get e.f.rsn).toNat % 8 = 0) (hkj : e.x.blk ≤ j) (hj : (blockElems e.f.raw (e.x.get e.f.rsn))[j]? = some (r, va))
    (hd : ds e.x.blk = e.d)
    (hst : ∀ i q a, e.x.blk ≤ i → i ≤ j → (blockElems e.f.raw (e.x.get e.f.rsn))[i]? = some (q, a) →
      StoresElem e i q a (ds i) (ds (i + 1)))
    (hgo : ∀ i q a, e.x.blk ≤ i → i < j → (blockElems e.f.raw (e.x.get e.f.rsn))[i]? = some (q, a) →
      (ds (i + 1)).breaksAt e.core i brk = false ∧ e.hits a 8 .write = none) :
    e.stm brk = e.stmFrom brk ((r, va) :: (blockElems e.f.raw (e.x.get e.f.rsn)).drop (j + 1)) j (ds j) := by
  rw [stm_of_some_left (not_le_of_getElem? hkj hj) ha, ← hd]
  refine transfer_at (F := e.stmFrom brk) hkj hj fun i q a t hi hij hq => ?_
  obtain ⟨hbrk, hhit⟩ := hgo i q a hi hij hq
  exact stmFrom_goes_on (hst i q a hi hij.le hq) hbrk hhit

/-- An LDM likewise. -/
theorem ldm_at (ha : (e.x.get e.f.rsn).toNat % 8 = 0) (hkj : e.x.blk ≤ j)
    (hj : (ldmElems e.f.raw (e.x.get e.f.rsn) e.f.rsn)[j]? = some (r, va)) (hd : ds e.x.blk = e.d)
    (hgo : ∀ i q a, e.x.blk ≤ i → i < j → (ldmElems e.f.raw (e.x.get e.f.rsn) e.f.rsn)[i]? = some (q, a) →
      LoadsElem e i q a (ds i) (ds (i + 1)) ∧ (ds (i + 1)).breaksAt e.core i brk = false ∧ e.hits a 8 .read = none) :
    e.ldm brk = e.ldmFrom brk (e.x.get e.f.rsn) (ldmElems e.f.raw (e.x.get e.f.rsn) e.f.rsn)
      ((r, va) :: (ldmElems e.f.raw (e.x.get e.f.rsn) e.f.rsn).drop (j + 1)) j (ds j) := by
  rw [ldm_of_some_left (not_le_of_getElem? hkj hj) ha, ← hd]
  refine transfer_at (F := e.ldmFrom brk (e.x.get e.f.rsn) (ldmElems e.f.raw (e.x.get e.f.rsn) e.f.rsn)) hkj hj
    fun i q a t hi hij hq => ?_
  obtain ⟨hload, hbrk, hhit⟩ := hgo i q a hi hij hq
  exact ldmFrom_goes_on hload hbrk hhit

theorem spillw_answers {E : Env} {d1 d2 : Dev} {ps : List Piece}
    (h : s.dev.enter core .prim 0x52 f none (Form.eaSrc f) false notUser = .ok e) (hE : e.blockSrc = some E)
    (hal : (E.x.ea e.f e.next).toNat % 64 = 0) (hw : E.d.tagWait e.core e.slot e.cx (blockRegs E.x.movedBlock) = some d1)
    (ha : (d1.modCtx e.cx Ctx.finishAll).access E.w (E.x.ea e.f e.next) 128 .write .any .data = .ok d2 ps)
    (hf : E.undoFits d2 ps (wordsBytes (((d1.modCtx e.cx Ctx.finishAll).ctx e.cx).blockWords E.x.movedBlock)) = true) :
    let ws := ((d1.modCtx e.cx Ctx.finishAll).ctx e.cx).blockWords E.x.movedBlock
    let X := each ((List.range 16).zip ws) (fun d p => E.storeAt d [(paAt ps (8 * p.1), 8)] (leBytes 8 p.2.toNat) false none)
      (d2.modCtx e.cx (fun y => (y.countBlock false).past e.next))
    Answers (exec (.spillw core f) s) s (X.afterIssue core (X.dataHit core e.x [(E.x.ea e.f e.next, 128, .write)])) := by
  refine placed_answers h Env.spillw ?_
  have hfr := blockSrc_frame hE
  have hcx : E.cx = e.cx := by rw [hfr]
  have hcore : E.core = e.core := by rw [hfr]
  have hslot : E.slot = e.slot := by rw [hfr]
  have hform : E.f = e.f := by rw [hfr]
  have hnext : E.next = e.next := by rw [hfr]
  simp only [Env.spillw, hE, hcx, hcore, hslot, hform, hnext, misaligned_of_aligned hal, hw, ha, hf]
  rfl

/-- FILLW with its block checked: it loads the items, and comes out by what they owe. -/
theorem fillw_eq {E : Env} {d1 : Dev} {ps : List Piece} (hE : e.blockSrc = some E) (hal : (E.x.ea e.f e.next).toNat % 64 = 0)
    (ha : E.d.access E.w (E.x.ea e.f e.next) 128 .read .any .data = .ok d1 ps) :
    let b := E.x.movedBlock
    let p := E.fillItems (itemsOf ps 0)
      ((d1.modCtx e.cx (fun y => (blockRegs b).foldl Ctx.cancelReg y)).tagCancel e.slot e.cx (blockRegs b))
    e.fillw = E.filled p.1 b false p.2 e.next
      (fun d => .placed (d.modCtx e.cx (fun y => (y.countBlock true).past e.next)) [(E.x.ea e.f e.next, 128, .read)])
      (E.hits (E.x.ea e.f e.next) 128 .read) := by
  have hfr := blockSrc_frame hE
  have hcx : E.cx = e.cx := by rw [hfr]
  have hslot : E.slot = e.slot := by rw [hfr]
  have hform : E.f = e.f := by rw [hfr]
  have hnext : E.next = e.next := by rw [hfr]
  simp only [Env.fillw, hE, hcx, hslot, hform, hnext, misaligned_of_aligned hal, ha]

end

/-- Settles O18: STM and LDM at the element they stand at, SPILLW and FILLW by their whole access, and the fields of H5 that they move. -/
theorem blockTransfersComplete : Obligations.BlockTransfersComplete := by
  unfold Obligations.BlockTransfersComplete
  refine ⟨fun s core f brk e h => ?stm, fun s core f brk e h => ?ldm, fun s core f e E d1 d2 ps h hE => ?spillw,
    fun s core f e E d1 ps h hE => ?fillw, fun e => ⟨blockSrc_of_ring, fun htw d hd => ⟨_, blockSrc_of_trap htw hd, rfl, rfl⟩⟩,
    fun x fill => countBlock_fields⟩
  case stm =>
    obtain rfl := (enter_ok h).sameCore
    obtain rfl := (enter_ok h).form
    intro base k l ends
    refine ⟨fun hl => (enter_ok h).ctx ▸ finish_answers h _ (stm_of_none_left hl), fun ds j r va ha hkj hj hd hst hgo => ?_⟩
    have hat := stm_at ha hkj hj hd hst hgo
    have hstore := hst j r va hkj le_rfl hj
    obtain ⟨hblk, hpc⟩ := blk_pc_of_goesOn (StoresElem_goesOn hstore)
    rw [stmFrom_of_stores hstore] at hat
    exact ⟨hblk, hpc, element_answers h hat (l.length = j + 1) fun hlast => by rw [(drop_eq_nil_iff_last hj).2 hlast]; rfl⟩
  case ldm =>
    obtain rfl := (enter_ok h).sameCore
    obtain rfl := (enter_ok h).form
    intro base k l ends
    refine ⟨fun hl => (enter_ok h).ctx ▸ finish_answers h _ (ldm_of_none_left hl), fun ds j r va ha hkj hj hd hgo => ?_⟩
    have hat := ldm_at ha hkj hj hd hgo
    refine ⟨fun hload => ?_, fun d1 pa m t hacc hk hup => ?_⟩
    · obtain ⟨hblk, hpc⟩ := blk_pc_of_goesOn (LoadsElem_goesOn hload)
      rw [ldmFrom_of_loads hload] at hat
      exact ⟨hblk, hpc, element_answers h hat (l.length = j + 1) fun hlast => by rw [(drop_eq_nil_iff_last hj).2 hlast]; rfl⟩
    · obtain ⟨D, w, hwait, hpa, hlen, hdst, hnext, hblk⟩  :=
        ldmFrom_waits (brk := brk) (base := base) (all := l) (r := r) (t := l.drop (j + 1)) hacc hk hup
      simp only [List.isEmpty_iff, drop_eq_nil_iff_last hj] at hnext hblk
      exact ⟨_, pause_answers h _ (hat.trans hwait), w, wait_startWait _ _ _, hpa, hlen, hdst, hnext, hblk⟩
  case spillw =>
    obtain rfl := (enter_ok h).sameCore
    obtain rfl := (enter_ok h).form
    exact spillw_answers h hE
  case fillw =>
    obtain rfl := (enter_ok h).sameCore
    obtain rfl := (enter_ok h).form
    intro va b hal ha d2 p
    have hcx : E.cx = e.cx := by rw [blockSrc_frame hE]
    have hcore : E.core = e.core := by rw [blockSrc_frame hE]
    refine ⟨fun hall => ?_, fun howed => ?_⟩
    · have hbody := (fillw_eq hE hal ha).trans (filled_of_all hall)
      rw [hcx] at hbody
      exact placed_answers h Env.fillw hbody
    · obtain ⟨w, hwait, hnext, hblock⟩ := filled_of_owed howed
      have hbody := (fillw_eq hE hal ha).trans hwait
      rw [hcore] at hbody
      exact ⟨_, pause_answers h Env.fillw hbody, w, wait_startWait _ _ _, hnext, hblock⟩

end Sys2Proof.Proofs.BlockRows
end

section
/-!
SUPPORT. LD and LDX: what a load reads by the kind of memory it reaches, and the reads that go out on the bus, for whose completion the core
waits (R142, R143, R196, R197, R425, R426).
-/
namespace Sys2Proof.Proofs.LoadRows
open Sys2Proof Sys2Proof.Machine Sys2Proof.Safety Sys2Proof.Laws Sys2Proof.Proofs.Outcomes Sys2Proof.Proofs.Seats

/-! ### What an item brings -/

section
variable {e : Env} {d d1 : Dev} {va : Word} {n pa m : Nat} {nt : Bool} {t ps : List Piece} {target : Target}

theorem loadItem_of_ok (ha : d.access e.w va n .read target .data = .ok d1 ps) : e.loadItem d va n nt target = e.loadAt d1 ps n nt := by
  simp only [Env.loadItem, ha]

theorem loadAt_dram (hk : paKind pa = .dram) : e.loadAt d ((pa, m) :: t) n nt =
    .ok (d.loadDram e.core ((pa, m) :: t) nt).1 (d.loadDram e.core ((pa, m) :: t) nt).2 := by
  simp only [Env.loadAt, hk]

theorem loadAt_other (hk : paKind pa = .hamper ∨ paKind pa = .none) : e.loadAt d ((pa, m) :: t) n nt = .ok d (leNat (d.bytes pa n)) := by
  rcases hk with hk | hk <;> simp only [Env.loadAt, hk]

theorem loadAt_reg (hk : paKind pa = .reg) (hc : d.readsCfgd pa n = false) : e.loadAt d ((pa, m) :: t) n nt =
    .ok (d.regLoad (d.acc e.core) pa n).2 (d.regLoad (d.acc e.core) pa n).1 := by
  simp only [Env.loadAt, hk, hc, Bool.false_eq_true, if_false]

theorem loadAt_cfgd (hk : paKind pa = .reg) (hc : d.readsCfgd pa n = true) : e.loadAt d ((pa, m) :: t) n nt = e.loadCfgd d pa n := by
  simp only [Env.loadAt, hk, hc, if_true]

theorem loadAt_pcie_down (hk : paKind pa = .pcie) (hup : (d.wake 100).portUp ((d.wake 100).portAt pa) = false) :
    e.loadAt d ((pa, m) :: t) n nt = .ok (d.wake 100) (2 ^ (8 * n) - 1) := by
  simp only [Env.loadAt, hk, Dev.pcieRead, hup, Bool.false_eq_true, if_false]

theorem loadAt_pcie_up (hk : paKind pa = .pcie) (hup : (d.wake 100).portUp ((d.wake 100).portAt pa) = true) :
    e.loadAt d ((pa, m) :: t) n nt = .bus ((d.wake 100).emit (.pcieRead pa n)) pa n [] 0 n := by
  simp only [Env.loadAt, hk, Dev.pcieRead, hup, if_true]

/-! ### PCIE_CFGD -/

theorem cfgPa_of_seat {d d' : Dev} (h : seat d' = seat d) : d'.cfgPa = d.cfgPa := by
  simp only [seat, Prod.mk.injEq] at h
  simp only [Dev.cfgPa, Dev.pkg, h.2]

/-- PCIE_CFGA has no read side effect. -/
theorem regReadEff_cfga (d : Dev) (a : Acc) : d.regReadEff a 0x108000 = d := by
  simp [Dev.regReadEff, Dev.pcieRegReadEff]

/-- A load of PCIE_CFGA, the lower word of the pair, keeps the seat. -/
theorem seat_regLoad_cfga {a : Acc} (hp : paPkg pa = d.pkg) (ho : paOfs pa - regBase = 0x108000) :
    seat (d.regLoad a pa 4).2 = seat d := by
  unfold Dev.regLoad
  rw [hp, ho, if_neg (by simp)]
  exact (congrArg seat (regReadEff_cfga _ a)).trans (seat_wake d _)

/-- What a read that takes in PCIE_CFGD reads before it: PCIE_CFGA, where the item is the pair (R6). -/
def cfgaFirst (e : Env) (d : Dev) (pa : Nat) : Nat × Dev :=
  if paOfs pa - regBase + 4 == cfgdOfs then d.regLoad (d.acc e.core) pa 4 else (0, d)

theorem seat_cfgaFirst (hc : d.readsCfgd pa n = true) : seat (cfgaFirst e d pa).2 = seat d := by
  simp only [Dev.readsCfgd, Bool.and_eq_true, beq_iff_eq] at hc
  unfold cfgaFirst
  split
  · next hpair =>
    rw [beq_iff_eq, cfgdOfs] at hpair
    exact seat_regLoad_cfga hc.1 (by omega)
  · rfl

/-- The configuration read of a core is on the bus. -/
def cfgdAsked (d : Dev) (core : Nat) : Dev := ((d.regWake (d.acc core) cfgdOfs).pcieConfig none none).1

theorem seat_cfgdAsked (d : Dev) (core : Nat) : seat (cfgdAsked d core) = seat d := (seat_emit _ _).trans (seat_wake d _)

/-- It goes out as all ones until it completes (R425, R426). -/
theorem outbox_cfgdAsked (d : Dev) (core : Nat) :
    ∃ g, (cfgdAsked d core).outbox.head? = some (.pcieConfig g none 0xFFFFFFFF) := ⟨_, rfl⟩

/-- A read of PCIE_CFGD waits for its configuration read. The definition is unfolded as a function, before it has arguments, and its test of
the offset made a variable: the kernel would otherwise evaluate the test, and count down from `regBase`. -/
theorem loadCfgd_eq : ∃ pre skip, e.loadCfgd d pa n =
    .bus (cfgdAsked (cfgaFirst e d pa).2 e.core) (cfgdAsked (cfgaFirst e d pa).2 e.core).cfgPa 4 pre skip n := by
  obtain ⟨load, hload⟩ : ∃ load, load = @Env.loadCfgd := ⟨_, rfl⟩
  rw [← hload]
  delta Env.loadCfgd at hload
  rw [hload, cfgaFirst]
  beta_reduce
  generalize (paOfs pa - regBase + 4 == cfgdOfs) = pair
  generalize d.regLoad (d.acc e.core) pa 4 = first
  cases pair
  · exact ⟨_, _, rfl⟩
  · exact ⟨_, _, rfl⟩

theorem loadCfgd_bus (hc : d.readsCfgd pa n = true) :
    ∃ D pre skip g, e.loadCfgd d pa n = .bus D d.cfgPa 4 pre skip n ∧ D.outbox.head? = some (.pcieConfig g none 0xFFFFFFFF) := by
  obtain ⟨pre, skip, hbus⟩ := loadCfgd_eq (e := e) (d := d) (pa := pa) (n := n)
  obtain ⟨g, ho⟩ := outbox_cfgdAsked (cfgaFirst e d pa).2 e.core
  rw [cfgPa_of_seat ((seat_cfgdAsked _ _).trans (seat_cfgaFirst hc))] at hbus
  exact ⟨_, pre, skip, g, hbus, ho⟩

end

/-! ### The rows -/

/-- LD and LDX: constructor, opcode, and whether the item is sign-extended. -/
def loadRows : List ((Nat → Form → Instr) × Nat × Bool) := [(.ld, 0x20, false), (.ldx, 0x21, true)]

/-- Each of them is the shared load with its own opcode and extension. -/
theorem exec_loadRow {r : (Nat → Form → Instr) × Nat × Bool} (hr : r ∈ loadRows) (core : Nat) (f : Form) (s : State) :
    exec (r.1 core f) s = onDev (fun d => d.issue core .prim r.2.1 f none (Form.eaSrc f) false anyLevel (fun e => e.load r.2.2)) s := by
  unfold loadRows at hr
  fin_cases hr <;> rfl

theorem OnlyTags_outbox {d d' : Dev} (h : OnlyTags d d') : d'.outbox = d.outbox := by rw [h.rest]

section
variable {s : State} {core : Nat} {f : Form} {e : Env} {D : Dev} {r : (Nat → Form → Instr) × Nat × Bool}

/-- A load whose item is there writes RD. -/
theorem load_lands {v : Nat} (hr : r ∈ loadRows) (h : s.dev.enter core .prim r.2.1 f none (Form.eaSrc f) false anyLevel = .ok e)
    (hi : e.loadItem e.d (e.x.ea f e.next) f.width.bytes f.hint .item = .ok D v) :
    ∃ X : Dev, Answers (exec (r.1 core f) s) s (X.afterIssue core (X.dataHit core e.x [(e.x.ea f e.next, f.width.bytes, .read)])) ∧
      WritesOnly D e.cx (((D.ctx e.cx).wr f.rdn (extend r.2.2 f.width.bytes v)).past e.next) X := by
  rw [exec_loadRow hr]
  refine doneMod_answers h (fun e => e.load r.2.2) (g := fun y => y.wr f.rdn (extend r.2.2 f.width.bytes v)) ?_
  simp only [Env.load, (enter_ok h).form, hi]

/-- A load whose item is on the bus leaves its core waiting for the completion. -/
theorem load_waits {o : Out} {at_ len skip : Nat} {pre : List Byte} (hr : r ∈ loadRows)
    (h : s.dev.enter core .prim r.2.1 f none (Form.eaSrc f) false anyLevel = .ok e)
    (hi : e.loadItem e.d (e.x.ea f e.next) f.width.bytes f.hint .item = .bus D at_ len pre skip f.width.bytes)
    (ho : D.outbox.head? = some o) :
    ∃ X : Dev, Answers (exec (r.1 core f) s) s X ∧ X.outbox.head? = some o ∧
      ∃ w, (X.core core).wait = some w ∧ w.pa = at_ ∧ w.len = len ∧ w.item = f.width.bytes ∧ w.dst = e.x.phys f.rdn ∧
        w.signed = r.2.2 ∧ w.next = e.next := by
  obtain rfl := (enter_ok h).sameCore
  have hpause : ∃ w : PcieWait, e.load r.2.2 = .pause (((D.modCtx e.cx (fun y => y.cancelReg (e.x.phys f.rdn))).tagCancel e.slot e.cx
      [e.x.phys f.rdn]).startWait e.core w) ∧ w.pa = at_ ∧ w.len = len ∧ w.item = f.width.bytes ∧ w.dst = e.x.phys f.rdn ∧
        w.signed = r.2.2 ∧ w.next = e.next := by
    simp only [Env.load, (enter_ok h).form, hi]
    exact ⟨_, rfl, rfl, rfl, rfl, rfl, rfl, rfl⟩
  obtain ⟨w, hw, hfields⟩ := hpause
  rw [exec_loadRow hr]
  refine ⟨_, pause_answers h (fun e => e.load r.2.2) hw, ?_, w, BlockRows.wait_startWait _ _ _, hfields⟩
  exact (congrArg List.head? (OnlyTags_outbox (onlyTags_tagCancel _ _ _ _))).trans ho

end

/-- Settles O10: a load of DRAM by what the touch of its lines leaves, LD and LDX by the kind of memory that their item lies in. -/
theorem loadsComplete : Obligations.LoadsComplete := by
  unfold Obligations.LoadsComplete
  refine ⟨fun d core ps nt hon hp => ?_, fun r hr s core f e d1 pa m t h => ?_⟩
  · obtain ⟨hq, hv⟩ := loadDram_law (nt := nt) hon hp
    exact ⟨hv, hq.mem, hq.rooms, hq.plan, hq.on, fun j p => ⟨hq.getP j p, by rw [hq.ctxs j], by rw [hq.ctxs j]⟩, hq.sbuf⟩
  · intro n va lands waits ha
    have hcore := (enter_ok h).sameCore
    have hitem : e.loadItem e.d va n f.hint .item = e.loadAt d1 ((pa, m) :: t) n f.hint := loadItem_of_ok ha
    refine ⟨fun hk => ?_, fun hk => ?_, fun hk hc => ?_, fun hk hc => ?_, fun hk hup => ?_, fun hk hup => ?_⟩
    · exact load_lands hr h (hcore ▸ hitem.trans (loadAt_dram hk))
    · exact load_lands hr h (hitem.trans (loadAt_other hk))
    · exact load_lands hr h (hcore ▸ hitem.trans (loadAt_reg hk hc))
    · obtain ⟨D, pre, skip, g, hbus, ho⟩ := loadCfgd_bus (e := e) hc
      exact ⟨g, load_waits hr h (hitem.trans ((loadAt_cfgd hk hc).trans hbus)) ho⟩
    · exact load_lands hr h (hitem.trans (loadAt_pcie_down hk hup))
    · exact load_waits hr h (hitem.trans (loadAt_pcie_up hk hup)) rfl

end Sys2Proof.Proofs.LoadRows
end

section
/-!
SUPPORT. Addresses without translation (R218, R220), and the room check of one byte outside the view page and the mailbox buffers by the
window that covers it (R228, Table 9.6).
-/
namespace Sys2Proof.Proofs.RoomCheck
open Sys2Proof Sys2Proof.Machine Sys2Proof.Proofs.Banks

/-! ### Addresses without translation -/

/-- Without translation a canonical VA is judged by its range first and by the level of its access then (rows 2 and 6). -/
theorem translate_untranslated {d : Dev} {w : Who} {va : Word} (hen : ((d.ctx w.ctx).ptbase w.secure).getLsbD 0 = false)
    (hc : canonical va = true) (k : AccKind) :
    d.translate w va k = if va.toNat < 0x400000000000 then
        if w.pl = 0 then .error (6, 0) else .ok (d, d.straps.pkgId.toNat * 0x4000000000000 + va.toNat, 0)
      else .error (2, 0) := by
  unfold Dev.translate
  simp only [hc, hen, Bool.not_true, Bool.not_false, Bool.false_eq_true, if_true, if_false, beq_iff_eq]
  rfl

/-! ### The room check of a byte in an ordinary window -/

/-- What PERM grants of an access kind (R43): a read-modify-write needs both R and W. -/
def grants (w : WindowRec) (k : AccKind) : Bool :=
  (!k.reads || w.perm.testBit 0) && (!k.writes || w.perm.testBit 1) && (k != .fetch || w.perm.testBit 2)

section
variable {d : Dev} {slot id pa : Nat} {secure nxf : Bool} {k : AccKind} {w : WindowRec}

theorem checkByte_of_no_window (hv : d.inViewPage id pa = false) (hw : d.plan.windowAt id pa = none) :
    d.checkByte slot id secure nxf k pa = 9 := by
  simp [Dev.checkByte, hv, hw]

/-- The covering window decides rows 10 to 12, in their order. -/
theorem checkByte_of_window (hv : d.inViewPage id pa = false) (hm : d.plan.mboxAt pa = none) (hw : d.plan.windowAt id pa = some w) :
    d.checkByte slot id secure nxf k pa = if grants w k = false then 10
      else if secure = false ∧ pa - w.base < d.wmark slot w then 11
      else if secure = true ∧ k = .fetch ∧ nxf = true ∧ d.wmark slot w ≤ pa - w.base then 12
      else 0 := by
  simp only [Dev.checkByte, hv, hm, hw, Bool.and_true, Bool.false_eq_true, if_false]
  rw [← grants]
  simp [and_assoc]

end

/-- Settles O9: the untranslated address by its range and level, the byte by the window that covers it. -/
theorem addressesAndRoomCheck : Obligations.AddressesAndRoomCheck := by
  unfold Obligations.AddressesAndRoomCheck
  refine ⟨fun d w va k hen => ⟨translate_of_not_canonical d w k, fun hc hhigh => ?_, fun hc hlow hpl => ?_, fun hc hlow hpl => ?_⟩,
    fun d slot id pa secure nxf k hv hm => ⟨checkByte_of_no_window hv, fun w hw => ?_⟩⟩
  · rw [translate_untranslated hen hc, if_neg (Nat.not_lt.2 hhigh)]
  · rw [translate_untranslated hen hc, if_pos hlow, if_pos hpl]
  · rw [translate_untranslated hen hc, if_pos hlow, if_neg hpl]
  · intro granted
    have hgranted : granted = grants w k := by cases k <;> simp [granted, grants, AccKind.reads, AccKind.writes]
    rw [hgranted, checkByte_of_window hv hm hw]
    refine ⟨fun hg => ?_, fun hg hs hbelow => ?_, fun hg hs hk hnxf habove => ?_, fun hg hs habove => ?_, fun hg hs hk => ?_⟩
    · exact if_pos hg
    · simp [hg, hs, hbelow]
    · subst hk
      simp [hg, hs, hnxf, habove]
    · simp [hg, hs, habove]
    · rcases hk with hk | hk <;> simp [hg, hs, hk]

end Sys2Proof.Proofs.RoomCheck
end

section
/-!
SUPPORT. A fill that reaches a Clock-gated cluster wakes it, and the power packet of the wake goes into the trace partition of the cluster's room
(Table 22.7, R494, R495): the fill writes the Hamper, which the statement about the home's replies leaves out.
-/
namespace Sys2Proof.Proofs.FillsThatWake
open Sys2Proof Sys2Proof.Machine Sys2Proof.Safety

theorem settle_mem (s : State) : (State.settle s).dev.mem = s.dev.mem := by
  unfold State.settle
  split <;> rfl

/-- Two descriptions of one answer agree on the memory. -/
theorem mem_eq_of_answers {a : Ans} {s : State} {D D' : Dev} (h : Answers a s D) (h' : Answers a s D') : D.mem = D'.mem := by
  have hs : State.settle { s with dev := D } = State.settle { s with dev := D' } := Host.Outcome.next.inj (h.symm.trans h')
  calc D.mem = (State.settle { s with dev := D }).dev.mem := (settle_mem { s with dev := D }).symm
    _ = (State.settle { s with dev := D' }).dev.mem := by rw [hs]
    _ = D'.mem := settle_mem _

/-- A floorplan of one room on core 0, with DRAM homed in region 0, the ways of cluster 0's L2 and a trace partition of 16 KiB. -/
def tracedPlan : Plan := { Plan.empty with
  pkgs := [{ pkg := 0, linkEn := 0, mirrorPairs := 0, ddrMts := 6400, chan := [{ baseGib := 0, sizeGib := 64 }] }]
  rooms := [{ roomId := 0, timed := false, sealed := false, span := false, autostart := true, plevReq := 0, plevFloor := 0,
              slots := [0, 0xFF, 0xFF, 0xFF], entryPa := 0x100000, name := 0 }]
  clusters := [{ cluster := 0, coreEn := 1, coreRoom := [0, 0, 0, 0], tlsA := 0, tslotA := 0, ctxMaskA := 1, ctxMaskB := 0 }]
  windows := [{ roomId := 0, index := 0, perm := 7, kind := 0, mirror := 0, base := 0, size := 0x40000000, wmark := 0x20000000,
                mirrorBase := 0 }]
  caches := [{ form := 1, roomId := 0, loc := 0, ways := 0xFFFF, lock := 0 }]
  debugs := [{ roomId := 0, normMax := 2, secMax := 2, roles := 31, traceKib := 16, freezeWdg := true, freezePer := true }] }

/-- Core 0's read of line 0x8000, in miss register 0. -/
def pendingRead : MissReg := { line := 0x8000, core := 0, room := 0, use := .data, wr := false, secs := [] }

/-- Its transaction at the home, which has every answer. -/
def answeredRead : Txn :=
  { line := 0x8000, kind := .rds, requester := 0, room := 0, stamp := 0, toSnoop := [], awaiting := [], gotData := false,
    ownerDirty := false, heldBy := [], slotTag := none, cmp := false, sent := false, installed := false, bytes := [] }

/-- The cluster is Clock-gated when its fill comes, and room 0 traces power transitions. -/
def gatedDev : Dev := { Dev.reset with
  devState := .run
  plan := tracedPlan
  rooms := [(0, { Room.init with phase := .running, dbg := { DbgRegs.init with sec := 2, trcEvt := 8 } })]
  clusters := [(0, { Cluster.init with miss := [(0, pendingRead)] })]
  regions := [(0, { Region.init with txns := [answeredRead] })]
  domains := [(0, { Domain.init with st := .gated })] }

def gatedState : State := { State.reset with dev := gatedDev }

/-- The fill that reaches cluster 0. -/
def fillOfRead : Fill := { dest := 0, grant := 0, data := [] }

/-- The fill can enter the cluster: its transaction is ready, a way is free, and no victim stands in its way. -/
theorem gatedDev_fills : gatedDev.homeLocal 0x8000 = some 0 ∧ (gatedDev.region 0).txn 0x8000 = some answeredRead ∧
    answeredRead.ready = true ∧ gatedDev.ownCluster 0 = some 0 ∧ gatedDev.chanWaits 0x8000 = false ∧
    gatedDev.missOf 0 0x8000 = some (0, pendingRead) ∧ Sparse.get none (gatedDev.cluster 0).slots 0 = none ∧
    gatedDev.l2Victim 0 0 0x8000 = none ∧ gatedDev.l2Way 0 0 0x8000 ≠ none := by
  decide +kernel

/-- Its wake writes a packet of TYPE 5, a power transition, at DBG_TRC_WR. -/
theorem gatedDev_traces : (gatedDev.installData 0 0x8000 0 []).byte (gatedDev.traceBase 0 + 8) = 5 ∧
    gatedDev.byte (gatedDev.traceBase 0 + 8) = 0 := by
  decide +kernel

/-- Refutes O33: its second clause has a fill leave memory as it was, but one that wakes its cluster writes the power packet of a room that traces
power transitions (R495) into the Hamper. -/
theorem not_coherenceRepliesAndSlots : ¬ Obligations.CoherenceRepliesAndSlots := by
  unfold Obligations.CoherenceRepliesAndSlots
  rintro ⟨-, hfill, -⟩
  obtain ⟨hhome, htxn, hready, hown, hchan, hmiss, hslot, hvictim, hway⟩ := gatedDev_fills
  obtain ⟨hclean, -⟩ := hfill gatedState fillOfRead 0 0x8000 0 0 answeredRead pendingRead hhome htxn hready rfl hown (.inl hchan) (.inl rfl) hmiss
    hslot rfl (by intro q hq; cases hq)
  obtain ⟨X, hX, -, -, -, hmem⟩ := hclean (by intro p hp _; cases hp with | head => rfl | tail _ hp => cases hp)
    (fun v hv => absurd (hvictim.symm.trans hv) (by simp)) hway
  have hfills : Answers (exec (.data fillOfRead 0x8000) gatedState) gatedState (gatedDev.installData 0 0x8000 0 []) :=
    Laws.onDev_answers (fun d => d.installData 0 0x8000 0 []) gatedState
  have hsame : (gatedDev.installData 0 0x8000 0 []).mem = gatedDev.mem := (mem_eq_of_answers hfills hX).trans hmem
  obtain ⟨hpacket, hbefore⟩ := gatedDev_traces
  rw [Dev.byte, hsame, ← Dev.byte, hbefore] at hpacket
  exact absurd hpacket (by decide)

end Sys2Proof.Proofs.FillsThatWake
end

section
/-!
SUPPORT. A request at its home (R277, R293): what the home decides about a line with, and what it leaves when it grants the one request that
waits, or lets it wait.
-/
namespace Sys2Proof.Proofs.HomeGrants
open Sys2Proof Sys2Proof.Machine Sys2Proof.Safety Sys2Proof.Laws

variable {d d' d'' : Dev} {line r : Nat}

/-- The first element that a test finds, in a list whose elements a change leaves as the test sees them. -/
theorem find?_map_of_keeps {α : Type} {l : List α} {p : α → Bool} {g : α → α} (hg : ∀ a, p (g a) = p a) :
    (l.map g).find? p = (l.find? p).map g := by
  rw [List.find?_map, show p ∘ g = p from funext hg]

/-! ### What a transaction's snoops are chosen by -/

/-- An eviction slot of a cluster holds a line, its EvD current and not yet granted (R281). -/
def currentIn (line : Nat) (l : Sparse (Option EvSlot)) : Bool :=
  l.any (fun p => p.2.any (fun v => v.line == line && !v.stale && !v.granted))

theorem slotHolders_eq (d : Dev) (line : Nat) :
    d.slotHolders line = (List.range 32).filter (fun c => currentIn line (d.cluster c).slots) := by
  unfold Dev.slotHolders
  refine List.filter_congr fun c _ => ?_
  unfold currentIn
  congr 1
  funext p
  obtain ⟨k, e⟩ := p
  cases e <;> rfl

/-- A free slot that takes another line changes nothing for a line. -/
theorem currentIn_insert {l : Sparse (Option EvSlot)} {i : Nat} {v : EvSlot} (hfree : Sparse.get none l i = none) (hv : v.line ≠ line) :
    currentIn line (Sparse.insert l i (some v)) = currentIn line l := by
  induction l with
  | nil => simp [Sparse.insert, currentIn, hv]
  | cons p t ih =>
    obtain ⟨k, e⟩ := p
    simp only [Sparse.get] at hfree
    simp only [Sparse.insert]
    split_ifs with h1 h2
    · simp [currentIn, hv]
    · rw [if_pos h2] at hfree
      simp [currentIn, hv, hfree]
    · rw [if_neg h2] at hfree
      simpa [currentIn] using congrArg (_ || ·) (ih hfree)

/-- What the home chooses the snoops of a line by is the same in two devices: the floorplan, the line's entry, and who the filters list. -/
structure SameView (line : Nat) (d d' : Dev) : Prop where
  plan : d'.plan = d.plan
  straps : d'.straps = d.straps
  sfBad : ∀ k, (d'.region k).sfBad = (d.region k).sfBad
  l3 : ∀ k, (d'.region k).l3.find? (fun e => e.line == line) = (d.region k).l3.find? (fun e => e.line == line)
  l2St : ∀ c, d'.l2St c line = d.l2St c line
  slots : ∀ c, currentIn line (d'.cluster c).slots = currentIn line (d.cluster c).slots

theorem SameView.trans (h : SameView line d d') (h' : SameView line d' d'') : SameView line d d'' where
  plan := h'.plan.trans h.plan
  straps := h'.straps.trans h.straps
  sfBad k := (h'.sfBad k).trans (h.sfBad k)
  l3 k := (h'.l3 k).trans (h.l3 k)
  l2St c := (h'.l2St c).trans (h.l2St c)
  slots c := (h'.slots c).trans (h.slots c)

theorem SameView.pkg (h : SameView line d d') : d'.pkg = d.pkg := by rw [Dev.pkg, h.straps, ← Dev.pkg]

theorem SameView.homeLocal (h : SameView line d d') (n : Nat) : d'.homeLocal n = d.homeLocal n := by
  simp only [Dev.homeLocal, Dev.homeOf, h.plan, h.pkg]

theorem SameView.l3Line (h : SameView line d d') : d'.l3Line line = d.l3Line line := by
  simp only [Dev.l3Line, h.homeLocal, h.l3]

theorem SameView.targets (h : SameView line d d') (excl : Bool) : d'.targets line excl = d.targets line excl := by
  simp only [Dev.targets, h.l3Line, h.plan]

theorem SameView.forwarded (h : SameView line d d') : d'.forwarded line = d.forwarded line := by
  simp only [Dev.forwarded, Dev.listed, Dev.holders, slotHolders_eq, h.l2St, h.slots, h.sfBad]

theorem SameView.stillListed {q : HomeReq} (h : SameView q.line d d') : d'.stillListed q = d.stillListed q := by
  have hown : d'.ownCluster q.requester = d.ownCluster q.requester := by rw [Dev.ownCluster, h.pkg, ← Dev.ownCluster]
  unfold Dev.stillListed
  rw [hown, h.l3Line]
  cases d.ownCluster q.requester with
  | none => rfl
  | some c => simp only [h.l2St]

theorem SameView.snoopOf (h : SameView line d d') : d'.snoopOf line = d.snoopOf line := by
  unfold Dev.snoopOf
  rw [h.l3Line]

/-- The transaction that a request opens. -/
theorem SameView.txnFor {q : HomeReq} (h : SameView q.line d d') : d'.txnFor q = d.txnFor q := by
  unfold Dev.txnFor Dev.sysRegion Dev.sysCluster
  rw [h.stillListed, h.snoopOf, h.forwarded, h.pkg, funext h.targets]

/-- A region keeps its entry of the line and its snoop filter. -/
theorem sameView_setRegion {x : Region} (hbad : x.sfBad = (d.region r).sfBad)
    (hl3 : x.l3.find? (fun e => e.line == line) = (d.region r).l3.find? (fun e => e.line == line)) : SameView line d (d.setRegion r x) where
  plan := rfl
  straps := rfl
  sfBad k := by
    rw [region_setRegion]
    split_ifs with hk
    · rw [hk, hbad]
    · rfl
  l3 k := by
    rw [region_setRegion]
    split_ifs with hk
    · rw [hk, hl3]
    · rfl
  l2St _ := rfl
  slots _ := rfl

theorem entryFree_congr {who room : Nat} (hplan : d'.plan = d.plan) (hstraps : d'.straps = d.straps)
    (htxns : (d'.region r).txns = (d.region r).txns) : d'.entryFree r who room = d.entryFree r who room := by
  unfold Dev.entryFree Dev.reserved Dev.bwOf Dev.sysRegion Dev.pkg
  rw [hplan, hstraps, htxns]

/-! ### What leaves a home -/

/-- From `d` to `d'` requests have entered controllers, messages have left, and counters have counted. -/
structure Posts (d d' : Dev) : Prop where
  rest : d' = { d with regions := d'.regions, outbox := d'.outbox, per := d'.per }
  regions : ∀ k, d'.region k = { d.region k with chanQ := (d'.region k).chanQ, sealedMiss := (d'.region k).sealedMiss,
                                                 maxAge := (d'.region k).maxAge, sfSnpIn := (d'.region k).sfSnpIn }

theorem Posts.refl (d : Dev) : Posts d d := ⟨rfl, fun _ => rfl⟩

theorem Posts.trans (h : Posts d d') (h' : Posts d' d'') : Posts d d'' where
  rest := by rw [h'.rest, h.rest]
  regions k := by rw [h'.regions k, h.regions k]

theorem Posts.mem (h : Posts d d') : d'.mem = d.mem := by rw [h.rest]
theorem Posts.clusters (h : Posts d d') : d'.clusters = d.clusters := by rw [h.rest]
theorem Posts.txns (h : Posts d d') (k : Nat) : (d'.region k).txns = (d.region k).txns := by rw [h.regions k]
theorem Posts.waitQ (h : Posts d d') (k : Nat) : (d'.region k).waitQ = (d.region k).waitQ := by rw [h.regions k]

theorem posts_each {α : Type} (l : List α) (f : Dev → α → Dev) (hf : ∀ d a, Posts d (f d a)) (d : Dev) : Posts d (each l f d) := by
  induction l generalizing d with
  | nil => exact Posts.refl d
  | cons a t ih => exact (hf d a).trans (ih (f d a))

theorem posts_setRegion (i : Nat) (x : Region) (hx : x = { d.region i with chanQ := x.chanQ, sealedMiss := x.sealedMiss, maxAge := x.maxAge,
                                                                            sfSnpIn := x.sfSnpIn }) : Posts d (d.setRegion i x) where
  rest := rfl
  regions k := by
    rw [region_setRegion]
    split_ifs with hk
    · rw [hk]
      exact hx
    · rfl

theorem posts_chanPush (k : Nat) (q : ChanReq) (d : Dev) : Posts d (d.chanPush k q) := posts_setRegion _ _ rfl

theorem posts_served (k stamp : Nat) (d : Dev) : Posts d (d.served k stamp) := posts_setRegion _ _ rfl

theorem posts_countIn (l : List Nat) (d : Dev) : Posts d (d.countIn l) := posts_each _ _ (fun _ _ => posts_setRegion _ _ rfl) d

theorem posts_sendTo (pkg : Nat) (m : CohMsg) (d : Dev) : Posts d (d.sendTo pkg m) := by
  unfold Dev.sendTo
  dsimp only
  split_ifs
  · exact Posts.refl d
  · exact ⟨rfl, fun _ => rfl⟩
  · exact ⟨rfl, fun _ => rfl⟩

theorem posts_toChannel (t : Txn) (d : Dev) : Posts d (d.toChannel t) := by
  unfold Dev.toChannel
  extract_lets push write d1
  have hpush (d : Dev) (n : Nat) : Posts d (push d n) := by
    unfold push
    split
    · exact Posts.refl d
    · exact posts_chanPush _ _ d
  split
  · split
    · exact posts_served _ _ d
    · exact Posts.refl d
  · split
    · exact (hpush d _).trans (hpush _ _)
    · exact hpush d _

/-- A granted request leaves its transaction at the home; for the rest it only sends and counts. -/
theorem openTxn_posts (d : Dev) (r : Nat) (q : HomeReq) :
    Posts (d.modRegion r (fun g => { g with txns := g.txns ++ [d.txnFor q], rr := q.requester })) (d.openTxn r q) := by
  unfold Dev.openTxn
  extract_lets t d1 d2 d3
  have h3 : Posts d1 d3 := (posts_countIn _ _).trans (posts_each _ _ (fun d p => posts_sendTo _ _ d) _)
  have hread (c : Prop) [Decidable c] : Posts d1 (if c then d3.toChannel t else d3) := by
    split_ifs
    · exact h3.trans (posts_toChannel _ _)
    · exact h3
  split
  · exact h3
  · exact hread _
  · exact hread _

/-! ### The one request that waits -/

/-- The only request goes first, starving or not (R293). -/
theorem arbitrate_single (d : Dev) (rr : Nat) (q : HomeReq) : ∃ b, d.arbitrate rr [q] = some (q, b) := by
  by_cases h : d.ras.starveNs ≤ d.ageOf q.stamp
  · exact ⟨true, by simp [Dev.arbitrate, bestBy, h]⟩
  · exact ⟨false, by simp [Dev.arbitrate, bestBy, h]⟩

theorem arbitrate_nil (d : Dev) (rr : Nat) : d.arbitrate rr [] = none := rfl

section
variable {q : HomeReq}

/-- The device as its home takes the only request out of the queue to grant it. -/
def taken (d : Dev) (r : Nat) (b : Bool) : Dev :=
  d.modRegion r (fun g => { g with waitQ := [], starveCnt := if b then satInc max32 g.starveCnt else g.starveCnt })

theorem grantWaiting_of_grantable (hon : d.settledOn (64 + r) = true) (hq : (d.region r).waitQ = [q]) (hg : d.grantable r q = true) :
    ∃ b, d.grantWaiting r = (taken d r b).grantReq r q := by
  obtain ⟨b, hb⟩ := arbitrate_single d (d.region r).rr q
  exact ⟨b, by simp [Dev.grantWaiting, hq, iter, hon, hg, hb, taken, dropFirst]⟩

theorem grantWaiting_of_not_grantable (hon : d.settledOn (64 + r) = true) (hq : (d.region r).waitQ = [q]) (hg : d.grantable r q = false) :
    d.grantWaiting r = d := by
  simp [Dev.grantWaiting, hq, iter, hon, hg, arbitrate_nil]

/-- The device as a request arrives at its home. -/
def arrived (d : Dev) (r : Nat) (q : HomeReq) : Dev := d.modRegion r (fun g => { g with waitQ := g.waitQ ++ [q] })

theorem atHome_of_on (hon : AllOn d) : d.atHome r q = (arrived d r q).grantWaiting r := by
  have hst : ((arrived d r q).domain (64 + r)).st = .on := on_of_ge hon (Nat.le_add_right 64 r)
  have hsettled : (arrived d r q).settledOn (64 + r) = true := settledOn_of hon (Nat.le_add_right 64 r)
  unfold Dev.atHome
  rw [← arrived]
  simp [hst, hsettled]

theorem grantable_arrived (hkind : q.kind ≠ .evd) :
    (arrived d r q).grantable r q = (((d.region r).txn q.line).isNone && d.entryFree r q.requester q.room) := by
  have hfree : (arrived d r q).entryFree r q.requester q.room = d.entryFree r q.requester q.room :=
    entryFree_congr rfl rfl (by simp [arrived])
  have htxn : ((arrived d r q).region r).txn q.line = (d.region r).txn q.line := by simp [arrived, Region.txn]
  unfold Dev.grantable
  rw [htxn]
  cases (d.region r).txn q.line with
  | none => simpa using hfree
  | some t => simp [hkind]

/-- A home has opened a line's transaction, and nothing waits there any more. -/
def Opened (d : Dev) (r line : Nat) (t : Txn) (X : Dev) : Prop :=
  (X.region r).txn line = some t ∧ (X.region r).waitQ = [] ∧ X.mem = d.mem

/-- A request waits at a home that has opened nothing. -/
def Waiting (d : Dev) (r : Nat) (q : HomeReq) (X : Dev) : Prop :=
  (X.region r).waitQ = [q] ∧ (X.region r).txns = (d.region r).txns ∧ X.mem = d.mem

/-- A request for a line on which nothing is under way opens its transaction, where an entry is free. -/
theorem atHome_opens (hon : AllOn d) (hempty : (d.region r).waitQ = []) (hkind : q.kind ≠ .evd) (hline : (d.region r).txn q.line = none)
    (hfree : d.entryFree r q.requester q.room = true) :
    Opened d r q.line (d.txnFor q) (d.atHome r q) ∧ (d.atHome r q).clusters = d.clusters := by
  have hsettled : (arrived d r q).settledOn (64 + r) = true := settledOn_of hon (Nat.le_add_right 64 r)
  have hqueue : ((arrived d r q).region r).waitQ = [q] := by simp [arrived, hempty]
  have hgrant : (arrived d r q).grantable r q = true := by rw [grantable_arrived hkind, hline, hfree]; rfl
  obtain ⟨b, hb⟩ := grantWaiting_of_grantable hsettled hqueue hgrant
  have hopen : (taken (arrived d r q) r b).grantReq r q = (taken (arrived d r q) r b).openTxn r q := by simp [Dev.grantReq, hkind]
  have hview : SameView q.line d (taken (arrived d r q) r b) :=
    SameView.trans (d' := arrived d r q) (sameView_setRegion rfl rfl) (sameView_setRegion rfl rfl)
  have hposts := openTxn_posts (taken (arrived d r q) r b) r q
  rw [hview.txnFor] at hposts
  rw [atHome_of_on hon, hb, hopen]
  refine ⟨⟨?_, ?_, hposts.mem⟩, hposts.clusters⟩
  · have hself : (d.txnFor q).line == q.line := beq_self_eq_true q.line
    unfold Region.txn at hline ⊢
    rw [hposts.txns r]
    simp [taken, arrived, hline, hself]
  · rw [hposts.waitQ r]
    simp [taken]

/-- One for a line that has an open transaction waits at the home. -/
theorem atHome_waits (hon : AllOn d) (hempty : (d.region r).waitQ = []) (hkind : q.kind ≠ .evd) (hline : (d.region r).txn q.line ≠ none) :
    Waiting d r q (d.atHome r q) ∧ (d.atHome r q).clusters = d.clusters := by
  have hsettled : (arrived d r q).settledOn (64 + r) = true := settledOn_of hon (Nat.le_add_right 64 r)
  have hgrant : (arrived d r q).grantable r q = false := by
    rw [grantable_arrived hkind, Option.isNone_eq_false_iff.2 (Option.isSome_iff_ne_none.2 hline), Bool.false_and]
  rw [atHome_of_on hon, grantWaiting_of_not_grantable hsettled (by simp [arrived, hempty]) hgrant]
  simp [Waiting, arrived, hempty]

/-- A request whose home lies in this package reaches it. -/
theorem sendReq_here (hhome : d.homeLocal q.line = some r) : d.sendReq q = d.atHome r q := by
  unfold Dev.homeLocal at hhome
  unfold Dev.sendReq
  split at hhome
  · next p hp =>
    rw [hp]
    split_ifs at hhome with hpkg
    cases hhome
    exact if_pos hpkg
  · cases hhome

end

end Sys2Proof.Proofs.HomeGrants
end

section
/-!
SUPPORT. A core's miss leaves its cluster (R259, R260, R262): the miss register that it takes with the eviction slot of a dirty victim, and the
miss that it merges with. What the home decides about the line with stays as it is until the request reaches it.
-/
namespace Sys2Proof.Proofs.ClusterMisses
open Sys2Proof Sys2Proof.Machine Sys2Proof.Safety Sys2Proof.Laws Sys2Proof.Proofs.HomeGrants

variable {d d' d'' : Dev} {line c i : Nat}

/-! ### What a miss leaves of the homes -/

/-- From `d` to `d'` a cluster has prepared its request for a line: no home has taken or opened anything, and every snoop of the line is chosen
as before. -/
structure SameHome (line : Nat) (d d' : Dev) : Prop where
  view : SameView line d d'
  rest : d' = { d with cores := d'.cores, ctxs := d'.ctxs, clusters := d'.clusters, regions := d'.regions, outbox := d'.outbox, per := d'.per }
  txns : ∀ k, (d'.region k).txns = (d.region k).txns
  waitQ : ∀ k, (d'.region k).waitQ = (d.region k).waitQ

theorem SameHome.trans (h : SameHome line d d') (h' : SameHome line d' d'') : SameHome line d d'' where
  view := h.view.trans h'.view
  rest := by rw [h'.rest, h.rest]
  txns k := (h'.txns k).trans (h.txns k)
  waitQ k := (h'.waitQ k).trans (h.waitQ k)

theorem SameHome.mem (h : SameHome line d d') : d'.mem = d.mem := by rw [h.rest]
theorem SameHome.stampOf (h : SameHome line d d') (age : Nat) : d'.stampOf age = d.stampOf age := by rw [h.rest]; rfl
theorem SameHome.sysCluster (h : SameHome line d d') : d'.sysCluster c = d.sysCluster c := by rw [h.rest]; rfl
theorem SameHome.on (h : SameHome line d d') (hon : AllOn d) : AllOn d' := by rw [h.rest]; exact hon

theorem SameHome.txn (h : SameHome line d d') (k n : Nat) : (d'.region k).txn n = (d.region k).txn n := by
  rw [Region.txn, h.txns, ← Region.txn]

theorem SameHome.entryFree (h : SameHome line d d') (r who room : Nat) : d'.entryFree r who room = d.entryFree r who room :=
  entryFree_congr h.view.plan h.view.straps (h.txns r)

theorem sameHome_of_posts (h : Posts d d') : SameHome line d d' where
  view :=
    { plan := by rw [h.rest]
      straps := by rw [h.rest]
      sfBad := fun k => by rw [h.regions k]
      l3 := fun k => by rw [h.regions k]
      l2St := fun c => by rw [h.rest]; rfl
      slots := fun c => by rw [h.rest]; rfl }
  rest := by rw [h.rest]
  txns := h.txns
  waitQ := h.waitQ

/-- A cluster keeps its copy of the line, and what its slots hold of it. -/
theorem sameHome_setCluster {x : Cluster} (hl2 : x.l2.find? (fun e => e.line == line) = (d.cluster c).l2.find? (fun e => e.line == line))
    (hslots : currentIn line x.slots = currentIn line (d.cluster c).slots) : SameHome line d (d.setCluster c x) where
  view :=
    { plan := rfl
      straps := rfl
      sfBad := fun _ => rfl
      l3 := fun _ => rfl
      l2St := fun k => by
        unfold Dev.l2St
        rw [cluster_setCluster]
        split_ifs with hk
        · rw [hk, hl2]
        · rfl
      slots := fun k => by
        rw [cluster_setCluster]
        split_ifs with hk
        · rw [hk, hslots]
        · rfl }
  rest := rfl
  txns _ := rfl
  waitQ _ := rfl

theorem sameHome_l1Drop (core n : Nat) : SameHome line d (d.l1Drop core n) := by
  unfold Dev.l1Drop
  split_ifs
  · exact ⟨⟨rfl, rfl, fun _ => rfl, fun _ => rfl, fun _ => rfl, fun _ => rfl⟩, rfl, fun _ => rfl, fun _ => rfl⟩
  · exact sameHome_of_posts (Posts.refl d)

theorem sameHome_each {α : Type} (l : List α) (f : Dev → α → Dev) (hf : ∀ d a, SameHome line d (f d a)) (d : Dev) :
    SameHome line d (each l f d) := by
  induction l generalizing d with
  | nil => exact sameHome_of_posts (Posts.refl d)
  | cons a t ih => exact (hf d a).trans (ih (f d a))

theorem sameHome_l1DropAll (c n : Nat) : SameHome line d (d.l1DropAll c n) := sameHome_each _ _ (fun _ k => sameHome_l1Drop k n) d

theorem clusters_l1Drop (d : Dev) (core n : Nat) : (d.l1Drop core n).clusters = d.clusters := by
  unfold Dev.l1Drop
  split_ifs <;> rfl

theorem clusters_l1DropAll (d : Dev) (c n : Nat) : (d.l1DropAll c n).clusters = d.clusters :=
  Loops.each_keeps Dev.clusters _ _ (fun d k => clusters_l1Drop d k n) d

theorem dirMerge_line (d : Dev) (e : L3Line) : (d.dirMerge e).line = e.line := by
  unfold Dev.dirMerge
  split
  dsimp only
  split_ifs <;> rfl

/-- Bringing another line's entry up to date leaves the line's own. -/
theorem sameHome_dirRefresh {n : Nat} (hn : n ≠ line) : SameHome line d (d.dirRefresh n) := by
  unfold Dev.dirRefresh
  split
  · exact sameHome_of_posts (Posts.refl d)
  · next r _ =>
    have hentry : ((d.region r).l3.map (fun e => if e.line == n then d.dirMerge e else e)).find? (fun e => e.line == line) =
        (d.region r).l3.find? (fun e => e.line == line) := by
      rw [find?_map_of_keeps (fun e => by split_ifs <;> simp [dirMerge_line])]
      cases hfind : (d.region r).l3.find? (fun e => e.line == line) with
      | none => rfl
      | some e =>
        have he : e.line = line := by simpa using List.find?_some hfind
        simp [he, Ne.symm hn]
    exact ⟨sameView_setRegion rfl hentry, rfl, fun k => by simp [region_setRegion]; split_ifs with hk <;> simp [hk],
      fun k => by simp [region_setRegion]; split_ifs with hk <;> simp [hk]⟩

theorem clusters_dirRefresh (d : Dev) (n : Nat) : (d.dirRefresh n).clusters = d.clusters := by
  unfold Dev.dirRefresh
  split <;> rfl

/-- A request whose home lies in no region of this package only leaves over a link. -/
theorem posts_sendReq_far {q : HomeReq} (hhome : d.homeLocal q.line = none) : Posts d (d.sendReq q) := by
  unfold Dev.homeLocal at hhome
  unfold Dev.sendReq
  split at hhome
  · next p hp =>
    rw [hp]
    split_ifs at hhome with hpkg
    dsimp only
    rw [if_neg hpkg]
    exact posts_sendTo _ _ d
  · next hp =>
    rw [hp]
    exact Posts.refl d

/-! ### The victim's eviction slot (R262) -/

section
variable {e : L2Line}

/-- The victim of a miss as it enters its eviction slot. -/
def victimOf (d : Dev) (e : L2Line) : EvSlot := { line := e.line, room := e.room, stale := false, granted := false, stamp := d.stampOf 0 }

/-- A cluster whose dirty line has moved into slot `i`. -/
def slotted (d : Dev) (c i : Nat) (e : L2Line) : Dev :=
  (d.l1DropAll c e.line).modCluster c (fun x =>
    { x with
      l2 := x.l2.filter (fun y => y.line != e.line)
      slotGen := x.slotGen ^^^ BitVec.ofNat 16 (2 ^ i)
      slots := Sparse.insert x.slots i (some (victimOf (d.l1DropAll c e.line) e)) })

/-- Dropping another line leaves the copy of a line. -/
theorem find?_filter_of_ne {l : List L2Line} {n : Nat} (hn : n ≠ line) :
    (l.filter (fun y => y.line != n)).find? (fun y => y.line == line) = l.find? (fun y => y.line == line) := by
  rw [List.find?_filter]
  congr 1
  funext y
  by_cases hy : y.line = line
  · simp [hy, Ne.symm hn]
  · simp [hy]

theorem sameHome_slotted (hne : e.line ≠ line) (hfree : Sparse.get none (d.cluster c).slots i = none) : SameHome line d (slotted d c i e) := by
  have hcluster : (d.l1DropAll c e.line).cluster c = d.cluster c := by rw [Dev.cluster, clusters_l1DropAll, ← Dev.cluster]
  refine (sameHome_l1DropAll c e.line).trans (sameHome_setCluster ?_ ?_)
  · dsimp only
    exact find?_filter_of_ne hne
  · dsimp only
    exact currentIn_insert (by rw [hcluster, hfree]) hne

/-- Of a line that has moved into its slot, the home's entry is brought up to date, or the EvD leaves for another package. -/
theorem toSlot_cases (d : Dev) (c i : Nat) (e : L2Line) :
    d.toSlot c i e = (slotted d c i e).dirRefresh e.line ∨ Posts (slotted d c i e) (d.toSlot c i e) := by
  unfold Dev.toSlot
  extract_lets d1 v d2
  have h2 : d2 = slotted d c i e := rfl
  rw [← h2]
  split_ifs with hhome
  · exact .inl rfl
  · exact .inr (posts_sendReq_far (Option.not_isSome_iff_eq_none.1 hhome))

/-- Another line that moves into a free slot changes nothing that the home of a line goes by. -/
theorem sameHome_toSlot (hne : e.line ≠ line) (hfree : Sparse.get none (d.cluster c).slots i = none) : SameHome line d (d.toSlot c i e) := by
  refine (sameHome_slotted hne hfree).trans ?_
  rcases toSlot_cases d c i e with h | h
  · rw [h]
    exact sameHome_dirRefresh hne
  · exact sameHome_of_posts h

theorem clusters_toSlot (d : Dev) (c i : Nat) (e : L2Line) : (d.toSlot c i e).clusters = (slotted d c i e).clusters := by
  rcases toSlot_cases d c i e with h | h
  · rw [h, clusters_dirRefresh]
  · exact h.clusters

/-- The slot holds the victim, its EvD still to go; the miss registers are as they were. -/
theorem cluster_toSlot (d : Dev) (c i : Nat) (e : L2Line) : Sparse.get none ((d.toSlot c i e).cluster c).slots i = some (victimOf d e) ∧
    ((d.toSlot c i e).cluster c).miss = (d.cluster c).miss := by
  have hstamp : victimOf (d.l1DropAll c e.line) e = victimOf d e := by
    rw [victimOf, (sameHome_l1DropAll (line := e.line) c e.line).stampOf, ← victimOf]
  have hcluster : (d.l1DropAll c e.line).cluster c = d.cluster c := by rw [Dev.cluster, clusters_l1DropAll, ← Dev.cluster]
  rw [Dev.cluster, clusters_toSlot, ← Dev.cluster]
  simp [slotted, hstamp, hcluster]

end

/-! ### The miss register (R259) -/

section
variable {core : Nat} {kind : TxnKind} {use : MissUse} {age : Nat}

/-- The register of a core's miss. -/
def missReg (d : Dev) (core line : Nat) (kind : TxnKind) (use : MissUse) : MissReg :=
  { line := line, core := core, room := (d.coreRoom core).getD 0, use := use, wr := kind != .rds, secs := [] }

/-- A cluster whose register `i` works for a core's miss. -/
def registered (d : Dev) (core line : Nat) (kind : TxnKind) (use : MissUse) (i : Nat) : Dev :=
  d.modCluster (core / 4) (fun x => { x with miss := Sparse.insert x.miss i (missReg d core line kind use) })

/-- The dirty line that a miss displaces; a request for permission displaces none. -/
def dirtyVictim (d : Dev) (core line : Nat) (kind : TxnKind) : Option L2Line :=
  if kind == .upg then none else (d.l2Victim core ((d.coreRoom core).getD 0) line).filter (fun e => e.st.dirty)

/-- A cluster whose miss waits for its request: the register is taken, and its slot holds a dirty victim. -/
def prepared (d : Dev) (core line : Nat) (kind : TxnKind) (use : MissUse) (i : Nat) : Dev :=
  match dirtyVictim (registered d core line kind use i) core line kind with
  | some e => (registered d core line kind use i).toSlot (core / 4) i e
  | none => registered d core line kind use i

/-- The request that such a miss sends. -/
def requestOf (d : Dev) (core line : Nat) (kind : TxnKind) (age : Nat) : HomeReq :=
  { kind := kind, line := line, requester := d.sysCluster (core / 4), room := (d.coreRoom core).getD 0, stamp := d.stampOf age, bytes := [],
    tag := none }

/-- The register leaves the room's ways and the set of the line as they are. -/
theorem dirtyVictim_registered : dirtyVictim (registered d core line kind use i) core line kind = dirtyVictim d core line kind := by
  simp [dirtyVictim, registered, Dev.l2Victim, Dev.l2Way, Dev.lkWay, Dev.l2Set, Dev.l2Ways, Dev.l2Lock]

theorem sameHome_registered : SameHome line d (registered d core line kind use i) := sameHome_setCluster rfl rfl

/-- A line of the set that a line displaces is not that line, where the cluster does not hold it. -/
theorem line_ne_of_l2Victim {room : Nat} {e : L2Line} (hst : d.l2St (core / 4) line = none) (he : d.l2Victim core room line = some e) :
    e.line ≠ line := by
  obtain ⟨w, -, hfind⟩ := Option.bind_eq_some_iff.1 he
  have hmem : e ∈ (d.cluster (core / 4)).l2 := (List.mem_filter.1 (List.mem_of_find?_eq_some hfind)).1
  have hnone : (d.cluster (core / 4)).l2.find? (fun x => x.line == line) = none := Option.map_eq_none_iff.1 hst
  simpa using List.find?_eq_none.1 hnone e hmem

theorem dirtyVictim_eq_some {e : L2Line} (he : dirtyVictim d core line kind = some e) :
    kind ≠ .upg ∧ d.l2Victim core ((d.coreRoom core).getD 0) line = some e ∧ e.st.dirty = true := by
  unfold dirtyVictim at he
  split_ifs at he with hk
  obtain ⟨hv, hd⟩ := Option.filter_eq_some_iff.1 he
  exact ⟨by simpa using hk, hv, hd⟩

theorem sameHome_prepared (hst : kind ≠ .upg → d.l2St (core / 4) line = none) (hfree : Sparse.get none (d.cluster (core / 4)).slots i = none) :
    SameHome line d (prepared d core line kind use i) := by
  unfold prepared
  rw [dirtyVictim_registered]
  split
  · next e he =>
    obtain ⟨hk, hv, -⟩ := dirtyVictim_eq_some he
    exact sameHome_registered.trans (sameHome_toSlot (line_ne_of_l2Victim (hst hk) hv) (by simpa [registered] using hfree))
  · exact sameHome_registered

/-- The register of a line that no other register works for is the one that the line finds. -/
theorem find?_insert_of_line {l : Sparse MissReg} {m : MissReg} (hnone : l.find? (fun p => p.2.line == line) = none) (hm : m.line = line) :
    (Sparse.insert l i m).find? (fun p => p.2.line == line) = some (i, m) := by
  induction l with
  | nil => simp [Sparse.insert, hm]
  | cons p t ih =>
    obtain ⟨k, x⟩ := p
    rw [List.find?_cons] at hnone
    split at hnone
    · cases hnone
    · next hx =>
      simp only [Sparse.insert]
      split_ifs
      · simp [hm]
      · simp [hm]
      · rw [List.find?_cons, hx]
        exact ih hnone

theorem miss_prepared (d : Dev) (core line : Nat) (kind : TxnKind) (use : MissUse) (i : Nat) :
    ((prepared d core line kind use i).cluster (core / 4)).miss =
      Sparse.insert (d.cluster (core / 4)).miss i (missReg d core line kind use) := by
  unfold prepared
  split
  · rw [(cluster_toSlot _ _ _ _).2]
    simp [registered]
  · simp [registered]

theorem missOf_prepared (hmiss : d.missOf (core / 4) line = none) :
    (prepared d core line kind use i).missOf (core / 4) line = some (i, missReg d core line kind use) := by
  rw [Dev.missOf, miss_prepared]
  exact find?_insert_of_line hmiss rfl

/-- A dirty victim stands in the register's slot. -/
theorem slot_prepared {v : L2Line} (hk : kind ≠ .upg) (hv : d.l2Victim core ((d.coreRoom core).getD 0) line = some v) (hd : v.st.dirty = true) :
    Sparse.get none ((prepared d core line kind use i).cluster (core / 4)).slots i = some (victimOf d v) := by
  have hdirty : dirtyVictim d core line kind = some v := by simp [dirtyVictim, hk, hv, hd]
  unfold prepared
  rw [dirtyVictim_registered, hdirty]
  exact (cluster_toSlot _ _ _ _).1

/-- A free register has a free eviction slot. -/
theorem slot_of_freeMiss {room : Nat} (h : d.freeMiss core room use = some i) : Sparse.get none (d.cluster (core / 4)).slots i = none := by
  unfold Dev.freeMiss at h
  dsimp only at h
  obtain ⟨-, hfind⟩ := Option.ite_none_right_eq_some.1 h
  have hfree := List.find?_some hfind
  rw [Bool.and_eq_true] at hfree
  exact Option.isNone_iff_eq_none.1 hfree.2

/-! ### What a miss does -/

theorem missRequest_of_full (hmay : d.mayRequest core line = true) (hmiss : d.missOf (core / 4) line = none)
    (hfull : d.freeMiss core ((d.coreRoom core).getD 0) use = none) : d.missRequest core line kind use age = d := by
  simp [Dev.missRequest, hmay, hmiss, hfull]

theorem missRequest_of_missOf (hmay : d.mayRequest core line = true) (hmiss : (d.missOf (core / 4) line).isSome = true) :
    d.missRequest core line kind use age = d.mergeMiss core line use := by
  simp [Dev.missRequest, hmay, hmiss]

/-- A miss that finds a register sends its request to the line's home. -/
theorem missRequest_of_free {r : Nat} (hmay : d.mayRequest core line = true) (hmiss : d.missOf (core / 4) line = none)
    (hreg : d.freeMiss core ((d.coreRoom core).getD 0) use = some i) (hst : kind ≠ .upg → d.l2St (core / 4) line = none)
    (hhome : d.homeLocal line = some r) :
    d.missRequest core line kind use age = (prepared d core line kind use i).atHome r (requestOf d core line kind age) := by
  have hsame := sameHome_prepared (use := use) hst (slot_of_freeMiss hreg)
  have hsend : d.missRequest core line kind use age =
      (prepared d core line kind use i).sendReq (requestOf d core line kind age) := by
    rw [requestOf, ← hsame.sysCluster, ← hsame.stampOf age]
    unfold Dev.missRequest
    extract_lets c room
    rw [hmay, hmiss, hreg]
    rfl
  rw [hsend]
  exact sendReq_here (by rw [hsame.view.homeLocal]; exact hhome)

/-- A further miss of the cluster for a line joins the requests of the line's register (R260). -/
theorem mergeMiss_joins {m : MissReg} (hmiss : d.missOf (core / 4) line = some (i, m)) (hcore : m.core ≠ core) (hnew : (core, use) ∉ m.secs)
    (hroom : m.secs.length < 4) (hl1 : d.l1MissFree core use = true) :
    (d.mergeMiss core line use).missOf (core / 4) line = some (i, { m with secs := m.secs ++ [(core, use)] }) ∧
      (d.mergeMiss core line use).regions = d.regions := by
  unfold Dev.missOf at hmiss
  have hline : m.line = line := by simpa using List.find?_some hmiss
  unfold Dev.mergeMiss
  simp only [hl1, Bool.not_true, Bool.false_eq_true, if_false]
  refine ⟨?_, rfl⟩
  rw [Dev.missOf, modCluster_eq, cluster_setCluster_same, find?_map_of_keeps (fun p => by split_ifs <;> rfl), hmiss, Option.map_some,
    if_pos (by simp [hline, hcore, hnew, hroom])]

end

end Sys2Proof.Proofs.ClusterMisses
end

section
/-!
SUPPORT. The rows RDS to WRP (R259, R260, R277, R278, R282, Table 12.4): a core's request of this package or another, and a hub engine's, as they
open their transaction at the home, wait there, or go no further than their cluster or the hub.
-/
namespace Sys2Proof.Proofs.HomeRequests
open Sys2Proof Sys2Proof.Machine Sys2Proof.Safety Sys2Proof.Laws Sys2Proof.Proofs.HomeGrants Sys2Proof.Proofs.ClusterMisses

variable {d : Dev} {line r : Nat}

/-! ### The transaction of a request (Table 12.4) -/

/-- The transaction that a request opens: kind, whether it takes the line from every holder, and the snoop of each cluster. -/
def openedTxn (d : Dev) (line : Nat) (kind : TxnKind) (excl : Bool) (who room stamp : Nat) (k : Nat → SnoopKind) (bytes : List (Nat × Byte)) :
    Txn :=
  { line := line, kind := kind, requester := who, room := room, stamp := stamp,
    toSnoop := ((d.forwarded line).filter (fun c => (d.targets line excl).contains (d.sysRegion (c / 4)) && who != d.sysCluster c)).map
      (fun c => (c, k c)),
    awaiting := d.targets line excl, gotData := false, ownerDirty := false, heldBy := [], slotTag := none, cmp := false, sent := false,
    installed := false, bytes := bytes }

section
variable {q : HomeReq} {kind : TxnKind} {excl : Bool}

theorem txnFor_eq (hkind : (if q.kind == .upg && !d.stillListed q then TxnKind.rdx else q.kind) = kind)
    (hexcl : (kind != .rds && kind != .rdc) = excl) (htag : q.tag = none) :
    d.txnFor q = openedTxn d q.line kind excl q.requester q.room q.stamp (fun c => d.snoopOf q.line kind (d.sysRegion (c / 4))) q.bytes := by
  unfold Dev.txnFor openedTxn
  dsimp only
  rw [hkind, hexcl, htag]
  rfl

theorem snoopOf_of_ne_wrp (hkind : kind ≠ .wrp) (p : Nat) : d.snoopOf line kind p = kind.snoop := by
  simp [Dev.snoopOf, hkind]

/-- A partial write takes the data of the line's owner, and no other's. -/
theorem snoopOf_wrp (p : Nat) :
    ((∀ e, d.l3Line line = some e → e.st.exclusive = true ∧ e.owner = p) → d.snoopOf line .wrp p = .snpx) ∧
    (¬ (∀ e, d.l3Line line = some e → e.st.exclusive = true ∧ e.owner = p) → d.snoopOf line .wrp p = .snpi) := by
  unfold Dev.snoopOf
  cases d.l3Line line with
  | none => simp [TxnKind.snoop]
  | some e => simp [TxnKind.snoop]

end

/-! ### Requests of cores -/

/-- RDS, RDX and UPG: constructor, kind, whether it asks for write permission, and its snoop. -/
def coreRows : List ((Requester → Nat → Instr) × TxnKind × Bool × SnoopKind) :=
  [(.rds, .rds, false, .snps), (.rdx, .rdx, true, .snpx), (.upg, .upg, true, .snpx)]

theorem exec_coreRow {p : (Requester → Nat → Instr) × TxnKind × Bool × SnoopKind} (hp : p ∈ coreRows) (a : Requester) (s : State) :
    exec (p.1 a line) s = onDev (fun d => d.coreReq a line p.2.1) s := by
  unfold coreRows at hp
  fin_cases hp <;> rfl

/-- What a kind of core request says of permission and snoops. -/
structure CoreKind (kind : TxnKind) (excl : Bool) (snoop : SnoopKind) : Prop where
  takes : (kind != .rds && kind != .rdc) = excl
  writes : (kind != .rds) = excl
  snoops : kind.snoop = snoop
  notEvd : kind ≠ .evd
  notWrp : kind ≠ .wrp

theorem coreKind_of_row {p : (Requester → Nat → Instr) × TxnKind × Bool × SnoopKind} (hp : p ∈ coreRows) :
    CoreKind p.2.1 p.2.2.1 p.2.2.2 := by
  unfold coreRows at hp
  fin_cases hp <;> exact ⟨rfl, rfl, rfl, by decide, by decide⟩

theorem ownCluster_sysCluster {c : Nat} (hc : c < 32) : d.ownCluster (d.sysCluster c) = some c := by
  have hpkg : d.pkg < 4 := d.straps.pkgId.isLt
  have hdiv : (d.pkg * 32 + c) / 32 = d.pkg := by omega
  have hmod : (d.pkg * 32 + c) % 32 = c := by omega
  have hlt : d.pkg * 32 + c < 128 := by omega
  simp [Dev.ownCluster, Dev.sysCluster, hdiv, hmod, hlt]

section
variable {core age i : Nat} {kind : TxnKind} {excl : Bool} {snoop : SnoopKind} {a : Requester}

/-- A request for the data is of a line that the cluster lacks. -/
theorem l2St_of_needs (h : d.needs core line kind = true) (hk : kind ≠ .upg) : d.l2St (core / 4) line = none := by
  unfold Dev.needs Dev.missKind at h
  cases hst : d.l2St (core / 4) line with
  | none => rfl
  | some st =>
    cases kind <;> simp [hst] at h hk

/-- A request for permission is of a line that the cluster holds without it. -/
theorem l2St_of_needs_upg (h : d.needs core line .upg = true) : d.l2St (core / 4) line = some .s ∨ d.l2St (core / 4) line = some .o := by
  unfold Dev.needs Dev.missKind at h
  cases hst : d.l2St (core / 4) line with
  | none => simp [hst] at h
  | some st => simpa [hst] using h

/-- A cluster that asks for permission is still listed: its request keeps its kind. -/
theorem requestOf_kind (hcore : core / 4 < 32) (h : d.needs core line kind = true) :
    (if (requestOf d core line kind age).kind == .upg && !d.stillListed (requestOf d core line kind age) then TxnKind.rdx
      else (requestOf d core line kind age).kind) = kind := by
  by_cases hk : kind = .upg
  · subst hk
    have hlisted : d.stillListed (requestOf d core line .upg age) = true := by
      unfold Dev.stillListed requestOf
      rw [ownCluster_sysCluster hcore]
      simpa using l2St_of_needs_upg h
    rw [hlisted]
    rfl
  · simp [requestOf, hk]

theorem txnFor_requestOf (hrow : CoreKind kind excl snoop) (hcore : core / 4 < 32) (h : d.needs core line kind = true) :
    d.txnFor (requestOf d core line kind age) = openedTxn d line kind excl (d.sysCluster (core / 4)) ((d.coreRoom core).getD 0) (d.stampOf age)
      (fun _ => snoop) [] := by
  rw [txnFor_eq (requestOf_kind hcore h) hrow.takes rfl]
  simp only [snoopOf_of_ne_wrp hrow.notWrp, hrow.snoops]
  rfl

/-- A miss that takes a register opens its transaction, where nothing is under way on the line and an entry is free. -/
theorem missRequest_opens (hon : AllOn d) (hhome : d.homeLocal line = some r) (hempty : (d.region r).waitQ = []) (hrow : CoreKind kind excl snoop)
    (hcore : core / 4 < 32) (hneeds : d.needs core line kind = true) (hmay : d.mayRequest core line = true)
    (hmiss : d.missOf (core / 4) line = none) (hreg : d.freeMiss core ((d.coreRoom core).getD 0) .data = some i)
    (hline : (d.region r).txn line = none) (hfree : d.entryFree r (d.sysCluster (core / 4)) ((d.coreRoom core).getD 0) = true) :
    Opened d r line (openedTxn d line kind excl (d.sysCluster (core / 4)) ((d.coreRoom core).getD 0) (d.stampOf age) (fun _ => snoop) [])
        (d.missRequest core line kind .data age) ∧
      (d.missRequest core line kind .data age).clusters = (prepared d core line kind .data i).clusters := by
  have hsame : SameHome line d (prepared d core line kind .data i) := sameHome_prepared (l2St_of_needs hneeds) (slot_of_freeMiss hreg)
  rw [missRequest_of_free hmay hmiss hreg (l2St_of_needs hneeds) hhome]
  obtain ⟨⟨htxn, hwait, hmem⟩, hclusters⟩ := atHome_opens (q := requestOf d core line kind age) (hsame.on hon) (by rw [hsame.waitQ, hempty])
    hrow.notEvd (by rw [hsame.txn]; exact hline) (by rw [hsame.entryFree]; exact hfree)
  refine ⟨⟨htxn.trans ?_, hwait, hmem.trans hsame.mem⟩, hclusters⟩
  rw [SameView.txnFor (q := requestOf d core line kind age) hsame.view, txnFor_requestOf hrow hcore hneeds]

/-- Where the line has an open transaction, its request waits at the home. -/
theorem missRequest_waits (hon : AllOn d) (hhome : d.homeLocal line = some r) (hempty : (d.region r).waitQ = []) (hrow : CoreKind kind excl snoop)
    (hneeds : d.needs core line kind = true) (hmay : d.mayRequest core line = true) (hmiss : d.missOf (core / 4) line = none)
    (hreg : d.freeMiss core ((d.coreRoom core).getD 0) .data = some i) (hline : (d.region r).txn line ≠ none) :
    Waiting d r (requestOf d core line kind age) (d.missRequest core line kind .data age) ∧
      (d.missRequest core line kind .data age).clusters = (prepared d core line kind .data i).clusters := by
  have hsame : SameHome line d (prepared d core line kind .data i) := sameHome_prepared (l2St_of_needs hneeds) (slot_of_freeMiss hreg)
  rw [missRequest_of_free hmay hmiss hreg (l2St_of_needs hneeds) hhome]
  obtain ⟨⟨hwait, htxns, hmem⟩, hclusters⟩ := atHome_waits (q := requestOf d core line kind age) (hsame.on hon) (by rw [hsame.waitQ, hempty])
    hrow.notEvd (by rw [hsame.txn]; exact hline)
  exact ⟨⟨hwait, htxns.trans (hsame.txns r), hmem.trans hsame.mem⟩, hclusters⟩

theorem missOf_of_clusters {d d' : Dev} (h : d'.clusters = d.clusters) (c n : Nat) : d'.missOf c n = d.missOf c n := by
  rw [Dev.missOf, Dev.cluster, h, ← Dev.cluster, ← Dev.missOf]

theorem coreReq_own (hpkg : a.number / 128 = d.pkg) (hneeds : d.needs (a.number % 128) line kind = true) :
    d.coreReq a line kind = d.missRequest (a.number % 128) line kind .data a.age := by
  simp [Dev.coreReq, hpkg, hneeds]

/-- The request of a core of another package. -/
def farRequest (d : Dev) (a : Requester) (line : Nat) (kind : TxnKind) (id : Nat) : HomeReq :=
  { kind := kind, line := line, requester := a.number / 4, room := id, stamp := d.stampOf a.age, bytes := [], tag := none }

theorem coreReq_far {id : Nat} (hpkg : a.number / 128 ≠ d.pkg) (hhome : d.homeLocal line = some r)
    (hid : d.plan.coreRoom (a.number / 128) (a.number % 128) = some id) :
    d.coreReq a line kind = d.atHome r (farRequest d a line kind id) := by
  simp [Dev.coreReq, hpkg, hhome, hid, farRequest]

/-- Where the entry no longer names the region of a core that asks for permission, the request reads the line too. -/
theorem farRequest_kind {id : Nat} (hpkg : a.number / 128 ≠ d.pkg) :
    (if (farRequest d a line kind id).kind == .upg && !d.stillListed (farRequest d a line kind id) then TxnKind.rdx
      else (farRequest d a line kind id).kind) =
      if kind = .upg ∧ ∃ e, d.l3Line line = some e ∧ e.vec.getLsbD (a.number / 16) = false then .rdx else kind := by
  have hown : d.ownCluster (a.number / 4) = none := by
    have hdiv : a.number / 4 / 32 = a.number / 128 := by omega
    simp [Dev.ownCluster, hdiv, hpkg]
  have hregion : a.number / 4 / 4 = a.number / 16 := by omega
  have hlisted : d.stillListed (farRequest d a line kind id) =
      ((d.l3Line line).map (fun e => e.vec.getLsbD (a.number / 16))).getD true := by
    unfold Dev.stillListed farRequest
    rw [hown]
    simp only [hregion]
  rw [hlisted]
  cases d.l3Line line with
  | none => simp [farRequest]
  | some e => simp [farRequest]

theorem txnFor_farRequest {id : Nat} (hrow : CoreKind kind excl snoop) (hpkg : a.number / 128 ≠ d.pkg) :
    d.txnFor (farRequest d a line kind id) = openedTxn d line
      (if kind = .upg ∧ ∃ e, d.l3Line line = some e ∧ e.vec.getLsbD (a.number / 16) = false then .rdx else kind) excl (a.number / 4) id
      (d.stampOf a.age) (fun _ => snoop) [] := by
  have hfar : CoreKind (if kind = .upg ∧ ∃ e, d.l3Line line = some e ∧ e.vec.getLsbD (a.number / 16) = false then .rdx else kind) excl snoop := by
    split_ifs with h
    · obtain ⟨rfl, -⟩ := h
      exact ⟨hrow.takes, hrow.writes, hrow.snoops, by simp, by simp⟩
    · exact hrow
  rw [txnFor_eq (farRequest_kind hpkg) hfar.takes rfl]
  simp only [snoopOf_of_ne_wrp hfar.notWrp, hfar.snoops]
  rfl

end

/-! ### Requests of hub engines (R282, R295) -/

section
variable {q : HomeReq}

theorem hubReq_sends (hengine : 128 ≤ q.requester) (hroom : d.hubCount < 64) (hturn : q.kind.isWrite = false ∨ d.engineBusy q.requester = false)
    (hhome : d.homeLocal q.line = some r) : d.hubReq q = d.atHome r q := by
  have hsend : d.hubReq q = d.hubSend q := by
    unfold Dev.hubReq
    rw [if_neg (by simpa using ⟨hengine, hroom⟩), if_neg (by rcases hturn with h | h <;> simp [h])]
  rw [hsend, Dev.hubSend, hhome]
  exact sendReq_here hhome

theorem hubReq_queues (hengine : 128 ≤ q.requester) (hroom : d.hubCount < 64) (hwrite : q.kind.isWrite = true)
    (hbusy : d.engineBusy q.requester = true) : d.hubReq q = { d with hubQ := d.hubQ ++ [q] } := by
  unfold Dev.hubReq
  rw [if_neg (by simpa using ⟨hengine, hroom⟩), if_pos (by simp [hwrite, hbusy])]

end

/-- RDC, WRF and WRP: the command, its kind, whether it takes the line, and the bytes that it brings. -/
def engineRows (a : Requester) (line : Nat) (mask : BitVec 64) (data : List Byte) : List (Instr × TxnKind × Bool × List (Nat × Byte)) :=
  [(.rdc a line, .rdc, false, []), (.wrf a line data, .wrf, true, spread (line * 64) data),
    (.wrp a line mask data, .wrp, true, maskedBytes line mask data)]

/-- What a kind of engine request says of permission and writing. -/
structure EngineKind (kind : TxnKind) (excl : Bool) : Prop where
  takes : (kind != .rds && kind != .rdc) = excl
  writes : kind.isWrite = !decide (kind = .rdc)
  notEvd : kind ≠ .evd
  notUpg : kind ≠ .upg

section
variable {a : Requester} {mask : BitVec 64} {data : List Byte} {q : Instr × TxnKind × Bool × List (Nat × Byte)}

theorem exec_engineRow (hq : q ∈ engineRows a line mask data) (hlen : q.2.1 ≠ .rdc → data.length = 64) (s : State) :
    exec q.1 s = onDev (fun d => d.engineReq a line q.2.1 q.2.2.2) s := by
  unfold engineRows at hq
  simp only [List.mem_cons, List.not_mem_nil, or_false] at hq
  rcases hq with rfl | rfl | rfl
  · rfl
  · have hdata : (data.length == 64) = true := by simpa using hlen (by simp)
    change execWrf a line data s = _
    simp only [execWrf, hdata, if_true]
  · have hdata : (data.length == 64) = true := by simpa using hlen (by simp)
    change execWrp a line mask data s = _
    simp only [execWrp, hdata, if_true]

theorem engineKind_of_row (hq : q ∈ engineRows a line mask data) : EngineKind q.2.1 q.2.2.1 := by
  unfold engineRows at hq
  simp only [List.mem_cons, List.not_mem_nil, or_false] at hq
  rcases hq with rfl | rfl | rfl <;> exact ⟨rfl, rfl, by simp, by simp⟩

/-- The request of an engine. -/
def engineRequest (d : Dev) (a : Requester) (line : Nat) (kind : TxnKind) (bytes : List (Nat × Byte)) : HomeReq :=
  { kind := kind, line := line, requester := a.number, room := a.room, stamp := d.stampOf a.age, bytes := bytes, tag := none }

theorem txnFor_engineRequest {kind : TxnKind} {excl : Bool} {bytes : List (Nat × Byte)} (hrow : EngineKind kind excl) :
    d.txnFor (engineRequest d a line kind bytes) = openedTxn d line kind excl a.number a.room (d.stampOf a.age)
      (fun c => d.snoopOf line kind (d.sysRegion (c / 4))) bytes :=
  txnFor_eq (by simp [engineRequest, hrow.notUpg]) hrow.takes rfl

end

/-! ### The rows -/

section
variable {s : State} {p : (Requester → Nat → Instr) × TxnKind × Bool × SnoopKind} {a : Requester}

section
variable {i : Nat} (hp : p ∈ coreRows) (hpkg : a.number / 128 = s.dev.pkg) (hneeds : s.dev.needs (a.number % 128) line p.2.1 = true)
include hp hpkg hneeds

theorem ownRow_answers : Answers (exec (p.1 a line) s) s (s.dev.missRequest (a.number % 128) line p.2.1 .data a.age) := by
  rw [exec_coreRow hp, ← coreReq_own hpkg hneeds]
  exact onDev_answers (fun d => d.coreReq a line p.2.1) s

section
variable (hon : AllOn s.dev) (hhome : s.dev.homeLocal line = some r) (hempty : (s.dev.region r).waitQ = [])
  (hmay : s.dev.mayRequest (a.number % 128) line = true) (hmiss : s.dev.missOf (a.number % 128 / 4) line = none)
  (hreg : s.dev.freeMiss (a.number % 128) ((s.dev.coreRoom (a.number % 128)).getD 0) .data = some i)
include hon hhome hempty hmay hmiss hreg

/-- A core's miss whose home can grant it. -/
theorem ownRow_opens (hline : (s.dev.region r).txn line = none)
    (hfree : s.dev.entryFree r (s.dev.sysCluster (a.number % 128 / 4)) ((s.dev.coreRoom (a.number % 128)).getD 0) = true) :
    ∃ X : Dev, Answers (exec (p.1 a line) s) s X ∧
      Opened s.dev r line (openedTxn s.dev line p.2.1 p.2.2.1 (s.dev.sysCluster (a.number % 128 / 4)) ((s.dev.coreRoom (a.number % 128)).getD 0)
        (s.dev.stampOf a.age) (fun _ => p.2.2.2) []) X ∧
      X.missOf (a.number % 128 / 4) line = some (i, missReg s.dev (a.number % 128) line p.2.1 .data) ∧
      ∀ v : L2Line, p.2.1 ≠ .upg → s.dev.l2Victim (a.number % 128) ((s.dev.coreRoom (a.number % 128)).getD 0) line = some v →
        v.st.dirty = true → Sparse.get none (X.cluster (a.number % 128 / 4)).slots i = some (victimOf s.dev v) := by
  obtain ⟨hopened, hclusters⟩ := missRequest_opens (age := a.age) hon hhome hempty (coreKind_of_row hp) (by omega) hneeds hmay hmiss
      hreg hline hfree
  refine ⟨_, ownRow_answers hp hpkg hneeds, hopened, ?_, fun v hk hv hdirty => ?_⟩
  · rw [missOf_of_clusters hclusters, missOf_prepared hmiss]
  · rw [Dev.cluster, hclusters]
    exact slot_prepared hk hv hdirty

/-- A core's miss of a line that has a transaction open. -/
theorem ownRow_waits (hline : (s.dev.region r).txn line ≠ none) : ∃ X : Dev, Answers (exec (p.1 a line) s) s X ∧
    Waiting s.dev r (requestOf s.dev (a.number % 128) line p.2.1 a.age) X ∧ (X.missOf (a.number % 128 / 4) line).map Prod.fst = some i := by
  obtain ⟨hwaiting, hclusters⟩ := missRequest_waits (age := a.age) hon hhome hempty (coreKind_of_row hp) hneeds hmay hmiss hreg hline
  refine ⟨_, ownRow_answers hp hpkg hneeds, hwaiting, ?_⟩
  rw [missOf_of_clusters hclusters, missOf_prepared hmiss]
  rfl

end

/-- A core's miss that finds no register. -/
theorem ownRow_full (hmay : s.dev.mayRequest (a.number % 128) line = true) (hmiss : s.dev.missOf (a.number % 128 / 4) line = none)
    (hfull : s.dev.freeMiss (a.number % 128) ((s.dev.coreRoom (a.number % 128)).getD 0) .data = none) :
    Answers (exec (p.1 a line) s) s s.dev := by
  have hanswers := ownRow_answers hp hpkg hneeds
  rwa [missRequest_of_full hmay hmiss hfull] at hanswers

/-- A core's miss of a line that its cluster has asked for. -/
theorem ownRow_joins {m : MissReg} (hmay : s.dev.mayRequest (a.number % 128) line = true)
    (hmiss : s.dev.missOf (a.number % 128 / 4) line = some (i, m)) (hcore : m.core ≠ a.number % 128) (hnew : (a.number % 128, .data) ∉ m.secs)
    (hroom : m.secs.length < 4) (hl1 : s.dev.l1MissFree (a.number % 128) .data = true) :
    ∃ X : Dev, Answers (exec (p.1 a line) s) s X ∧
      X.missOf (a.number % 128 / 4) line = some (i, { m with secs := m.secs ++ [(a.number % 128, .data)] }) ∧ X.regions = s.dev.regions := by
  have hanswers := ownRow_answers hp hpkg hneeds
  rw [missRequest_of_missOf hmay (by rw [hmiss]; rfl)] at hanswers
  exact ⟨_, hanswers, mergeMiss_joins hmiss hcore hnew hroom hl1⟩

end

section
variable {id : Nat} (hp : p ∈ coreRows) (hpkg : a.number / 128 ≠ s.dev.pkg) (hon : AllOn s.dev) (hhome : s.dev.homeLocal line = some r)
  (hempty : (s.dev.region r).waitQ = []) (hid : s.dev.plan.coreRoom (a.number / 128) (a.number % 128) = some id)
include hp hpkg hhome hid

theorem farRow_answers : Answers (exec (p.1 a line) s) s (s.dev.atHome r (farRequest s.dev a line p.2.1 id)) := by
  rw [exec_coreRow hp, ← coreReq_far hpkg hhome hid]
  exact onDev_answers (fun d => d.coreReq a line p.2.1) s

include hon hempty

/-- The request of another package's core that the home can grant. -/
theorem farRow_opens (hline : (s.dev.region r).txn line = none) (hfree : s.dev.entryFree r (a.number / 4) id = true) :
    ∃ X : Dev, Answers (exec (p.1 a line) s) s X ∧
      Opened s.dev r line (openedTxn s.dev line
        (if p.2.1 = .upg ∧ ∃ e, s.dev.l3Line line = some e ∧ e.vec.getLsbD (a.number / 16) = false then .rdx else p.2.1) p.2.2.1 (a.number / 4) id
        (s.dev.stampOf a.age) (fun _ => p.2.2.2) []) X := by
  have hrow := coreKind_of_row hp
  rw [← txnFor_farRequest hrow hpkg]
  exact ⟨_, farRow_answers hp hpkg hhome hid, (atHome_opens (q := farRequest s.dev a line p.2.1 id) hon hempty hrow.notEvd hline hfree).1⟩

/-- One for a line that has a transaction open. -/
theorem farRow_waits (hline : (s.dev.region r).txn line ≠ none) :
    ∃ X : Dev, Answers (exec (p.1 a line) s) s X ∧ Waiting s.dev r (farRequest s.dev a line p.2.1 id) X :=
  ⟨_, farRow_answers hp hpkg hhome hid,
    (atHome_waits (q := farRequest s.dev a line p.2.1 id) hon hempty (coreKind_of_row hp).notEvd hline).1⟩

end

section
variable {mask : BitVec 64} {data : List Byte} {q : Instr × TxnKind × Bool × List (Nat × Byte)} (hq : q ∈ engineRows a line mask data)
  (hlen : q.2.1 ≠ .rdc → data.length = 64) (hengine : 128 ≤ a.number) (hroom : s.dev.hubCount < 64)
include hq hlen

theorem engineRow_answers : Answers (exec q.1 s) s (s.dev.hubReq (engineRequest s.dev a line q.2.1 q.2.2.2)) := by
  rw [exec_engineRow hq hlen]
  exact onDev_answers (fun d => d.engineReq a line q.2.1 q.2.2.2) s

include hengine hroom

/-- A write of an engine that has an earlier one under way. -/
theorem engineRow_queues (hwrite : q.2.1 ≠ .rdc) (hbusy : s.dev.engineBusy a.number = true) :
    Answers (exec q.1 s) s { s.dev with hubQ := s.dev.hubQ ++ [engineRequest s.dev a line q.2.1 q.2.2.2] } := by
  have hanswers := engineRow_answers (s := s) hq hlen
  rwa [hubReq_queues hengine hroom (by simpa [engineRequest, (engineKind_of_row hq).writes] using hwrite) hbusy] at hanswers

variable (hturn : q.2.1 = .rdc ∨ s.dev.engineBusy a.number = false) (hon : AllOn s.dev) (hhome : s.dev.homeLocal line = some r)
  (hempty : (s.dev.region r).waitQ = [])
include hturn hhome

theorem engineRow_atHome : Answers (exec q.1 s) s (s.dev.atHome r (engineRequest s.dev a line q.2.1 q.2.2.2)) := by
  have hsends := hubReq_sends (q := engineRequest s.dev a line q.2.1 q.2.2.2) hengine hroom
    (by simpa [engineRequest, (engineKind_of_row hq).writes] using hturn) hhome
  rw [← hsends]
  exact engineRow_answers hq hlen

include hon hempty

/-- An engine's request that the home can grant. -/
theorem engineRow_opens (hline : (s.dev.region r).txn line = none) (hfree : s.dev.entryFree r a.number a.room = true) :
    ∃ X : Dev, Answers (exec q.1 s) s X ∧
      Opened s.dev r line (openedTxn s.dev line q.2.1 q.2.2.1 a.number a.room (s.dev.stampOf a.age)
        (fun c => s.dev.snoopOf line q.2.1 (s.dev.sysRegion (c / 4))) q.2.2.2) X := by
  have hrow := engineKind_of_row hq
  rw [← txnFor_engineRequest hrow]
  exact ⟨_, engineRow_atHome hq hlen hengine hroom hturn hhome,
    (atHome_opens (q := engineRequest s.dev a line q.2.1 q.2.2.2) hon hempty hrow.notEvd hline hfree).1⟩

/-- One for a line that has a transaction open. -/
theorem engineRow_waits (hline : (s.dev.region r).txn line ≠ none) :
    ∃ X : Dev, Answers (exec q.1 s) s X ∧ Waiting s.dev r (engineRequest s.dev a line q.2.1 q.2.2.2) X :=
  ⟨_, engineRow_atHome hq hlen hengine hroom hturn hhome,
    (atHome_waits (q := engineRequest s.dev a line q.2.1 q.2.2.2) hon hempty (engineKind_of_row hq).notEvd hline).1⟩

end

end

end Sys2Proof.Proofs.HomeRequests
end

section
/-!
SUPPORT. A cluster's answer to a snoop (R280, R281, R284, Table 12.5) while every domain is On: what becomes of its copy of the line and of an
eviction slot that holds it, and what the home, here or in another package, hears of it.
-/
namespace Sys2Proof.Proofs.SnoopAnswers
open Sys2Proof Sys2Proof.Machine Sys2Proof.Safety Sys2Proof.Laws Sys2Proof.Proofs.HomeGrants Sys2Proof.Proofs.ClusterMisses

variable {d d' d'' : Dev} {c line : Nat} {kind : SnoopKind}

/-! ### What stays while a cluster answers -/

/-- From `d` to `d'` cores, contexts, clusters and counters of regions have changed, and no transaction. -/
structure KeepsTxns (d d' : Dev) : Prop where
  rest : d' = { d with cores := d'.cores, ctxs := d'.ctxs, clusters := d'.clusters, regions := d'.regions }
  txns : ∀ k, (d'.region k).txns = (d.region k).txns

theorem KeepsTxns.refl (d : Dev) : KeepsTxns d d := ⟨rfl, fun _ => rfl⟩

theorem KeepsTxns.trans (h : KeepsTxns d d') (h' : KeepsTxns d' d'') : KeepsTxns d d'' where
  rest := by rw [h'.rest, h.rest]
  txns k := (h'.txns k).trans (h.txns k)

theorem KeepsTxns.homeLocal (h : KeepsTxns d d') (n : Nat) : d'.homeLocal n = d.homeLocal n := by rw [h.rest]; rfl
theorem KeepsTxns.link (h : KeepsTxns d d') (j : Nat) : d'.link j = d.link j := by rw [h.rest]; rfl
theorem KeepsTxns.pkg (h : KeepsTxns d d') : d'.pkg = d.pkg := by rw [h.rest]; rfl

theorem KeepsTxns.txn (h : KeepsTxns d d') (k n : Nat) : (d'.region k).txn n = (d.region k).txn n := by
  rw [Region.txn, h.txns, ← Region.txn]

theorem keepsTxns_each {α : Type} (l : List α) (f : Dev → α → Dev) (hf : ∀ d a, KeepsTxns d (f d a)) (d : Dev) : KeepsTxns d (each l f d) := by
  induction l generalizing d with
  | nil => exact KeepsTxns.refl d
  | cons a t ih => exact (hf d a).trans (ih (f d a))

theorem keepsTxns_setCore (k : Nat) (x : Core) : KeepsTxns d (d.setCore k x) := ⟨rfl, fun _ => rfl⟩
theorem keepsTxns_setCluster (k : Nat) (x : Cluster) : KeepsTxns d (d.setCluster k x) := ⟨rfl, fun _ => rfl⟩
theorem keepsTxns_clearResv (n : Nat) (keep : Option Nat) : KeepsTxns d (d.clearResv n keep) := ⟨rfl, fun _ => rfl⟩

theorem keepsTxns_l1Drop (core n : Nat) (d : Dev) : KeepsTxns d (d.l1Drop core n) := by
  unfold Dev.l1Drop
  split_ifs
  · exact ⟨rfl, fun _ => rfl⟩
  · exact KeepsTxns.refl d

/-- A filter only counts the snoop that it forwards to a cluster that runs. -/
theorem forwardTo_of_on (hon : AllOn d) (c : Nat) :
    d.forwardTo c = d.modRegion (c / 4) (fun g => { g with sfSnpFwd := satInc max32 g.sfSnpFwd }) := by
  unfold Dev.forwardTo
  rcases (hon c).2 with hst | ⟨_, hst, _⟩ <;> rw [hst] <;> rfl

theorem keepsTxns_forwardTo (hon : AllOn d) (c : Nat) : KeepsTxns d (d.forwardTo c) := by
  rw [forwardTo_of_on hon]
  refine ⟨rfl, fun k => ?_⟩
  rw [modRegion_eq, region_setRegion]
  split_ifs with hk
  · rw [hk]
  · rfl

theorem clusters_forwardTo (hon : AllOn d) (c : Nat) : (d.forwardTo c).clusters = d.clusters := by
  rw [forwardTo_of_on hon]
  rfl

/-! ### The copy of the line -/

/-- Table 12.5: what SnpS makes of a state. -/
def sharedSt : Moesi → Moesi
  | .m => .o
  | .e => .s
  | st => st

theorem clusters_l1Share (d : Dev) (c n : Nat) : (d.l1Share c n).clusters = d.clusters :=
  Loops.each_keeps Dev.clusters _ _ (fun _ _ => by rfl) d

theorem keepsTxns_l2Share (d : Dev) (c n : Nat) : KeepsTxns d (d.l2Share c n) :=
  (keepsTxns_each _ _ (fun _ _ => keepsTxns_setCore _ _) d).trans (keepsTxns_setCluster _ _)

theorem l2St_l2Share (d : Dev) (c line : Nat) : (d.l2Share c line).l2St c line = (d.l2St c line).map sharedSt := by
  have hcluster : (d.l1Share c line).cluster c = d.cluster c := by rw [Dev.cluster, clusters_l1Share, ← Dev.cluster]
  unfold Dev.l2Share
  simp only [Dev.l2St, modCluster_eq, cluster_setCluster_same, hcluster]
  rw [find?_map_of_keeps (fun e => by split_ifs <;> rfl)]
  cases hfind : (d.cluster c).l2.find? (fun e => e.line == line) with
  | none => rfl
  | some e =>
    have he : e.line = line := by simpa using List.find?_some hfind
    cases hst : e.st <;> simp [he, hst, sharedSt]

/-- A cluster that runs loses the line at once; none waits in its pending list. -/
theorem l2Invalidate_of_on (hon : AllOn d) (c line : Nat) :
    d.l2Invalidate c line = (d.l1DropAll c line).modCluster c (fun x => { x with l2 := x.l2.filter (fun y => y.line != line) }) := by
  have hon' : AllOn ((d.l1DropAll c line).modCluster c (fun x => { x with l2 := x.l2.filter (fun y => y.line != line) })) :=
    ((quiet_l1DropAll c line hon).bind (quiet_modL2 c (fun l => l.filter (fun y => y.line != line)))).on
  unfold Dev.l2Invalidate
  dsimp only
  rcases (hon' c).2 with hst | ⟨_, hst, _⟩ <;> rw [hst] <;> rfl

theorem keepsTxns_l2Invalidate (hon : AllOn d) (c n : Nat) : KeepsTxns d (d.l2Invalidate c n) := by
  rw [l2Invalidate_of_on hon]
  exact (keepsTxns_each _ _ (fun d k => keepsTxns_l1Drop k n d) d).trans (keepsTxns_setCluster _ _)

theorem l2St_l2Invalidate (hon : AllOn d) (c line : Nat) : (d.l2Invalidate c line).l2St c line = none := by
  rw [l2Invalidate_of_on hon]
  simp [Dev.l2St, List.find?_eq_none]

theorem slots_l2Invalidate (hon : AllOn d) (c n : Nat) : ((d.l2Invalidate c n).cluster c).slots = (d.cluster c).slots := by
  have hcluster : (d.l1DropAll c n).cluster c = d.cluster c := by rw [Dev.cluster, clusters_l1DropAll, ← Dev.cluster]
  rw [l2Invalidate_of_on hon]
  simp [hcluster]

theorem cluster_clearResv (d : Dev) (n : Nat) (keep : Option Nat) (k : Nat) : (d.clearResv n keep).cluster k = d.cluster k := rfl
theorem l2St_clearResv (d : Dev) (n : Nat) (keep : Option Nat) (k m : Nat) : (d.clearResv n keep).l2St k m = d.l2St k m := rfl

/-! ### What a snoop makes of a cluster -/

/-- SnpX and SnpI take the line. -/
def takes (kind : SnoopKind) : Bool := kind == .snpx || kind == .snpi

/-- The eviction slot that answers for a line, and its tag. -/
def answeringSlot (d : Dev) (c line : Nat) : Option (Nat × EvSlot) := (d.slotOfLine c line).filter (fun p => !p.2.stale && !p.2.granted)
def answeringTag (d : Dev) (c line : Nat) : Option (BitVec 12) := (answeringSlot d c line).map (fun p => d.slotTag c p.1)

/-- The cluster gives dirty data with its answer. -/
def givesData (d : Dev) (c line : Nat) (kind : SnoopKind) : Bool :=
  (d.l2St c line == some .m || d.l2St c line == some .o || (answeringSlot d c line).isSome) && kind != .snpi

/-- The cluster's filter has forwarded the snoop, and the EvD of a slot that loses the line is stale. -/
def slotTaken (d : Dev) (c line : Nat) (kind : SnoopKind) : Dev :=
  match answeringSlot d c line with
  | some (i, v) =>
    if takes kind then (d.forwardTo c).modCluster c (fun x => { x with slots := Sparse.insert x.slots i (some { v with stale := true }) })
    else d.forwardTo c
  | none => d.forwardTo c

/-- The cluster has done what the snoop asks of its copy. -/
def snoopedDev (d : Dev) (c line : Nat) (kind : SnoopKind) : Dev :=
  match kind with
  | .snps => (slotTaken d c line kind).l2Share c line
  | .snpc => slotTaken d c line kind
  | _ => if (d.l2St c line).isSome then ((slotTaken d c line kind).l2Invalidate c line).clearResv line none else slotTaken d c line kind

/-- No store of the line waits in a store buffer: the cluster answers from its caches. -/
theorem snooped_eq (hbuf : d.bufferers 128 [line] = []) :
    d.snooped c line kind = (snoopedDev d c line kind, givesData d c line kind, answeringTag d c line) := by
  have hyield : (if (kind == .snpx || kind == .snpi) = true then d.yieldStores 128 [line] else d) = d := by
    rw [Dev.yieldStores, hbuf]
    exact ite_self d
  unfold Dev.snooped
  extract_lets takes d1 st slot data tag d2 d3 d4
  have h1 : d1 = d := hyield
  clear_value d1
  subst h1
  cases kind <;> rfl

theorem quiet_slotTaken (hon : AllOn d) : Quiet d (slotTaken d c line kind) := by
  have hforward := quiet_forwardTo c hon
  unfold slotTaken
  split
  · split_ifs
    · exact hforward.bind (fun h => quiet_setCluster h c _ rfl)
    · exact hforward
  · exact hforward

theorem quiet_snoopedDev (hon : AllOn d) : Quiet d (snoopedDev d c line kind) := by
  have hslot := quiet_slotTaken (c := c) (line := line) (kind := kind) hon
  unfold snoopedDev
  split
  · exact hslot.bind (quiet_l2Share c line)
  · exact hslot
  · split_ifs
    · exact (hslot.bind (quiet_l2Invalidate c line)).bind (fun h => quiet_clearResv h line none)
    · exact hslot

theorem keepsTxns_slotTaken (hon : AllOn d) : KeepsTxns d (slotTaken d c line kind) := by
  have hforward := keepsTxns_forwardTo hon c
  unfold slotTaken
  split
  · split_ifs
    · exact hforward.trans (keepsTxns_setCluster _ _)
    · exact hforward
  · exact hforward

theorem keepsTxns_snoopedDev (hon : AllOn d) : KeepsTxns d (snoopedDev d c line kind) := by
  have hslot := keepsTxns_slotTaken (c := c) (line := line) (kind := kind) hon
  unfold snoopedDev
  split
  · exact hslot.trans (keepsTxns_l2Share _ _ _)
  · exact hslot
  · split_ifs
    · exact (hslot.trans (keepsTxns_l2Invalidate (quiet_slotTaken hon).on _ _)).trans (keepsTxns_clearResv _ _)
    · exact hslot

/-- The slot goes stale; the copy of the line is as it was. -/
theorem l2St_slotTaken (hon : AllOn d) : (slotTaken d c line kind).l2St c line = d.l2St c line := by
  have hcluster : (d.forwardTo c).cluster c = d.cluster c := by rw [Dev.cluster, clusters_forwardTo hon, ← Dev.cluster]
  unfold slotTaken Dev.l2St
  split
  · split_ifs
    · simp [hcluster]
    · rw [hcluster]
  · rw [hcluster]

theorem slots_slotTaken {i : Nat} {v : EvSlot} (hslot : answeringSlot d c line = some (i, v)) (htakes : takes kind = true) :
    Sparse.get none ((slotTaken d c line kind).cluster c).slots i = some { v with stale := true } := by
  unfold slotTaken
  rw [hslot]
  simp [htakes]

/-- What a snoop makes of the cluster's copy and of the slot that holds the line (Table 12.5). -/
structure Snooped (d : Dev) (c line : Nat) (kind : SnoopKind) (X : Dev) : Prop where
  taken : takes kind = true → X.l2St c line = none
  left : kind = .snpc → X.l2St c line = d.l2St c line
  shared : kind = .snps → X.l2St c line = (d.l2St c line).map sharedSt
  stale : takes kind = true → ∀ i v, answeringSlot d c line = some (i, v) → Sparse.get none (X.cluster c).slots i = some { v with stale := true }
  mem : X.mem = d.mem
  regs : ∀ j p, (X.ctx j).getP p = (d.ctx j).getP p

/-- A snoop that takes the line: the cluster loses its copy, where it has one. -/
theorem snoopedDev_of_takes (htakes : takes kind = true) : snoopedDev d c line kind =
    if (d.l2St c line).isSome then ((slotTaken d c line kind).l2Invalidate c line).clearResv line none else slotTaken d c line kind := by
  cases kind with
  | snps => cases htakes
  | snpc => cases htakes
  | snpx => rfl
  | snpi => rfl

theorem snooped_snoopedDev (hon : AllOn d) : Snooped d c line kind (snoopedDev d c line kind) where
  taken htakes := by
    rw [snoopedDev_of_takes htakes]
    split_ifs with hst
    · rw [l2St_clearResv]
      exact l2St_l2Invalidate (quiet_slotTaken hon).on c line
    · exact (l2St_slotTaken hon).trans (Option.not_isSome_iff_eq_none.1 hst)
  left hk := by
    subst hk
    exact l2St_slotTaken hon
  shared hk := by
    subst hk
    exact (l2St_l2Share _ c line).trans (congrArg (Option.map sharedSt) (l2St_slotTaken hon))
  stale htakes i v hslot := by
    rw [snoopedDev_of_takes htakes]
    split_ifs
    · rw [cluster_clearResv, slots_l2Invalidate (quiet_slotTaken hon).on]
      exact slots_slotTaken hslot htakes
    · exact slots_slotTaken hslot htakes
  mem := (quiet_snoopedDev hon).mem
  regs := (quiet_snoopedDev hon).getP

/-- Messages and the home's bookkeeping leave the cluster as the snoop made it. -/
theorem Snooped.of_posts {X Y : Dev} (h : Snooped d c line kind X) (hp : Posts X Y) : Snooped d c line kind Y := by
  rw [hp.rest]
  exact ⟨h.taken, h.left, h.shared, h.stale, h.mem, h.regs⟩

theorem Snooped.modTxn {X : Dev} (h : Snooped d c line kind X) (n : Nat) (f : Txn → Txn) : Snooped d c line kind (X.modTxn n f) := by
  unfold Dev.modTxn
  split
  · exact h
  · exact ⟨h.taken, h.left, h.shared, h.stale, h.mem, h.regs⟩

/-! ### The answer -/

/-- A change of a line's transaction that keeps its line. -/
theorem txn_modTxn {f : Txn → Txn} {h : Nat} {t : Txn} (hhome : d.homeLocal line = some h) (htxn : (d.region h).txn line = some t)
    (hf : ∀ t, (f t).line = t.line) : ((d.modTxn line f).region h).txn line = some (f t) := by
  unfold Region.txn at htxn
  have hline : t.line = line := by simpa using List.find?_some htxn
  unfold Dev.modTxn
  rw [hhome]
  dsimp only
  rw [modRegion_eq, region_setRegion_same, Region.txn, find?_map_of_keeps (fun t => by split_ifs <;> simp [hf]), htxn, Option.map_some,
    if_pos (by simpa using hline)]

/-- The transaction that a cluster has answered (R281). -/
def answeredTxn (d : Dev) (c line : Nat) (kind : SnoopKind) (t : Txn) : Txn :=
  { t with toSnoop := t.toSnoop.filter (· != (c, kind)), gotData := t.gotData || givesData d c line kind,
           ownerDirty := t.ownerDirty || givesData d c line kind,
           slotTag := if takes kind && (answeringTag d c line).isSome then answeringTag d c line else t.slotTag }

/-- The answer reaches a home of this package. -/
theorem answerSnoop_here {h : Nat} {t : Txn} (hon : AllOn d) (hbuf : d.bufferers 128 [line] = []) (hhome : d.homeLocal line = some h)
    (htxn : (d.region h).txn line = some t) (hasked : (c, kind) ∈ t.toSnoop) (room : Nat) :
    Snooped d c line kind (d.answerSnoop c line room kind) ∧
      ((d.answerSnoop c line room kind).region h).txn line = some (answeredTxn d c line kind t) := by
  have hkeeps := keepsTxns_snoopedDev (c := c) (line := line) (kind := kind) hon
  have hposts : Posts (snoopedDev d c line kind)
      (if givesData d c line kind then (snoopedDev d c line kind).served h t.stamp else snoopedDev d c line kind) := by
    split_ifs
    · exact posts_served _ _ _
    · exact Posts.refl _
  have hanswer : d.answerSnoop c line room kind =
      (if givesData d c line kind then (snoopedDev d c line kind).served h t.stamp else snoopedDev d c line kind).modTxn line
        (answeredTxn d c line kind) := by
    unfold Dev.answerSnoop
    rw [hhome]
    dsimp only
    rw [htxn]
    dsimp only
    rw [if_neg (by simpa using hasked), snooped_eq hbuf]
    rfl
  rw [hanswer]
  refine ⟨((snooped_snoopedDev hon).of_posts hposts).modTxn line _, txn_modTxn ?_ ?_ (fun _ => rfl)⟩
  · rw [(sameHome_of_posts (line := line) hposts).view.homeLocal, hkeeps.homeLocal, hhome]
  · rw [Region.txn, hposts.txns, ← Region.txn, hkeeps.txn, htxn]

/-- The answer to a home in another package. -/
def farAnswer (d : Dev) (c line room : Nat) (kind : SnoopKind) : CohMsg :=
  { kind := .rsp, line := line, requester := d.sysRegion (c / 4), room := room, age := 0, tag := answeringTag d c line,
    data := if givesData d c line kind then spread (line * 64) (d.bytes (line * 64) 64) else [] }

theorem sendTo_of_ready {pkg : Nat} {m : CohMsg} (hfar : 1 ≤ pkg ^^^ d.pkg) (hlink : pkg ^^^ d.pkg < 4)
    (hready : (d.link ((pkg ^^^ d.pkg) - 1)).busy = false) : d.sendTo pkg m = d.emit (.coherence pkg m) := by
  have hne : pkg ≠ d.pkg := by
    rintro rfl
    simp at hfar
  unfold Dev.sendTo
  dsimp only
  rw [if_neg (by simp [hne]; omega), if_neg (by simp [hready])]

theorem answerSnoop_far {p : Nat} (hon : AllOn d) (hbuf : d.bufferers 128 [line] = []) (hhome : d.homeLocal line = none)
    (hfar : d.homeOf (line * 64) = some p) (hother : 1 ≤ (p / 8) ^^^ d.pkg) (hlink : (p / 8) ^^^ d.pkg < 4)
    (hready : (d.link (((p / 8) ^^^ d.pkg) - 1)).busy = false) (room : Nat) :
    Snooped d c line kind (d.answerSnoop c line room kind) ∧
      (d.answerSnoop c line room kind).outbox.head? = some (.coherence (p / 8) (farAnswer d c line room kind)) := by
  have hkeeps := keepsTxns_snoopedDev (c := c) (line := line) (kind := kind) hon
  have hanswer : d.answerSnoop c line room kind = (snoopedDev d c line kind).sendTo (p / 8) (farAnswer d c line room kind) := by
    unfold Dev.answerSnoop
    rw [hhome]
    dsimp only
    rw [hfar]
    dsimp only
    rw [snooped_eq hbuf]
    dsimp only
    rw [farAnswer, Dev.sysRegion, hkeeps.pkg]
    rfl
  rw [hanswer]
  refine ⟨(snooped_snoopedDev hon).of_posts (posts_sendTo _ _ _), ?_⟩
  rw [sendTo_of_ready (by rwa [hkeeps.pkg]) (by rwa [hkeeps.pkg]) (by rwa [hkeeps.link, hkeeps.pkg])]
  rfl

end Sys2Proof.Proofs.SnoopAnswers
end

section
/-!
SUPPORT. The statement about coherence requests, snoops and evictions: its rows, from the lemmas about requests at a home and about a cluster's
answers.
-/
namespace Sys2Proof.Proofs.CoherenceRows
open Sys2Proof Sys2Proof.Machine Sys2Proof.Safety Sys2Proof.Laws Sys2Proof.Proofs.HomeGrants Sys2Proof.Proofs.ClusterMisses
open Sys2Proof.Proofs.HomeRequests Sys2Proof.Proofs.SnoopAnswers

/-! ### Snoops -/

/-- SNPS to SNPC: constructor and kind. -/
def snoopRows : List ((SnoopTo → Nat → Instr) × SnoopKind) := [(.snps, .snps), (.snpx, .snpx), (.snpi, .snpi), (.snpc, .snpc)]

theorem snoopRow_answers {r : (SnoopTo → Nat → Instr) × SnoopKind} (hr : r ∈ snoopRows) (a : SnoopTo) (line : Nat) (s : State) :
    Answers (exec (r.1 a line) s) s (s.dev.answerSnoop a.cluster line a.room r.2) := by
  have hexec : exec (r.1 a line) s = onDev (fun d => d.answerSnoop a.cluster line a.room r.2) s := by
    unfold snoopRows at hr
    fin_cases hr <;> rfl
  rw [hexec]
  exact onDev_answers (fun d => d.answerSnoop a.cluster line a.room r.2) s

section
variable {d : Dev} {c line : Nat} {kind : SnoopKind}

theorem takes_iff : takes kind = true ↔ kind = .snpx ∨ kind = .snpi := by simp [takes]

theorem givesData_iff : givesData d c line kind = true ↔
    (d.l2St c line = some .m ∨ d.l2St c line = some .o ∨ (answeringSlot d c line).isSome = true) ∧ kind ≠ .snpi := by
  simp [givesData, or_assoc]

theorem answeringTag_isSome : (answeringTag d c line).isSome = true ↔ answeringSlot d c line ≠ none := by
  rw [answeringTag, Option.isSome_map, Option.isSome_iff_ne_none]

end

theorem or_eq_decide {a b : Bool} {p : Prop} [Decidable (a = true ∨ p)] (h : b = true ↔ p) : (a || b) = decide (a = true ∨ p) := by
  rw [Bool.eq_iff_iff, Bool.or_eq_true, h, decide_eq_true_iff]

/-- Settles O32: a miss by the register that it takes and the request that its home grants or keeps, an engine's request by the hub's
order, a snoop by what it makes of the cluster and by the answer that goes out. -/
theorem coherenceRequestsComplete : Obligations.CoherenceRequestsComplete := by
  unfold Obligations.CoherenceRequestsComplete
  refine ⟨fun s line r hon hhome hempty => ⟨fun p hp a => ⟨fun hpkg hneeds hmay => ⟨fun hmiss i hreg => ⟨fun hfree => ?_, ?_⟩, ?_, ?_⟩,
    fun hpkg id hid => ⟨fun hfree => ?_, ?_⟩⟩, fun a mask data => ?_⟩, fun p hp s c line room hon hbuf => ?_⟩
  · obtain ⟨X, hX, hopened, hmissX, hvictim⟩ := ownRow_opens hp hpkg hneeds hon hhome hempty hmay hmiss hreg hfree.1 hfree.2
    rw [missReg, (coreKind_of_row hp).writes] at hmissX
    exact ⟨X, hX, hopened, hmissX, hvictim⟩
  · exact ownRow_waits hp hpkg hneeds hon hhome hempty hmay hmiss hreg
  · exact ownRow_full hp hpkg hneeds hmay
  · exact fun i m => ownRow_joins hp hpkg hneeds hmay
  · exact farRow_opens hp hpkg hon hhome hempty hid hfree.1 hfree.2
  · exact farRow_waits hp hpkg hon hhome hempty hid
  · intro owner q hq hengine hroom hlen
    refine ⟨fun hturn => ⟨fun hfree => ?_, ?_⟩, ?_⟩
    · obtain ⟨X, hX, hopened⟩ := engineRow_opens hq hlen hengine hroom hturn hon hhome hempty hfree.1 hfree.2
      refine ⟨X, _, hX, hopened, fun hk c => ?_, fun hk c => ?_, fun hk c => ?_⟩
      · rw [hk]
        exact snoopOf_of_ne_wrp (by simp) _
      · rw [hk]
        exact snoopOf_of_ne_wrp (by simp) _
      · rw [hk]
        exact snoopOf_wrp _
    · exact engineRow_waits hq hlen hengine hroom hturn hon hhome hempty
    · exact engineRow_queues hq hlen hengine hroom
  · intro st takes slot data copies
    have hanswers := snoopRow_answers hp { cluster := c, room := room } line s
    have hcopies (X : Dev) (h : Snooped s.dev c line p.2 X) : copies X :=
      ⟨fun ht => h.taken (takes_iff.2 ht), h.left, h.shared, fun ht => h.stale (takes_iff.2 ht), h.mem, h.regs⟩
    have hdata : givesData s.dev c line p.2 = true ↔ data := givesData_iff
    refine ⟨fun home t hhome htxn hasked => ?_, fun q hhome hfar hother hlink hready => ?_⟩
    · obtain ⟨hsnooped, hanswer⟩ := answerSnoop_here hon hbuf hhome htxn hasked room
      refine ⟨_, hanswers, hcopies _ hsnooped, hanswer.trans ?_⟩
      unfold answeredTxn
      congr 2
      · exact or_eq_decide hdata
      · exact or_eq_decide hdata
      · exact if_congr (Bool.and_eq_true _ _ ▸ and_congr takes_iff answeringTag_isSome) rfl rfl
    · obtain ⟨hsnooped, hanswer⟩ := answerSnoop_far (kind := p.2) hon hbuf hhome hfar hother hlink hready room
      refine ⟨_, hanswers, hcopies _ hsnooped, hanswer.trans ?_⟩
      unfold farAnswer
      congr 3
      exact if_congr hdata rfl rfl

end Sys2Proof.Proofs.CoherenceRows
end

section
/-!
SUPPORT. Issuing a Trestle operation (R308 to R310, R313, R314): an operation whose operands and tag are ready goes into a station, the last of
its cluster's queue.
-/
namespace Sys2Proof.Proofs.TrestleIssue
open Sys2Proof Sys2Proof.Machine Sys2Proof.Safety Sys2Proof.Laws

/-! ### Stations -/

section
variable (d : Dev)

/-- Beginning an operation leaves every queue. -/
@[simp] theorem queue_trBegin (u c : Nat) : ((d.trBegin u).cluster c).trestle.queue = (d.cluster c).trestle.queue := by
  rw [Dev.trBegin, modCluster_eq, cluster_setCluster]
  split_ifs with hc
  · subst hc; rfl
  · rfl

/-- A new station stands behind those of its cluster. -/
theorem getLast?_queue_addStation (c : Nat) (s : Station) : ((d.addStation c s).cluster c).trestle.queue.getLast? = some s := by
  have hadded (D : Dev) : ((D.modCluster c (fun k => { k with trestle := { k.trestle with queue := k.trestle.queue ++ [s] } })).cluster
      c).trestle.queue.getLast? = some s := by simp
  unfold Dev.addStation
  dsimp only
  split
  · rw [queue_trBegin]; exact hadded _
  · exact hadded _

/-- An instruction that writes no register cancels no result. -/
theorem cluster_tagCancel_nil (slot ctx c : Nat) : (d.tagCancel slot ctx []).cluster c = d.cluster c := by
  have htr : (d.trCancel ctx []).cluster c = d.cluster c := by
    unfold Dev.trCancel
    split_ifs
    · rfl
    · rw [modCluster_eq, cluster_setCluster]
      split_ifs with hc
      · subst hc
        rw [List.map_id'']
        intro s
        cases s.dst <;> simp
      · rfl
  unfold Dev.tagCancel
  dsimp only
  split_ifs
  · exact htr
  · exact htr

end

/-! ### Issue -/

section
variable {s : State} {core op : Nat} {f : Form} {srcs : List Nat} {flags : Bool} {priv : Ctx → Bool} {e : Env}

/-- A coprocessor instruction that goes on at the next instruction leaves the stations as its body does: it writes no register now. -/
theorem trestleFinish_answers (h : s.dev.enter core .trestle op f none srcs flags priv = .ok e) (body : Env → IRes) {D : Dev}
    (hb : body e = e.finish D) :
    ∃ X : Dev, Answers (onDev (fun d => d.issue core .trestle op f none srcs flags priv body) s) s (X.afterIssue core none) ∧
      WritesOnly D e.cx ((D.ctx e.cx).past e.next) X ∧ ∀ c, X.cluster c = D.cluster c := by
  have hcore : e.core = core := (enter_ok h).sameCore
  subst hcore
  refine ⟨(D.setCtx e.cx ((D.ctx e.cx).past e.next)).tagCancel e.slot e.cx [], ?_, writesOnly_of_onlyTags (onlyTags_tagCancel _ _ _ _),
    fun c => by rw [cluster_tagCancel_nil, unit_cluster_setCtx]⟩
  rw [← past_eq]
  exact onDev_leave (room := fun _ => none) h body hb

end

/-- The station of an operation: its operands lie where the checks have found them. -/
def stationOf (e : Env) (op : TrOp) (len pa pb pc : Nat) : Station :=
  let imm := Form.imm32 e.f
  { ctx := e.cx, op := op, tag := immTag imm, imm := imm, rdVal := e.x.get e.f.rdn, rsVal := e.x.get e.f.rsn, rtVal := e.x.get e.f.rt,
    dst := if op.toReg imm then some (e.x.phys e.f.rdn) else none,
    aReg := if op.toReg imm && decide (24 ≤ e.f.rdn) then some e.f.rd else none,
    rotated := false, early := false, rsPa := pa, rsLen := len, rtPa := pb, rdPa := pc }

/-- The result register of an operation, pending, with older pending writes to it cancelled. -/
def resultPending (e : Env) (op : TrOp) (d : Dev) : Dev :=
  let p := e.x.phys e.f.rdn
  if op.toReg (Form.imm32 e.f) then (d.modCtx e.cx (fun x => x.cancelReg p)).tagCancel e.slot e.cx [p] else d

/-- An operation whose operands pass their checks, and whose tag is free, enters its station (R308 to R310). -/
theorem trIssue_of_checks {e : Env} {op : TrOp} {a b c : TrRange} {d1 d2 d3 d4 : Dev} {pa pb pc : Nat}
    (ho : e.d.trOperands e.w op (Form.imm32 e.f) (e.x.get e.f.rsn) (e.x.get e.f.rt) (e.x.get e.f.rdn) = (a, b, c))
    (hdesc : op = .tband → descMem (e.x.get e.f.rsn) = false ∧ descMem (e.x.get e.f.rt) = false)
    (hheld : ([a, b, c].filter (e.d.trHolds e.w)).isEmpty = true)
    (ha : e.d.trCheck e.w a = .ok (d1, pa)) (hb : d1.trCheck e.w b = .ok (d2, pb)) (hc : d2.trCheck e.w c = .ok (d3, pc))
    (hclashA : trOverlap c a (.ok (d3, pc)) (.ok (d1, pa)) = false) (hclashB : trOverlap c b (.ok (d3, pc)) (.ok (d2, pb)) = false)
    (htag : d3.tagReady e.core e.slot e.cx (immTag (Form.imm32 e.f)) = some d4) :
    e.trIssue op = e.finish ((resultPending e op d4).addStation (e.core / 4) (stationOf e op a.len pa pb pc)) := by
  have hband : (op == .tband && (descMem (e.x.get e.f.rsn) || descMem (e.x.get e.f.rt))) = false := by
    by_cases hop : op = .tband
    · obtain ⟨hs, ht⟩ := hdesc hop
      simp [hs, ht]
    · simp [hop]
  have hpasses : firstExc (excOf (.ok (d1, pa)) ++ excOf (.ok (d2, pb)) ++ excOf (.ok (d3, pc)) ++ []) = none := rfl
  simp only [Env.trIssue, hband, ho, hheld, ha, hb, hc, devOf, hclashA, hclashB, hpasses, htag, Bool.not_true, Bool.or_self,
    Bool.false_eq_true, if_false]
  rfl

/-- The rows of Table 14.4: constructor and operation. -/
def trestleRows : List ((Nat → Form → Instr) × TrOp) :=
  [(.tmma, .tmma), (.ti1, .ti1), (.ti2, .ti2), (.ti3, .ti3), (.trsum, .trsum), (.trdot, .trdot), (.trmax, .trmax),
   (.trmin, .trmin), (.tband, .tband), (.tld, .tld), (.trestleTst, .tst), (.tget, .tget), (.tput, .tput)]

theorem exec_trestleRow {r : (Nat → Form → Instr) × TrOp} (hr : r ∈ trestleRows) (core : Nat) (f : Form) (s : State) :
    exec (r.1 core f) s = onDev (fun d => d.trestle core r.2 f) s := by
  unfold trestleRows at hr
  fin_cases hr <;> rfl

/-- Settles O21: the body of an operation whose checks pass ends with its station, and nothing after it moves the queue. -/
theorem trestleOperationsIssue : Obligations.TrestleOperationsIssue := by
  unfold Obligations.TrestleOperationsIssue
  intro r hr s core f e d1 d2 d3 d4 pa pb pc h imm o p hheld hdesc ha hb hc hclashA hclashB htag dr d5 st D
  have hf : e.f = f := (enter_ok h).form
  have hcore : e.core = core := (enter_ok h).sameCore
  subst hf hcore
  have hbody : e.trIssue r.2 = e.finish D := trIssue_of_checks rfl hdesc hheld ha hb hc hclashA hclashB htag
  obtain ⟨X, hX, hw, hclusters⟩ := trestleFinish_answers h (fun e => e.trIssue r.2) hbody
  rw [exec_trestleRow hr]
  exact ⟨X, hX, hw, hclusters _ ▸ getLast?_queue_addStation d5 _ st⟩

end Sys2Proof.Proofs.TrestleIssue
end

section
/-!
SUPPORT. The Trestle's wheel and its local-store watermark (R317, R318, R320): what a unit holds once it has taken over a room's state, and what a
watermark write leaves.
-/
namespace Sys2Proof.Proofs.TrestleWheel
open Sys2Proof Sys2Proof.Machine Sys2Proof.Safety Sys2Proof.Laws

/-! ### Save stores -/

section
variable {α : Type}

theorem find?_insert_same (m : Sparse α) (a : Nat) (x : α) : (Sparse.insert m a x).find? (fun e => e.1 == a) = some (a, x) := by
  induction m with
  | nil => simp [Sparse.insert]
  | cons p t ih =>
    simp only [Sparse.insert]
    split_ifs with hlt heq
    · simp
    · simp
    · rw [List.find?_cons_of_neg (by simpa using Ne.symm heq), ih]

theorem find?_insert_ne (m : Sparse α) {a b : Nat} (x : α) (h : a ≠ b) :
    (Sparse.insert m a x).find? (fun e => e.1 == b) = m.find? (fun e => e.1 == b) := by
  induction m with
  | nil => simp [Sparse.insert, h]
  | cons p t ih =>
    simp only [Sparse.insert]
    split_ifs with hlt heq
    · simp [h]
    · rw [List.find?_cons_of_neg (by simpa using h), List.find?_cons_of_neg (by simpa [← heq] using h)]
    · simp only [List.find?_cons, ih]

theorem find?_erase_ne (m : Sparse α) {a b : Nat} (h : a ≠ b) :
    (Sparse.erase m a).find? (fun e => e.1 == b) = m.find? (fun e => e.1 == b) := by
  induction m with
  | nil => rfl
  | cons p t ih =>
    simp only [Sparse.erase]
    split_ifs with heq
    · rw [ih, List.find?_cons_of_neg (by simpa [← heq] using h)]
    · simp only [List.find?_cons, ih]

end

/-! ### Datapaths -/

/-- A unit's datapath holds a room's state, runs an operation, and has a save store. -/
def holding (d : Dev) (u : Nat) (l : Option (Nat × Nat)) (run : Option Station) (save : Sparse Station) : Dev :=
  d.modCluster u (fun x => { x with trestle := { x.trestle with loaded := l, running := run, save := save } })

section
variable (d : Dev) (u : Nat) (l : Option (Nat × Nat)) (run : Option Station) (save : Sparse Station)

theorem trestle_holding_same :
    ((holding d u l run save).cluster u).trestle = { (d.cluster u).trestle with loaded := l, running := run, save := save } := by
  simp [holding]

/-- What a datapath holds is no part of what its unit is. -/
theorem trestle_holding (k : Nat) : ((holding d u l run save).cluster k).trestle =
    { (d.cluster k).trestle with
      loaded := ((holding d u l run save).cluster k).trestle.loaded
      running := ((holding d u l run save).cluster k).trestle.running
      save := ((holding d u l run save).cluster k).trestle.save } := by
  rw [holding, modCluster_eq, cluster_setCluster]
  split_ifs with hk
  · subst hk; rfl
  · rfl

/-- The wheel turns by the floorplan, the stations and the units' health alone. -/
theorem wheelNow_holding (k : Nat) : (holding d u l run save).wheelNow k = d.wheelNow k := by
  have hqueue (k : Nat) : ((holding d u l run save).cluster k).trestle.queue = (d.cluster k).trestle.queue := by rw [trestle_holding]
  have hwaiting (k slot : Nat) : (holding d u l run save).trWaiting k slot = d.trWaiting k slot := by
    rw [Dev.trWaiting, Dev.trHead, hqueue]; rfl
  have howner (k t : Nat) : (holding d u l run save).wheelOwner k t = d.wheelOwner k t := by
    simp only [Dev.wheelOwner, hwaiting]; rfl
  have hturn (k t : Nat) : (holding d u l run save).turnCluster k t = d.turnCluster k t := by
    rw [Dev.turnCluster, trestle_holding]; rfl
  rw [Dev.wheelNow, hturn, trestle_holding]
  simp only [howner]
  rfl

theorem trBegin_eq : d.trBegin u =
    holding d u ((d.cluster u).trestle.loaded <|> d.wheelNow u)
      ((d.cluster u).trestle.running <|> ((d.cluster u).trestle.loaded <|> d.wheelNow u).bind (fun p => d.trHead p.1 p.2))
      (d.cluster u).trestle.save := rfl

end

/-! ### Slot boundaries -/

/-- The save stores' key of a room's state. -/
def saveKey (p : Nat × Nat) : Nat := p.1 * 64 + p.2

/-- The save store with the operation of the outgoing room in it. -/
def savedOut (t : Trestle) : Sparse Station :=
  match t.loaded, t.running with
  | some p, some s => Sparse.insert t.save (saveKey p) s
  | _, _ => t.save

/-- The operation that comes back for the incoming room. -/
def savedOp (t : Trestle) (l : Option (Nat × Nat)) : Option Station :=
  l.bind (fun p => ((savedOut t).find? (fun e => e.1 == saveKey p)).map Prod.snd)

/-- The save store once the incoming room's operation has left it. -/
def savedRest (t : Trestle) (l : Option (Nat × Nat)) : Sparse Station :=
  match l with
  | some p => Sparse.erase (savedOut t) (saveKey p)
  | none => savedOut t

/-- From `d` to `X` a unit's datapath has come to hold a room's state; stations, local store, memory and registers are as they were. -/
structure TakesOver (d : Dev) (u : Nat) (l : Option (Nat × Nat)) (run : Option Station) (save : Sparse Station) (X : Dev) : Prop where
  unit : (X.cluster u).trestle = { (d.cluster u).trestle with loaded := l, running := run, save := save }
  mem : X.mem = d.mem
  ctxs : X.ctxs = d.ctxs

section
variable {d : Dev} {u : Nat}

theorem takesOver_trBegin {l : Option (Nat × Nat)} {run : Option Station} {save : Sparse Station} (hl : d.wheelNow u = l) :
    TakesOver d u l (run <|> l.bind (fun p => d.trHead p.1 p.2)) save ((holding d u l run save).trBegin u) where
  unit := by
    have hhead (c slot : Nat) : (holding d u l run save).trHead c slot = d.trHead c slot := by
      rw [Dev.trHead, trestle_holding]; rfl
    rw [trBegin_eq, trestle_holding_same, trestle_holding_same, wheelNow_holding, hl]
    simp only [hhead]
    cases l <;> rfl
  mem := rfl
  ctxs := rfl

/-- A unit that holds the state of the room that the wheel names goes on with it. -/
theorem takesOver_of_loaded (h : (d.cluster u).trestle.loaded = d.wheelNow u) :
    TakesOver d u (d.wheelNow u) ((d.cluster u).trestle.running <|> (d.wheelNow u).bind (fun p => d.trHead p.1 p.2))
      (d.cluster u).trestle.save (d.trLoad u (d.wheelNow u)) := by
  have hload : d.trLoad u (d.wheelNow u) = d.trBegin u := by rw [Dev.trLoad, h, if_pos (beq_self_eq_true _)]
  rw [hload]
  refine ⟨?_, rfl, rfl⟩
  rw [trBegin_eq, trestle_holding_same, h]
  cases d.wheelNow u <;> rfl

/-- Otherwise it saves the outgoing room's operation, and goes on with what it saved of the incoming one. -/
theorem takesOver_of_switch (h : (d.cluster u).trestle.loaded ≠ d.wheelNow u) :
    TakesOver d u (d.wheelNow u) (savedOp (d.cluster u).trestle (d.wheelNow u) <|> (d.wheelNow u).bind (fun p => d.trHead p.1 p.2))
      (savedRest (d.cluster u).trestle (d.wheelNow u)) (d.trLoad u (d.wheelNow u)) := by
  have hload : d.trLoad u (d.wheelNow u) = (holding d u (d.wheelNow u) (savedOp (d.cluster u).trestle (d.wheelNow u))
      (savedRest (d.cluster u).trestle (d.wheelNow u))).trBegin u := by
    rw [Dev.trLoad, if_neg (by simpa using h)]
    rfl
  rw [hload]
  exact takesOver_trBegin rfl

end

/-- The wheel's turn as the rule gives it: a helper serves the forwarded cluster in odd turns (R320). -/
theorem wheelNow_eq (d : Dev) (c : Nat) :
    d.wheelNow c =
      if (d.cluster c).trestle.health = .healthy then
        (d.wheelOwner (if (d.cluster c).trestle.serves = true ∧ d.clk.tb / 2048 % 2 = 1 then (d.cluster c).trestle.served else c) d.clk.tb).map
          (fun r => (if (d.cluster c).trestle.serves = true ∧ d.clk.tb / 2048 % 2 = 1 then (d.cluster c).trestle.served else c, r))
      else none := by
  simp [Dev.wheelNow, Dev.turnCluster]

theorem trLoad_takesOver (d : Dev) (u : Nat) : ∃ run save, TakesOver d u (d.wheelNow u) run save (d.trLoad u (d.wheelNow u)) := by
  by_cases h : (d.cluster u).trestle.loaded = d.wheelNow u
  · exact ⟨_, _, takesOver_of_loaded h⟩
  · exact ⟨_, _, takesOver_of_switch h⟩

/-- A room whose state has a key of its own comes in by a switch, whatever the datapath held. -/
theorem takesOver_of_newRoom {d : Dev} {u : Nat} {q : Nat × Nat} (hq : d.wheelNow u = some q)
    (hne : ∀ p, (d.cluster u).trestle.loaded = some p → saveKey p ≠ saveKey q) :
    TakesOver d u (some q) (savedOp (d.cluster u).trestle (some q) <|> d.trHead q.1 q.2) (savedRest (d.cluster u).trestle (some q))
      (d.trLoad u (some q)) := by
  have hswitch := takesOver_of_switch (fun h => hne q (h.trans hq) rfl)
  rw [hq] at hswitch
  exact hswitch

/-- The outgoing room's operation is in the save store, whoever comes in. -/
theorem find?_savedRest {t : Trestle} {p q : Nat × Nat} {s : Station} (hp : t.loaded = some p) (hs : t.running = some s)
    (hne : saveKey p ≠ saveKey q) :
    (savedRest t (some q)).find? (fun e => e.1 == saveKey p) = some (saveKey p, s) := by
  rw [savedRest, find?_erase_ne _ hne.symm, savedOut, hp, hs]
  exact find?_insert_same _ _ _

/-- The incoming room's operation comes back from the save store, whoever goes out. -/
theorem savedOp_eq {t : Trestle} {q : Nat × Nat} {s : Station} (hne : ∀ p, t.loaded = some p → saveKey p ≠ saveKey q)
    (hs : t.save.find? (fun e => e.1 == saveKey q) = some (saveKey q, s)) : savedOp t (some q) = some s := by
  have hout : (savedOut t).find? (fun e => e.1 == saveKey q) = some (saveKey q, s) := by
    unfold savedOut
    split
    · rename_i p _ hp _
      rw [find?_insert_ne _ _ (hne p hp), hs]
    · exact hs
  rw [savedOp, Option.bind_some, hout]
  rfl

/-! ### The watermark -/

section
variable {d : Dev} {a : Acc} {v : Nat}

/-- Operations that issued before a watermark write are marked, and BUSY stands for them. -/
structure Marked (d : Dev) (a : Acc) (v : Nat) (X : Dev) : Prop where
  own : X.lswmOf (a.core / 4) a.slot = min (v % 512) ((d.lsShare (a.core / 4) a.slot).2 * 16)
  others : ∀ k, k ≠ a.slot → X.lswmOf (a.core / 4) k = d.lswmOf (a.core / 4) k
  early : ∀ q ∈ (X.cluster (a.core / 4)).trestle.queue, d.coreSlot (coreOf q.ctx) = some a.slot → q.early = true
  busy : d.trWaiting (a.core / 4) a.slot = true → a.slot ∈ (X.cluster (a.core / 4)).trestle.lswmBusy
  idle : d.trWaiting (a.core / 4) a.slot = false → (X.cluster (a.core / 4)).trestle.lswmBusy = (d.cluster (a.core / 4)).trestle.lswmBusy

theorem lswmWrite_of_other (h : a.keeper = false) : d.lswmWrite a v = d := by simp [Dev.lswmWrite, h]

theorem lswmWrite_marked (h : a.keeper = true) : Marked d a v (d.lswmWrite a v) := by
  simp only [Dev.lswmWrite, h, Bool.not_true, Bool.false_eq_true, if_false]
  refine ⟨?_, fun k hk => ?_, fun q hq hslot => ?_, fun hw => ?_, fun hw => ?_⟩
  · simp [Dev.lswmOf, Sparse_get_set]
  · simp [Dev.lswmOf, Sparse_get_set, hk]
  · simp only [modCluster_eq, cluster_setCluster_same, List.mem_map] at hq
    obtain ⟨s, -, rfl⟩ := hq
    by_cases hown : d.ownOp a.slot s = true
    · simp [hown]
    · simp only [hown, Bool.false_eq_true, if_false] at hslot
      exact absurd hslot (by simpa [Dev.ownOp] using hown)
  · simp [hw, mem_insertAsc]
  · simp [hw]

/-- BUSY stays while an operation that issued earlier waits. -/
theorem lswmDone_of_early {c slot : Nat}
    (h : (d.cluster c).trestle.queue.any (fun q => d.coreSlot (coreOf q.ctx) == some slot && q.early) = true) : d.lswmDone c slot = d :=
  if_pos h

theorem trestle_lswmDone {c slot : Nat}
    (h : (d.cluster c).trestle.queue.any (fun q => d.coreSlot (coreOf q.ctx) == some slot && q.early) = false) :
    ((d.lswmDone c slot).cluster c).trestle =
      { (d.cluster c).trestle with lswmBusy := (d.cluster c).trestle.lswmBusy.filter (· != slot) } := by
  have hdone : d.lswmDone c slot = d.modCluster c (fun x => { x with trestle :=
      { x.trestle with lswmBusy := x.trestle.lswmBusy.filter (· != slot) } }) := if_neg (Bool.eq_false_iff.1 h)
  rw [hdone, modCluster_eq, cluster_setCluster_same]

end

/-- Settles O23: a slot boundary by whether the unit holds the room already, the watermark by who writes it. -/
theorem trestleWheelAndWatermark : Obligations.TrestleWheelAndWatermark := by
  unfold Obligations.TrestleWheelAndWatermark
  refine ⟨fun s c hc => ?_, fun s core val D hD => ?_, fun s c slot => ?_⟩
  · intro t served want key
    have hwant : s.dev.wheelNow c = want := wheelNow_eq s.dev c
    have hX : Answers (exec (.trestleSlotSwitch c) s) s (s.dev.trLoad c (s.dev.wheelNow c)) := by
      rw [← show s.dev.slotSwitch c = s.dev.trLoad c (s.dev.wheelNow c) from if_neg (by omega)]
      exact onDev_answers (fun d => d.slotSwitch c) s
    obtain ⟨run, save, hload⟩ := trLoad_takesOver s.dev c
    rw [hwant] at hload hX
    refine ⟨_, hX, by rw [hload.unit], fun p q st hp hst hq hne => ?_, fun q st hq hne hst => ?_, by rw [hload.unit], by rw [hload.unit],
      hload.mem, fun j => by rw [Dev.ctx, hload.ctxs]; rfl⟩
    · rw [hq] at hwant ⊢
      rw [(takesOver_of_newRoom hwant (fun p' hp' => Option.some.inj (hp.symm.trans hp') ▸ hne)).unit]
      exact find?_savedRest hp hst hne
    · rw [hq] at hwant ⊢
      rw [(takesOver_of_newRoom hwant hne).unit, savedOp_eq hne hst]
      rfl
  · have hanswers : Answers (exec (.trLswmWrite core val) s) s (D.lswmWrite (s.dev.acc core) val.toNat) := by
      have hwrite : s.dev.writeReg core (s.dev.viewOfs core 0x304) val.toNat = D.lswmWrite (s.dev.acc core) val.toNat :=
        writeReg_of_reaches_view hD val.isLt (by decide)
      rw [← hwrite]
      exact onDev_answers (fun d => d.writeReg core (d.viewOfs core 0x304) val.toNat) s
    refine ⟨fun hk => ?_, fun hk => ?_⟩
    · rwa [lswmWrite_of_other hk] at hanswers
    · obtain ⟨hown, hothers, hearly, hbusy, hidle⟩ := lswmWrite_marked (d := D) (v := val.toNat) hk
      exact ⟨_, hanswers, hown, hothers, hearly, hbusy, hidle⟩
  · have hanswers : Answers (exec (.trLswmDone c slot) s) s (s.dev.lswmDone c slot) := onDev_answers (fun d => d.lswmDone c slot) s
    refine ⟨fun hearly => ?_, fun hearly => ⟨_, hanswers, by simp [trestle_lswmDone hearly], by rw [trestle_lswmDone hearly]⟩⟩
    rwa [lswmDone_of_early hearly] at hanswers

end Sys2Proof.Proofs.TrestleWheel
end

section
/-!
SUPPORT. Forwarded operations (R323 to R327): the command that an operation posts, and what its completion or its timeout leaves.
-/
namespace Sys2Proof.Proofs.Forwarded
open Sys2Proof Sys2Proof.Machine Sys2Proof.Safety Sys2Proof.Laws

/-- A count of 32 bits that saturates. -/
theorem satInc_max32 (x : Nat) : satInc max32 x = min (2 ^ 32 - 1) (x + 1) := by
  unfold satInc max32
  split_ifs <;> omega

/-! ### Commands -/

/-- The command of an operation, with the register that it owes and the time at which it is overdue. -/
def commandOf (e : Env) (op : Byte) (d : Dev) (tmoUs : Nat) : FwdCmd :=
  let imm := Form.imm32 e.f
  { seq := (d.room e.slot).fwd.seq, rgen := (d.room e.slot).epo.rgen, ctx := e.cx, tag := immTag imm, tagOn := true, op := op, dr := immDr imm,
    dst := if immDr imm then some (e.x.phys e.f.rdn) else none, rdv := e.x.get e.f.rdn, rsv := e.x.get e.f.rsn, rtv := e.x.get e.f.rt,
    user := imm.toNat / 512, epoch := (d.room e.slot).epo.cnt, due := d.clk.tb + tmoUs * 1000 }

/-- The result register of a forwarded operation, pending, with older pending writes to it cancelled. -/
def resultPending (e : Env) (d : Dev) : Dev :=
  let p := e.x.phys e.f.rdn
  if immDr (Form.imm32 e.f) then (d.modCtx e.cx (fun x => x.cancelReg p)).tagCancel e.slot e.cx [p] else d

/-- A command stands in its room's list of outstanding ones. -/
def outstanding (d : Dev) (slot : Nat) (c : FwdCmd) : Dev :=
  let q := (d.room slot).fwd
  d.modRoom slot (fun x => { x with fwd := { x.fwd with seq := (q.seq + 1) % 2 ^ 64, out := q.out ++ [c] } })

/-- An operation that no command 64 before it holds up posts its command (R323). -/
theorem fwdIssue_posts {e : Env} {op : Byte} {d : Dev} {r : FwdRec} (htag : e.d.tagReady e.core e.slot e.cx (immTag (Form.imm32 e.f)) = some d)
    (hroom : ∀ c ∈ (e.d.room e.slot).fwd.out, ((e.d.room e.slot).fwd.seq + 2 ^ 64 - c.seq) % 2 ^ 64 < 64)
    (hrec : (resultPending e d).plan.fwd e.w.id = some r) :
    let c := commandOf e op (resultPending e d) r.tmoUs
    e.fwdIssue op = e.finish ((outstanding (resultPending e d) e.slot c).fwdPost e.slot c) := by
  have hfree : (e.d.room e.slot).fwd.out.any (fun c => decide (64 ≤ ((e.d.room e.slot).fwd.seq + 2 ^ 64 - c.seq) % 2 ^ 64)) = false := by
    rw [List.any_eq_false]
    intro c hc
    simpa using hroom c hc
  unfold resultPending at hrec ⊢
  simp only [Env.fwdIssue, htag, hfree, Bool.false_eq_true, if_false]
  unfold commandOf outstanding
  dsimp only at hrec ⊢
  rw [hrec]
  rfl

theorem pcieOut_eq (d : Dev) (pa : Nat) (bs : List Byte) : d.pcieOut pa bs =
    if d.portUp (d.portAt pa) then d.emit (.pcieWrite pa bs)
    else d.modPciePort (d.portAt pa) (fun x => { x with drop := min (2 ^ 32 - 1) (x.drop + 1) }) := by
  simp only [Dev.pcieOut, satInc_max32]

theorem fwdPost_eq {d : Dev} {slot : Nat} {c : FwdCmd} {r : FwdRec} (h : d.plan.fwd (d.idOf slot) = some r) :
    d.fwdPost slot c = (d.wake 100).pcieOut (r.cmdPa + c.seq % 64 * 64) (d.fwdPacket slot r c) := by
  simp [Dev.fwdPost, h]

/-! ### Completions -/

section
variable (d : Dev) (slot : Nat) (c : FwdCmd) (v : Word)

theorem room_fwdFinish : (d.fwdFinish slot c v).room slot =
    { d.room slot with fwd := { (d.room slot).fwd with out := (d.room slot).fwd.out.filter (· != c) } } := by
  unfold Dev.fwdFinish
  dsimp only
  split <;> simp

theorem mem_fwdFinish : (d.fwdFinish slot c v).mem = d.mem := by
  unfold Dev.fwdFinish
  dsimp only
  split <;> rfl

/-- A command's register takes the value, unless a younger write has cancelled it. -/
theorem getP_fwdFinish (j q : Nat) : ((d.fwdFinish slot c v).ctx j).getP q =
    if j = c.ctx ∧ c.dst = some q ∧ q ≠ 0 then v else (d.ctx j).getP q := by
  unfold Dev.fwdFinish
  dsimp only
  cases hdst : c.dst with
  | none => simp
  | some p =>
    simp only [modRoom_eq, modCtx_eq, ctx_setCtx, unit_ctx_setRoom]
    by_cases hj : j = c.ctx
    · subst hj
      simp [getP_setP_ite, eq_comm]
    · simp [hj]

theorem room_fwdFault (seq : Nat) : (d.fwdFault slot seq).room slot =
    { d.room slot with fwd := { (d.room slot).fwd with fltCnt := min (2 ^ 32 - 1) ((d.room slot).fwd.fltCnt + 1), last := seq } } := by
  unfold Dev.fwdFault
  dsimp only
  split <;> simp [satInc_max32]

theorem ctx_fwdFault (seq j : Nat) : (d.fwdFault slot seq).ctx j = d.ctx j := by
  unfold Dev.fwdFault
  dsimp only
  split <;> simp

end

section
variable {d : Dev} {pa slot : Nat} {bs : List Byte}

/-- The command that a completion's SEQ and RGEN name. -/
def namedBy (d : Dev) (slot : Nat) (bs : List Byte) : Option FwdCmd :=
  (d.room slot).fwd.out.find? (fun c => c.seq == leAt bs 0 8 && c.rgen == leAt bs 16 1)

/-- Where the completion of a SEQ lies in its room's page. -/
def completionPa (d : Dev) (slot seq : Nat) : Nat := ((d.plan.fwd (d.idOf slot)).map FwdRec.cplPa).getD 0 + seq % 64 * 64

/-- A completion that matches nothing, or lies elsewhere, is counted (R326). -/
theorem fwdCompletion_of_bad (hslot : d.cplSlot pa = some slot)
    (hbad : namedBy d slot bs = none ∨ bs.length ≠ 64 ∨ pa ≠ completionPa d slot (leAt bs 0 8)) :
    d.fwdCompletion pa bs =
      d.modRoom slot (fun r => { r with fwd := { r.fwd with badCnt := min (2 ^ 32 - 1) (r.fwd.badCnt + 1) } }) := by
  unfold namedBy completionPa at hbad
  simp only [Dev.fwdCompletion, hslot, satInc_max32]
  split
  · rename_i c hc
    have hbad : ¬ (bs.length = 64 ∧ pa = ((d.plan.fwd (d.idOf slot)).map FwdRec.cplPa).getD 0 + leAt bs 0 8 % 64 * 64) := by
      rcases hbad with hnone | hlen | hpa
      · exact absurd (hc.symm.trans hnone) (by simp)
      · exact fun h => hlen h.1
      · exact fun h => hpa h.2
    rw [if_neg (by simpa using hbad)]
  · rfl

/-- A completion without a fault ends its command (R324). -/
theorem fwdCompletion_of_match {c : FwdCmd} (hslot : d.cplSlot pa = some slot) (hc : namedBy d slot bs = some c) (hlen : bs.length = 64)
    (hpa : pa = completionPa d slot (leAt bs 0 8)) (hok : leAt bs 17 1 = 0) :
    d.fwdCompletion pa bs = (d.engineWrite (d.idOf slot) pa bs).fwdFinish slot c (BitVec.ofNat 64 (leAt bs 8 8)) := by
  unfold namedBy at hc
  unfold completionPa at hpa
  simp only [Dev.fwdCompletion, hslot, hc, hlen, hok]
  rw [if_pos (by simpa using hpa)]
  rfl

end

section
variable {d : Dev} {slot seq : Nat} {c : FwdCmd}

theorem fwdTimeout_of_early (hc : (d.room slot).fwd.out.find? (fun c => c.seq == seq) = some c) (h : d.clk.tb < c.due) :
    d.fwdTimeout slot seq = d := by
  simp only [Dev.fwdTimeout, hc, if_neg (Nat.not_le.2 h)]

theorem fwdTimeout_of_due (hc : (d.room slot).fwd.out.find? (fun c => c.seq == seq) = some c) (h : c.due ≤ d.clk.tb) :
    d.fwdTimeout slot seq = (d.fwdFinish slot c 0xFFFFFFFFFFFFFFFF).fwdFault slot seq := by
  simp only [Dev.fwdTimeout, hc, if_pos h]

end

/-- Settles O24: an operation by the command that it posts, a completion by what it matches, a timeout by whether it is due. -/
theorem forwardedOperationsComplete : Obligations.ForwardedOperationsComplete := by
  unfold Obligations.ForwardedOperationsComplete
  refine ⟨fun s core op f e d h => ?_, fun s pa slot bs hslot => ?_, fun s slot seq c hc => ?_, fun d slot c v => ?_⟩
  · intro imm htag hroom p D r hrec hwho q c R W pa P
    have hf : e.f = f := (enter_ok h).form
    have hcore : e.core = core := (enter_ok h).sameCore
    subst hf hcore
    have hpost : R.fwdPost e.slot c = P := by
      have hR : R.plan.fwd (R.idOf e.slot) = some r := by
        rw [← hrec]
        simp [R, Dev.idOf]
      rw [fwdPost_eq hR, pcieOut_eq]
    have hbody : e.fwdIssue op = e.finish P := hpost ▸ fwdIssue_posts htag hroom hwho
    obtain ⟨X, hX, hw⟩ := onDev_done (room := fun d => d.fwdCause e.core op) h (fun e => e.fwdIssue op) P [] hbody
    exact ⟨X, hX, hw, by simp [R, q]⟩
  · intro q base found
    have hanswers : Answers (exec (.forwardedCompletion pa bs) s) s (s.dev.fwdCompletion pa bs) :=
      onDev_answers (fun d => d.fwdCompletion pa bs) s
    refine ⟨fun hbad => ?_, fun c hc hlen hpa hok => ?_⟩
    · rw [fwdCompletion_of_bad hslot hbad] at hanswers
      exact ⟨_, hanswers, by simp [q], fun j => rfl, rfl⟩
    · rwa [fwdCompletion_of_match hslot hc hlen hpa hok] at hanswers
  · have hanswers : Answers (exec (.forwardedTimeout slot seq) s) s (s.dev.fwdTimeout slot seq) :=
      onDev_answers (fun d => d.fwdTimeout slot seq) s
    refine ⟨fun hearly => ?_, fun hdue => ?_⟩
    · rwa [fwdTimeout_of_early hc hearly] at hanswers
    · rw [fwdTimeout_of_due hc hdue] at hanswers
      refine ⟨_, hanswers, ?_, ?_, ?_, fun p hp hp0 => ?_⟩
      · rw [room_fwdFault, room_fwdFinish]
      · rw [room_fwdFault]
      · rw [room_fwdFault, room_fwdFinish]
      · rw [ctx_fwdFault, getP_fwdFinish, if_pos ⟨rfl, hp, hp0⟩]
  · exact ⟨by rw [room_fwdFinish], mem_fwdFinish d slot c v, getP_fwdFinish d slot c v⟩

end Sys2Proof.Proofs.Forwarded
end

section
/-!
SUPPORT. The statement about finished Trestle operations, at a store to memory (R196, R311). It takes the order in which other cores write their
buffered stores from the device before the operation has fetched its own lines; the operation takes it after. Both are the order of the table of
cores, and they agree where that table is in its canonical form, which a fetch keeps; a state whose table is not in rising order tells them apart.
-/
namespace Sys2Proof.Proofs.TrestleStores
open Sys2Proof Sys2Proof.Machine Sys2Proof.Safety Sys2Proof.Proofs.FillsThatWake

/-- A floorplan of one room on cores 0 to 2, which owns one way of cluster 0's L2. No channel is populated: no line has a home to ask. -/
def oneWayPlan : Plan := { Plan.empty with
  rooms := [{ roomId := 0, timed := false, sealed := false, span := false, autostart := true, plevReq := 0, plevFloor := 0,
              slots := [0, 0xFF, 0xFF, 0xFF], entryPa := 0x100000, name := 0 }]
  clusters := [{ cluster := 0, coreEn := 7, coreRoom := [0, 0, 0, 0], tlsA := 0, tslotA := 0, ctxMaskA := 1, ctxMaskB := 0 }]
  caches := [{ form := 1, roomId := 0, loc := 0, ways := 1, lock := 0 }] }

/-- TRSUM of core 0: the one value at 0x1000, its sum to 0x200000. -/
def sumStation : Station :=
  { ctx := 0, op := .trsum, tag := 0, imm := 0x10000, rdVal := 0x8000000000000000, rsVal := 0x8000000000000000, rtVal := 0, dst := none,
    aReg := none, rotated := false, early := false, rsPa := 0x1000, rsLen := 8, rtPa := 0, rdPa := 0x200000 }

/-- The bytes of its store. -/
def sumBytes : List (Nat × Byte) := (spread 0x200000 (List.replicate 8 0)).filter (fun q => paKind q.1 == .dram)

/-- A core whose buffered store lies in the line of the sum, next to it. -/
def bufferingCore (b : Byte) : Core := { Core.init with run := .running, sbuf := [{ keep := none, nt := false, bytes := [(0x200010, b)] }] }

/-- Cores 2 and 1, in falling order in the table, buffer a store to one byte; the line that the sum reads displaces line 0x840 from the L2 and
from core 1's L1U. -/
def fallingDev : Dev := { Dev.reset with
  devState := .run
  plan := oneWayPlan
  rooms := [(0, { Room.init with phase := .running })]
  cores := [(2, bufferingCore 2), (1, { bufferingCore 1 with l1 := [{ line := 0x840, way := 0, st := .s, ewl := false }] })]
  clusters := [(0, { Cluster.init with
    l2 := [{ line := 0x840, way := 0, st := .s, room := 0 }, { line := 0x8000, way := 0, st := .m, room := 0 }]
    trestle := { Trestle.init with queue := [sumStation], loaded := some (0, 0) } })] }

def fallingState : State := { State.reset with dev := fallingDev }

/-- The device once core 0 has written its buffered stores, for an operation that reads memory (R313). -/
def fallingDrained : Dev := if (fallingDev.trSources 0 0 sumStation).isEmpty then fallingDev else fallingDev.drain (coreOf sumStation.ctx)

/-- The sum can finish, and stores to memory. -/
theorem fallingDev_finishes : (fallingDev.room 0).phase = .running ∧ fallingDev.trServes 0 0 = true ∧
    fallingDev.trHead 0 0 = some sumStation ∧ fallingDev.drainReady (coreOf sumStation.ctx) = true ∧
    fallingDrained.trReady 0 0 (fallingDrained.trStore 0 0 sumStation) = true ∧
    fallingDrained.trLinesReady 0 0 sumStation (fallingDrained.trStore 0 0 sumStation) = true ∧
    fallingDrained.trStore 0 0 sumStation = some (true, 0x200000, List.replicate 8 0) := by
  decide +kernel

/-- Core 1's byte stays where core 2 writes first, and core 2's where the displaced line has put core 1 ahead in the table. -/
theorem fallingDev_orders :
    Sparse.get Memory.unlisted ((fallingDrained.yieldStores 128 (linesOf sumBytes)).mem.putAll (fallingDrained.mirrored sumBytes)) 0x200010 = 1 ∧
    Sparse.get Memory.unlisted ((fallingDev.trComplete 0 0).getD (fallingDev.trAsk 0 0)).mem 0x200010 = 2 := by
  decide +kernel

/-- Refutes O22: its first clause has the buffered stores of other cores written in the order of the cores' table before the operation fetches its
lines, but in a state whose table is not in rising order the fetch changes that order, and with it the memory. -/
theorem not_trestleOperationsFinish : ¬ Obligations.TrestleOperationsFinish := by
  unfold Obligations.TrestleOperationsFinish
  rintro ⟨hfinish, -⟩
  obtain ⟨hphase, hserves, hhead, hdrain, hready, hlines, hstore⟩ := fallingDev_finishes
  obtain ⟨X, hX, -, -, -, hmemory⟩ := hfinish fallingState 0 0 sumStation (fun _ => ⟨rfl, .inl rfl⟩) hphase hserves hhead (fun _ => hdrain)
    hready hlines
  have hmem : X.mem = (fallingDrained.yieldStores 128 (linesOf sumBytes)).mem.putAll (fallingDrained.mirrored sumBytes) :=
    (hmemory _ _ hstore).2
  have hends : Answers (exec (.trestleOpComplete 0 0) fallingState) fallingState
      ((fallingDev.trComplete 0 0).getD (fallingDev.trAsk 0 0)) :=
    Laws.onDev_answers (fun d => (d.trComplete 0 0).getD (d.trAsk 0 0)) fallingState
  obtain ⟨hstated, hmade⟩ := fallingDev_orders
  rw [← hmem, mem_eq_of_answers hX hends, hmade] at hstated
  exact absurd hstated (by decide)

end Sys2Proof.Proofs.TrestleStores
end

section
/-!
SUPPORT. What a failure that holds or rolls back a room leaves as it was, and what it leaves pending: the floorplan and the straps, the RAS
registers, the lost dies and channels, the slot maps and Trestles, and each room's own state but where it stands. One lemma per operation
that a return to a checkpoint or the flush of a way runs through.
-/
namespace Sys2Proof.Proofs.Contained
open Sys2Proof Sys2Proof.Machine Sys2Proof.Laws

/-- Where a room stands: its number, its phase with the reason, whether it is degraded, its rollback, and its substitutions. -/
structure Standing where
  roomId : Nat
  phase : RoomPhase
  reason : Nat
  degraded : Bool
  rb : Option Rollback
  subst : Nat

def standing (r : Room) : Standing := ⟨r.roomId, r.phase, r.reason, r.degraded, r.rb, r.subst⟩

/-- What works in a cluster: its slot map and spare, its retired L2 ways, and the health of its Trestle. -/
structure Units where
  slotMap : List Nat
  spare : Nat
  l2Retired : BitVec 16
  health : TrHealth
  testing : Bool

def units (x : Cluster) : Units := ⟨x.slotMap, x.spare, x.l2Retired, x.trestle.health, x.trestle.testing⟩

@[simp] theorem standing_eq_iff (r q : Room) : standing r = standing q ↔ r.roomId = q.roomId ∧ r.phase = q.phase ∧ r.reason = q.reason ∧
    r.degraded = q.degraded ∧ r.rb = q.rb ∧ r.subst = q.subst := Standing.mk.injEq .. ▸ Iff.rfl

@[simp] theorem units_eq_iff (x y : Cluster) : units x = units y ↔ x.slotMap = y.slotMap ∧ x.spare = y.spare ∧
    x.l2Retired = y.l2Retired ∧ x.trestle.health = y.trestle.health ∧ x.trestle.testing = y.trestle.testing :=
  Units.mk.injEq .. ▸ Iff.rfl

/-- The floorplan, the package, and what has failed in it. -/
structure Kept where
  plan : Plan
  straps : Straps
  ras : PkgRas
  diesLost : List Nat
  chanLost : Nat → Bool
  room : Nat → Standing
  cluster : Nat → Units

def kept (d : Dev) : Kept :=
  ⟨d.plan, d.straps, d.ras, d.diesLost, fun r => (d.region r).chanLost, fun k => standing (d.room k), fun c => units (d.cluster c)⟩

/-- The failure sources (800 to 803) and every other below that of refused and aborted entries, 837. -/
def pends (d : Dev) (s : Nat) : Prop := s < 837 ∧ s ∈ d.irqPend

def part (d : Dev) : Kept × (Nat → Prop) := (kept d, pends d)

variable (d : Dev)

/-! ### Loops and branches -/

@[simp] theorem part_each {α : Type} (l : List α) (f : Dev → α → Dev) (hf : ∀ d a, part (f d a) = part d) :
    part (each l f d) = part d := Loops.each_keeps part l f hf d

@[simp] theorem part_iter (f : Dev → Dev) (n : Nat) (hf : ∀ d, part (f d) = part d) : part (iter f n d) = part d := by
  induction n generalizing d with
  | zero => rfl
  | succ n ih => exact (ih (f d)).trans (hf d)

@[simp] theorem part_ite (c : Prop) [Decidable c] (a b : Dev) : part (if c then a else b) = if c then part a else part b :=
  apply_ite part c a b

/-! ### Updates of one unit

`(rfl)` keeps these rewrite rules and not definitional unfoldings, so that `simp` can use them to discharge the premise of `part_each`. -/

@[simp] theorem part_setCore (i : Nat) (x : Core) : part (d.setCore i x) = part d := (rfl)
@[simp] theorem part_setCtx (i : Nat) (x : Ctx) : part (d.setCtx i x) = part d := (rfl)
@[simp] theorem part_setMbox (i : Nat) (x : Mbox) : part (d.setMbox i x) = part d := (rfl)
@[simp] theorem part_setDomain (i : Nat) (x : Domain) : part (d.setDomain i x) = part d := (rfl)
@[simp] theorem part_setNode (i : Nat) (x : Node) : part (d.setNode i x) = part d := (rfl)
@[simp] theorem part_setCan (i : Nat) (x : Can) : part (d.setCan i x) = part d := (rfl)
@[simp] theorem part_setPciePort (i : Nat) (x : PciePort) : part (d.setPciePort i x) = part d := (rfl)
@[simp] theorem part_setLink (i : Nat) (x : Link) : part (d.setLink i x) = part d := (rfl)
@[simp] theorem part_emit (o : Out) : part (d.emit o) = part d := (rfl)
@[simp] theorem part_poke (l : List (Nat × Byte)) : part (d.poke l) = part d := (rfl)
@[simp] theorem part_writeBack (line : Nat) : part (d.writeBack line) = part d := (rfl)
@[simp] theorem part_clearResv (line : Nat) (keep : Option Nat) : part (d.clearResv line keep) = part d := (rfl)
@[simp] theorem part_reload (slot x k : Nat) : part (d.reload slot x k) = part d := (rfl)
@[simp] theorem part_withHubOut (l : List HomeReq) : part { d with hubOut := l } = part d := (rfl)
@[simp] theorem part_withHubQ (l : List HomeReq) : part { d with hubQ := l } = part d := (rfl)

theorem kept_setCluster (c : Nat) (x : Cluster) :
    kept (d.setCluster c x) = { kept d with cluster := Function.update (kept d).cluster c (units x) } := by
  have h : (fun k => units ((d.setCluster c x).cluster k)) = Function.update (fun k => units (d.cluster k)) c (units x) := by
    funext k
    rw [cluster_setCluster, Function.update_apply, apply_ite units]
  simp [kept, h]

theorem kept_setRegion (r : Nat) (x : Region) :
    kept (d.setRegion r x) = { kept d with chanLost := Function.update (kept d).chanLost r x.chanLost } := by
  have h : (fun k => ((d.setRegion r x).region k).chanLost) = Function.update (fun k => (d.region k).chanLost) r x.chanLost := by
    funext k
    rw [region_setRegion, Function.update_apply, apply_ite Region.chanLost]
  simp [kept, h]

theorem kept_setRoom (k : Nat) (x : Room) :
    kept (d.setRoom k x) = { kept d with room := Function.update (kept d).room k (standing x) } := by
  have h : (fun j => standing ((d.setRoom k x).room j)) = Function.update (fun j => standing (d.room j)) k (standing x) := by
    funext j
    rw [room_setRoom, Function.update_apply, apply_ite standing]
  simp [kept, h]

@[simp] theorem part_setCluster {c : Nat} {x : Cluster} (h : units x = units (d.cluster c)) : part (d.setCluster c x) = part d :=
  Prod.ext (by rw [part, kept_setCluster, h]; exact congrArg (fun f => { kept d with cluster := f }) (Function.update_eq_self c _)) rfl

@[simp] theorem part_setRegion {r : Nat} {x : Region} (h : x.chanLost = (d.region r).chanLost) : part (d.setRegion r x) = part d :=
  Prod.ext (by rw [part, kept_setRegion, h]; exact congrArg (fun f => { kept d with chanLost := f }) (Function.update_eq_self r _)) rfl

@[simp] theorem part_setRoom {k : Nat} {x : Room} (h : standing x = standing (d.room k)) : part (d.setRoom k x) = part d :=
  Prod.ext (by rw [part, kept_setRoom, h]; exact congrArg (fun f => { kept d with room := f }) (Function.update_eq_self k _)) rfl

theorem part_modCluster {c : Nat} {f : Cluster → Cluster} (h : ∀ x, units (f x) = units x) : part (d.modCluster c f) = part d :=
  part_setCluster d (h _)

theorem part_modRegion {r : Nat} {f : Region → Region} (h : ∀ g, (f g).chanLost = g.chanLost) : part (d.modRegion r f) = part d :=
  part_setRegion d (h _)

theorem part_modRoom {k : Nat} {f : Room → Room} (h : ∀ r, standing (f r) = standing r) : part (d.modRoom k f) = part d :=
  part_setRoom d (h _)

theorem pends_raise (s : Nat) : pends (d.raise s) = fun k => (k < 837 ∧ k = s) ∨ pends d k := by
  funext k
  simp only [pends, irqPend_raise, mem_insertAsc, ← and_or_left]

@[simp] theorem part_raise {s : Nat} (h : 837 ≤ s) : part (d.raise s) = part d := by
  have hp : pends (d.raise s) = pends d := by
    rw [pends_raise]
    funext k
    simp only [eq_iff_iff, or_iff_right_iff_imp]
    omega
  exact Prod.ext rfl hp

/-- A rewrite of every listed cluster that keeps its units. -/
theorem part_mapClusters (f : Cluster → Cluster) (hf : ∀ x, units (f x) = units x) :
    part { d with clusters := d.clusters.map (fun p => (p.1, f p.2)) } = part d := by
  have h : (fun c => units (Sparse.get Cluster.init (d.clusters.map (fun p => (p.1, f p.2))) c)) = fun c => units (d.cluster c) := by
    funext c
    exact Sparse_get_map Cluster.init d.clusters (fun _ x => f x) c (fun x y => units y = units x) rfl (fun _ => hf)
  exact Prod.ext (congrArg (fun g => { kept d with cluster := g }) h) rfl

@[simp] theorem part_dropOps (p : Station → Bool) : part (d.dropOps p) = part d :=
  part_mapClusters d (fun x => { x with trestle := { x.trestle with
    queue := x.trestle.queue.filter (fun s => !p s),
    running := x.trestle.running.filter (fun s => !p s),
    save := x.trestle.save.filter (fun e => !p e.2) } }) fun _ => rfl

@[simp] theorem part_freeSlots (line : Nat) : part (d.freeSlots line) = part d :=
  part_mapClusters d (fun x => { x with slots := x.slots.map (fun (i, e) =>
    (i, match e with
        | some v => if v.line == line && (v.granted || (d.homeLocal line).isNone) then none else some v
        | none => none)) }) fun _ => rfl

/-! ### Channels, caches and power domains -/

@[simp] theorem part_chanPush (r : Nat) (q : ChanReq) : part (d.chanPush r q) = part d := by
  simp [Dev.chanPush]

@[simp] theorem part_chanPost (line requester room : Nat) : part (d.chanPost line requester room) = part d := by
  unfold Dev.chanPost; split <;> simp

@[simp] theorem part_chanWrite (line requester room : Nat) : part (d.chanWrite line requester room) = part d := by
  simp [Dev.chanWrite]

@[simp] theorem part_writeOut (line room : Nat) : part (d.writeOut line room) = part d := by
  simp [Dev.writeOut]

@[simp] theorem part_l3Fill (r line id : Nat) : part (d.l3Fill r line id) = part d := by
  unfold Dev.l3Fill
  dsimp only
  split
  · simp
  · split <;> simp

@[simp] theorem part_homeWrite (line id : Nat) : part (d.homeWrite line id) = part d := by
  unfold Dev.homeWrite; split
  · exact (part_modRegion _ fun _ => by rfl).trans (by simp)
  · simp

@[simp] theorem part_applyPend (c : Nat) : part (d.applyPend c) = part d := part_modCluster d fun _ => rfl

@[simp] theorem part_wakeEffects (n : Nat) (old : DomSt) : part (d.wakeEffects n old) = part d := by
  simp [Dev.wakeEffects, Dev.modCan]

@[simp] theorem part_tracePut (slot : Nat) (p : TracePkt) : part (d.tracePut slot p) = part d := by
  unfold Dev.tracePut
  extract_lets g size unread full bs d1 d2 thr unread'
  have h2 : part d2 = part d := part_modRoom d1 fun _ => rfl
  split
  · rfl
  · split
    · exact part_modRoom d fun _ => rfl
    · split
      · exact (part_raise d2 (Nat.le_add_right_of_le (by decide))).trans h2
      · exact h2

@[simp] theorem part_tracePower (n : Nat) (old new : DomSt) (code : Nat) : part (d.tracePower n old new code) = part d := by
  simp [Dev.tracePower]

@[simp] theorem part_setDomainCode (n : Nat) (st : DomSt) (code : Nat) : part (d.setDomainCode n st code) = part d := by
  simp [Dev.setDomainCode]

@[simp] theorem part_setDomainSt (n : Nat) (st : DomSt) : part (d.setDomainSt n st) = part d := by
  simp [Dev.setDomainSt]

@[simp] theorem part_countEntry (n code : Nat) (asker : Option Nat) (abort : Bool) :
    part (d.countEntry n code asker abort) = part d := by
  unfold Dev.countEntry
  extract_lets d1 d2
  have h : part d2 = part d := by simp [d2, d1]
  split
  · exact h
  · split_ifs
    · exact (part_modRoom d2 fun _ => by rfl).trans h
    · exact h

@[simp] theorem part_stopSlice (n : Nat) : part (d.stopSlice n) = part d := by
  unfold Dev.stopSlice; split_ifs <;> rfl

@[simp] theorem part_abortEntry (n code : Nat) : part (d.abortEntry n code) = part d := by
  unfold Dev.abortEntry; split <;> simp

@[simp] theorem part_wakeOne (n : Nat) : part (d.wakeOne n) = part d := by
  simp [Dev.wakeOne]

@[simp] theorem part_wake (n : Nat) : part (d.wake n) = part d := by
  simp [Dev.wake]

@[simp] theorem part_startWakeOne (n : Nat) : part (d.startWakeOne n) = part d := by
  simp [Dev.startWakeOne]

@[simp] theorem part_startWake (n : Nat) : part (d.startWake n) = part d := by
  simp [Dev.startWake]

@[simp] theorem part_sendTo (pkg : Nat) (m : CohMsg) : part (d.sendTo pkg m) = part d := by
  simp [Dev.sendTo, Dev.modLink]

@[simp] theorem part_farLeave (c line id : Nat) (dirty : Bool) : part (d.farLeave c line id dirty) = part d := by
  unfold Dev.farLeave; split <;> simp

@[simp] theorem part_homeSend (c line id : Nat) (dirty : Bool) : part (d.homeSend c line id dirty) = part d := by
  unfold Dev.homeSend; split <;> simp

@[simp] theorem part_dirRefresh (line : Nat) : part (d.dirRefresh line) = part d := by
  unfold Dev.dirRefresh; split <;> simp

@[simp] theorem part_emptySlot (c i : Nat) : part (d.emptySlot c i) = part d := by
  unfold Dev.emptySlot
  split
  · rfl
  · extract_lets d1 d2 d3
    have h1 : part d1 = part d := by unfold d1; split <;> simp
    have h2 : part d2 = part d := (part_modCluster d1 fun _ => by rfl).trans h1
    have h3 : part d3 = part d := by
      unfold d3
      split
      · exact h2
      · exact (part_modRegion d2 fun _ => by rfl).trans h2
    exact (part_dirRefresh d3 _).trans h3

@[simp] theorem part_takeSlots (line requester room : Nat) : part (d.takeSlots line requester room) = part d :=
  part_each _ _ _ fun d _ => by
    split
    · exact (part_modCluster _ fun _ => by rfl).trans (part_modRegion d fun _ => by rfl)
    · rfl

@[simp] theorem part_forwardTo (c : Nat) : part (d.forwardTo c) = part d := by
  simp [Dev.forwardTo]

@[simp] theorem part_countIn (regions : List Nat) : part (d.countIn regions) = part d := by
  simp [Dev.countIn]

@[simp] theorem part_l1Drop (core line : Nat) : part (d.l1Drop core line) = part d := by
  unfold Dev.l1Drop; split_ifs <;> rfl

@[simp] theorem part_l1DropAll (c line : Nat) : part (d.l1DropAll c line) = part d := by
  simp [Dev.l1DropAll]

@[simp] theorem part_l2Invalidate (c line : Nat) : part (d.l2Invalidate c line) = part d := by
  unfold Dev.l2Invalidate
  extract_lets d1 d2
  have h2 : part d2 = part d := (part_modCluster d1 fun _ => by rfl).trans (by simp [d1])
  split
  · split
    · exact (part_modCluster d2 fun _ => by rfl).trans h2
    · exact (part_wake _ c).trans ((part_modRegion d2 fun _ => by rfl).trans h2)
  · exact h2

@[simp] theorem part_l1Share (c line : Nat) : part (d.l1Share c line) = part d := by
  simp [Dev.l1Share]

@[simp] theorem part_l2Share (c line : Nat) : part (d.l2Share c line) = part d := by
  simp [Dev.l2Share]

@[simp] theorem part_snoopOthers (line : Nat) (except : Option Nat) (excl : Bool) :
    part (d.snoopOthers line except excl) = part d := by
  simp [Dev.snoopOthers]

@[simp] theorem part_l2Evict (c line : Nat) : part (d.l2Evict c line) = part d := by
  unfold Dev.l2Evict; split <;> simp

@[simp] theorem part_homeFill (r line requester room : Nat) : part (d.homeFill r line requester room) = part d := by
  simp [Dev.homeFill]

@[simp] theorem part_l2Get (core line : Nat) (wr nt : Bool) : part (d.l2Get core line wr nt) = part d := by
  unfold Dev.l2Get
  extract_lets c id owned locked d1 others dirty d2 d3 d4
  split
  · simp
  · have h1 : part d1 = part d := by unfold d1; split <;> simp
    have h4 : part d4 = part d := by unfold d4; split <;> simp [d3, d2, h1]
    split <;> simp [h4]

@[simp] theorem part_l1Fill (core line : Nat) (st : L1St) (nt : Bool) : part (d.l1Fill core line st nt) = part d := by
  unfold Dev.l1Fill; dsimp only; split <;> simp

@[simp] theorem part_touchLine (core line : Nat) (wr nt : Bool) : part (d.touchLine core line wr nt) = part d := by
  unfold Dev.touchLine; dsimp only; split <;> simp

@[simp] theorem part_writeLine (core line : Nat) (nt : Bool) : part (d.writeLine core line nt) = part d := by
  simp [Dev.writeLine]

@[simp] theorem part_touchOwn (core line : Nat) (nt : Bool) : part (d.touchOwn core line nt) = part d := by
  simp [Dev.touchOwn]

@[simp] theorem part_hintLine (core kind line : Nat) (nt : Bool) : part (d.hintLine core kind line nt) = part d := by
  unfold Dev.hintLine; split <;> simp

@[simp] theorem part_flushL2 (c : Nat) (p : L2Line → Bool) : part (d.flushL2 c p) = part d := by
  simp [Dev.flushL2]

/-! ### Store buffers -/

@[simp] theorem part_drainOne (core : Nat) : part (d.drainOne core) = part d := by
  unfold Dev.drainOne; split <;> simp

@[simp] theorem part_drain (core : Nat) : part (d.drain core) = part d := by
  simp [Dev.drain]

@[simp] theorem part_yieldStores (core : Nat) (lines : List Nat) : part (d.yieldStores core lines) = part d := by
  simp [Dev.yieldStores]

/-! ### Coherence transactions -/

@[simp] theorem part_snooped (c line : Nat) (kind : SnoopKind) : part (d.snooped c line kind).1 = part d := by
  unfold Dev.snooped
  extract_lets takes d1 st slot data tag d2 d3 d4
  have h2 : part d2 = part d := by simp [d2, d1]
  have h3 : part d3 = part d := by unfold d3; clear_value slot; split <;> simp [h2]
  show part d4 = part d
  unfold d4
  split <;> simp [h3]

@[simp] theorem part_modTxn (line : Nat) (f : Txn → Txn) : part (d.modTxn line f) = part d := by
  unfold Dev.modTxn; split <;> simp

@[simp] theorem part_served (r stamp : Nat) : part (d.served r stamp) = part d := by
  simp [Dev.served]

@[simp] theorem part_answerSnoop (c line room : Nat) (kind : SnoopKind) : part (d.answerSnoop c line room kind) = part d := by
  unfold Dev.answerSnoop
  split
  · split <;> simp
  · split <;> simp

@[simp] theorem part_toChannel (t : Txn) : part (d.toChannel t) = part d := by
  unfold Dev.toChannel
  extract_lets push write d1
  have hp (d : Dev) (line : Nat) : part (push d line) = part d := by unfold push; split <;> simp
  split
  · split <;> simp
  · split <;> simp [d1, hp]

@[simp] theorem part_homeRsp (region line : Nat) (held : Bool) (tag : Option (BitVec 12)) (data : List Byte) :
    part (d.homeRsp region line held tag data) = part d := by
  unfold Dev.homeRsp
  split
  · rfl
  · extract_lets own got d1 t' d2 d3 d4
    have h2 : part d2 = part d := by simp [d2, d1]
    have h3 : part d3 = part d := by unfold d3; split <;> simp [h2]
    have h4 : part d4 = part d := by unfold d4; split <;> simp [h3]
    simp [h4]

@[simp] theorem part_grantSlot (c i : Nat) (v : EvSlot) : part (d.grantSlot c i v) = part d := by
  simp [Dev.grantSlot]

@[simp] theorem part_grantStale (r line : Nat) (tag : BitVec 12) : part (d.grantStale r line tag) = part d := by
  unfold Dev.grantStale
  dsimp only
  split_ifs
  · split <;> simp
  · simp

@[simp] theorem part_openEvd (r : Nat) (q : HomeReq) : part (d.openEvd r q) = part d := by
  unfold Dev.openEvd
  extract_lets t d1 d2 d3
  have h2 : part d2 = part d := by unfold d2; split <;> simp [d1]
  simp [d3, h2]

@[simp] theorem part_openTxn (r : Nat) (q : HomeReq) : part (d.openTxn r q) = part d := by
  unfold Dev.openTxn
  extract_lets t d1 d2 d3
  have h3 : part d3 = part d := by simp [d3, d2, d1]
  split <;> simp [h3]

@[simp] theorem part_grantReq (r : Nat) (q : HomeReq) : part (d.grantReq r q) = part d := by
  unfold Dev.grantReq
  split_ifs
  · split <;> simp
  · simp

@[simp] theorem part_grantWaiting (r : Nat) : part (d.grantWaiting r) = part d :=
  part_iter _ _ _ fun _ => by dsimp only; split <;> simp

@[simp] theorem part_closeTxn (line : Nat) : part (d.closeTxn line) = part d := by
  unfold Dev.closeTxn; split <;> simp

@[simp] theorem part_homeCmp (dest line : Nat) : part (d.homeCmp dest line) = part d := by
  unfold Dev.homeCmp; split <;> simp

@[simp] theorem part_farHolds (t : Txn) (st : Moesi) : part (d.farHolds t st) = part d := by
  unfold Dev.farHolds; split <;> simp

@[simp] theorem part_installGrant (dest line : Nat) : part (d.installGrant dest line) = part d := by
  unfold Dev.installGrant
  extract_lets own sent
  have ho (d : Dev) (c : Nat) : part (own d c) = part d := by simp [own]
  have hs (d : Dev) : part (sent d) = part d := by simp [sent]
  split
  · split <;> simp [ho]
  · split
    · rfl
    · split_ifs
      · rfl
      · split <;> simp [ho, hs]

@[simp] theorem part_atHome (r : Nat) (q : HomeReq) : part (d.atHome r q) = part d := by
  simp [Dev.atHome]

@[simp] theorem part_sendReq (q : HomeReq) : part (d.sendReq q) = part d := by
  unfold Dev.sendReq; split <;> simp

@[simp] theorem part_hubSend (q : HomeReq) : part (d.hubSend q) = part d := by
  simp [Dev.hubSend]

@[simp] theorem part_hubNext : part d.hubNext = part d := by
  unfold Dev.hubNext; split <;> simp

@[simp] theorem part_toSlot (c i : Nat) (e : L2Line) : part (d.toSlot c i e) = part d := by
  simp [Dev.toSlot]

/-- A line that is installed, where a slot is free. -/
theorem part_install {c i : Nat} {m : MissReg} {st : Moesi} {d' : Dev} (h : d.install c i m st = some d') :
    part d' = part d := by
  unfold Dev.install at h
  split_ifs at h
  dsimp only at h
  split at h
  · cases h; simp
  · cases h
    split <;> split <;> simp

@[simp] theorem part_mergeMiss (core line : Nat) (use : MissUse) : part (d.mergeMiss core line use) = part d := by
  simp [Dev.mergeMiss]

@[simp] theorem part_missRequest (core line : Nat) (kind : TxnKind) (use : MissUse) (age : Nat) :
    part (d.missRequest core line kind use age) = part d := by
  unfold Dev.missRequest
  extract_lets c room
  split
  · rfl
  · split
    · simp
    · split
      · rfl
      · dsimp only; split <;> simp

@[simp] theorem part_fillHints (line : Nat) (m : MissReg) : part (d.fillHints line m) = part d :=
  part_each _ _ _ fun _ _ => by
    split
    · split <;> simp
    · rfl

@[simp] theorem part_txnFill (r : Nat) (t : Txn) : part (d.txnFill r t) = part d := by
  simp [Dev.txnFill]

@[simp] theorem part_installData (dest line grant : Nat) (data : List Byte) :
    part (d.installData dest line grant data) = part d := by
  unfold Dev.installData
  split
  · split
    · simp
    · dsimp only
      split
      · rfl
      next h =>
        have := part_install d (Option.ite_none_right_eq_some.1 h).2
        simp [this]
  · split
    · rfl
    · split
      · rfl
      · split
        · simp
        -- A shared and an exclusive read install their line alike.
        iterate 2
          dsimp only
          split
          · simp
          · split
            · rfl
            · split
              · rfl
              next h => simp [part_install d h]
        · rfl

@[simp] theorem part_engineLand (requester room : Nat) (l : List (Nat × Byte)) :
    part (d.engineLand requester room l) = part d := by
  refine (part_each _ _ _ fun d n => ?_).trans (part_poke d l)
  dsimp only
  split <;> simp

@[simp] theorem part_homeAck (dest line : Nat) : part (d.homeAck dest line) = part d := by
  unfold Dev.homeAck
  split <;> simp

@[simp] theorem part_finishTxn (line : Nat) : part (d.finishTxn line) = part d := by
  unfold Dev.finishTxn
  split
  · split
    · rfl
    · extract_lets d1 d2 d3 d4 d5
      have h4 : part d4 = part d := by
        refine (part_iter _ _ _ fun d => ?_).trans (by simp [d3, d2, d1])
        dsimp only
        split <;> simp
      have h5 : part d5 = part d := by
        unfold d5
        split
        · split <;> simp [h4]
        · exact h4
      simp [h5]
  · rfl

@[simp] theorem part_finishTxns (cs : List Nat) : part (d.finishTxns cs) = part d := by
  simp [Dev.finishTxns]

/-! ### Trestles -/

@[simp] theorem part_trBegin (u : Nat) : part (d.trBegin u) = part d := by
  simp [Dev.trBegin]

@[simp] theorem part_dropStations (slot : Nat) : part (d.dropStations slot) = part d := part_dropOps d _

@[simp] theorem part_beginStations (slot : Nat) : part (d.beginStations slot) = part d := by
  simp [Dev.beginStations]

/-! ### Rollback -/

@[simp] theorem part_stopCores (slot : Nat) : part (d.stopCores slot) = part d := by
  simp [Dev.stopCores]

/-- Bytes of a local store are no part of what works in its cluster. -/
theorem health_lsPutAll (t : Trestle) (l : List (Nat × Byte)) :
    (t.lsPutAll l).health = t.health ∧ (t.lsPutAll l).testing = t.testing := by
  induction l generalizing t with
  | nil => exact ⟨rfl, rfl⟩
  | cons p l ih => exact ih (t.lsPut p.1 p.2)

@[simp] theorem part_undoOne (slot c : Nat) (e : UndoEntry) : part (d.undoOne slot c e) = part d := by
  unfold Dev.undoOne
  split
  · exact part_modCluster d fun x => by simp [health_lsPutAll]
  · simp

@[simp] theorem part_replay (slot : Nat) : part (d.replay slot) = part d := by
  have hb (k : Nat) (d : Dev) : part (each (d.clustersOf slot) (fun d c =>
      each ((d.cluster c).undo.filter (fun e => e.slot == slot && e.epoch == k)) (fun d e => d.undoOne slot c e) d) d) = part d := by
    simp
  simp [Dev.replay, hb]

@[simp] theorem part_tlbRemoveRoom (slot : Nat) : part (d.tlbRemoveRoom slot) = part d := by
  simp [Dev.tlbRemoveRoom, Dev.tlbRemove]

@[simp] theorem part_pcieOut (pa : Nat) (bs : List Byte) : part (d.pcieOut pa bs) = part d := by
  simp [Dev.pcieOut, Dev.modPciePort]

@[simp] theorem part_fwdPost (slot : Nat) (c : FwdCmd) : part (d.fwdPost slot c) = part d := by
  unfold Dev.fwdPost; split <;> simp

/-! ### A return to a checkpoint -/

/-- From `d` to `d'` nothing of the kept part has changed, and nothing pending has ended. -/
structure Keeps (d d' : Dev) : Prop where
  kept : kept d' = kept d
  pends : ∀ s, pends d s → pends d' s

theorem kept_of_part {d d' : Dev} (h : part d' = part d) : kept d' = kept d := congrArg Prod.fst h

theorem kept_raise (s : Nat) : kept (d.raise s) = kept d := rfl

theorem keeps_of_part {d d' : Dev} (h : part d' = part d) : Keeps d d' :=
  ⟨kept_of_part h, fun s hs => (congrFun (congrArg Prod.snd h) s).mpr hs⟩

theorem Keeps.trans {d d' d'' : Dev} (h : Keeps d d') (h' : Keeps d' d'') : Keeps d d'' :=
  ⟨h'.kept.trans h.kept, fun s hs => h'.pends s (h.pends s hs)⟩

theorem keeps_each {α : Type} (l : List α) (f : Dev → α → Dev) (hf : ∀ d a, Keeps d (f d a)) (d : Dev) : Keeps d (each l f d) := by
  induction l generalizing d with
  | nil => exact keeps_of_part rfl
  | cons a t ih => exact (hf d a).trans (ih (f d a))

theorem keeps_raise (s : Nat) : Keeps d (d.raise s) :=
  ⟨rfl, fun k hk => by rw [pends_raise]; exact .inr hk⟩

/-- A rollback's restoring leaves the room where it stood; the interrupts that it takes back pend again. -/
theorem keeps_restore (slot : Nat) : Keeps d (d.restore slot) := by
  unfold Dev.restore
  extract_lets e bnd id d1 d2 d3 d4 d5 d6 d7 d8 rgen d9 back d10 d11
  have h8 : part d8 = part d := by simp [d8, d7, d6, d5, d4, d3, d2, d1]
  have h9 : part d9 = part d := (part_modRoom d8 fun _ => by rfl).trans h8
  have h10 : Keeps d d10 := (keeps_of_part h9).trans (keeps_each _ _ (fun d _ => keeps_raise d _) d9)
  have h11 : Keeps d d11 := h10.trans (keeps_of_part (part_modRoom d10 fun _ => by rfl))
  split
  · exact h11
  · refine h11.trans (keeps_of_part ?_)
    simp

/-! ### Incident records -/

/-- A record changes the log of incidents, and pends source 800 and, for a Visible event, 801. -/
theorem incidentAs_frame (cls kind loc addr detail : Nat) (rooms : List Nat) (ns : Nat) :
    let X := d.incidentAs cls kind loc addr detail rooms ns
    X = { d with inc := X.inc, irqPend := X.irqPend } ∧
      ∀ s, s ∈ X.irqPend ↔ s = 800 ∨ (cls = 2 ∧ s = 801) ∨ s ∈ d.irqPend := by
  unfold Dev.incidentAs
  dsimp only
  split
  next h =>
    have hcls : cls = 2 := by simpa using h
    refine ⟨rfl, fun s => ?_⟩
    simp only [irqPend_raise, mem_insertAsc, hcls, true_and]
    tauto
  next h =>
    have hcls : cls ≠ 2 := by simpa using h
    refine ⟨rfl, fun s => ?_⟩
    simp only [irqPend_raise, mem_insertAsc, hcls, false_and, false_or]

theorem keeps_incident (kind loc addr detail : Nat) (rooms : List Nat) (ns : Nat) :
    Keeps d (d.incident kind loc addr detail rooms ns) := by
  obtain ⟨hrest, hpend⟩ := incidentAs_frame d (incClass kind) kind loc addr detail rooms ns
  exact ⟨(congrArg kept hrest).trans rfl, fun s hs => ⟨hs.1, (hpend s).2 (.inr (.inr hs.2))⟩⟩

theorem pends_incident (kind loc addr detail : Nat) (rooms : List Nat) (ns : Nat) :
    pends (d.incident kind loc addr detail rooms ns) 800 ∧ (incClass kind = 2 → pends (d.incident kind loc addr detail rooms ns) 801) := by
  obtain ⟨-, hpend⟩ := incidentAs_frame d (incClass kind) kind loc addr detail rooms ns
  exact ⟨⟨by decide, (hpend _).2 (.inl rfl)⟩, fun h => ⟨by decide, (hpend _).2 (.inr (.inl ⟨h, rfl⟩))⟩⟩

/-! ### Rooms that are held or degraded -/

/-- The rooms of a list stand otherwise. -/
def Kept.mapRooms (K : Kept) (l : List Nat) (f : Standing → Standing) : Kept :=
  { K with room := fun k => if k ∈ l then f (K.room k) else K.room k }

def Standing.heldFor (reason : Nat) (v : Standing) : Standing := { v with phase := .held, reason := reason, rb := none }
def Standing.marked (v : Standing) : Standing := { v with degraded := true }

theorem kept_modRoom (k : Nat) (f : Room → Room) (g : Standing → Standing) (h : ∀ r, standing (f r) = g (standing r)) :
    kept (d.modRoom k f) = (kept d).mapRooms [k] g := by
  have hroom : Function.update (kept d).room k (g (standing (d.room k))) =
      fun j => if j ∈ [k] then g ((kept d).room j) else (kept d).room j := by
    funext j
    by_cases hj : j = k
    · subst hj; simp [kept]
    · simp [hj]
  rw [modRoom_eq, kept_setRoom, h, hroom, Kept.mapRooms]

/-- A loop that has each room of a list stand otherwise, to the same effect a second time. -/
theorem kept_each {f : Standing → Standing} (hf : ∀ v, f (f v) = f v) (g : Dev → Nat → Dev)
    (hg : ∀ d k, kept (g d k) = (kept d).mapRooms [k] f) (l : List Nat) : kept (each l g d) = (kept d).mapRooms l f := by
  induction l generalizing d with
  | nil => simp [each, Kept.mapRooms]
  | cons a t ih =>
    change kept (each t g (g d a)) = _
    rw [ih, hg, Kept.mapRooms, Kept.mapRooms, Kept.mapRooms]
    congr 1
    funext k
    by_cases ha : k = a <;> by_cases ht : k ∈ t <;> simp [ha, ht, hf]

theorem kept_degrade (slot : Nat) : kept (d.degrade slot) = (kept d).mapRooms [slot] Standing.marked :=
  kept_modRoom d slot _ _ fun _ => rfl

theorem keeps_writeRecs (slot ns : Nat) : Keeps d (d.writeRecs slot ns) :=
  keeps_each _ _ (fun d _ => keeps_incident d _ _ _ _ _ _) d

theorem part_tellHold (slot reason : Nat) : part (d.tellHold slot reason) = part d := by
  unfold Dev.tellHold
  split_ifs <;> rfl

/-- What holding a room runs through before it marks the room held (R33). -/
theorem keeps_beforeHold (slot reason : Nat) : ∃ D, Keeps d D ∧
    d.hold slot reason = D.modRoom slot (fun r => { r with phase := .held, reason := reason, rb := none }) := by
  refine ⟨_, ?_, rfl⟩
  have hrestore (d : Dev) (c : Prop) [Decidable c] : Keeps d (if c then d.restore slot else d) := by
    split
    · exact keeps_restore d slot
    · exact keeps_of_part rfl
  exact (keeps_of_part (part_tellHold d slot reason)).trans ((hrestore _ _).trans ((keeps_writeRecs _ slot 0).trans
    (keeps_of_part (part_stopCores _ slot))))

theorem kept_hold (slot reason : Nat) : kept (d.hold slot reason) = (kept d).mapRooms [slot] (Standing.heldFor reason) := by
  obtain ⟨D, hD, hhold⟩ := keeps_beforeHold d slot reason
  rw [hhold, kept_modRoom D slot _ (Standing.heldFor reason) fun _ => rfl, hD.kept]

theorem pends_hold (slot reason s : Nat) (h : pends d s) : pends (d.hold slot reason) s := by
  obtain ⟨D, hD, hhold⟩ := keeps_beforeHold d slot reason
  rw [hhold]
  exact hD.pends s h

theorem kept_eachHold (rooms : List Nat) (reason : Nat) :
    kept (each rooms (fun d s => d.hold s reason) d) = (kept d).mapRooms rooms (Standing.heldFor reason) :=
  kept_each d (fun _ => by rfl) _ (fun d k => kept_hold d k reason) rooms

theorem kept_eachDegrade (rooms : List Nat) : kept (each rooms (fun d s => d.degrade s) d) = (kept d).mapRooms rooms Standing.marked :=
  kept_each d (fun _ => by rfl) _ kept_degrade rooms

theorem pends_each {α : Type} {s : Nat} (l : List α) (f : Dev → α → Dev) (hf : ∀ d a, pends d s → pends (f d a) s) (d : Dev)
    (h : pends d s) : pends (each l f d) s := by
  induction l generalizing d with
  | nil => exact h
  | cons a t ih => exact ih (f d a) (hf d a h)

theorem pends_eachHold {s : Nat} (rooms : List Nat) (reason : Nat) (h : pends d s) :
    pends (each rooms (fun d k => d.hold k reason) d) s := pends_each _ _ (fun d k h => pends_hold d k reason s h) d h

theorem pends_eachDegrade {s : Nat} (rooms : List Nat) (h : pends d s) : pends (each rooms (fun d k => d.degrade k) d) s :=
  pends_each _ _ (fun _ _ h => by exact h) d h

end Sys2Proof.Proofs.Contained
end

section
/-!
CERTIFICATE. The result of a quick test, the substitution of a core, and the resume of a rollback.
-/
namespace Sys2Proof.Proofs.QuickTests
open Sys2Proof Sys2Proof.Machine Sys2Proof.Safety Sys2Proof.Laws Sys2Proof.Proofs.Contained

/-! ### What two devices that keep the same part agree on -/

section
variable {d D : Dev} (h : kept D = kept d)
include h

theorem physSlot_congr (core : Nat) : D.physSlot core = d.physSlot core :=
  congrArg (fun K : Kept => (K.cluster (core / 4)).slotMap.getD (core % 4) 7) h

theorem spare_congr (c : Nat) : (D.cluster c).spare = (d.cluster c).spare := congrArg (fun K : Kept => (K.cluster c).spare) h

theorem standing_congr (slot : Nat) : standing (D.room slot) = standing (d.room slot) := congrArg (fun K : Kept => K.room slot) h

end

theorem sysCore_congr {d D : Dev} (h : D.straps = d.straps) (core : Nat) : D.sysCore core = d.sysCore core := by
  rw [Dev.sysCore, Dev.pkg, h, ← Dev.pkg, ← Dev.sysCore]

section
variable (d : Dev) (slot core : Nat)

theorem part_countLocated (c p : Nat) : part (d.countLocated c p) = part d := part_modCluster d fun _ => by rfl

theorem part_withBist (b : Bist) : part { d with bist := b } = part d := rfl

theorem part_ledgerFail (u : Nat) : part (d.ledgerFail u) = part d := part_withBist d _

/-! ### A substitution (R362) -/

/-- The spare takes the core's place in the slot map, and the cluster has no spare. -/
def substituted (i : Nat) (x : Units) : Units := { x with slotMap := setAt x.slotMap i x.spare, spare := 7 }

/-- The room counts the substitution, and its rollback the cluster. -/
def countsSubst (c : Nat) (v : Standing) : Standing :=
  { v with subst := satInc 255 v.subst, rb := v.rb.map (fun b => { b with subst := insertAsc b.subst c }) }

theorem kept_modCluster (c : Nat) (f : Cluster → Cluster) :
    kept (d.modCluster c f) = { kept d with cluster := Function.update (kept d).cluster c (units (f (d.cluster c))) } :=
  kept_setCluster d c _

theorem kept_substitute : kept (d.substitute slot core) =
    { (kept d).mapRooms [slot] (countsSubst (core / 4)) with
      cluster := Function.update (kept d).cluster (core / 4) (substituted (core % 4) ((kept d).cluster (core / 4))) } := by
  unfold Dev.substitute
  extract_lets c p d1 d2 inLocked d3 d4
  have h1 : part d1 = part d := part_each d _ _ fun _ _ => by split <;> simp
  have h4 : part d4 = part d2 := by
    refine (part_each _ _ _ fun _ _ => ?_).trans ((part_setCore _ _ _).trans (part_ledgerFail d2 _))
    simp
  have h2 : kept d2 = { kept d with cluster := Function.update (kept d).cluster c (substituted (core % 4) ((kept d).cluster c)) } := by
    rw [← kept_of_part h1]
    exact kept_modCluster d1 c _
  rw [kept_raise, kept_modRoom d4 slot _ (countsSubst c) fun _ => by rfl, kept_of_part h4, h2]
  rfl

theorem pends_substitute : 802 ∈ (d.substitute slot core).irqPend := (mem_insertAsc _ _ _).2 (.inl rfl)

theorem getD_setAt {α : Type} (l : List α) (i : Nat) (x y : α) (h : i < l.length) : (setAt l i x).getD i y = x := by
  induction l generalizing i with
  | nil => simp at h
  | cons a t ih =>
    cases i with
    | zero => rfl
    | succ n => exact ih n (by simpa using h)

/-- The core that is substituted is the spare. -/
theorem physSlot_substitute (h : (d.cluster (core / 4)).slotMap.length = 4) :
    (d.substitute slot core).physSlot core = (d.cluster (core / 4)).spare ∧ ((d.substitute slot core).cluster (core / 4)).spare = 7 := by
  have hunits : units ((d.substitute slot core).cluster (core / 4)) = substituted (core % 4) (units (d.cluster (core / 4))) :=
    (congrFun (congrArg Kept.cluster (kept_substitute d slot core)) (core / 4)).trans (Function.update_self ..)
  constructor
  · have hmap := congrArg Units.slotMap hunits
    change ((d.substitute slot core).cluster (core / 4)).slotMap = _ at hmap
    rw [Dev.physSlot, hmap]
    exact getD_setAt _ _ _ _ (by simp only [units, h]; omega)
  · exact congrArg Units.spare hunits

theorem standing_substitute : standing ((d.substitute slot core).room slot) = countsSubst (core / 4) (standing (d.room slot)) :=
  (congrFun (congrArg Kept.room (kept_substitute d slot core)) slot).trans (if_pos (List.mem_singleton_self slot))

/-! ### The outcome of a test (Table 16.4) -/

/-- A room's rollback holds the outcome in place of what it held of a core. -/
def withOutcome (sys : Nat) (new : List RbRec) (v : Standing) : Standing :=
  { v with rb := v.rb.map (fun b => { b with recs := b.recs.filter (fun x => !x.ofCore sys) ++ new }) }

theorem kept_rbOutcome (new : List RbRec) : kept (d.rbOutcome slot core new) = (kept d).mapRooms [slot] (withOutcome (d.sysCore core) new) :=
  kept_modRoom d slot _ _ fun _ => rfl

theorem standing_rbOutcome (new : List RbRec) :
    standing ((d.rbOutcome slot core new).room slot) = withOutcome (d.sysCore core) new (standing (d.room slot)) :=
  (congrFun (congrArg Kept.room (kept_rbOutcome d slot core new)) slot).trans (if_pos (List.mem_singleton_self slot))

/-- Without a spare the room is held with REASON 2 and an incident of kind 0x04. -/
theorem noSpare_law (c : Nat) (ps : List Nat) (loc detail : Nat) :
    let X := d.noSpare slot c ps loc detail
    standing (X.room slot) = (standing (d.room slot)).heldFor 2 ∧ (X.cluster c).spare = 7 ∧ 801 ∈ X.irqPend := by
  unfold Dev.noSpare
  extract_lets d1 d2
  have h2 : kept d2 = kept d1 := congrArg Prod.fst (part_each d1 _ _ fun d p => part_ledgerFail d (8 * c + p))
  have h3 := (keeps_incident d2 0x04 loc 0 detail [slot] 0).kept
  have hX := kept_hold (d2.incident 0x04 loc 0 detail [slot] 0) slot 2
  rw [h3, h2] at hX
  refine ⟨?_, ?_, ?_⟩
  · refine ((congrFun (congrArg Kept.room hX) slot).trans (if_pos (List.mem_singleton_self slot))).trans ?_
    rw [kept_modCluster]
    rfl
  · have hunits := congrFun (congrArg Kept.cluster hX) c
    rw [kept_modCluster] at hunits
    exact congrArg Units.spare (hunits.trans (Function.update_self ..))
  · exact (pends_hold _ slot 2 801 ((pends_incident d2 0x04 loc 0 detail [slot] 0).2 rfl)).2

/-- The record of a core's test, not a pair's (Table 16.7b). -/
def testRecord (kind det addr after : Nat) (own spare : TestResult) : RbRec :=
  { kind := kind
    loc := d.sysCore core
    addr := addr
    detail := detailOf [det, d.physSlot core, after, testCode own, testCode spare, 0xFF] }

/-- The core failed, and the spare passed its own test. -/
theorem testOutcome_substitutes (det addr : Nat) (pair : TestResult) (h : (d.cluster (core / 4)).spare ≠ 7) :
    d.testOutcome slot core det addr false .failed pair .passed =
      (d.substitute slot core).rbOutcome slot core [testRecord d core 0x03 det addr (d.cluster (core / 4)).spare .failed .passed] := by
  simp [Dev.testOutcome, h, testRecord]

/-- The core failed, and no spare passed. -/
theorem testOutcome_noSpare (det addr : Nat) (pair : TestResult) {spare : TestResult} (h : spare ≠ .passed) :
    d.testOutcome slot core det addr false .failed pair spare =
      (d.rbOutcome slot core []).noSpare slot (core / 4)
        (d.physSlot core :: if spare == .failed && (d.cluster (core / 4)).spare != 7 then [(d.cluster (core / 4)).spare] else [])
        (d.sysCore core) (testRecord d core 0x04 det addr 0xFF .failed spare).detail := by
  simp [Dev.testOutcome, h, testRecord]

/-- The core passed, and too few of its errors have been located to count as a failure (R360). -/
theorem testOutcome_passes (det addr : Nat) (pair : TestResult) {spare : TestResult}
    (h : d.located (core / 4) (d.physSlot core) < d.ras.subLimit) :
    d.testOutcome slot core det addr false .passed pair spare =
      d.rbOutcome slot core [testRecord d core 0x02 det addr 0xFF .passed spare] := by
  simp [Dev.testOutcome, h, testRecord]

/-! ### The result of a test -/

/-- A rolling room waits for the test of a core, of which its rollback holds a record. -/
structure AwaitsTest (core slot : Nat) (b : Rollback) (r : RbRec) : Prop where
  seat : d.coreSlot core = some slot
  rolling : (d.room slot).phase = .rolling
  rb : (d.room slot).rb = some b
  testing : core ∈ b.testing
  record : b.recs.find? (RbRec.ofCore (d.sysCore core)) = some r
  located : r.kind = 2
  runs : d.clk.stopped = false

/-- The wait for a core's test is over. -/
def waitEnded : Dev :=
  d.modRoom slot (fun r => { r with rb := r.rb.map (fun b => { b with testing := b.testing.filter (· != core) }) })

/-- The core that failed, and the spare, count an error each (R360). -/
def testCounted (own spare : TestResult) : Dev :=
  each ((if own = .failed then [(waitEnded d slot core).physSlot core] else []) ++
    (if spare = .failed ∧ (d.cluster (core / 4)).spare ≠ 7 then [(d.cluster (core / 4)).spare] else []))
    (fun d p => d.countLocated (core / 4) p) (waitEnded d slot core)

end

section
variable {d : Dev} {core slot : Nat} {b : Rollback} {r : RbRec} {own spare : TestResult}

theorem quickTested_eq (h : AwaitsTest d core slot b r) : d.quickTested core own .notRun spare =
    ((testCounted d slot core own spare).testOutcome slot core (r.detail % 256) r.addr false own .notRun spare).heldTested slot := by
  obtain ⟨hseat, hrolling, hrb, htesting, hrecord, hlocated, hruns⟩ := h
  simp [Dev.quickTested, hseat, hrb, htesting, hrecord, hlocated, hruns, testCounted, waitEnded]
  rfl

end

section
variable (d : Dev) (slot core : Nat) (own spare : TestResult)

theorem kept_testCounted : kept (testCounted d slot core own spare) = kept (waitEnded d slot core) :=
  kept_of_part (part_each _ _ _ fun d p => part_countLocated d _ p)

theorem cluster_kept_testCounted (c : Nat) : units ((testCounted d slot core own spare).cluster c) = units (d.cluster c) :=
  congrFun (congrArg Kept.cluster (kept_testCounted d slot core own spare)) c

theorem physSlot_testCounted : (testCounted d slot core own spare).physSlot core = d.physSlot core :=
  physSlot_congr (kept_testCounted d slot core own spare) core

theorem spare_testCounted (c : Nat) : ((testCounted d slot core own spare).cluster c).spare = (d.cluster c).spare :=
  spare_congr (kept_testCounted d slot core own spare) c

theorem sysCore_testCounted : (testCounted d slot core own spare).sysCore core = d.sysCore core :=
  sysCore_congr (congrArg Kept.straps (kept_testCounted d slot core own spare)) core

theorem standing_testCounted : standing ((testCounted d slot core own spare).room slot) = { standing (d.room slot) with
    rb := (d.room slot).rb.map (fun b => { b with testing := b.testing.filter (· != core) }) } := by
  rw [standing_congr (kept_testCounted d slot core own spare), waitEnded, modRoom_eq, room_setRoom_same]
  rfl

end

theorem heldTested_of_not_held {d : Dev} {slot : Nat} (h : (d.room slot).phase ≠ .held) : d.heldTested slot = d := by
  unfold Dev.heldTested
  dsimp only
  split
  · rfl
  · simp [h]

theorem heldTested_of_none {d : Dev} {slot : Nat} (h : (d.room slot).rb = none) : d.heldTested slot = d := by
  simp [Dev.heldTested, h]

section
variable {d : Dev} {core slot : Nat} {b : Rollback} {r : RbRec} (h : AwaitsTest d core slot b r)
include h

/-- R362: the spare that passed takes the place of the core that failed, and source 802 pends. -/
theorem quickTested_substitutes (hsp : (d.cluster (core / 4)).spare ≠ 7) (hmap : (d.cluster (core / 4)).slotMap.length = 4) :
    let X := d.quickTested core .failed .notRun .passed
    X.physSlot core = (d.cluster (core / 4)).spare ∧ (X.cluster (core / 4)).spare = 7 ∧ 802 ∈ X.irqPend ∧
      (X.room slot).subst = satInc 255 (d.room slot).subst ∧
      (X.room slot).rb = some { b with
        testing := b.testing.filter (· != core)
        recs := b.recs.filter (fun x => !x.ofCore (d.sysCore core)) ++
          [testRecord d core 0x03 (r.detail % 256) r.addr (d.cluster (core / 4)).spare .failed .passed]
        subst := insertAsc b.subst (core / 4) } := by
  have hspare := spare_testCounted d slot core .failed .passed (core / 4)
  have hD := standing_testCounted d slot core .failed .passed
  have hlength := congrArg (fun u : Units => u.slotMap.length) (cluster_kept_testCounted d slot core .failed .passed (core / 4))
  have hsys := sysCore_testCounted d slot core .failed .passed
  have hphys := physSlot_testCounted d slot core .failed .passed
  rw [quickTested_eq h]
  generalize testCounted d slot core .failed .passed = D at *
  rw [testOutcome_substitutes D slot core _ _ _ (hspare.trans_ne hsp)]
  obtain ⟨hslot, hnone⟩ := physSlot_substitute D slot core (hlength.trans hmap)
  have hX := (standing_rbOutcome (D.substitute slot core) slot core
    [testRecord D core 3 (r.detail % 256) r.addr (D.cluster (core / 4)).spare .failed .passed]).trans
    (congrArg _ ((standing_substitute D slot core).trans (congrArg _ hD)))
  rw [sysCore_congr (congrArg Kept.straps (kept_substitute D slot core)) core] at hX
  have hrecord : testRecord D core = testRecord d core := by
    funext
    simp only [testRecord, hphys, hsys]
  rw [hsys, hrecord, hspare, h.rb] at hX
  rw [hrecord, hspare]
  generalize hY : (D.substitute slot core).rbOutcome slot core _ = Y at hX
  have hphase : (Y.room slot).phase = .rolling := (congrArg Standing.phase hX).trans h.rolling
  rw [heldTested_of_not_held (by simp [hphase])]
  subst hY
  exact ⟨hslot.trans hspare, hnone, pends_substitute D slot core, congrArg Standing.subst hX, congrArg Standing.rb hX⟩

/-- R362: without a spare that passed, the room is held with REASON 2, and the cluster has none. -/
theorem quickTested_noSpare {spare : TestResult} (hspare : spare ≠ .passed) :
    let X := d.quickTested core .failed .notRun spare
    (X.room slot).phase = .held ∧ (X.room slot).reason = 2 ∧ (X.cluster (core / 4)).spare = 7 ∧ 801 ∈ X.irqPend := by
  rw [quickTested_eq h, testOutcome_noSpare _ slot core _ _ _ hspare]
  obtain ⟨hroom, hnone, hpend⟩ := noSpare_law ((testCounted d slot core .failed spare).rbOutcome slot core []) slot (core / 4) _ _ _
  rw [heldTested_of_none (congrArg Standing.rb hroom)]
  exact ⟨congrArg Standing.phase hroom, congrArg Standing.reason hroom, hnone, hpend⟩

/-- R363: a core that passed keeps its place, and the rollback its record. -/
theorem quickTested_passes {spare : TestResult} (hspare : spare ≠ .failed)
    (hlimit : d.located (core / 4) (d.physSlot core) < d.ras.subLimit) :
    ((d.quickTested core .passed .notRun spare).room slot).rb = some { b with
      testing := b.testing.filter (· != core)
      recs := b.recs.filter (fun x => !x.ofCore (d.sysCore core)) ++
        [testRecord d core 0x02 (r.detail % 256) r.addr 0xFF .passed spare] } := by
  have hcounted : testCounted d slot core .passed spare = waitEnded d slot core := by simp [testCounted, hspare, each]
  have hX := standing_rbOutcome (waitEnded d slot core) slot core
    [testRecord (waitEnded d slot core) core 0x02 (r.detail % 256) r.addr 0xFF .passed spare]
  rw [← hcounted, standing_testCounted, hcounted, h.rb] at hX
  rw [quickTested_eq h, hcounted, testOutcome_passes (waitEnded d slot core) slot core _ _ _ hlimit]
  generalize (waitEnded d slot core).rbOutcome slot core _ = Y at hX
  have hphase : (Y.room slot).phase = .rolling := (congrArg Standing.phase hX).trans h.rolling
  rw [heldTested_of_not_held (by simp [hphase])]
  exact congrArg Standing.rb hX

end

/-! ### The resume (R357 step 6) -/

theorem resumeRoom_waits {d : Dev} {slot : Nat} {b : Rollback} (hrb : (d.room slot).rb = some b)
    (h : b.testing ≠ [] ∨ d.clk.tb % 5000 ≠ 0 ∨ d.clk.stopped = true ∨ (d.room slot).pwr.susp = true) : d.resumeRoom slot = d := by
  unfold Dev.resumeRoom
  rcases h with htest | htime | hstop | hsusp
  · simp [Dev.resumeNow, hrb, htest]
  · simp [htime]
  · simp [hstop]
  · simp [hsusp]

theorem afterRollback_of_nothing {d : Dev} {slot : Nat} {b : Rollback} (hreset : b.thenReset = none) (hcore : b.thenCore = none)
    (hhalt : b.thenHalt = []) : d.afterRollback slot b = d := by
  simp [Dev.afterRollback, hreset, hcore, hhalt, each]

theorem resumeRoom_resumes {d : Dev} {slot : Nat} {b : Rollback} (hrb : (d.room slot).rb = some b) (htest : b.testing = [])
    (hrolling : (d.room slot).phase = .rolling) (hreset : b.thenReset = none) (hcore : b.thenCore = none) (hhalt : b.thenHalt = [])
    (htime : d.clk.tb % 5000 = 0) (hruns : d.clk.stopped = false) (hsusp : (d.room slot).pwr.susp = false) :
    d.resumeRoom slot = each b.recs (fun D x => D.incident x.kind x.loc x.addr x.detail [slot] (d.clk.tb - b.started))
      ((d.resumeFrom slot b.back ((d.room slot).epo.cnt + 1)).modRoom slot (fun r =>
        { r with epo := { r.epo with substAt := if b.subst = [] then none else some ((d.room slot).epo.cnt + 1) } })) := by
  cases hsubst : b.subst <;>
    simp [Dev.resumeRoom, Dev.resumeNow, hrb, htest, hrolling, htime, hruns, hsusp, afterRollback_of_nothing hreset hcore hhalt, hsubst]

/-! ### The statement -/

theorem satInc_255 (x : Nat) : satInc 255 x = min 255 (x + 1) := by
  unfold satInc
  split_ifs <;> omega

/-- Settles O30: the three outcomes of a core's quick test, then the resume. -/
theorem quickTestsAndResumeComplete : Obligations.QuickTestsAndResumeComplete := by
  unfold Obligations.QuickTestsAndResumeComplete
  refine ⟨?_, ?_, ?_⟩
  · intro s core slot own spare b r hseat hrolling hrb htesting hrecord hkind _ hruns c p sp code others written still
    have h : AwaitsTest s.dev core slot b r := ⟨hseat, hrolling, hrb, htesting, hrecord, hkind, hruns⟩
    have hrow (own : TestResult) : Answers (exec (.quickTestComplete core own .notRun spare) s) s (s.dev.quickTested core own .notRun spare) :=
      onDev_answers (fun d => d.quickTested core own .notRun spare) s
    refine ⟨?_, ?_, ?_⟩
    · rintro rfl rfl hsp hmap
      obtain ⟨hplace, hnone, hpend, hsubst, hrecs⟩ := quickTested_substitutes h hsp hmap
      exact ⟨_, hrow .failed, hplace, hnone, hpend, hsubst.trans (satInc_255 _), hrecs⟩
    · rintro rfl hspare
      exact ⟨_, hrow .failed, quickTested_noSpare h hspare⟩
    · rintro rfl hspare hlimit
      refine ⟨_, hrow .passed, (quickTested_passes h hspare hlimit).trans ?_⟩
      cases spare <;> rfl
  · intro s slot b r hrb htest hrolling hreset hcore hhalt htime hruns hsusp
    have hrow := onDev_answers (fun d => d.resumeRoom slot) s
    rwa [resumeRoom_resumes hrb htest hrolling hreset hcore hhalt htime hruns hsusp] at hrow
  · intro s slot b hrb hwaits
    have hrow := onDev_answers (fun d => d.resumeRoom slot) s
    rwa [resumeRoom_waits hrb hwaits] at hrow

end Sys2Proof.Proofs.QuickTests
end

section
/-!
SUPPORT. What an incident record holds, and where the log stands after it (R372, R529).
-/
namespace Sys2Proof.Proofs.Incidents
open Sys2Proof Sys2Proof.Machine Sys2Proof.Laws Sys2Proof.Proofs.Contained

/-- The record that an event of a class writes. -/
def recordOf (d : Dev) (cls kind loc addr detail : Nat) (rooms : List Nat) (ns : Nat) : Incident :=
  { time := d.clk.tb
    seq := (d.inc.seq + 1) % 2 ^ 32
    cls := cls
    kind := kind
    pkg := d.pkg
    fromJournal := false
    rooms := BitVec.ofNat 64 (orAll (rooms.map (2 ^ ·)))
    loc := loc
    buildTag := d.plan.buildTag
    epoch := (rooms.head?.map (fun s => (d.room s).epo.cnt)).getD 0
    addr := addr
    detail := BitVec.ofNat 64 detail
    name := ((rooms.head?.bind d.rrec).map RoomRec.name).getD 0
    rbkNs := ns }

/-- The log with a record in its ring, which is the last one written. -/
def logged (l : IncLog) (r : Incident) : IncLog := { l.push r with seq := r.seq, last := r.seq }

theorem inc_incidentAs (d : Dev) (cls kind loc addr detail : Nat) (rooms : List Nat) (ns : Nat) :
    let r := recordOf d cls kind loc addr detail rooms ns
    (d.incidentAs cls kind loc addr detail rooms ns).inc =
      if cls == 2 || kind == 0x03 || kind == 0x07 then (logged d.inc r).journalize r else logged d.inc r := by
  unfold Dev.incidentAs
  dsimp only
  split_ifs <;> rfl

/-- The journal is no part of the ring, and holds 256 records at most once it does. -/
theorem journalize_law (l : IncLog) (r : Incident) :
    l.journalize r = { l with journal := (l.journalize r).journal, expJnl := false, jnlLost := (l.journalize r).jnlLost } ∧
      (l.journalize r).journal.length ≤ max 256 l.journal.length := by
  unfold IncLog.journalize
  split_ifs with h
  · exact ⟨rfl, by simp; omega⟩
  · exact ⟨rfl, by simp; omega⟩

theorem at_logged (l : IncLog) (r : Incident) : (logged l r).at_ l.wr = r :=
  congrArg Prod.fst (Sparse_get_insert_same (Incident.zero, false) l.ring l.wr (r, false))

/-- Where the log stands once a record is in its ring. -/
structure Takes (l l' : IncLog) (r : Incident) : Prop where
  record : l'.at_ l.wr = r
  seq : l'.seq = r.seq
  last : l'.last = r.seq
  wr : l'.wr = (l.wr + 1) % 8192
  overrun : (l.wr + 8192 - l.rd) % 8192 = 8191 → l'.rd = (l.rd + 1) % 8192 ∧ l'.lost = min (2 ^ 32 - 1) (l.lost + 1)
  room : (l.wr + 8192 - l.rd) % 8192 ≠ 8191 → l'.rd = l.rd ∧ l'.lost = l.lost
  journal : l'.journal.length ≤ max 256 l.journal.length

theorem takes_logged (l : IncLog) (r : Incident) : Takes l (logged l r) r where
  record := at_logged l r
  seq := rfl
  last := rfl
  wr := rfl
  overrun h := by simp [logged, IncLog.push, h, Forwarded.satInc_max32]
  room h := by simp [logged, IncLog.push, h]
  journal := Nat.le_max_right ..

theorem Takes.journalize {l l' : IncLog} {r : Incident} (h : Takes l l' r) (hj : l'.journal.length = l.journal.length) :
    Takes l (l'.journalize r) r := by
  obtain ⟨hrest, hlength⟩ := journalize_law l' r
  rw [hj] at hlength
  generalize l'.journalize r = L at *
  rw [hrest]
  exact ⟨h.record, h.seq, h.last, h.wr, h.overrun, h.room, hlength⟩

/-- R372: every event's record enters the ring, and a journaled one the journal too. -/
theorem takes_incidentAs (d : Dev) (cls kind loc addr detail : Nat) (rooms : List Nat) (ns : Nat) :
    Takes d.inc (d.incidentAs cls kind loc addr detail rooms ns).inc (recordOf d cls kind loc addr detail rooms ns) := by
  rw [inc_incidentAs]
  split
  · exact (takes_logged _ _).journalize rfl
  · exact takes_logged _ _

end Sys2Proof.Proofs.Incidents
end

section
/-!
SUPPORT. The retirement of a cache way (R267, R268): its lines leave, and no byte of memory changes but where a room is held.
-/
namespace Sys2Proof.Proofs.WayRetirement
open Sys2Proof Sys2Proof.Machine Sys2Proof.Safety Sys2Proof.Laws Sys2Proof.Proofs.Contained

/-- The mask of ways with one more retired. -/
theorem getLsbD_retired (m : BitVec 16) {way : Nat} (h : way < 16) (v : Nat) :
    (m ||| BitVec.ofNat 16 (2 ^ way)).getLsbD v = (m.getLsbD v || decide (v = way)) := by
  have hbit : (BitVec.ofNat 16 (2 ^ way)).getLsbD v = decide (v = way) := by
    rw [BitVec.getLsbD_ofNat, Nat.testBit_two_pow]
    by_cases hv : v = way
    · simp [hv, h]
    · simp [hv, Ne.symm hv]
  rw [BitVec.getLsbD_or, hbit]

/-- Where the rooms sit, and what the caches and memory hold. -/
structure Still where
  plan : Plan
  straps : Straps
  idOf : Nat → Nat
  clusters : List (Nat × Cluster)
  regions : List (Nat × Region)
  mem : Memory

def still (d : Dev) : Still := ⟨d.plan, d.straps, d.idOf, d.clusters, d.regions, d.mem⟩

theorem still_incident (d : Dev) (kind loc addr detail : Nat) (rooms : List Nat) (ns : Nat) :
    still (d.incident kind loc addr detail rooms ns) = still d :=
  (congrArg still (incidentAs_frame d (incClass kind) kind loc addr detail rooms ns).1).trans rfl

theorem still_degrade (d : Dev) (s : Nat) : still (d.degrade s) = still d := by
  have hid : (d.degrade s).idOf = d.idOf := by
    funext k
    simp only [Dev.idOf, Dev.degrade, modRoom_eq, room_setRoom]
    split_ifs with hk
    · rw [hk]
    · rfl
  exact congrArg (fun f => { still d with idOf := f }) hid

theorem still_eachDegrade (d : Dev) (rooms : List Nat) : still (each rooms (fun d s => d.degrade s) d) = still d :=
  Loops.each_keeps still _ _ still_degrade d

/-! ### A way of an L3 -/

/-- The way is empty and marked. -/
def l3WayOut (d : Dev) (unit way : Nat) : Dev :=
  (d.emptyL3 unit way).modRegion unit (fun g => { g with l3Retired := g.l3Retired ||| BitVec.ofNat 16 (2 ^ way) })

/-- A way is retired that was not yet, for an error that was not corrected or at the limit of those that were. -/
theorem retires_of_cause {cause count limit : Nat} (h : cause ≠ 1 ∨ limit ≤ count) : (!(cause != 1) && decide (count < limit)) = false := by
  rcases h with hne | hle
  · simp [hne]
  · simp [hle]

/-- Its rooms are recorded and degraded. -/
theorem retireWay_l3_eq {d : Dev} {unit way cause : Nat} (hunit : unit < 8) (hway : way < 16)
    (hretired : (d.region unit).l3Retired.getLsbD way = false)
    (hcause : cause ≠ 1 ∨ (d.region unit).l3CeLimit ≤ Sparse.get 0 (d.region unit).l3Ce way) :
    ∃ rooms loc detail, d.retireWay .l3 unit way cause =
      each rooms (fun d s => d.degrade s) ((l3WayOut d unit way).incident 0x05 loc 0 detail rooms 0) := by
  simp only [Dev.retireWay]
  rw [if_neg (by simp only [hretired, retires_of_cause hcause]; simp [hway, hunit])]
  exact ⟨_, _, _, rfl⟩

theorem regions_eachWriteBack (d : Dev) (L : List L3Line) : (each L (fun d e => d.writeBack e.line) d).regions = d.regions :=
  Loops.each_keeps Dev.regions _ _ (fun _ _ => by rfl) d

theorem mem_eachWriteBack (d : Dev) (L : List L3Line) : (each L (fun d e => d.writeBack e.line) d).mem = d.mem :=
  Loops.each_keeps Dev.mem _ _ (fun _ _ => by rfl) d

theorem region_l3WayOut (d : Dev) (unit way : Nat) : (l3WayOut d unit way).region unit = { d.region unit with
    l3 := (d.region unit).l3.filter (fun e => e.way != way)
    l3Retired := (d.region unit).l3Retired ||| BitVec.ofNat 16 (2 ^ way) } := by
  have hregion (L : List L3Line) : (each L (fun d e => d.writeBack e.line) d).region unit = d.region unit :=
    congrArg (fun m => Sparse.get Region.init m unit) (regions_eachWriteBack d L)
  simp only [l3WayOut, Dev.emptyL3, modRegion_eq, region_setRegion_same, hregion]

theorem mem_l3WayOut (d : Dev) (unit way : Nat) : (l3WayOut d unit way).mem = d.mem := by
  simp only [l3WayOut, Dev.emptyL3, modRegion_eq, mem_setRegion, mem_eachWriteBack]

/-- R267: a way of an L3 is retired, empty, and recorded; what it held dirty is in the channel, and memory is as it was. -/
theorem retireWay_l3 {d : Dev} {unit way cause : Nat} (hunit : unit < 8) (hway : way < 16)
    (hretired : (d.region unit).l3Retired.getLsbD way = false)
    (hcause : cause ≠ 1 ∨ (d.region unit).l3CeLimit ≤ Sparse.get 0 (d.region unit).l3Ce way) :
    let X := d.retireWay .l3 unit way cause
    (X.region unit).l3Retired.getLsbD way = true ∧ (∀ e ∈ (X.region unit).l3, e.way ≠ way) ∧ X.mem = d.mem ∧ 800 ∈ X.irqPend := by
  intro X
  obtain ⟨rooms, loc, detail, hX : X = _⟩ := retireWay_l3_eq hunit hway hretired hcause
  have hpend : 800 ∈ X.irqPend := by
    rw [hX]
    exact (pends_eachDegrade _ rooms (pends_incident _ 0x05 loc 0 detail rooms 0).1).2
  have hstill : still X = still (l3WayOut d unit way) :=
    (congrArg still hX).trans ((still_eachDegrade _ rooms).trans (still_incident _ 0x05 loc 0 detail rooms 0))
  have hregion : X.region unit = (l3WayOut d unit way).region unit := congrArg (fun x : Still => Sparse.get Region.init x.regions unit) hstill
  have hmem : X.mem = (l3WayOut d unit way).mem := congrArg Still.mem hstill
  rw [hregion, hmem, mem_l3WayOut, region_l3WayOut]
  refine ⟨?_, fun e he => by simpa using (List.mem_filter.1 he).2, rfl, hpend⟩
  exact (getLsbD_retired _ hway way).trans (by simp)

/-! ### The lines of an L2 way -/

theorem clusters_wake {d : Dev} (n : Nat) (h : AllOn d) : (d.wake (64 + n)).clusters = d.clusters := by
  have hwake : d.wake (64 + n) = each (domainGroup (64 + n)) (fun d k => d.modDomain k (fun x => { x with since := d.clk.tb })) d := by
    simp only [Dev.wake, Dev.wakeOne, settledOn_of h (Nat.le_add_right 64 n), if_true]
  rw [hwake]
  exact Loops.each_keeps Dev.clusters _ _ (fun _ _ => by rfl) d

theorem clusters_chanPost (d : Dev) (line requester room : Nat) : (d.chanPost line requester room).clusters = d.clusters := by
  unfold Dev.chanPost
  split <;> rfl

theorem clusters_chanWrite (d : Dev) (line requester room : Nat) : (d.chanWrite line requester room).clusters = d.clusters :=
  Loops.each_keeps Dev.clusters _ _ (fun d n => clusters_chanPost d n requester room) d

theorem clusters_writeOut (d : Dev) (line room : Nat) : (d.writeOut line room).clusters = d.clusters :=
  clusters_chanWrite (d.writeBack line) line 128 room

theorem clusters_l3Fill (d : Dev) (r line id : Nat) : (d.l3Fill r line id).clusters = d.clusters := by
  have hwrites (L : List L3Line) : (each L (fun d e => d.writeOut e.line e.room) d).clusters = d.clusters :=
    Loops.each_keeps Dev.clusters L _ (fun d e => clusters_writeOut d e.line e.room) d
  unfold Dev.l3Fill
  dsimp only
  split
  · split_ifs <;> rfl
  · split
    · rfl
    · rw [modRegion_eq, clusters_setRegion]
      exact hwrites _

theorem clusters_homeWrite (d : Dev) (line id : Nat) : (d.homeWrite line id).clusters = d.clusters := by
  unfold Dev.homeWrite
  split
  · exact clusters_l3Fill d _ line id
  · rfl

theorem clusters_sendTo (d : Dev) (pkg : Nat) (m : CohMsg) : (d.sendTo pkg m).clusters = d.clusters := by
  unfold Dev.sendTo
  dsimp only
  split_ifs <;> rfl

/-- What leaves a cluster for its home takes no line out of any L2. -/
theorem l2_homeSend {d : Dev} (h : AllOn d) (c line id : Nat) (dirty : Bool) (k : Nat) :
    ((d.homeSend c line id dirty).cluster k).l2 = (d.cluster k).l2 := by
  unfold Dev.homeSend
  split
  next r _ =>
    split
    · exact congrArg (fun m => (Sparse.get Cluster.init m k).l2)
        ((clusters_chanWrite _ _ _ _).trans ((clusters_homeWrite _ _ _).trans (clusters_wake r h)))
    · rfl
  · unfold Dev.farLeave
    split
    · rfl
    · dsimp only
      split_ifs
      · rfl
      · refine (congrArg (fun m => (Sparse.get Cluster.init m k).l2) (clusters_sendTo _ _ _)).trans ?_
        change ((d.modCluster c _).cluster k).l2 = _
        rw [modCluster_eq, cluster_setCluster]
        split_ifs with hk
        · rw [hk]
        · rfl
      · rfl
      · exact congrArg (fun m => (Sparse.get Cluster.init m k).l2) (clusters_sendTo _ _ _)

theorem cluster_congr {d D : Dev} (h : D.clusters = d.clusters) (c : Nat) : D.cluster c = d.cluster c :=
  congrArg (fun m => Sparse.get Cluster.init m c) h

/-- An evicted line is in its L2 no more, and no line comes. -/
theorem mem_l2_l2Evict {d : Dev} (h : AllOn d) {c line : Nat} {e : L2Line} (he : e ∈ ((d.l2Evict c line).cluster c).l2) :
    e ∈ (d.cluster c).l2 ∧ e.line ≠ line := by
  unfold Dev.l2Evict at he
  split at he
  next hfind => exact ⟨he, by simpa using List.find?_eq_none.1 hfind e he⟩
  next y hfind =>
    have hon := (quiet_l1DropAll c line h).bind (quiet_modL2 c (fun L => L.filter (fun y => y.line != line)))
    dsimp only at he
    rw [cluster_congr (ClusterMisses.clusters_dirRefresh _ line), l2_homeSend hon.on, modCluster_eq, cluster_setCluster_same,
      cluster_congr (ClusterMisses.clusters_l1DropAll d c line)] at he
    simpa using he

theorem mem_l2_evictEach {d : Dev} (h : AllOn d) {c : Nat} (L : List L2Line) {e : L2Line}
    (he : e ∈ ((each L (fun d y => d.l2Evict c y.line) d).cluster c).l2) : e ∈ (d.cluster c).l2 ∧ ∀ y ∈ L, e.line ≠ y.line := by
  induction L generalizing d with
  | nil => exact ⟨he, by simp⟩
  | cons a t ih =>
    obtain ⟨hmem, hrest⟩ := ih (quiet_l2Evict c a.line h).on he
    obtain ⟨hmem, hfirst⟩ := mem_l2_l2Evict h hmem
    exact ⟨hmem, List.forall_mem_cons.2 ⟨hfirst, hrest⟩⟩

/-- A flush leaves no line of those that it asks for. -/
theorem not_of_mem_flushL2 {d : Dev} (h : AllOn d) {c : Nat} {p : L2Line → Bool} {e : L2Line}
    (he : e ∈ ((d.flushL2 c p).cluster c).l2) : p e = false := by
  obtain ⟨hmem, hout⟩ := mem_l2_evictEach h _ he
  by_contra hp
  exact hout e (List.mem_filter.2 ⟨hmem, by simpa using hp⟩) rfl

/-! ### A way of an L2 -/

/-- The way is flushed and marked. -/
def l2WayOut (d : Dev) (unit way : Nat) : Dev :=
  (d.flushL2 unit (fun e => e.way == way)).modCluster unit (fun x => { x with l2Retired := x.l2Retired ||| BitVec.ofNat 16 (2 ^ way) })

/-- The slots of the rooms that own a way of an L2. -/
def wayRooms (d : Dev) (unit way : Nat) : List Nat :=
  (d.slotsOn unit).filter (fun s => (d.l2Ways unit (d.idOf s)).testBit way)

/-- LKFILL of a cluster's cores moves on from the way (R267). -/
def lockFillsMoved (d : Dev) (unit way : Nat) : Dev :=
  each (clusterCores unit) (fun d k =>
    let left := (bitsOf (d.l2Lock unit ((d.coreRoom k).getD 0)) 16).filter (fun w => !(d.cluster unit).l2Retired.getLsbD w)
    if (d.core k).lk.l2Way == way then d.modCore k (fun c => { c with lk := { c.lk with l2Way := left.headD 0 } }) else d) d

/-- A room of the way is degraded, and held where no way that it may fill is left. -/
def losesWay (unit way : Nat) (d : Dev) (s : Nat) : Dev :=
  let d := d.degrade s
  let id := d.idOf s
  let free := (bitsOf (d.l2Ways unit id) 16).filter (fun w => !(d.l2Lock unit id).testBit w && !(d.cluster unit).l2Retired.getLsbD w)
  if free.isEmpty && !(d.l2Lock unit id).testBit way then d.hold s 3 else d

/-- The rooms of a way are recorded, and its locks move on. -/
def recordedWay (d : Dev) (unit way loc detail : Nat) : Dev :=
  lockFillsMoved (d.incident 0x05 loc 0 detail (wayRooms d unit way) 0) unit way

theorem retireWay_l2_eq {d : Dev} {unit way cause : Nat} (hunit : unit < 32) (hway : way < 16)
    (hretired : (d.cluster unit).l2Retired.getLsbD way = false)
    (hcause : cause ≠ 1 ∨ (d.cluster unit).l2CeLimit ≤ Sparse.get 0 (d.cluster unit).l2Ce way) :
    d.retireWay .l2 unit way cause = each (wayRooms (l2WayOut d unit way) unit way) (losesWay unit way)
      (recordedWay (l2WayOut d unit way) unit way (way * 65536 + (l2WayOut d unit way).sysCluster unit)
        (detailOf [if cause == 2 then 0x0B else 5, cause])) := by
  simp only [Dev.retireWay]
  rw [if_neg (by simp only [hretired, retires_of_cause hcause]; simp [hway, hunit])]
  rfl

section
variable {d : Dev} (unit way : Nat)

theorem quiet_flushL2 (h : AllOn d) (p : L2Line → Bool) : Quiet d (d.flushL2 unit p) := quiet_evictEach unit _ h

theorem l2Retired_l2WayOut (v : Nat) (hway : way < 16) :
    ((l2WayOut d unit way).cluster unit).l2Retired.getLsbD v = ((d.cluster unit).l2Retired.getLsbD v || decide (v = way)) := by
  have hflush := congrArg (fun K : Kept => (K.cluster unit).l2Retired) (kept_of_part (part_flushL2 d unit (fun e => e.way == way)))
  change ((d.flushL2 unit _).cluster unit).l2Retired = (d.cluster unit).l2Retired at hflush
  rw [l2WayOut, modCluster_eq, cluster_setCluster_same, getLsbD_retired _ hway, hflush]

theorem wayRooms_l2WayOut (h : AllOn d) : wayRooms (l2WayOut d unit way) unit way = wayRooms d unit way := by
  have hquiet := quiet_flushL2 unit h (fun e => e.way == way)
  have hplan : (l2WayOut d unit way).plan = d.plan := hquiet.plan
  have hrooms : (l2WayOut d unit way).rooms = d.rooms := hquiet.rooms
  have hstraps : (l2WayOut d unit way).straps = d.straps := (congrArg Dev.straps hquiet.rest).trans rfl
  simp only [wayRooms, Dev.slotsOn, Dev.clustersOf, Dev.rrec, Dev.l2Ways, Dev.idOf, Dev.room, Dev.pkg, hplan, hrooms, hstraps]

end

/-- The record, and the locks that move on, leave where the rooms sit and what the caches and memory hold. -/
theorem still_recordedWay (d : Dev) (unit way loc detail : Nat) : still (recordedWay d unit way loc detail) = still d := by
  have hmoved (D : Dev) : still (lockFillsMoved D unit way) = still D :=
    Loops.each_keeps still _ _ (fun D k => by dsimp only; split <;> rfl) D
  exact (hmoved _).trans (still_incident d 0x05 loc 0 detail (wayRooms d unit way) 0)

/-! ### The rooms of an L2 way -/

/-- A room has a way of an L2 left that it may fill. -/
def HasFree (d : Dev) (unit way s : Nat) : Prop :=
  ∃ v, v < 16 ∧ v ≠ way ∧ (d.l2Ways unit (d.idOf s)).testBit v = true ∧ (d.l2Lock unit (d.idOf s)).testBit v = false ∧
    (d.cluster unit).l2Retired.getLsbD v = false

theorem hasFree_of_still {d D : Dev} {unit way s : Nat} (h : still D = still d) (hfree : HasFree d unit way s) : HasFree D unit way s := by
  have hplan : D.plan = d.plan := congrArg Still.plan h
  have hstraps : D.straps = d.straps := congrArg Still.straps h
  have hid : D.idOf = d.idOf := congrArg Still.idOf h
  have hclusters : D.clusters = d.clusters := congrArg Still.clusters h
  simpa only [HasFree, Dev.l2Ways, Dev.l2Lock, Dev.pkg, Dev.cluster, hplan, hstraps, hid, hclusters] using hfree

theorem hasFree_l2WayOut {d : Dev} {unit way s : Nat} (h : AllOn d) (hway : way < 16) (hfree : HasFree d unit way s) :
    HasFree (l2WayOut d unit way) unit way s := by
  obtain ⟨v, hv, hne, howned, hlock, hretired⟩ := hfree
  have hquiet := quiet_flushL2 unit h (fun e => e.way == way)
  have hplan : (l2WayOut d unit way).plan = d.plan := hquiet.plan
  have hrooms : (l2WayOut d unit way).rooms = d.rooms := hquiet.rooms
  have hstraps : (l2WayOut d unit way).straps = d.straps := (congrArg Dev.straps hquiet.rest).trans rfl
  refine ⟨v, hv, hne, ?_, ?_, ?_⟩
  · simpa only [Dev.l2Ways, Dev.pkg, Dev.idOf, Dev.room, hplan, hstraps, hrooms] using howned
  · simpa only [Dev.l2Lock, Dev.pkg, Dev.idOf, Dev.room, hplan, hstraps, hrooms] using hlock
  · rw [l2Retired_l2WayOut unit way v hway, hretired]
    simpa using hne

theorem losesWay_of_hasFree {d : Dev} {unit way s : Nat} (h : HasFree d unit way s) : losesWay unit way d s = d.degrade s := by
  obtain ⟨v, hv, -, howned, hlock, hretired⟩ := hasFree_of_still (still_degrade d s) h
  have hmem : v ∈ (bitsOf ((d.degrade s).l2Ways unit ((d.degrade s).idOf s)) 16).filter (fun w =>
      !((d.degrade s).l2Lock unit ((d.degrade s).idOf s)).testBit w && !((d.degrade s).cluster unit).l2Retired.getLsbD w) :=
    List.mem_filter.2 ⟨BlockOrder.mem_bitsOf.2 ⟨hv, howned⟩, by simp [hlock, hretired]⟩
  have hsome := List.isEmpty_eq_false_iff_exists_mem.2 ⟨v, hmem⟩
  simp [losesWay, hsome]

/-- Where each room has a free way, none is held. -/
theorem eachLosesWay_of_hasFree {d : Dev} {unit way : Nat} {rooms : List Nat} (h : ∀ s ∈ rooms, HasFree d unit way s) :
    each rooms (losesWay unit way) d = each rooms (fun d s => d.degrade s) d := by
  induction rooms generalizing d with
  | nil => rfl
  | cons a t ih =>
    obtain ⟨ha, ht⟩ := List.forall_mem_cons.1 h
    change each t _ (losesWay unit way d a) = each t _ (d.degrade a)
    rw [losesWay_of_hasFree ha]
    exact ih fun s hs => hasFree_of_still (still_degrade d a) (ht s hs)

theorem kept_losesWay (d : Dev) (unit way s : Nat) :
    kept (losesWay unit way d s) = (kept d).mapRooms [s] Standing.marked ∨
      kept (losesWay unit way d s) = ((kept d).mapRooms [s] Standing.marked).mapRooms [s] (Standing.heldFor 3) := by
  unfold losesWay
  dsimp only
  split
  · exact .inr (by rw [kept_hold, kept_degrade])
  · exact .inl (kept_degrade d s)

theorem cluster_kept_losesWay (d : Dev) (unit way s : Nat) : (kept (losesWay unit way d s)).cluster = (kept d).cluster := by
  rcases kept_losesWay d unit way s with h | h <;> rw [h] <;> rfl

/-- A room that loses the way is degraded, and the others stay degraded if they were. -/
theorem degraded_losesWay (d : Dev) (unit way s k : Nat) :
    ((losesWay unit way d s).room k).degraded = if k = s then true else (d.room k).degraded := by
  change ((kept (losesWay unit way d s)).room k).degraded = _
  rcases kept_losesWay d unit way s with h | h <;> rw [h] <;>
    by_cases hk : k = s <;> simp [Kept.mapRooms, Standing.marked, Standing.heldFor, kept, standing, hk]

theorem pends_losesWay {d : Dev} {i : Nat} (unit way s : Nat) (h : pends d i) : pends (losesWay unit way d s) i := by
  unfold losesWay
  dsimp only
  split
  · exact pends_hold _ s 3 i h
  · exact h

theorem pends_lockFillsMoved (d : Dev) (unit way : Nat) : pends (lockFillsMoved d unit way) = pends d :=
  congrArg Prod.snd (part_each d _ _ fun d k => by dsimp only; split <;> rfl)

/-- R267: a way of an L2 is retired and recorded, and each room of it degraded; where every room has a way left to fill, none is held, the
way is empty and memory as it was. -/
theorem retireWay_l2 {d : Dev} {unit way cause : Nat} (hon : AllOn d) (hunit : unit < 32) (hway : way < 16)
    (hretired : (d.cluster unit).l2Retired.getLsbD way = false)
    (hcause : cause ≠ 1 ∨ (d.cluster unit).l2CeLimit ≤ Sparse.get 0 (d.cluster unit).l2Ce way) :
    let X := d.retireWay .l2 unit way cause
    (X.cluster unit).l2Retired.getLsbD way = true ∧ 800 ∈ X.irqPend ∧ (∀ k ∈ wayRooms d unit way, (X.room k).degraded = true) ∧
      ((∀ k ∈ wayRooms d unit way, HasFree d unit way k) → X.mem = d.mem ∧ ∀ e ∈ (X.cluster unit).l2, e.way ≠ way) := by
  intro X
  have hX : X = _ := retireWay_l2_eq hunit hway hretired hcause
  rw [wayRooms_l2WayOut unit way hon] at hX
  generalize way * 65536 + (l2WayOut d unit way).sysCluster unit = loc, detailOf _ = detail at hX
  have hrecorded := still_recordedWay (l2WayOut d unit way) unit way loc detail
  have hpend : pends (recordedWay (l2WayOut d unit way) unit way loc detail) 800 := by
    rw [recordedWay, pends_lockFillsMoved]
    exact (pends_incident _ 0x05 _ 0 detail _ 0).1
  generalize recordedWay (l2WayOut d unit way) unit way loc detail = R at hX hrecorded hpend
  have hclusters : R.clusters = (l2WayOut d unit way).clusters := congrArg Still.clusters hrecorded
  have hout := l2Retired_l2WayOut (d := d) unit way way hway
  rw [hX]
  refine ⟨?_, ?_, ?_, ?_⟩
  · have hkept := Loops.each_keeps (fun D => ((kept D).cluster unit).l2Retired) (wayRooms d unit way) (losesWay unit way)
      (fun D s => by rw [cluster_kept_losesWay]) R
    have hmask : (R.cluster unit).l2Retired = ((l2WayOut d unit way).cluster unit).l2Retired :=
      congrArg (fun m => (Sparse.get Cluster.init m unit).l2Retired) hclusters
    exact (congrArg (fun m : BitVec 16 => m.getLsbD way) (hkept.trans hmask)).trans (hout.trans (by simp))
  · exact (pends_each _ _ (fun D s h => pends_losesWay unit way s h) R hpend).2
  · intro k hk
    exact Loops.each_establishes (fun D => (D.room k).degraded = true) hk (fun D => by rw [degraded_losesWay]; simp)
      (fun D s h => by rw [degraded_losesWay, h]; simp) R
  · intro hfree
    rw [eachLosesWay_of_hasFree fun s hs => hasFree_of_still hrecorded (hasFree_l2WayOut hon hway (hfree s hs))]
    have hstill : still _ = still (l2WayOut d unit way) := (still_eachDegrade R (wayRooms d unit way)).trans hrecorded
    have hcluster : (Dev.cluster _ unit) = (l2WayOut d unit way).cluster unit :=
      congrArg (fun x : Still => Sparse.get Cluster.init x.clusters unit) hstill
    refine ⟨(congrArg Still.mem hstill).trans (quiet_flushL2 unit hon (fun e => e.way == way)).mem, fun e he => ?_⟩
    rw [hcluster, l2WayOut, modCluster_eq, cluster_setCluster_same] at he
    simpa using not_of_mem_flushL2 hon he

end Sys2Proof.Proofs.WayRetirement
end

section
/-!
CERTIFICATE. What the failure of a way, a channel, a mirror pair, a die, a flit, a snoop filter set or a Trestle leaves.
-/
namespace Sys2Proof.Proofs.LostUnits
open Sys2Proof Sys2Proof.Machine Sys2Proof.Safety Sys2Proof.Laws Sys2Proof.Proofs.Contained Sys2Proof.Proofs.Incidents
  Sys2Proof.Proofs.WayRetirement

/-! ### Incident records -/

/-- R372: a record takes the next sequence number; a full ring loses its oldest. -/
theorem incident_law (d : Dev) (kind loc addr detail : Nat) (rooms : List Nat) (ns : Nat) :
    let X := d.incident kind loc addr detail rooms ns
    Takes d.inc X.inc (recordOf d (incClass kind) kind loc addr detail rooms ns) ∧
      800 ∈ X.irqPend ∧ (incClass kind = 2 → 801 ∈ X.irqPend) ∧ X.mem = d.mem := by
  obtain ⟨hframe, hpend⟩ := incidentAs_frame d (incClass kind) kind loc addr detail rooms ns
  exact ⟨takes_incidentAs .., (hpend 800).2 (.inl rfl), fun h => (hpend 801).2 (.inr (.inl ⟨h, rfl⟩)), (congrArg Dev.mem hframe).trans rfl⟩

/-! ### A corrected error of a patrol pass (R364, R365) -/

/-- An error of a device and of a row is counted. -/
def countHit (tb : Nat) (h : PatrolHit) (g : Region) : Region :=
  { g with
    devErr := Sparse.insert g.devErr (h.rank * 64 + h.device) (tb :: recent tb (Sparse.get [] g.devErr (h.rank * 64 + h.device)))
    rowErr := Sparse.insert g.rowErr (rowKey h) (tb :: recent tb (Sparse.get [] g.rowErr (rowKey h))) }

/-- Below the limits no device is marked and no row repaired. -/
theorem patrolCorrected_counts {d : Dev} {r : Nat} {h : PatrolHit}
    (hdev : (recent d.clk.tb (Sparse.get [] (d.region r).devErr (h.rank * 64 + h.device))).length + 1 < d.ras.devLimit)
    (hrow : (recent d.clk.tb (Sparse.get [] (d.region r).rowErr (rowKey h))).length < 3) :
    d.patrolCorrected r h = d.modRegion r (countHit d.clk.tb h) := by
  have hmark : decide (d.ras.devLimit ≤ (d.clk.tb ::
      recent d.clk.tb (Sparse.get [] (d.region r).devErr (h.rank * 64 + h.device))).length) = false := by simpa using hdev
  have hrepair : decide (4 ≤ (d.clk.tb :: recent d.clk.tb (Sparse.get [] (d.region r).rowErr (rowKey h))).length) = false := by
    simp; omega
  simp only [Dev.patrolCorrected, hmark, hrepair, Bool.and_false, Bool.false_and, Bool.false_eq_true, if_false]
  rfl

/-- The devices' own count and temperature that a patrol pass reads. -/
def readPass (p : PatrolPass) (g : Region) : Region := { g with ecsCnt := min max32 (g.ecsCnt + p.ecs), ref2x := p.hot }

theorem patrol_counts {d : Dev} {r : Nat} {h : PatrolHit} {p : PatrolPass} (hhits : p.hits = [h]) (hspent : (d.region r).spent h = false)
    (hdev : (recent d.clk.tb (Sparse.get [] (d.region r).devErr (h.rank * 64 + h.device))).length + 1 < d.ras.devLimit)
    (hrow : (recent d.clk.tb (Sparse.get [] (d.region r).rowErr (rowKey h))).length < 3) :
    d.patrol r p = (d.modRegion r (readPass p)).modRegion r (countHit d.clk.tb h) := by
  have hregion : (d.modRegion r (readPass p)).region r = readPass p (d.region r) := by rw [modRegion_eq, region_setRegion_same]
  have hpass : d.patrol r p = (d.modRegion r (readPass p)).patrolHit r h := by rw [Dev.patrol, hhits]; rfl
  rw [hpass, Dev.patrolHit, hregion, if_neg (by rw [show (readPass p (d.region r)).spent h = (d.region r).spent h from rfl, hspent]; simp)]
  exact patrolCorrected_counts (by rw [hregion]; exact hdev) (by rw [hregion]; exact hrow)

/-! ### A lost channel (R367) -/

theorem getLsbD_ofNat_two_pow {k : Nat} (hk : k < 4) : (BitVec.ofNat 4 (2 ^ k)).getLsbD k = true := by
  rw [BitVec.getLsbD_ofNat, Nat.testBit_two_pow_self]
  simpa using hk

/-- The channel is marked. -/
def channelOut (d : Dev) (r : Nat) : Dev := d.modRegion r (fun g => { g with chanLost := true })

theorem chanLost_channelOut (d : Dev) (r k : Nat) : ((channelOut d r).region k).chanLost = if k = r then true else (d.region k).chanLost := by
  rw [channelOut, modRegion_eq, region_setRegion]
  split_ifs <;> rfl

theorem kept_memoryLost (d : Dev) (loc det : Nat) (rooms : List Nat) :
    kept (d.memoryLost loc det rooms) = (kept d).mapRooms rooms (Standing.heldFor 4) :=
  (kept_eachHold _ rooms 4).trans (by rw [(keeps_incident d 0x0C loc 0 det rooms 0).kept])

theorem pends_memoryLost (d : Dev) (loc det : Nat) (rooms : List Nat) :
    pends (d.memoryLost loc det rooms) 801 ∧ ∀ s, pends d s → pends (d.memoryLost loc det rooms) s :=
  ⟨pends_eachHold _ rooms 4 ((pends_incident d 0x0C loc 0 det rooms 0).2 rfl),
    fun s h => pends_eachHold _ rooms 4 ((keeps_incident d 0x0C loc 0 det rooms 0).pends s h)⟩

/-- The rooms of a lost memory are held with REASON 4. -/
theorem room_memoryLost (d : Dev) (loc det : Nat) {rooms : List Nat} {k : Nat} (hk : k ∈ rooms) :
    ((d.memoryLost loc det rooms).room k).phase = .held ∧ ((d.memoryLost loc det rooms).room k).reason = 4 := by
  have hroom : standing ((d.memoryLost loc det rooms).room k) = (standing (d.room k)).heldFor 4 :=
    (congrFun (congrArg Kept.room (kept_memoryLost d loc det rooms)) k).trans (if_pos hk)
  exact ⟨congrArg Standing.phase hroom, congrArg Standing.reason hroom⟩

theorem chanLost_memoryLost (d : Dev) (loc det : Nat) (rooms : List Nat) (r : Nat) :
    ((d.memoryLost loc det rooms).region r).chanLost = (d.region r).chanLost :=
  congrFun (congrArg Kept.chanLost (kept_memoryLost d loc det rooms)) r

/-- The mirror pair serves on by one channel: source 803 pends, and the rooms that it serves are degraded. -/
def mirrorServesOn (d : Dev) (k det : Nat) (rooms served : List Nat) : Dev :=
  each rooms (fun d s => d.degrade s)
    (({ d with ras := { d.ras with mirrorDeg := d.ras.mirrorDeg ||| BitVec.ofNat 4 (2 ^ k) } }.raise 803).incident 0x0B
      (d.sysRegion (2 * k)) 0 det served 0)

theorem kept_mirrorServesOn (d : Dev) (k det : Nat) (rooms served : List Nat) :
    kept (mirrorServesOn d k det rooms served) =
      { (kept d).mapRooms rooms Standing.marked with ras := { d.ras with mirrorDeg := d.ras.mirrorDeg ||| BitVec.ofNat 4 (2 ^ k) } } := by
  rw [mirrorServesOn, kept_eachDegrade, (keeps_incident _ 0x0B _ 0 det served 0).kept]
  rfl

theorem pends_mirrorServesOn (d : Dev) (k det : Nat) (rooms served : List Nat) : pends (mirrorServesOn d k det rooms served) 803 :=
  pends_eachDegrade _ rooms ((keeps_incident _ 0x0B _ 0 det served 0).pends 803 (by rw [pends_raise]; exact .inl ⟨by decide, rfl⟩))

section
variable {d : Dev} {r : Nat} (det : Nat) (hr : r < 8) (hlost : (d.region r).chanLost = false)
include hr hlost

theorem channelLost_single (hpair : d.mirrorPair r = none) :
    d.channelLost r det = (channelOut d r).memoryLost (d.sysRegion r) det (d.slotsHomed r) := by
  have hpair' : (channelOut d r).mirrorPair r = none := hpair
  unfold Dev.channelLost
  rw [if_neg (by simp [hlost, hr])]
  dsimp only
  rw [← channelOut, hpair']
  rfl

theorem channelLost_pair {k : Nat} (hpair : d.mirrorPair r = some k) :
    d.channelLost r det =
      if (d.region (if r % 2 = 0 then r + 1 else r - 1)).chanLost = true
      then (channelOut d r).memoryLost (d.sysRegion (2 * k)) det (d.slotsHomed r)
      else
        let served := (d.slotsHomed r).filter (fun s => !(d.slotsAlone r).contains s)
        let D := mirrorServesOn (channelOut d r) k det (d.slotsHomed r) served
        if (d.slotsAlone r).isEmpty then D else D.memoryLost (D.sysRegion r) det (d.slotsAlone r) := by
  have hpair' : (channelOut d r).mirrorPair r = some k := hpair
  have hother : ((channelOut d r).region (if r % 2 = 0 then r + 1 else r - 1)).chanLost =
      (d.region (if r % 2 = 0 then r + 1 else r - 1)).chanLost := by
    rw [chanLost_channelOut, if_neg (by split_ifs <;> omega)]
  unfold Dev.channelLost
  rw [if_neg (by simp [hlost, hr]), ← hother]
  dsimp only
  rw [← channelOut, hpair']
  simp only [beq_iff_eq]
  rfl

theorem chanLost_channelLost : ((d.channelLost r det).region r).chanLost = true := by
  have hout : ((channelOut d r).region r).chanLost = true := by rw [chanLost_channelOut, if_pos rfl]
  cases hpair : d.mirrorPair r with
  | none => rw [channelLost_single det hr hlost hpair, chanLost_memoryLost, hout]
  | some k =>
    have hserves (served : List Nat) : ((mirrorServesOn (channelOut d r) k det (d.slotsHomed r) served).region r).chanLost = true :=
      (congrFun (congrArg Kept.chanLost (kept_mirrorServesOn (channelOut d r) k det (d.slotsHomed r) served)) r).trans hout
    rw [channelLost_pair det hr hlost hpair]
    generalize (if r % 2 = 0 then r + 1 else r - 1) = other
    split
    · rw [chanLost_memoryLost, hout]
    · dsimp only
      split
      · exact hserves _
      · rw [chanLost_memoryLost, hserves]

/-- Without a mirror pair the rooms with memory on the channel are held. -/
theorem channelLost_holds (hpair : d.mirrorPair r = none) :
    let X := d.channelLost r det
    801 ∈ X.irqPend ∧ ∀ k ∈ d.slotsHomed r, (X.room k).phase = .held ∧ (X.room k).reason = 4 := by
  rw [channelLost_single det hr hlost hpair]
  exact ⟨(pends_memoryLost _ _ det _).1.2, fun k hk => room_memoryLost _ _ det hk⟩

/-- Of a mirror pair the other channel serves on, but for the rooms with a window on the lost one alone, which are held. -/
theorem channelLost_mirror {k : Nat} (hpair : d.mirrorPair r = some k) (hk : k < 4)
    (hother : (d.region (if r % 2 = 0 then r + 1 else r - 1)).chanLost = false) :
    let X := d.channelLost r det
    X.ras.mirrorDeg.getLsbD k = true ∧ 803 ∈ X.irqPend ∧ (∀ n ∈ d.slotsHomed r, (X.room n).degraded = true) ∧
      ∀ n ∈ d.slotsAlone r, (X.room n).phase = .held ∧ (X.room n).reason = 4 := by
  rw [channelLost_pair det hr hlost hpair, if_neg (by simp [hother])]
  dsimp only
  generalize (d.slotsHomed r).filter _ = served
  have hkept := kept_mirrorServesOn (channelOut d r) k det (d.slotsHomed r) served
  have hpend := pends_mirrorServesOn (channelOut d r) k det (d.slotsHomed r) served
  generalize mirrorServesOn (channelOut d r) k det (d.slotsHomed r) served = D at hkept hpend
  have hdeg : D.ras.mirrorDeg.getLsbD k = true := by
    rw [show D.ras.mirrorDeg = (channelOut d r).ras.mirrorDeg ||| BitVec.ofNat 4 (2 ^ k) from
      congrArg (fun K : Kept => K.ras.mirrorDeg) hkept, BitVec.getLsbD_or, getLsbD_ofNat_two_pow hk, Bool.or_true]
  have hmarked (n : Nat) (hn : n ∈ d.slotsHomed r) : (D.room n).degraded = true :=
    congrArg Standing.degraded ((congrFun (congrArg Kept.room hkept) n).trans (if_pos hn))
  split
  next halone => exact ⟨hdeg, hpend.2, hmarked, by simp [List.isEmpty_iff.1 halone]⟩
  next =>
    have hlaw := kept_memoryLost D (D.sysRegion r) det (d.slotsAlone r)
    refine ⟨(congrArg (fun K : Kept => K.ras.mirrorDeg.getLsbD k) hlaw).trans hdeg, ((pends_memoryLost D _ det _).2 803 hpend).2,
      fun n hn => ?_, fun n hn => room_memoryLost D _ det hn⟩
    refine (congrArg Standing.degraded (congrFun (congrArg Kept.room hlaw) n)).trans ?_
    refine Eq.trans ?_ (hmarked n hn)
    by_cases ha : n ∈ d.slotsAlone r <;> simp [Kept.mapRooms, ha, Standing.heldFor, kept, standing]

end

/-! ### A mirror pair that is whole again (R367) -/

theorem ras_mirrorResynced {d : Dev} {k : Nat} (hdeg : d.ras.mirrorDeg.getLsbD k = true) (heven : (d.region (2 * k)).chanLost = false)
    (hodd : (d.region (2 * k + 1)).chanLost = false) :
    (d.mirrorResynced k).ras = { d.ras with mirrorDeg := d.ras.mirrorDeg &&& ~~~ (BitVec.ofNat 4 (2 ^ k)) } := by
  unfold Dev.mirrorResynced
  rw [if_pos (by simp [hdeg, heven, hodd])]
  exact Loops.each_keeps Dev.ras _ _ (fun _ _ => by rfl) _

theorem mirrorResynced_clears {d : Dev} {k : Nat} (hdeg : d.ras.mirrorDeg.getLsbD k = true)
    (heven : (d.region (2 * k)).chanLost = false) (hodd : (d.region (2 * k + 1)).chanLost = false) :
    (d.mirrorResynced k).ras.mirrorDeg.getLsbD k = false := by
  have hk : k < 4 := BitVec.lt_of_getLsbD hdeg
  rw [ras_mirrorResynced hdeg heven hodd]
  change (d.ras.mirrorDeg &&& ~~~ (BitVec.ofNat 4 (2 ^ k))).getLsbD k = false
  rw [BitVec.getLsbD_and, BitVec.getLsbD_not, getLsbD_ofNat_two_pow hk]
  simp

theorem mirrorResynced_of_whole {d : Dev} {k : Nat} (hdeg : d.ras.mirrorDeg.getLsbD k = false) : d.mirrorResynced k = d := by
  simp [Dev.mirrorResynced, hdeg]

/-! ### A lost die, and a lost hub (R33, R370) -/

/-- The rooms of a die are held with REASON 1. -/
theorem loseDie_law {d : Dev} {die : Nat} (det : Nat) (hdie : die < 2) (hlost : die ∉ d.diesLost) :
    let X := d.loseDie die det
    X.diesLost = die :: d.diesLost ∧ 801 ∈ X.irqPend ∧ ∀ k ∈ d.slotsOnDie die, (X.room k).phase = .held ∧ (X.room k).reason = 1 := by
  intro X
  let D : Dev := { d with diesLost := die :: d.diesLost }
  have hX : X = (each (d.slotsOnDie die) (fun D s => D.hold s 1) D).incident 0x13 die 0 det (d.slotsOnDie die) 0 := if_neg (by simp [hdie, hlost])
  have hkept : kept X = (kept D).mapRooms (d.slotsOnDie die) (Standing.heldFor 1) := by
    rw [hX, (keeps_incident _ 0x13 die 0 det _ 0).kept, kept_eachHold]
  refine ⟨congrArg Kept.diesLost hkept, ?_, fun k hk => ?_⟩
  · rw [hX]
    exact ((pends_incident _ 0x13 die 0 det _ 0).2 rfl).2
  · have hroom : standing (X.room k) = _ := (congrFun (congrArg Kept.room hkept) k).trans (if_pos hk)
    exact ⟨congrArg Standing.phase hroom, congrArg Standing.reason hroom⟩

theorem loseDie_of_lost {d : Dev} {die : Nat} (det : Nat) (hlost : die ∈ d.diesLost) : d.loseDie die det = d :=
  if_pos (by simp [hlost])

/-- Every room of the package is held with REASON 6. -/
theorem hubLost_law (d : Dev) (det : Nat) :
    let X := d.hubLost det
    801 ∈ X.irqPend ∧ ∀ k ∈ d.slots, (X.room k).phase = .held ∧ (X.room k).reason = 6 := by
  refine ⟨(pends_eachHold _ d.slots 6 ((pends_incident d 0x14 d.pkg 0 det d.slots 0).2 rfl)).2, fun k hk => ?_⟩
  have hroom : standing ((d.hubLost det).room k) = _ := (congrFun (congrArg Kept.room (kept_eachHold _ d.slots 6)) k).trans (if_pos hk)
  exact ⟨congrArg Standing.phase hroom, congrArg Standing.reason hroom⟩

/-! ### A Trestle that fails its test (R320) -/

/-- A Trestle works no more by itself, and no test of it is under way. -/
def Down (d : Dev) (c : Nat) : Prop := (d.cluster c).trestle.health ≠ .healthy ∧ (d.cluster c).trestle.testing = false

theorem down_of_units {d D : Dev} {c : Nat} (h : (kept D).cluster c = (kept d).cluster c) (hdown : Down d c) : Down D c :=
  ⟨fun hh => hdown.1 ((congrArg Units.health h).symm.trans hh), (congrArg Units.testing h).trans hdown.2⟩

/-- The nearer of two helpers, the first where neither is. -/
def nearer (c : Nat) (best : Option Nat) (k : Nat) : Option Nat :=
  match best with
  | none => some k
  | some b => if hops c k < hops c b then some k else some b

theorem nearer_eq {c k b : Nat} {best : Option Nat} (h : nearer c best k = some b) : b = k ∨ best = some b := by
  cases best with
  | none => exact .inl (Option.some.inj h).symm
  | some a =>
    unfold nearer at h
    dsimp only at h
    split_ifs at h
    · exact .inl (Option.some.inj h).symm
    · exact .inr h

/-- The nearest is one of those that were asked for. -/
theorem mem_of_nearest {c b : Nat} {l : List Nat} {best : Option Nat} (h : l.foldl (nearer c) best = some b) : b ∈ l ∨ best = some b := by
  induction l generalizing best with
  | nil => exact .inr h
  | cons k t ih =>
    rcases ih h with ht | hbest
    · exact .inl (List.mem_cons_of_mem k ht)
    · rcases nearer_eq hbest with rfl | hbest
      · exact .inl List.mem_cons_self
      · exact .inr hbest

theorem helperFor_healthy {d : Dev} {c h : Nat} (hh : d.helperFor c = some h) : (d.cluster h).trestle.health = .healthy := by
  rcases mem_of_nearest (best := none) hh with hmem | hnone
  · have hok := (List.mem_filter.1 hmem).2
    simp only [Bool.and_eq_true, beq_iff_eq] at hok
    exact hok.1.2
  · cases hnone

theorem kept_degraded_cluster (d : Dev) (rooms : List Nat) : (kept (each rooms (fun d s => d.degrade s) d)).cluster = (kept d).cluster := by
  rw [kept_eachDegrade]; rfl

theorem kept_held_cluster (d : Dev) (rooms : List Nat) (reason : Nat) :
    (kept (each rooms (fun d s => d.hold s reason) d)).cluster = (kept d).cluster := by
  rw [kept_eachHold]; rfl

/-- A helper is another Trestle, which works: that one serves from now on, and one that was down stays down. -/
theorem down_setHelper {d : Dev} {c t h : Nat} (hh : d.helperFor t = some h) (hdown : Down d c) : Down (d.setHelper t h) c := by
  have hne : c ≠ h := fun hc => hdown.1 (hc ▸ helperFor_healthy hh)
  simp only [Down, Dev.setHelper, modCluster_eq, cluster_setCluster, if_neg hne]
  split_ifs with hc
  · exact ⟨by simp, hc ▸ hdown.2⟩
  · exact hdown

theorem down_seekHelper {d : Dev} {c : Nat} (t det : Nat) (hdown : Down d c) : Down (d.seekHelper t det) c := by
  unfold Dev.seekHelper
  dsimp only
  split
  next h hh =>
    exact down_of_units (congrFun ((kept_degraded_cluster _ _).trans (congrArg Kept.cluster (keeps_incident _ _ _ _ _ _ _).kept)) c)
      (down_setHelper hh hdown)
  next =>
    refine down_of_units (congrFun ((kept_held_cluster _ _ _).trans (congrArg Kept.cluster (keeps_incident _ _ _ _ _ _ _).kept)) c) ?_
    simp only [Down, modCluster_eq, cluster_setCluster]
    split_ifs with hc
    · exact ⟨by simp, hc ▸ hdown.2⟩
    · exact hdown

theorem down_trestleFailed {d : Dev} {c : Nat} (det : Nat) (htesting : (d.cluster c).trestle.testing = false) : Down (d.trestleFailed c det) c := by
  unfold Dev.trestleFailed
  extract_lets t d1 d2
  have h1 : Down d1 c := by
    simp only [Down, d1, modCluster_eq, cluster_setCluster_same]
    exact ⟨by simp, htesting⟩
  have h2 : Down d2 c := down_seekHelper c det h1
  split
  · exact down_seekHelper _ det h2
  · exact h2

/-- The test is over. -/
def trestleTestEnded (d : Dev) (c : Nat) : Dev := d.modCluster c (fun x => { x with trestle := { x.trestle with testing := false } })

theorem trestleTested_passes {d : Dev} {c : Nat} (h : (d.cluster c).trestle.testing = true) :
    d.trestleTested c true = (trestleTestEnded d c).incidentAs 0 Config.trestlePassKind.toNat (d.sysCluster c) 0 (detailOf [6]) (d.slotsOn c) 0 := by
  unfold Dev.trestleTested
  rw [if_neg (by simp [h])]
  rfl

theorem trestleTested_fails {d : Dev} {c : Nat} (h : (d.cluster c).trestle.testing = true) :
    d.trestleTested c false = (trestleTestEnded d c).trestleFailed c 6 := by
  unfold Dev.trestleTested
  rw [if_neg (by simp [h])]
  rfl

theorem cluster_trestleTestEnded (d : Dev) (c : Nat) :
    (trestleTestEnded d c).cluster c = { d.cluster c with trestle := { (d.cluster c).trestle with testing := false } } := by
  rw [trestleTestEnded, modCluster_eq, cluster_setCluster_same]

/-! ### The statement -/

/-- Settles O31: one law for the record, and one for each unit that is lost. -/
theorem lostUnitsComplete : Obligations.LostUnitsComplete := by
  unfold Obligations.LostUnitsComplete
  refine ⟨?_, ?_, ?_, ?_, ?_, ?_, ?_, ?_, ?_, ?_⟩
  · intro d kind loc addr detail rooms ns X r full
    obtain ⟨htakes, h800, h801, hmem⟩ := incident_law d kind loc addr detail rooms ns
    have hr : r = recordOf d (incClass kind) kind loc addr detail rooms ns := htakes.record
    clear_value r
    subst hr
    exact ⟨rfl, rfl, rfl, rfl, rfl, rfl, rfl, htakes.seq, htakes.last, htakes.wr, htakes.overrun, htakes.room, h800, h801, hmem, htakes.journal⟩
  · intro s u w unc hu hw hretired hcause
    have hrow := onDev_answers (fun d => d.retireWay .l3 u w (if unc then 0 else 1)) s
    exact ⟨_, hrow, retireWay_l3 hu hw hretired (hcause.imp_left fun h => by simp [h])⟩
  · intro s u w unc hu hw hon hretired hcause
    have hrow := onDev_answers (fun d => d.retireWay .l2 u w (if unc then 0 else 1)) s
    obtain ⟨hmask, hpend, hmarked, hfree⟩ := retireWay_l2 hon hu hw hretired (cause := if unc then 0 else 1)
      (hcause.imp_left fun h => by simp [h])
    exact ⟨_, hrow, hmask, hpend, fun k hk howned => hmarked k (List.mem_filter.2 ⟨hk, howned⟩),
      fun h => hfree fun k hk => h k (List.mem_filter.1 hk).1⟩
  · intro s r h g dev hspent hdev hrow p hhits
    have hanswer := onDev_answers (fun d => d.patrol r p) s
    rw [patrol_counts hhits hspent hdev hrow] at hanswer
    refine ⟨_, hanswer, ?_⟩
    simp only [modRegion_eq, region_setRegion_same]
    exact ⟨rfl, rfl, Sparse_get_insert_same .., Sparse_get_insert_same .., rfl, rfl, rfl⟩
  · intro s r hr hlost
    exact ⟨_, onDev_answers (fun d => d.channelLost r 8) s, chanLost_channelLost 8 hr hlost, channelLost_holds 8 hr hlost,
      fun k hpair hk hother => channelLost_mirror 8 hr hlost hpair hk hother⟩
  · intro s k
    have hrow := onDev_answers (fun d => d.mirrorResynced k) s
    refine ⟨fun hdeg heven hodd => ⟨_, hrow, mirrorResynced_clears hdeg heven hodd⟩, fun hdeg => ?_⟩
    rwa [mirrorResynced_of_whole hdeg] at hrow
  · intro s die hdie
    have hrow := onDev_answers (fun d => d.loseDie die 0) s
    refine ⟨fun hlost => ?_, fun hlost => ⟨_, hrow, loseDie_law 0 hdie hlost⟩⟩
    rwa [loseDie_of_lost 0 hlost] at hrow
  · intro s r
    exact ⟨onDev_answers (fun d => d.incident 0x19 (d.sysRegion r) 0 0x0A [] 0) s, onDev_answers (fun d => d.loseDie (r / 4) 0x0A) s,
      onDev_answers (fun d => d.incident 0x19 0xFFFFFFFF 0 0x0A [] 0) s, _, onDev_answers (fun d => d.hubLost 0x0A) s, hubLost_law s.dev 0x0A⟩
  · intro s r n hr hn
    have hrow := onDev_answers (fun d => if decide (r < 8) && decide (n < 2048) then
      (d.modRegion r (fun g => { g with sfBad := g.sfBad.filter (· != n) })).incident 0x19 (d.sysRegion r) 0 (detailOf [5]) [] 0 else d) s
    rwa [if_pos (by simp [hr, hn])] at hrow
  · intro s c
    have hrow (b : Bool) : Answers (exec (.trestleQuickTestDone c b) s) s (s.dev.trestleTested c b) :=
      onDev_answers (fun d => d.trestleTested c b) s
    have hended := cluster_trestleTestEnded s.dev c
    refine ⟨fun h b => ?_, fun h => ⟨_, hrow true, ?_⟩, fun h => ⟨_, hrow false, ?_⟩⟩
    · have hb := hrow b
      rwa [Dev.trestleTested, if_pos (by simp [h])] at hb
    · rw [trestleTested_passes h]
      obtain ⟨hframe, hpend⟩ := incidentAs_frame (trestleTestEnded s.dev c) 0 Config.trestlePassKind.toNat (s.dev.sysCluster c) 0
        (detailOf [6]) (s.dev.slotsOn c) 0
      exact ⟨(congrArg (fun d : Dev => d.cluster c) hframe).trans hended, (congrArg Dev.rooms hframe).trans rfl,
        (takes_incidentAs ..).seq, (hpend 800).2 (.inl rfl)⟩
    · rw [trestleTested_fails h]
      exact down_trestleFailed 6 (by rw [hended])

end Sys2Proof.Proofs.LostUnits
end
